-- ==== Sys2Proof/Config.lean ====
section
/-! DEFINITION. What an implementation fixes and the free values: opaque constants with no body, so that
nothing can be proved of their values. Each is named in the assumption log (rows 2, 8, 11, 12, 13). -/

namespace Sys2Proof.Config

/-- Which enabled agent moves, when no turn is scheduled (log 2). -/
opaque choice : Nat → Nat

/-- Nanoseconds of device time that pass with an unscheduled step (R479, log 2). -/
opaque elapsed : Nat → Nat

/-- The value a late transition leaves in an undervolted band, before the clamp of R107 (log 11). -/
opaque bandValue : Nat → Int

/-- Which of the bands that carry a read plane holds the cell slot of a row's element, for K planes read: the array fixes it, and the manual
leaves it out of the architecture (R119, log 11). -/
opaque slotBand (k place row : Nat) : Nat

/-- Whether a run of a pass meets an event outside the range of clock, temperature and droop of R108 (log 11). -/
opaque outsideRange : Nat → Bool

/-- What a late transition of such an event adds to a plane's contribution in a band at VNOM (R108, log 11). -/
opaque lateValue : Nat → Int

/-- Detections of a band in a pass (R108, R115, log 11). -/
opaque detections : Nat → Nat

/-- Whether a line of an engine command has moved before the command completes (R370, log 12). -/
opaque movedEarly : Nat → Bool

/-- A value that the manual does not fix: old or new bytes of a race, wall-clock progress (log 12). -/
opaque freeNat : Nat → Nat

/-- Whether a line of a peer that an engine reads arrives poisoned (R467, R297, log 19). -/
opaque peerPoison : Nat → Bool

/-- The 32 bytes that the ML-DSA-44 identity key comes from (R28, R338, log 12). -/
opaque identitySeed : List (BitVec 8)

/-- Keys and challenges from the security controller's random source (R326, R340, log 12). -/
opaque randomBits : Nat → BitVec 256

/-- The transport key of a context in an SPDM session (R333, log 12). -/
opaque transportKey (session context : Nat) : BitVec 256

/-- The 1312 bytes of Odvia's debug root public key, in the security controller's ROM (R340). -/
opaque debugRootKey : List (BitVec 8)

/-- Whether a stage of bring-up, or the restoring of a key slot, fails (R326, R502, log 12). -/
opaque bootFails : Nat → Bool

/-- The 32 bytes of FWDIG (R337). -/
opaque firmwareDigest : List (BitVec 8)

/-- LSBASE, set at boot (R464). -/
opaque lsBase : Nat

/-- Installed LPDDR6 capacity in bytes (R433). -/
opaque lpddrBytes : Nat

/-- Base of the table pool in LPDDR6 (R434). -/
opaque tablePoolBase : Nat

/-- Length of the table pool in bytes (R434). -/
opaque tablePoolBytes : Nat

/-- The die current limit in mA (R485). -/
opaque currentLimit : Nat

end Sys2Proof.Config
end

