-- ==== Sys2Proof/Word.lean ====
section
/-! DEFINITION. The word types of the device (R1, R63, R86, R128). -/

namespace Sys2Proof

/-- A 64-bit register or address as it is computed. -/
abbrev Word := BitVec 64

/-- A byte of memory (R1). -/
abbrev Byte := BitVec 8

/-- One v register over its eight lanegroups, one q entry, or one `acc` row: 512 bytes, lane `l` of
lanegroup `g` at bits `512 g + 32 l` (R86, R205, R234). -/
abbrev Vec := BitVec 4096

/-- One p register over its eight lanegroups, bit `16 g + l` for lane `l` of lanegroup `g` (R63). -/
abbrev PVec := BitVec 128

/-- A bundle: 64 bytes, little-endian (R128). -/
abbrev BundleWord := BitVec 512

/-- A micro-word (R151). -/
abbrev MicroWord := BitVec 128

end Sys2Proof
end

