-- ==== Sys2Proof/Syntax.lean ====
section
/-! DEFINITION. The instruction set: element types, conditions, scopes, and the one inductive `Instr` with a
constructor for each of the 314 rows of spec/opcode_table.json. Register numbers and plain
fields are natural numbers, whose ranges are in WellFormed.lean. -/

namespace Sys2Proof

/-- Integer types of the S slot (R68, R135). -/
inductive IntTy where
  | s8 | s16 | s32 | s64 | n8 | n16 | n32 | n64
  deriving DecidableEq, Repr

/-- Element types of a five-bit ETY field (R135). -/
inductive ElemType where
  | s8 | s16 | s32 | s64 | n8 | n16 | n32 | n64
  | f64 | f32 | bf16 | f16 | e4m3 | e5m2
  | mxf8 | mxf6 | mxf4 | mxi8
  | bp2 | bp3 | bp4 | bp5 | bp6 | bp7 | bp8
  deriving DecidableEq, Repr

/-- Comparisons of `cmp` and `icmp` (R139). -/
inductive Cond where
  | eq | ne | lt | le | gt | ge
  deriving DecidableEq, Repr

/-- Comparisons of `fcmp` (R143). -/
inductive FCond where
  | eq | ne | lt | le | gt | ge | un | or
  deriving DecidableEq, Repr

/-- Rounding choices of `fround` (R143). -/
inductive RoundSel where
  | rn | rz | rp | rm | ra | dyn
  deriving DecidableEq, Repr

/-- Operations of `vred` (R143). -/
inductive RedOp where
  | sum | min | max
  deriving DecidableEq, Repr

/-- Directions of an `acc` line (R140). -/
inductive AccDir where
  | h | v | d
  deriving DecidableEq, Repr

/-- Atomic operations of `amo` (R147). -/
inductive AmoOp where
  | add | and | or | xor | min | max | swap
  deriving DecidableEq, Repr

/-- Scopes (R136). -/
inductive Scope where
  | st | co | cl | di | pk | dm | sy
  deriving DecidableEq, Repr

/-- Ordering suffixes (R136). -/
inductive Order where
  | none | acq | rel | ar
  deriving DecidableEq, Repr

/-- Levels of a tile handle (R138, R273). -/
inductive TileLevel where
  | loc | shared | bstack
  deriving DecidableEq, Repr

/-- Lanegroup states of `lgate` (R149). -/
inductive LgState where
  | on | drowsy | gated
  deriving DecidableEq, Repr

/-- Collective operations of `col` (R148). -/
inductive ColOp where
  | allReduce | allGather | reduceScatter | send | receive | barrier
  deriving DecidableEq, Repr

/-- Operand of `prep`: an absolute index or an x register (R174). -/
inductive PrepSrc where
  | index (tgt : Nat)
  | reg (a : Nat)
  deriving DecidableEq, Repr

/-- Count operand of `lset` (R150, R186). -/
inductive LoopCount where
  | imm (n : Nat)
  | reg (x : Nat)
  | word (w : Nat)
  deriving DecidableEq, Repr

/-- Grade operand of `setcar` (R138). -/
inductive GradeSrc where
  | imm (g : Nat)
  | reg (a : Nat)
  deriving DecidableEq, Repr

/-- Operand of `mloop`: an mp register or the immediate N16 (R152). -/
inductive MicroCount where
  | mp (a : Nat)
  | imm (n : Nat)
  deriving DecidableEq, Repr

/-- The four register operands, mask, predicate and type that V-R and V-I forms share (R140). -/
structure VHead where
  lgm : Nat
  pr : Nat
  d : Nat
  a : Nat
  ty : ElemType
  deriving DecidableEq, Repr

/-- Tile operand of `ld.sp`, `ld.b` and `st.sp` (format T of R146). -/
structure TileArg where
  r : Nat
  h : Nat
  ag : Nat
  agv : Bool
  ty : ElemType
  off : Nat
  lgm : Nat
  deriving DecidableEq, Repr

/-- Operands that the copy-engine forms share (R148). -/
structure CeArg where
  a : Nat
  b : Nat
  c : Nat
  sc : Scope
  acq : Bool
  rel : Bool
  q : Nat
  qe : Bool
  deriving DecidableEq, Repr

/-- Operands of the administrative MAP (R445). -/
structure MapArg where
  ctx : Nat
  size : Nat
  state : Nat
  perm : Nat
  wreg : Nat
  va : Nat
  pa : Nat
  count : Nat
  tag : Nat
  deriving DecidableEq, Repr

/-- What a remote access does at the home of its line in the peer (R467): a read, a write with its poison and whether its operation
has then written the whole line (R297), an atomic (R295, R296). -/
inductive RemoteOp where
  | read
  | write (poison whole : Bool)
  | amo (op : AmoOp) (signed : Bool)
  | cas (signed : Bool) (cmp : List Byte)
  deriving DecidableEq, Repr

/-- What an Ibilman packet asks of its destination (R465 to R467, R475); a response has the form of its request. -/
inductive PacketBody where
  | keepalive
  | request (op : RemoteOp) (addr : Nat) (data : List Byte)
  | endpoint (ring : Nat) (data : List Byte)
  | collective (comm epoch step : Nat) (data : List Byte)
  deriving DecidableEq, Repr

/-- Where an uncorrectable error lies (R493, R494): a scale byte of an MX tile by its bit in the scratchpad, or its byte in the
B-stack. -/
inductive ErrorPlace where
  | scratchpad (core line : Nat)
  | bstack (core line : Nat)
  | padScale (core bit : Nat)
  | stackScale (core byte : Nat)
  | registerFile (sid : Nat)
  | deliveryBuffer (sid : Nat)
  | storeBuffer (sid : Nat)
  | accFile (core : Nat)
  | microstore (core : Nat)
  | imem (core : Nat)
  | cacheLine (addr : Nat)
  | lpddrLine (addr : Nat)
  | mramLine (addr : Nat)
  deriving DecidableEq, Repr

/-- Instructions: bundle forms, micro-operations, administrative commands and the events of the device. -/
inductive Instr where
  | emptyBundle (stop : Bool) (gap : Nat) (swa : Bool)
  -- S slot
  | add (ty : IntTy) (d a b : Nat)
  | addI (ty : IntTy) (d a imm : Nat)
  | sub (ty : IntTy) (d a b : Nat)
  | subI (ty : IntTy) (d a imm : Nat)
  | mul (ty : IntTy) (d a b : Nat)
  | mulI (ty : IntTy) (d a imm : Nat)
  | mulh (ty : IntTy) (d a b : Nat)
  | div (ty : IntTy) (d a b : Nat)
  | rem (ty : IntTy) (d a b : Nat)
  | and (ty : IntTy) (d a b : Nat)
  | andI (ty : IntTy) (d a imm : Nat)
  | or (ty : IntTy) (d a b : Nat)
  | orI (ty : IntTy) (d a imm : Nat)
  | xor (ty : IntTy) (d a b : Nat)
  | xorI (ty : IntTy) (d a imm : Nat)
  | andn (ty : IntTy) (d a b : Nat)
  | andnI (ty : IntTy) (d a imm : Nat)
  | shl (ty : IntTy) (d a b : Nat)
  | shlI (ty : IntTy) (d a imm : Nat)
  | shr (ty : IntTy) (d a b : Nat)
  | shrI (ty : IntTy) (d a imm : Nat)
  | rotl (ty : IntTy) (d a b : Nat)
  | rotlI (ty : IntTy) (d a imm : Nat)
  | clz (ty : IntTy) (d a : Nat)
  | ctz (ty : IntTy) (d a : Nat)
  | popc (ty : IntTy) (d a : Nat)
  | min (ty : IntTy) (d a b : Nat)
  | minI (ty : IntTy) (d a imm : Nat)
  | max (ty : IntTy) (d a b : Nat)
  | maxI (ty : IntTy) (d a imm : Nat)
  | sel (ty : IntTy) (d a b cn : Nat)
  | cmp (cc : Cond) (ty : IntTy) (d a b : Nat)
  | cmpI (cc : Cond) (ty : IntTy) (d a imm : Nat)
  | ext (ty : IntTy) (d a : Nat)
  | movi (d imm : Nat)
  | movhi (d a imm : Nat)
  | bfx (ty : IntTy) (d a pos len : Nat)
  | bfi (ty : IntTy) (d a pos len : Nat)
  | prep (bt : Nat) (src : PrepSrc)
  | br (bt cn : Nat) (neg : Bool)
  | call (bt cn : Nat) (neg : Bool)
  | trap (imm : Nat)
  | mfs (d sr : Nat)
  | mts (a sr : Nat)
  | setfmt (value mask : Nat)
  | setcar (g : GradeSrc)
  | time (d : Nat)
  | halloc (level : TileLevel) (ty : ElemType) (d a : Nat)
  | hfree (a : Nat)
  | mbox (d word : Nat)
  -- V slots
  | fadd (h : VHead) (b : Nat)
  | fsub (h : VHead) (b : Nat)
  | fmul (h : VHead) (b : Nat)
  | fma (h : VHead) (b c : Nat)
  | fms (h : VHead) (b c : Nat)
  | fnma (h : VHead) (b c : Nat)
  | fmin (h : VHead) (b : Nat)
  | fmax (h : VHead) (b : Nat)
  | fabs (h : VHead)
  | fneg (h : VHead)
  | fcpys (h : VHead) (b : Nat)
  | fcmp (cc : FCond) (h : VHead) (b : Nat)
  | fclass (h : VHead) (classes : Nat)
  | frecpe (h : VHead)
  | frsqe (h : VHead)
  | fscale (h : VHead) (b : Nat)
  | fscaleI (h : VHead) (imm : Nat)
  | fround (md : RoundSel) (h : VHead)
  | cvt (h : VHead) (sty : ElemType) (sat : Bool)
  | mxq (h : VHead) (b c : Nat) (sty : ElemType)
  | mxdq (h : VHead) (b : Nat) (sty : ElemType)
  | bpq (h : VHead) (sty : ElemType)
  | iadd (h : VHead) (b : Nat)
  | iaddI (h : VHead) (imm : Nat)
  | isub (h : VHead) (b : Nat)
  | isubI (h : VHead) (imm : Nat)
  | imul (h : VHead) (b : Nat) (sat : Bool)
  | imad (h : VHead) (b c : Nat) (sat : Bool)
  | iadds (h : VHead) (b : Nat)
  | isubs (h : VHead) (b : Nat)
  | iand (h : VHead) (b : Nat)
  | iandI (h : VHead) (imm : Nat)
  | ior (h : VHead) (b : Nat)
  | iorI (h : VHead) (imm : Nat)
  | ixor (h : VHead) (b : Nat)
  | ixorI (h : VHead) (imm : Nat)
  | ishl (h : VHead) (b : Nat) (sat : Bool)
  | ishlI (h : VHead) (imm : Nat)
  | ishr (h : VHead) (b : Nat)
  | ishrI (h : VHead) (imm : Nat)
  | imin (h : VHead) (b : Nat)
  | iminI (h : VHead) (imm : Nat)
  | imax (h : VHead) (b : Nat)
  | imaxI (h : VHead) (imm : Nat)
  | iabs (h : VHead) (sat : Bool)
  | icmp (cc : Cond) (h : VHead) (b : Nat)
  | icmpI (cc : Cond) (h : VHead) (imm : Nat)
  | ipopc (h : VHead)
  | vmov (h : VHead)
  | vmovi (lgm pr d : Nat) (ty : ElemType) (imm : Nat)
  | vbcast (h : VHead)
  | vsel (h : VHead) (b c : Nat)
  | vperm (h : VHead) (b : Nat)
  | vshuf (h : VHead) (imm : Nat)
  | vext (h : VHead) (lane : Nat)
  | vins (h : VHead) (lane : Nat)
  | xcopy (h : VHead) (src : Nat)
  | xbcast (h : VHead) (src : Nat)
  | vred (op : RedOp) (h : VHead)
  | pand (lgm pr d a b : Nat)
  | por (lgm pr d a b : Nat)
  | pxor (lgm pr d a b : Nat)
  | pnot (lgm pr d a : Nat)
  | pmov (lgm pr d a : Nat)
  | vany (lgm pr d a : Nat)
  | vall (lgm pr d a : Nat)
  | pcnt (lgm pr d a : Nat)
  | accrd (lgm pr v : Nat) (dir : AccDir) (idx : Nat) (ty : ElemType)
  | accwr (lgm pr v : Nat) (dir : AccDir) (idx : Nat) (ty : ElemType)
  | accclr (lgm pr : Nat) (dir : AccDir) (idx : Nat) (all : Bool)
  | acccvt (lgm pr : Nat) (dir : AccDir) (idx : Nat) (ty sty : ElemType)
  -- MX slot
  | mset (mp x : Nat)
  | mseti (mp imm : Nat)
  | mcall (idx : Nat)
  | mstat (x : Nat)
  | mchk (c : Nat)
  -- XF slot
  | trpush (v idx : Nat)
  | trpop (v idx : Nat)
  | trcfg (ty : ElemType)
  | resm (ha hd : Nat)
  | renorm (ha hd : Nat) (rms : Bool)
  | retab (ha hd tb : Nat)
  | retload (ha tb : Nat)
  | rowEngineStep (core : Nat)
  -- LD slot
  | ldSp (t : TileArg)
  | ldB (t : TileArg)
  | ldG (d a : Nat) (ty : ElemType) (sc : Scope) (ord : Order) (off : Nat)
  | gath (d a : Nat) (ty : ElemType) (sc : Scope) (ord : Order) (lgm : Nat)
  | amo (op : AmoOp) (d a b : Nat) (ty : ElemType) (sc : Scope) (ord : Order) (off : Nat)
  | cas (d a b c : Nat) (ty : ElemType) (sc : Scope) (ord : Order) (off : Nat)
  | qbind (d ag : Nat) (ty : ElemType)
  | qfree (d : Nat)
  -- ST slot
  | stSp (t : TileArg)
  | stG (vs : Bool) (a b : Nat) (ty : ElemType) (sc : Scope) (ord : Order) (off lgm : Nat)
  | scat (a b : Nat) (ty : ElemType) (sc : Scope) (ord : Order) (lgm : Nat)
  | epSt (vs : Bool) (a b : Nat) (ty : ElemType) (off lgm : Nat)
  | qout (a b : Nat) (ty : ElemType) (sc : Scope) (ord : Order) (off : Nat)
  | streamFill (sid q k : Nat)
  | streamPrefetch (sid q : Nat)
  | homeAccess (sid k part : Nat) (scope : Scope)
  -- CE slot
  | cp (c : CeArg)
  | cpg (c : CeArg)
  | cps (c : CeArg)
  | stage (c : CeArg)
  | sealRec (c : CeArg)
  | openRec (c : CeArg)
  | ckpt (a q : Nat) (qe : Bool)
  | pf (a b level : Nat)
  | res (a b level : Nat)
  | col (op : ColOp) (c : CeArg)
  | meas (a b q : Nat) (qe : Bool)
  | ceCommandBegin (cluster k : Nat)
  | ceCommandComplete (cluster k : Nat)
  | colCommandComplete (k : Nat)
  | domainBarrierComplete (comm : Nat)
  -- SY slot
  | mark (qm : Nat) (sc : Scope)
  | markerReachHead (sid k : Nat)
  | superstepArrival (sid : Nat)
  | superstepGenerationComplete (launch : Nat)
  | cbarGenerationComplete (grp : Nat)
  | haltRetire (sid : Nat)
  | tileTaskEnd (grp : Nat)
  | lgate (lgm : Nat) (st : LgState)
  | wake (lgm : Nat)
  | lanegroupTurnOn (core lg : Nat)
  -- AD slot
  | lset (lv : Nat) (cnt : LoopCount) (body : Nat) (mod rb : Bool)
  | lbrk (lv cn : Nat) (neg : Bool)
  | agset (ag x : Nat)
  | agstr (ag lv x : Nat)
  | spred (p stg : Nat)
  -- the device around a strand
  | resultArrive (sid k : Nat)
  | resultDeliver (sid : Nat)
  | transposeRetire (core : Nat)
  | mcallStart (core : Nat)
  | mcallEnd (core : Nat)
  | railSettled (core : Nat)
  -- micro-operations
  | aload (ma n16 : Nat)
  | bsel (ma : Nat)
  | planes (n8 : Nat)
  | limb (n8 : Nat)
  | pass (n8 : Nat)
  | accz (n16 : Nat)
  | accm (n8 : Nat)
  | scale (ma mb : Nat)
  | drain (ma n8 : Nat)
  | mloop (cnt : MicroCount)
  | mend (tgt : Nat)
  | mwait (n16 : Nat)
  -- queues, scheduler, loader
  | workItemRead (q : Nat)
  | taskDispatch (cluster : Nat)
  | kernelRead (launch : Nat)
  | kernelLoad (launch core : Nat)
  | groupStart (grp : Nat)
  | preload (cluster : Nat)
  | itemAged (launch : Nat)
  | deadlinePass (launch : Nat)
  | budgetExpiry (grp : Nat)
  | launchComplete (launch : Nat)
  | hallmarkSign (launch : Nat)
  -- administrative commands
  | create (ctx : Nat) (world : Bool) (policy root save len tag : Nat)
  | destroy (ctx tag : Nat)
  | park (ctx blob tag : Nat)
  | unpark (ctx blob tag : Nat)
  | relock (tag : Nat)
  | force (ctx : Nat) (on : Bool) (tag : Nat)
  | cancel (ctx queue target tag : Nat)
  | map (m : MapArg)
  | unmap (ctx size va count tag : Nat)
  | migrate (ctx size va pa tag : Nat)
  | migrateCopyDone (ctx va : Nat)
  | wreg (ctx region delta tag : Nat)
  | wbegin (ctx region tag : Nat)
  | wpage (ctx region va src count tag : Nat)
  | wcommit (ctx region tag : Nat)
  | wabort (ctx region tag : Nat)
  | ckcfg (ctx base len tag : Nat)
  | epwin (ctx window : Nat) (enable : Bool) (dest ring tag : Nat)
  | epring (ctx ring log2s : Nat) (wake : Bool) (base tag : Nat)
  -- pages, checkpoints, images, power
  | pageWalkComplete (ctx va die cluster : Nat)
  | ckptSnapshot (ctx : Nat)
  | ckptGranuleStreamed (ctx granule : Nat)
  | preemptRequest (cluster : Nat)
  | bankSwapComplete (cluster : Nat)
  | imageWrite (grp : Nat)
  | imageRestore (grp : Nat)
  | coreGate (core : Nat)
  | coreWake (core : Nat)
  | coreDrainComplete (core : Nat)
  -- links
  | keepalive (dest : Nat)
  | peerSilent (dest : Nat)
  | force24kExpiry (core : Nat)
  -- forms and events without operands
  | rett
  | join
  | ssarr
  | sswait
  | cbar
  | halt
  | lrot
  | chk
  | msync
  | mret
  | powerLossWarning
  | powerReturn
  | bringUp
  | kilnHoldEnd
  | hostLinkTimeout
  | hostLinkReturn
  | lockInterface
  | startInterface
  | stopInterface
  | tdiError
  | debugChallenge
  | debugExpiry
  | debugHalt
  | debugStep
  | debugResume
  | debugMemRead
  | snapTrigger
  | snapcmpMatch
  | hostLinkDown
  | spdmKeyExchange
  -- events that come about when they are scheduled
  | registerWrite (space addr value : Nat)
  | qtailWrite (q v : Nat)
  | queueEnable (q v : Nat)
  | queueDisable (q v : Nat)
  | cqEnable (q v : Nat)
  | cqDisable (q v : Nat)
  | cheadWrite (q v : Nat)
  | kilnHoldStart (sensor temp : Nat)
  | thermalThrottle (sensor temp : Nat)
  | thermalTrip (sensor temp : Nat)
  | currentLevelRaise (die current : Nat)
  | currentLevelLower (die : Nat)
  | dieclkTgtWrite (die v : Nat)
  | hopPllLock (die : Nat)
  | hopComplete (die : Nat)
  | droopDetect (die : Nat)
  | droopStretchEnd (die : Nat)
  | hopRetry (die : Nat)
  | ucieRetrain (link : Nat)
  | ucieRetrainComplete (link : Nat) (ok : Bool)
  | portEnable (port v : Nat)
  | portDisable (port v : Nat)
  | portLaneLock (port lane : Nat)
  | portLaneLoss (port lane : Nat)
  | portTrainTimeout (port : Nat)
  | sysidWrite (v : Nat)
  | packetArrive (src flow seq : Nat) (mark : Bool) (body : PacketBody)
  | ackArrive (dest flow ack : Nat) (mark : Bool)
  | retransmitTimeout (dest flow : Nat)
  | remoteRequest (src : Nat) (op : RemoteOp) (addr : Nat) (data : List Byte)
  | epPacketArrive (src ring : Nat) (data : List Byte)
  | channelInstall (ctx chan : Nat) (key : Nat)
  | debugUnlock (token : List Byte)
  | debugMemWrite (v : Nat)
  | snapArm (v : Nat)
  | lineCheckFail (addr : Nat)
  | uncorrectableError (place : ErrorPlace)
  | correctedError (frame : Nat)
  | dynamicAddressAssign (addr : Nat)
  | routeTableUpdate (table index v : Nat)
  | hostEndpointWrite (window off : Nat) (data : List Byte)
  | hostMemoryAccess (write : Bool) (addr : Nat) (data : List Byte)
  deriving DecidableEq, Repr

end Sys2Proof
end

