-- ==== Sys2Proof/WellFormed.lean ====
section
/-! DEFINITION. Which instructions the encodings admit: register ranges (R133), accepted element types (R207, R262,
R283, R289, R293 to R296), nonzero masks and the other reserved values of R132. -/

namespace Sys2Proof

/-- Element width in bits; for `.bpK` the number of planes (R68, R86, R93, R135). -/
def ElemType.width : ElemType → Nat
  | .s8 | .n8 | .e4m3 | .e5m2 | .mxf8 | .mxi8 => 8
  | .s16 | .n16 | .bf16 | .f16 => 16
  | .s32 | .n32 | .f32 => 32
  | .s64 | .n64 | .f64 => 64
  | .mxf6 => 6
  | .mxf4 => 4
  | .bp2 => 2
  | .bp3 => 3
  | .bp4 => 4
  | .bp5 => 5
  | .bp6 => 6
  | .bp7 => 7
  | .bp8 => 8

/-- The eight integer types (R68). -/
def ElemType.isInt : ElemType → Bool
  | .s8 | .s16 | .s32 | .s64 | .n8 | .n16 | .n32 | .n64 => true
  | _ => false

/-- The types of codes 0x00 to 0x0D (R68). -/
def ElemType.isPlain : ElemType → Bool
  | .mxf8 | .mxf6 | .mxf4 | .mxi8 | .bp2 | .bp3 | .bp4 | .bp5 | .bp6 | .bp7 | .bp8 => false
  | _ => true

/-- The block-scaled types (R135). -/
def ElemType.isMx : ElemType → Bool
  | .mxf8 | .mxf6 | .mxf4 | .mxi8 => true
  | _ => false

/-- The bit-plane types (R135). -/
def ElemType.isBp : ElemType → Bool
  | .bp2 | .bp3 | .bp4 | .bp5 | .bp6 | .bp7 | .bp8 => true
  | _ => false

/-- Signed types of any kind (R68). -/
def ElemType.isSigned : ElemType → Bool
  | .s8 | .s16 | .s32 | .s64 => true
  | _ => false

/-- Types of the vector arithmetic forms (R207). -/
def ElemType.isArith : ElemType → Bool
  | .f64 | .f32 | .bf16 | .f16 => true
  | _ => false

/-- Types of `fcmp`, `fclass` and the seeds (R207). -/
def ElemType.isSeed : ElemType → Bool
  | .f64 | .f32 => true
  | _ => false

/-- Sources of the quantising forms (R207). -/
def ElemType.isQuantSrc : ElemType → Bool
  | .f32 | .bf16 | .f16 => true
  | _ => false

/-- Types of `icmp`, `amo` and `cas` (R207, R295). -/
def ElemType.isWord : ElemType → Bool
  | .s32 | .n32 | .s64 | .n64 => true
  | _ => false

/-- Types of lane moves, `vred` and the `acc` forms (R207). -/
def ElemType.isLane : ElemType → Bool
  | .s32 | .n32 | .f32 | .s64 | .n64 | .f64 => true
  | _ => false

/-- Exactly one lanegroup (R142, R228). -/
def oneGroup (lgm : Nat) : Bool :=
  lgm == 1 || lgm == 2 || lgm == 4 || lgm == 8 || lgm == 16 || lgm == 32 || lgm == 64 || lgm == 128

/-- A nonzero eight-bit lanegroup mask (R140). -/
def lgmOk (lgm : Nat) : Bool := 0 < lgm && lgm < 256

/-- A V head whose destination is below `dMax` and source below `aMax`, of an accepted type. -/
def VHead.ok (h : VHead) (dMax aMax : Nat) (t : ElemType → Bool) : Bool :=
  lgmOk h.lgm && decide (h.pr < 16) && decide (h.d < dMax) && decide (h.a < aMax) && t h.ty

/-- Elements of a type in one lanegroup (R86). -/
def ElemType.perGroup (t : ElemType) : Nat := 512 / t.width

/-- The patterns of `vshuf` (R227). -/
def shufOk (t : ElemType) (imm : Nat) : Bool :=
  decide (imm < 1024) && decide (imm % 16 < 8) &&
    (if imm % 16 == 4 || imm % 16 == 6 || imm % 16 == 7 then imm / 16 == 0
     else decide (imm / 16 < t.perGroup))

/-- Predicate forms: mask, predicate, destination bound, source (R141). -/
def predOk (lgm pr d dMax a : Nat) : Bool :=
  lgmOk lgm && decide (pr < 16) && decide (d < dMax) && decide (a < 16)

/-- Tile operands (R146). -/
def TileArg.ok (t : TileArg) : Bool :=
  decide (t.r < 32) && decide (t.h < 256) && decide (t.ag < 8) && decide (t.off < 4096) && lgmOk t.lgm

/-- Scope of an ordering suffix: none without one (R293). -/
def scopeOk (sc : Scope) (ord : Order) : Bool := ord != .none || sc == .st

/-- Orders of loads (R293). -/
def loadOrd (o : Order) : Bool := o == .none || o == .acq

/-- Orders of stores (R293). -/
def storeOrd (o : Order) : Bool := o == .none || o == .rel

/-- Copy-engine operands (R367). -/
def CeArg.ok (c : CeArg) : Bool :=
  decide (c.a < 64) && decide (c.b < 64) && decide (c.c < 64) && decide (c.q < 8) &&
    (c.acq || c.rel || c.sc == .st)

/-- Three x registers. -/
def xxx (d a b : Nat) : Bool := decide (d < 64) && decide (a < 64) && decide (b < 64)

/-- Two x registers and an immediate below `m`. -/
def xxi (d a imm m : Nat) : Bool := decide (d < 64) && decide (a < 64) && decide (imm < m)

/-- Two x registers. -/
def xx (d a : Nat) : Bool := decide (d < 64) && decide (a < 64)

/-- A 16-bit context number of an administrative command and a 64-bit tag. -/
def adm (ctx tag : Nat) : Bool := decide (ctx < 65536) && decide (tag < 2 ^ 64)

/-- The row counts of `aload` and `accz` (R255). -/
def microRows (n : Nat) : Bool := decide (0 < n) && decide (n ≤ 128)

/-- The instructions that the encodings admit. Events carry operands of the agent that raises them, which are
checked against the state when they happen. -/
def Instr.wf : Instr → Bool
  | .emptyBundle _ gap _ => decide (gap < 8)
  | .add _ d a b | .sub _ d a b | .mul _ d a b | .mulh _ d a b | .div _ d a b | .rem _ d a b | .and _ d a b
  | .or _ d a b | .xor _ d a b | .andn _ d a b | .shl _ d a b | .shr _ d a b | .rotl _ d a b | .min _ d a b
  | .max _ d a b => xxx d a b
  | .addI _ d a i | .subI _ d a i | .mulI _ d a i | .andI _ d a i | .orI _ d a i | .xorI _ d a i
  | .andnI _ d a i | .minI _ d a i | .maxI _ d a i => xxi d a i (2 ^ 36)
  | .shlI _ d a i | .shrI _ d a i | .rotlI _ d a i => xxi d a i 64
  | .clz _ d a | .ctz _ d a | .popc _ d a | .ext _ d a => xx d a
  | .sel _ d a b cn => xxx d a b && decide (cn < 8)
  | .cmp _ _ d a b => xxx d a b && decide (d < 8)
  | .cmpI _ _ d a i => xxi d a i (2 ^ 36) && decide (d < 8)
  | .movi d i => decide (d < 64) && decide (i < 2 ^ 36)
  | .movhi d a i => xxi d a i (2 ^ 28)
  | .bfx _ d a pos len | .bfi _ d a pos len =>
    xx d a && decide (pos < 64) && decide (0 < len) && decide (pos + len ≤ 64)
  | .prep bt (.index t) => decide (bt < 4) && decide (t < 2048)
  | .prep bt (.reg a) => decide (bt < 4) && decide (a < 64)
  | .br bt cn _ | .call bt cn _ => decide (bt < 4) && decide (cn < 8)
  | .trap i => decide (i < 65536)
  | .mfs r sr | .mts r sr => decide (r < 64) && decide (sr < 14)
  | .setfmt v m => decide (v < 65536) && decide (m < 65536) && v / 32 % 8 == 0 && m / 32 % 8 == 0
  | .setcar (.imm g) => decide (g < 4)
  | .setcar (.reg a) => decide (a < 64)
  | .time d => decide (d < 64)
  | .halloc _ _ d a => xx d a
  | .hfree a => decide (a < 64)
  | .mbox d w => decide (d < 64) && decide (w < 64)
  | .fadd h b | .fsub h b | .fmul h b | .fmin h b | .fmax h b | .fcpys h b | .fscale h b =>
    h.ok 32 40 ElemType.isArith && decide (b < 40)
  | .fma h b c | .fms h b c | .fnma h b c =>
    h.ok 32 40 ElemType.isArith && decide (b < 40) && decide (c < 32)
  | .fabs h | .fneg h | .fround _ h => h.ok 32 40 ElemType.isArith
  | .fcmp _ h b => h.ok 16 40 ElemType.isSeed && decide (b < 40)
  | .fclass h m => h.ok 16 40 ElemType.isSeed && decide (m < 1024)
  | .frecpe h | .frsqe h => h.ok 32 40 ElemType.isSeed
  | .fscaleI h i => h.ok 32 40 ElemType.isArith && decide (i < 65536)
  | .cvt h sty sat => h.ok 32 40 ElemType.isPlain && sty.isPlain && (!sat || (h.ty.isInt && sty.isInt))
  | .mxq h b c sty => h.ok 32 40 ElemType.isMx && decide (b < 40) && decide (c < 32) && sty.isQuantSrc &&
    h.pr == 0 && (sty == .f32 || b == 0)
  | .mxdq h b sty => h.ok 32 40 ElemType.isQuantSrc && decide (b < 40) && sty.isMx && h.pr == 0 &&
    (h.ty != .f32 || h.d % 2 == 0)
  | .bpq h sty => h.ok 32 40 ElemType.isBp && sty.isQuantSrc && h.pr == 0
  | .iadd h b | .isub h b | .iadds h b | .isubs h b | .iand h b | .ior h b | .ixor h b | .ishr h b
  | .imin h b | .imax h b => h.ok 32 40 ElemType.isInt && decide (b < 40)
  | .imul h b _ | .ishl h b _ => h.ok 32 40 ElemType.isInt && decide (b < 40)
  | .imad h b c _ => h.ok 32 40 ElemType.isInt && decide (b < 40) && decide (c < 32)
  | .iaddI h i | .isubI h i | .iandI h i | .iorI h i | .ixorI h i | .iminI h i | .imaxI h i =>
    h.ok 32 40 ElemType.isInt && decide (i < 65536)
  | .ishlI h i | .ishrI h i => h.ok 32 40 ElemType.isInt && decide (i < 256)
  | .iabs h _ => h.ok 32 40 ElemType.isSigned
  | .icmp _ h b => h.ok 16 40 ElemType.isWord && decide (b < 40)
  | .icmpI _ h i => h.ok 16 40 ElemType.isWord && decide (i < 65536)
  | .ipopc h => h.ok 32 40 ElemType.isInt
  | .vmov h => h.ok 32 40 ElemType.isPlain
  | .vmovi lgm pr d ty i => lgmOk lgm && decide (pr < 16) && decide (d < 32) && ty.isPlain &&
    decide (ty.width ≤ 32) && decide (i < 2 ^ ty.width)
  | .vbcast h => h.ok 32 64 ElemType.isPlain
  | .vsel h b c => h.ok 32 40 ElemType.isPlain && decide (b < 40) && decide (c < 16)
  | .vperm h b => h.ok 32 40 ElemType.isPlain && decide (b < 40)
  | .vshuf h i => h.ok 32 40 ElemType.isPlain && shufOk h.ty i
  | .vext h l => h.ok 64 40 ElemType.isLane && oneGroup h.lgm && decide (l < 16) &&
    (h.ty.width != 64 || l % 2 == 0)
  | .vins h l => h.ok 32 64 ElemType.isLane && oneGroup h.lgm && decide (l < 16) &&
    (h.ty.width != 64 || l % 2 == 0)
  | .xcopy h s => h.ok 32 32 ElemType.isPlain && decide (s < 8) && oneGroup h.lgm && h.lgm / 2 ^ s % 2 == 0
  | .xbcast h s => h.ok 32 32 ElemType.isPlain && decide (s < 8) && h.lgm / 2 ^ s % 2 == 0
  | .vred _ h => h.ok 32 32 ElemType.isLane
  | .pand lgm pr d a b | .por lgm pr d a b | .pxor lgm pr d a b => predOk lgm pr d 16 a && decide (b < 16)
  | .pnot lgm pr d a | .pmov lgm pr d a => predOk lgm pr d 16 a
  | .vany lgm pr d a | .vall lgm pr d a => predOk lgm pr d 8 a
  | .pcnt lgm pr d a => predOk lgm pr d 64 a
  | .accrd lgm pr v dir idx ty | .accwr lgm pr v dir idx ty => lgmOk lgm && decide (pr < 16) &&
    decide (v < 32) && decide (idx < 128) && ty.isLane && (ty.width != 64 || dir == .h)
  | .accclr lgm pr dir idx all => lgmOk lgm && decide (pr < 16) && decide (idx < 128) &&
    (!all || (lgm == 255 && pr == 0 && dir == .h && idx == 0))
  | .acccvt lgm pr _ idx ty sty => lgmOk lgm && decide (pr < 16) && decide (idx < 128) &&
    (ty.isLane && ty.width == 32) && (sty.isLane && sty.width == 32) && ty != sty
  | .mset mp x => decide (mp < 8) && decide (x < 64)
  | .mseti mp i => decide (mp < 8) && decide (i < 2 ^ 32)
  | .mcall i => decide (i < 64)
  | .mstat x => decide (x < 64)
  | .mchk c => decide (c < 8)
  | .trpush v i | .trpop v i => decide (v < 32) && decide (i < 16)
  | .trcfg ty => ty.isPlain && decide (ty.width ≤ 32)
  | .resm ha hd | .renorm ha hd _ => decide (ha < 256) && decide (hd < 256)
  | .retab ha hd tb => decide (ha < 256) && decide (hd < 256) && decide (tb < 4)
  | .retload ha tb => decide (ha < 256) && decide (tb < 4)
  | .ldSp t | .stSp t => t.ok
  | .ldB t => t.ok && t.ty == .n8
  | .ldG d a ty sc ord off => decide (d < 8) && decide (a < 64) && ty.isPlain && loadOrd ord &&
    scopeOk sc ord && decide (off < 1024)
  | .gath d a ty sc ord lgm => decide (d < 8) && decide (a < 32) && ty.isPlain && loadOrd ord &&
    scopeOk sc ord && lgmOk lgm
  | .amo _ d a b ty _ _ off => decide (d < 8) && decide (a < 64) && decide (b < 64) && ty.isWord &&
    decide (off < 1024)
  | .cas d a b c ty _ _ off => decide (d < 8) && decide (a < 64) && decide (b < 64) && decide (c < 64) &&
    ty.isWord && decide (off < 1024)
  | .qbind d ag ty => decide (d < 8) && decide (ag < 8) && ty.isPlain
  | .qfree d => decide (d < 8)
  | .stG vs a b ty sc ord off lgm => decide (a < if vs then 32 else 64) && decide (b < 64) && ty.isPlain &&
    storeOrd ord && scopeOk sc ord && decide (off < 1024) && (if vs then lgmOk lgm else lgm == 0)
  | .scat a b ty sc ord lgm => decide (a < 32) && decide (b < 32) && ty.isPlain && storeOrd ord &&
    scopeOk sc ord && lgmOk lgm
  | .epSt vs a b ty off lgm => decide (a < if vs then 32 else 64) && decide (b < 64) && ty.isPlain &&
    decide (off < 1024) && (if vs then lgmOk lgm else lgm == 0)
  | .qout a b ty sc ord off => decide (a < 8) && decide (b < 64) && ty.isPlain && storeOrd ord &&
    scopeOk sc ord && decide (off < 1024)
  | .cp c | .cpg c | .cps c | .stage c | .sealRec c | .openRec c => c.ok
  | .ckpt a q _ => decide (a < 64) && decide (q < 8)
  | .pf a b l | .res a b l => decide (a < 64) && decide (b < 64) && decide (l < 4)
  | .col op c => c.ok && (op != .barrier || (c.a == 0 && c.b == 0))
  | .meas a b q _ => decide (a < 64) && decide (b < 64) && decide (q < 8)
  | .mark qm sc => decide (0 < qm) && decide (qm < 64) && (sc == .st || qm % 4 != 0)
  | .lgate lgm _ | .wake lgm => lgmOk lgm
  | .lset lv cnt body mod rb => decide (lv < 4) && decide (body < 64) && (lv == 3 || (!mod && !rb)) &&
    (match cnt with
     | .imm n => decide (n < 64)
     | .reg n => decide (n < 64)
     | .word n => decide (n < 64))
  | .lbrk lv cn _ => decide (lv < 4) && decide (cn < 8)
  | .agset ag x => decide (ag < 8) && decide (x < 64)
  | .agstr ag lv x => decide (ag < 8) && decide (lv < 4) && decide (x < 64)
  | .spred p stg => decide (8 ≤ p) && decide (stg < 8) && decide (p + stg ≤ 15)
  | .aload ma n => decide (ma < 8) && microRows n
  | .bsel ma => decide (ma < 8)
  | .planes n => decide (2 ≤ n) && decide (n ≤ 8)
  | .limb n => decide (n < 64)
  | .pass n => decide (n < 4)
  | .accm n => decide (n < 8)
  | .accz n => microRows n
  | .mwait n => decide (0 < n) && decide (n < 65536)
  | .scale ma mb => decide (ma < 8) && decide (mb < 8)
  | .drain ma n => decide (ma < 8) && decide (n < 32) && n % 4 != 3
  | .mloop (.mp a) => decide (a < 8)
  | .mloop (.imm n) => decide (0 < n) && decide (n < 65536)
  | .mend t => decide (t < 512)
  | .create ctx _ policy root save len tag => adm ctx tag && decide (policy < 256) && decide (root < 2 ^ 64) &&
    decide (save < 2 ^ 64) && decide (len < 2 ^ 64)
  | .destroy ctx tag => adm ctx tag
  | .park ctx blob tag | .unpark ctx blob tag => adm ctx tag && decide (blob < 2 ^ 64)
  | .relock tag => decide (tag < 2 ^ 64)
  | .force ctx _ tag => adm ctx tag
  | .cancel ctx q t tag => adm ctx tag && decide (q < 65536) && decide (t < 2 ^ 64)
  | .map m => adm m.ctx m.tag && decide (m.size < 256) && decide (m.state < 256) && decide (m.perm < 256) &&
    decide (m.wreg < 256) && decide (m.va < 2 ^ 64) && decide (m.pa < 2 ^ 64) && decide (m.count < 2 ^ 32)
  | .unmap ctx size va count tag => adm ctx tag && decide (size < 256) && decide (va < 2 ^ 64) &&
    decide (count < 2 ^ 32)
  | .migrate ctx size va pa tag => adm ctx tag && decide (size < 256) && decide (va < 2 ^ 64) &&
    decide (pa < 2 ^ 64)
  | .wreg ctx region delta tag => adm ctx tag && decide (region < 256) && decide (delta < 2 ^ 64)
  | .wbegin ctx region tag | .wcommit ctx region tag | .wabort ctx region tag =>
    adm ctx tag && decide (region < 256)
  | .wpage ctx region va src count tag => adm ctx tag && decide (region < 256) && decide (va < 2 ^ 64) &&
    decide (src < 2 ^ 64) && decide (count < 2 ^ 32)
  | .ckcfg ctx base len tag => adm ctx tag && decide (base < 2 ^ 64) && decide (len < 2 ^ 32)
  | .epwin ctx w _ dest ring tag => adm ctx tag && decide (w < 256) && decide (dest < 65536) &&
    decide (ring < 64)
  | .epring ctx r l _ base tag => adm ctx tag && decide (r < 256) && decide (l < 256) && decide (base < 2 ^ 64)
  | _ => true

end Sys2Proof
end

