-- ==== Sys2Proof/Decode.lean ====
section
/-! DEFINITION. From bits to instructions and back (R128 to R156): code tables, field layouts, the slot, bundle,
micro-word and work-item decoders, which reject by name, and the encoder written from the same tables. -/

namespace Sys2Proof

/-! ### Codes -/

def IntTy.code : IntTy → Nat
  | .s8 => 0 | .s16 => 1 | .s32 => 2 | .s64 => 3 | .n8 => 4 | .n16 => 5 | .n32 => 6 | .n64 => 7

/-- R68. -/
def IntTy.ofCode : Nat → Option IntTy
  | 0 => some .s8 | 1 => some .s16 | 2 => some .s32 | 3 => some .s64
  | 4 => some .n8 | 5 => some .n16 | 6 => some .n32 | 7 => some .n64
  | _ => none

def ElemType.code : ElemType → Nat
  | .s8 => 0 | .s16 => 1 | .s32 => 2 | .s64 => 3 | .n8 => 4 | .n16 => 5 | .n32 => 6 | .n64 => 7
  | .f64 => 8 | .f32 => 9 | .bf16 => 10 | .f16 => 11 | .e4m3 => 12 | .e5m2 => 13
  | .mxf8 => 16 | .mxf6 => 17 | .mxf4 => 18 | .mxi8 => 19
  | .bp2 => 20 | .bp3 => 21 | .bp4 => 22 | .bp5 => 23 | .bp6 => 24 | .bp7 => 25 | .bp8 => 26

/-- R68, R135. -/
def ElemType.ofCode : Nat → Option ElemType
  | 0 => some .s8 | 1 => some .s16 | 2 => some .s32 | 3 => some .s64
  | 4 => some .n8 | 5 => some .n16 | 6 => some .n32 | 7 => some .n64
  | 8 => some .f64 | 9 => some .f32 | 10 => some .bf16 | 11 => some .f16 | 12 => some .e4m3 | 13 => some .e5m2
  | 16 => some .mxf8 | 17 => some .mxf6 | 18 => some .mxf4 | 19 => some .mxi8
  | 20 => some .bp2 | 21 => some .bp3 | 22 => some .bp4 | 23 => some .bp5 | 24 => some .bp6
  | 25 => some .bp7 | 26 => some .bp8
  | _ => none

def Cond.code : Cond → Nat
  | .eq => 0 | .ne => 1 | .lt => 2 | .le => 3 | .gt => 4 | .ge => 5

/-- R139. -/
def Cond.ofCode : Nat → Option Cond
  | 0 => some .eq | 1 => some .ne | 2 => some .lt | 3 => some .le | 4 => some .gt | 5 => some .ge
  | _ => none

def FCond.code : FCond → Nat
  | .eq => 0 | .ne => 1 | .lt => 2 | .le => 3 | .gt => 4 | .ge => 5 | .un => 6 | .or => 7

/-- R143. -/
def FCond.ofCode : Nat → Option FCond
  | 0 => some .eq | 1 => some .ne | 2 => some .lt | 3 => some .le | 4 => some .gt | 5 => some .ge
  | 6 => some .un | 7 => some .or
  | _ => none

def RoundSel.code : RoundSel → Nat
  | .rn => 0 | .rz => 1 | .rp => 2 | .rm => 3 | .ra => 4 | .dyn => 15

/-- R143. -/
def RoundSel.ofCode : Nat → Option RoundSel
  | 0 => some .rn | 1 => some .rz | 2 => some .rp | 3 => some .rm | 4 => some .ra | 15 => some .dyn
  | _ => none

def RedOp.code : RedOp → Nat
  | .sum => 0 | .min => 1 | .max => 2

/-- R143. -/
def RedOp.ofCode : Nat → Option RedOp
  | 0 => some .sum | 1 => some .min | 2 => some .max
  | _ => none

def AccDir.code : AccDir → Nat
  | .h => 0 | .v => 1 | .d => 2

/-- R140. -/
def AccDir.ofCode : Nat → Option AccDir
  | 0 => some .h | 1 => some .v | 2 => some .d
  | _ => none

def AmoOp.code : AmoOp → Nat
  | .add => 0 | .and => 1 | .or => 2 | .xor => 3 | .min => 4 | .max => 5 | .swap => 6

/-- R147. -/
def AmoOp.ofCode : Nat → Option AmoOp
  | 0 => some .add | 1 => some .and | 2 => some .or | 3 => some .xor | 4 => some .min | 5 => some .max
  | 6 => some .swap
  | _ => none

def Scope.code : Scope → Nat
  | .st => 0 | .co => 1 | .cl => 2 | .di => 3 | .pk => 4 | .dm => 5 | .sy => 6

/-- R136. -/
def Scope.ofCode : Nat → Option Scope
  | 0 => some .st | 1 => some .co | 2 => some .cl | 3 => some .di | 4 => some .pk | 5 => some .dm | 6 => some .sy
  | _ => none

def Order.code : Order → Nat
  | .none => 0 | .acq => 1 | .rel => 2 | .ar => 3

/-- R136. -/
def Order.ofCode : Nat → Option Order
  | 0 => some .none | 1 => some .acq | 2 => some .rel | 3 => some .ar
  | _ => none

def TileLevel.code : TileLevel → Nat
  | .loc => 0 | .shared => 1 | .bstack => 2

/-- R138. -/
def TileLevel.ofCode : Nat → Option TileLevel
  | 0 => some .loc | 1 => some .shared | 2 => some .bstack
  | _ => none

def LgState.code : LgState → Nat
  | .on => 0 | .drowsy => 1 | .gated => 2

/-- R149. -/
def LgState.ofCode : Nat → Option LgState
  | 0 => some .on | 1 => some .drowsy | 2 => some .gated
  | _ => none

def ColOp.code : ColOp → Nat
  | .allReduce => 0 | .allGather => 1 | .reduceScatter => 2 | .send => 3 | .receive => 4 | .barrier => 5

/-- R148. -/
def ColOp.ofCode : Nat → Option ColOp
  | 0 => some .allReduce | 1 => some .allGather | 2 => some .reduceScatter | 3 => some .send
  | 4 => some .receive | 5 => some .barrier
  | _ => none

/-- A one-bit field as a Boolean. -/
def bitOf (n : Nat) : Bool := n == 1

/-- A Boolean as a one-bit field. -/
def ofBit (b : Bool) : Nat := if b then 1 else 0

/-! ### Layouts -/

/-- Fields of the given widths, lowest first. -/
def unpack : List Nat → Nat → List Nat
  | [], _ => []
  | w :: ws, n => n % 2 ^ w :: unpack ws (n / 2 ^ w)

/-- The word that holds these fields, lowest first. -/
def pack : List Nat → List Nat → Nat
  | w :: ws, f :: fs => f % 2 ^ w + 2 ^ w * pack ws fs
  | _, _ => 0

/-- The first bit of field `i` of a layout. -/
def fieldBit (lay : List Nat) (i : Nat) : Nat := (lay.take i).sum

def laySR : List Nat := [8, 6, 6, 6, 3, 3, 4, 4, 24]        -- OP D A B CN - TY CC -   (R137)
def laySI : List Nat := [8, 6, 6, 4, 4, 36]                 -- OP D A TY CC IMM
def laySB : List Nat := [8, 2, 3, 1, 1, 6, 12, 31]          -- OP BT CN NEG XT A TGT -
def laySY : List Nat := [8, 6, 6, 6, 38]                    -- OP D A SR IMM
def layVR : List Nat := [8, 8, 4, 6, 6, 6, 6, 5, 4, 1, 5, 5]  -- OP LGM PR D A B C ETY SUB SAT STY -  (R140)
def layVI : List Nat := [8, 8, 4, 6, 6, 5, 16, 4, 7]        -- OP LGM PR D A ETY IMM SUB -
def layVK : List Nat := [8, 8, 4, 6, 5, 32, 1]              -- OP LGM PR D ETY IMM -
def layVA : List Nat := [8, 8, 4, 6, 2, 7, 5, 5, 1, 18]     -- OP LGM PR V DIR IDX ETY STY ALL -
def layMXP : List Nat := [8, 3, 5, 6, 26]                   -- OP MP - X -   (R144)
def layMXI : List Nat := [8, 3, 32, 5]                      -- OP MP IMM -
def layMXC : List Nat := [8, 6, 34]                         -- OP IDX -
def layXFT : List Nat := [8, 6, 4, 5, 9]                    -- OP V IDX ETY -   (R145)
def layXFR : List Nat := [8, 8, 8, 2, 4, 2]                 -- OP HA HD TB OPT -
def layT : List Nat := [8, 6, 8, 3, 1, 5, 12, 8, 5]         -- OP R H AG AGV ETY OFF LGM -   (R146)
def layGL : List Nat := [8, 6, 6, 6, 6, 5, 3, 2, 4, 10]     -- OP D A B C ETY SC ORD AOP OFF
def layGG : List Nat := [8, 6, 6, 6, 6, 5, 3, 2, 4, 8, 2]   -- OP D A B C ETY SC ORD AOP LGM -
def layGS : List Nat := [8, 6, 6, 5, 3, 2, 1, 10, 8, 7]     -- OP A B ETY SC ORD VS OFF LGM -
def layCE : List Nat := [8, 6, 6, 6, 3, 1, 1, 4, 3, 1, 9]   -- OP A B C SC ACQ REL SUB Q QE -   (R148)
def laySYM : List Nat := [6, 6, 3, 9]                       -- OP QM SC -   (R149)
def laySYL : List Nat := [6, 8, 2, 8]                       -- OP LGM LST -
def layADL : List Nat := [6, 2, 2, 6, 6, 1, 1]              -- OP LV KIND CNT BODY MOD RB   (R150)
def layADB : List Nat := [6, 2, 3, 1, 12]                   -- OP LV CN NEG -
def layADG : List Nat := [6, 3, 6, 9]                       -- OP AG X -
def layADS : List Nat := [6, 3, 2, 6, 7]                    -- OP AG LV X -
def layADR : List Nat := [6, 18]                            -- OP -
def layADP : List Nat := [6, 4, 4, 10]                      -- OP P STG -
def layM : List Nat := [8, 3, 3, 3, 8, 16, 9, 78]           -- MOP MA MB MC N8 N16 TGT -   (R151)

/-! ### Field checks -/

def fAny : Nat → Bool := fun _ => true
def fZero : Nat → Bool := fun n => n == 0
def fLt (m : Nat) : Nat → Bool := fun n => decide (n < m)
def fNz : Nat → Bool := fun n => n != 0
def fIn (l : List Nat) : Nat → Bool := fun n => l.contains n
/-- Element types that a predicate accepts (R132, R207). -/
def fTy (p : ElemType → Bool) : Nat → Bool := fun n =>
  match ElemType.ofCode n with
  | some t => p t
  | none => false

/-- One encoded form: its layout, a check for each field, the fields that a check over several fields finds
reserved, and the instruction that the fields stand for (R132). -/
structure Form where
  lay : List Nat
  chk : List (Nat → Bool)
  cross : List Nat → Option Nat
  build : List Nat → Option Instr

/-- The first field that fails its own check. -/
def firstBad : List (Nat → Bool) → List Nat → Nat → Option Nat
  | c :: cs, f :: fs, i => if c f then firstBad cs fs (i + 1) else some i
  | _, _, _ => none

/-- The lesser of two positions. -/
def minBad : Option Nat → Option Nat → Option Nat
  | some a, some b => some (Nat.min a b)
  | some a, none => some a
  | none, b => b

/-- Why a slot is illegal: reason 1 with the slot bit, 3 or 7 (R70, R154). -/
inductive SlotError where
  | reserved (bit : Nat)
  | unassigned
  | stateRegister
  deriving DecidableEq, Repr

/-- Reads one form (R132, R154). Of a field that is reserved in part only, the reserved bit reported is the base bit of the
whole field of the format, which the manual leaves open (log 35). -/
def runForm (f : Form) (w : Nat) : Except SlotError Instr :=
  let fs := unpack f.lay w
  match minBad (firstBad f.chk fs 0) (f.cross fs) with
  | some i => .error (.reserved (fieldBit f.lay i))
  | none =>
    match f.build fs with
    | some i => .ok i
    | none => .error .unassigned

def noCross : List Nat → Option Nat := fun _ => none

/-- The form of a layout with no check over several fields. -/
def form (lay : List Nat) (chk : List (Nat → Bool)) (build : List Nat → Option Instr) : Form :=
  { lay, chk, cross := noCross, build }

/-! ### S slot (R137, R138) -/

def formR3 (mk : IntTy → Nat → Nat → Nat → Instr) : Form :=
  form laySR [fAny, fAny, fAny, fAny, fZero, fZero, fLt 8, fZero, fZero]
    fun | [_, d, a, b, _, _, ty, _, _] => (IntTy.ofCode ty).map fun t => mk t d a b
        | _ => none

def formR2 (mk : IntTy → Nat → Nat → Instr) : Form :=
  form laySR [fAny, fAny, fAny, fZero, fZero, fZero, fLt 8, fZero, fZero]
    fun | [_, d, a, _, _, _, ty, _, _] => (IntTy.ofCode ty).map fun t => mk t d a
        | _ => none

def formSel : Form :=
  form laySR [fAny, fAny, fAny, fAny, fAny, fZero, fLt 8, fZero, fZero]
    fun | [_, d, a, b, cn, _, ty, _, _] => (IntTy.ofCode ty).map fun t => .sel t d a b cn
        | _ => none

def formCmp : Form :=
  form laySR [fAny, fLt 8, fAny, fAny, fZero, fZero, fLt 8, fLt 6, fZero]
    fun | [_, d, a, b, _, _, ty, cc, _] =>
            (IntTy.ofCode ty).bind fun t => (Cond.ofCode cc).map fun c => .cmp c t d a b
        | _ => none

def formI (m : Nat) (mk : IntTy → Nat → Nat → Nat → Instr) : Form :=
  form laySI [fAny, fAny, fAny, fLt 8, fZero, fLt m]
    fun | [_, d, a, ty, _, imm] => (IntTy.ofCode ty).map fun t => mk t d a imm
        | _ => none

def formCmpI : Form :=
  form laySI [fAny, fLt 8, fAny, fLt 8, fLt 6, fAny]
    fun | [_, d, a, ty, cc, imm] =>
            (IntTy.ofCode ty).bind fun t => (Cond.ofCode cc).map fun c => .cmpI c t d a imm
        | _ => none

/-- POS and LEN of `bfx` and `bfi` in IMM (R172). -/
def fPosLen : Nat → Bool := fun imm =>
  decide (imm < 8192) && decide (0 < imm / 64) && decide (imm % 64 + imm / 64 ≤ 64)

def formBf (mk : IntTy → Nat → Nat → Nat → Nat → Instr) : Form :=
  form laySI [fAny, fAny, fAny, fLt 8, fZero, fPosLen]
    fun | [_, d, a, ty, _, imm] => (IntTy.ofCode ty).map fun t => mk t d a (imm % 64) (imm / 64)
        | _ => none

def formBr (mk : Nat → Nat → Bool → Instr) : Form :=
  form laySB [fAny, fAny, fAny, fAny, fZero, fZero, fZero, fZero]
    fun | [_, bt, cn, neg, _, _, _, _] => some (mk bt cn (bitOf neg))
        | _ => none

def formPrep : Form :=
  { lay := laySB
    chk := [fAny, fAny, fZero, fZero, fAny, fAny, fLt 2048, fZero]
    cross := fun | [_, _, _, _, xt, a, tgt, _] =>
                     if xt == 0 && a != 0 then some 5 else if xt == 1 && tgt != 0 then some 6 else none
                 | _ => none
    build := fun | [_, bt, _, _, xt, a, tgt, _] =>
                     some (.prep bt (if xt == 1 then .reg a else .index tgt))
                 | _ => none }

/-- Bits 7:5 of the two halves of a `setfmt` immediate are reserved (R182). -/
def fFmtImm : Nat → Bool := fun imm =>
  decide (imm < 2 ^ 32) && imm / 32 % 8 == 0 && imm / 2 ^ 21 % 8 == 0

/-- LEVEL and ETY of `halloc` (R138, R278). -/
def fHalloc : Nat → Bool := fun imm =>
  decide (imm < 128) && imm % 4 != 3 && (ElemType.ofCode (imm / 4)).isSome

/-- The S-slot map (R138). `setcar` takes any field A where IMM[2] is 0 and any GRADE bits where it is 1: the manual does not say that
they are unused (log 35). -/
def formS : Nat → Option Form
  | 0x01 => some (formR3 .add)
  | 0x02 => some (formR3 .sub)
  | 0x03 => some (formR3 .mul)
  | 0x04 => some (formR3 .mulh)
  | 0x05 => some (formR3 .div)
  | 0x06 => some (formR3 .rem)
  | 0x07 => some (formR3 .and)
  | 0x08 => some (formR3 .or)
  | 0x09 => some (formR3 .xor)
  | 0x0A => some (formR3 .andn)
  | 0x0B => some (formR3 .shl)
  | 0x0C => some (formR3 .shr)
  | 0x0D => some (formR3 .rotl)
  | 0x0E => some (formR2 .clz)
  | 0x0F => some (formR2 .ctz)
  | 0x10 => some (formR2 .popc)
  | 0x11 => some (formR3 .min)
  | 0x12 => some (formR3 .max)
  | 0x13 => some formSel
  | 0x14 => some formCmp
  | 0x15 => some (formR2 .ext)
  | 0x41 => some (formI (2 ^ 36) .addI)
  | 0x42 => some (formI (2 ^ 36) .subI)
  | 0x43 => some (formI (2 ^ 36) .mulI)
  | 0x47 => some (formI (2 ^ 36) .andI)
  | 0x48 => some (formI (2 ^ 36) .orI)
  | 0x49 => some (formI (2 ^ 36) .xorI)
  | 0x4A => some (formI (2 ^ 36) .andnI)
  | 0x4B => some (formI 64 .shlI)
  | 0x4C => some (formI 64 .shrI)
  | 0x4D => some (formI 64 .rotlI)
  | 0x51 => some (formI (2 ^ 36) .minI)
  | 0x52 => some (formI (2 ^ 36) .maxI)
  | 0x54 => some formCmpI
  | 0x58 => some (form laySI [fAny, fAny, fZero, fZero, fZero, fAny]
      fun | [_, d, _, _, _, imm] => some (.movi d imm)
          | _ => none)
  | 0x59 => some (form laySI [fAny, fAny, fAny, fZero, fZero, fLt (2 ^ 28)]
      fun | [_, d, a, _, _, imm] => some (.movhi d a imm)
          | _ => none)
  | 0x5A => some (formBf .bfx)
  | 0x5B => some (formBf .bfi)
  | 0x80 => some formPrep
  | 0x81 => some (formBr .br)
  | 0x82 => some (formBr .call)
  | 0xC0 => some (form laySY [fAny, fZero, fZero, fZero, fLt 65536]
      fun | [_, _, _, _, imm] => some (.trap imm)
          | _ => none)
  | 0xC1 => some (form laySY [fAny, fZero, fZero, fZero, fZero]
      fun | [_, _, _, _, _] => some .rett
          | _ => none)
  | 0xC2 => some (form laySY [fAny, fAny, fZero, fAny, fZero]
      fun | [_, d, _, sr, _] => some (.mfs d sr)
          | _ => none)
  | 0xC3 => some (form laySY [fAny, fZero, fAny, fAny, fZero]
      fun | [_, _, a, sr, _] => some (.mts a sr)
          | _ => none)
  | 0xC4 => some (form laySY [fAny, fZero, fZero, fZero, fFmtImm]
      fun | [_, _, _, _, imm] => some (.setfmt (imm % 65536) (imm / 65536))
          | _ => none)
  | 0xC5 => some (form laySY [fAny, fZero, fAny, fZero, fLt 8]
      fun | [_, _, a, _, imm] => some (.setcar (if imm / 4 == 1 then .reg a else .imm (imm % 4)))
          | _ => none)
  | 0xC6 => some (form laySY [fAny, fAny, fZero, fZero, fZero]
      fun | [_, d, _, _, _] => some (.time d)
          | _ => none)
  | 0xC7 => some (form laySY [fAny, fAny, fAny, fZero, fHalloc]
      fun | [_, d, a, _, imm] => (TileLevel.ofCode (imm % 4)).bind fun l =>
              (ElemType.ofCode (imm / 4)).map fun t => .halloc l t d a
          | _ => none)
  | 0xC8 => some (form laySY [fAny, fZero, fAny, fZero, fZero]
      fun | [_, _, a, _, _] => some (.hfree a)
          | _ => none)
  | 0xC9 => some (form laySY [fAny, fAny, fZero, fZero, fLt 64]
      fun | [_, d, _, _, imm] => some (.mbox d imm)
          | _ => none)
  | _ => none

/-! ### V slots (R140 to R143) -/

/-- Which fields a V-R row uses, and what it accepts there. -/
structure VRow where
  d : Nat → Bool := fLt 32
  a : Nat → Bool := fLt 40
  b : Nat → Bool := fZero
  c : Nat → Bool := fZero
  ety : Nat → Bool
  sub : Nat → Bool := fZero
  sat : Nat → Bool := fZero
  sty : Nat → Bool := fZero
  lgm : Nat → Bool := fNz
  pr : Nat → Bool := fAny

def formVR (r : VRow) (cross : List Nat → Option Nat)
    (mk : VHead → (b c sub sat sty : Nat) → Option Instr) : Form :=
  { lay := layVR
    chk := [fAny, r.lgm, r.pr, r.d, r.a, r.b, r.c, r.ety, r.sub, r.sat, r.sty, fZero]
    cross := cross
    build := fun | [_, lgm, pr, d, a, b, c, ety, sub, sat, sty, _] =>
                     (ElemType.ofCode ety).bind fun ty => mk ⟨lgm, pr, d, a, ty⟩ b c sub sat sty
                 | _ => none }

/-- V-R with sources A and B. -/
def formV2 (t : ElemType → Bool) (mk : VHead → Nat → Instr) : Form :=
  formVR { b := fLt 40, ety := fTy t } noCross fun h b _ _ _ _ => some (mk h b)

/-- V-R with source A. -/
def formV1 (t : ElemType → Bool) (mk : VHead → Instr) : Form :=
  formVR { ety := fTy t } noCross fun h _ _ _ _ _ => some (mk h)

/-- V-R with sources A, B and C. -/
def formV3 (t : ElemType → Bool) (mk : VHead → Nat → Nat → Instr) : Form :=
  formVR { b := fLt 40, c := fLt 32, ety := fTy t } noCross fun h b c _ _ _ => some (mk h b c)

/-- V-R with sources A and B and the saturating suffix. -/
def formV2s (t : ElemType → Bool) (mk : VHead → Nat → Bool → Instr) : Form :=
  formVR { b := fLt 40, ety := fTy t, sat := fAny } noCross fun h b _ _ sat _ => some (mk h b (bitOf sat))

def formVI (d a : Nat → Bool) (t : ElemType → Bool) (imm sub : Nat → Bool) (cross : List Nat → Option Nat)
    (mk : VHead → (imm sub : Nat) → Option Instr) : Form :=
  { lay := layVI
    chk := [fAny, fNz, fAny, d, a, fTy t, imm, sub, fZero]
    cross := cross
    build := fun | [_, lgm, pr, d, a, ety, imm, sub, _] =>
                     (ElemType.ofCode ety).bind fun ty => mk ⟨lgm, pr, d, a, ty⟩ imm sub
                 | _ => none }

def formVImm (t : ElemType → Bool) (m : Nat) (mk : VHead → Nat → Instr) : Form :=
  formVI (fLt 32) (fLt 40) t (fLt m) fZero noCross fun h imm _ => some (mk h imm)

/-- Predicate forms, ETY 0 (R207). -/
def formP (dMax : Nat) (b : Nat → Bool) (mk : (lgm pr d a b : Nat) → Instr) : Form :=
  formVR { d := fLt dMax, a := fLt 16, b := b, ety := fZero } noCross
    fun h b _ _ _ _ => some (mk h.lgm h.pr h.d h.a b)

/-- `cvt` takes SAT between integer types only (R219). -/
def crossCvt : List Nat → Option Nat
  | [_, _, _, _, _, _, _, ety, _, sat, sty, _] =>
    if sat == 1 && !(decide (ety < 8) && decide (sty < 8)) then some 9 else none
  | _ => none

/-- `mxq` from a 16-bit type has no B (R220). -/
def crossMxq : List Nat → Option Nat
  | [_, _, _, _, _, b, _, _, _, _, sty, _] =>
    if (sty == ElemType.bf16.code || sty == ElemType.f16.code) && b != 0 then some 5 else none
  | _ => none

/-- `mxdq` to .f32 writes an even register pair (R221). -/
def crossMxdq : List Nat → Option Nat
  | [_, _, _, d, _, _, _, ety, _, _, _, _] => if ety == 9 && d % 2 == 1 then some 3 else none
  | _ => none

/-- A ring copy does not name its source lanegroup, SUB[2:0] (R142, R229). -/
def crossRing : List Nat → Option Nat
  | [_, lgm, _, _, _, _, _, _, sub, _, _, _] => if lgm / 2 ^ (sub % 8) % 2 == 1 then some 1 else none
  | _ => none

/-- A 64-bit lane pair starts at an even lane (R228). -/
def crossLane : List Nat → Option Nat
  | [_, lgm, _, _, _, ety, imm, _, _] =>
    if !oneGroup lgm then some 1
    else if (ety == 3 || ety == 7 || ety == 8) && imm % 2 == 1 then some 6 else none
  | _ => none

def crossShuf : List Nat → Option Nat
  | [_, _, _, _, _, ety, imm, _, _] =>
    match ElemType.ofCode ety with
    | some t => if shufOk t imm then none else some 6
    | none => none
  | _ => none

/-- `vmovi` of a narrow type leaves the upper bits of IMM zero (R226). -/
def crossMovi : List Nat → Option Nat
  | [_, _, _, _, ety, imm, _] =>
    match ElemType.ofCode ety with
    | some t => if imm < 2 ^ t.width then none else some 5
    | none => none
  | _ => none

/-- A 64-bit type is reserved with DIR other than 0 (R207, R234). -/
def crossAcc : List Nat → Option Nat
  | [_, _, _, _, dir, _, ety, _, _, _] =>
    if (ety == 3 || ety == 7 || ety == 8) && dir != 0 then some 6 else none
  | _ => none

/-- `accclr` of the whole file names nothing else (R236). -/
def crossClr : List Nat → Option Nat
  | [_, lgm, pr, _, dir, idx, _, _, all, _] =>
    if all == 1 then
      if lgm != 255 then some 1 else if pr != 0 then some 2 else if dir != 0 then some 4
      else if idx != 0 then some 5 else none
    else none
  | _ => none

def crossAcvt : List Nat → Option Nat
  | [_, _, _, _, _, _, ety, sty, _, _] => if ety == sty then some 7 else none
  | _ => none

def formVA (v ety sty all : Nat → Bool) (cross : List Nat → Option Nat)
    (mk : (lgm pr v : Nat) → AccDir → (idx ety sty all : Nat) → Option Instr) : Form :=
  { lay := layVA
    chk := [fAny, fNz, fAny, v, fLt 3, fAny, ety, sty, all, fZero]
    cross := cross
    build := fun | [_, lgm, pr, v, dir, idx, ety, sty, all, _] =>
                     (AccDir.ofCode dir).bind fun dr => mk lgm pr v dr idx ety sty all
                 | _ => none }

/-- Element types that are not wider than a lane (R207). -/
def narrow (t : ElemType) : Bool := t.isPlain && decide (t.width ≤ 32)

/-- 32-bit lane types (R207). -/
def lane32 (t : ElemType) : Bool := t.isLane && t.width == 32

/-- The V-slot map (R141). -/
def formV : Nat → Option Form
  | 0x01 => some (formV2 ElemType.isArith .fadd)
  | 0x02 => some (formV2 ElemType.isArith .fsub)
  | 0x03 => some (formV2 ElemType.isArith .fmul)
  | 0x04 => some (formV3 ElemType.isArith .fma)
  | 0x05 => some (formV3 ElemType.isArith .fms)
  | 0x06 => some (formV3 ElemType.isArith .fnma)
  | 0x07 => some (formV2 ElemType.isArith .fmin)
  | 0x08 => some (formV2 ElemType.isArith .fmax)
  | 0x09 => some (formV1 ElemType.isArith .fabs)
  | 0x0A => some (formV1 ElemType.isArith .fneg)
  | 0x0B => some (formV2 ElemType.isArith .fcpys)
  | 0x0C => some (formVR { d := fLt 16, b := fLt 40, ety := fTy ElemType.isSeed, sub := fLt 8 } noCross
      fun h b _ sub _ _ => (FCond.ofCode sub).map fun c => .fcmp c h b)
  | 0x0E => some (formV1 ElemType.isSeed .frecpe)
  | 0x0F => some (formV1 ElemType.isSeed .frsqe)
  | 0x10 => some (formV2 ElemType.isArith .fscale)
  | 0x11 => some (formVR { ety := fTy ElemType.isArith, sub := fIn [0, 1, 2, 3, 4, 15] } noCross
      fun h _ _ sub _ _ => (RoundSel.ofCode sub).map fun m => .fround m h)
  | 0x12 => some (formVR { ety := fTy ElemType.isPlain, sat := fAny, sty := fTy ElemType.isPlain } crossCvt
      fun h _ _ _ sat sty => (ElemType.ofCode sty).map fun t => .cvt h t (bitOf sat))
  | 0x13 => some (formVR { b := fLt 40, c := fLt 32, ety := fTy ElemType.isMx, sty := fTy ElemType.isQuantSrc, pr := fZero }
      crossMxq fun h b c _ _ sty => (ElemType.ofCode sty).map fun t => .mxq h b c t)
  | 0x14 => some (formVR { b := fLt 40, ety := fTy ElemType.isQuantSrc, sty := fTy ElemType.isMx, pr := fZero } crossMxdq
      fun h b _ _ _ sty => (ElemType.ofCode sty).map fun t => .mxdq h b t)
  | 0x15 => some (formVR { ety := fTy ElemType.isBp, sty := fTy ElemType.isQuantSrc, pr := fZero } noCross
      fun h _ _ _ _ sty => (ElemType.ofCode sty).map fun t => .bpq h t)
  | 0x20 => some (formV2 ElemType.isInt .iadd)
  | 0x21 => some (formV2 ElemType.isInt .isub)
  | 0x22 => some (formV2s ElemType.isInt .imul)
  | 0x23 => some (formVR { b := fLt 40, c := fLt 32, ety := fTy ElemType.isInt, sat := fAny } noCross
      fun h b c _ sat _ => some (.imad h b c (bitOf sat)))
  | 0x24 => some (formV2 ElemType.isInt .iadds)
  | 0x25 => some (formV2 ElemType.isInt .isubs)
  | 0x26 => some (formV2 ElemType.isInt .iand)
  | 0x27 => some (formV2 ElemType.isInt .ior)
  | 0x28 => some (formV2 ElemType.isInt .ixor)
  | 0x29 => some (formV2s ElemType.isInt .ishl)
  | 0x2A => some (formV2 ElemType.isInt .ishr)
  | 0x2B => some (formV2 ElemType.isInt .imin)
  | 0x2C => some (formV2 ElemType.isInt .imax)
  | 0x2D => some (formVR { ety := fTy ElemType.isSigned, sat := fAny } noCross
      fun h _ _ _ sat _ => some (.iabs h (bitOf sat)))
  | 0x2E => some (formVR { d := fLt 16, b := fLt 40, ety := fTy ElemType.isWord, sub := fLt 6 } noCross
      fun h b _ sub _ _ => (Cond.ofCode sub).map fun c => .icmp c h b)
  | 0x2F => some (formV1 ElemType.isInt .ipopc)
  | 0x40 => some (formV1 ElemType.isPlain .vmov)
  | 0x41 => some
      { lay := layVK
        chk := [fAny, fNz, fAny, fLt 32, fTy narrow, fAny, fZero]
        cross := crossMovi
        build := fun | [_, lgm, pr, d, ety, imm, _] =>
                         (ElemType.ofCode ety).map fun t => .vmovi lgm pr d t imm
                     | _ => none }
  | 0x42 => some (formVR { a := fAny, ety := fTy ElemType.isPlain } noCross fun h _ _ _ _ _ => some (.vbcast h))
  | 0x43 => some (formVR { b := fLt 40, c := fLt 16, ety := fTy ElemType.isPlain } noCross
      fun h b c _ _ _ => some (.vsel h b c))
  | 0x44 => some (formV2 ElemType.isPlain .vperm)
  | 0x48 => some (formVR { a := fLt 32, ety := fTy ElemType.isPlain, sub := fLt 8, lgm := oneGroup } crossRing
      fun h _ _ sub _ _ => some (.xcopy h sub))
  | 0x49 => some (formVR { a := fLt 32, ety := fTy ElemType.isPlain, sub := fLt 8 } crossRing
      fun h _ _ sub _ _ => some (.xbcast h sub))
  -- `vred` takes no q register for A: R204's list of forms names no reductions, and no rule settles it (log 35).
  | 0x4A => some (formVR { a := fLt 32, ety := fTy ElemType.isLane, sub := fLt 3 } noCross
      fun h _ _ sub _ _ => (RedOp.ofCode sub).map fun o => .vred o h)
  | 0x50 => some (formP 16 (fLt 16) .pand)
  | 0x51 => some (formP 16 (fLt 16) .por)
  | 0x52 => some (formP 16 (fLt 16) .pxor)
  | 0x53 => some (formP 16 fZero fun lgm pr d a _ => .pnot lgm pr d a)
  | 0x54 => some (formP 16 fZero fun lgm pr d a _ => .pmov lgm pr d a)
  | 0x55 => some (formP 8 fZero fun lgm pr d a _ => .vany lgm pr d a)
  | 0x56 => some (formP 8 fZero fun lgm pr d a _ => .vall lgm pr d a)
  | 0x57 => some (formP 64 fZero fun lgm pr d a _ => .pcnt lgm pr d a)
  | 0x60 => some (formVA (fLt 32) (fTy ElemType.isLane) fZero fZero crossAcc
      fun lgm pr v dir idx ety _ _ => (ElemType.ofCode ety).map fun t => .accrd lgm pr v dir idx t)
  | 0x61 => some (formVA (fLt 32) (fTy ElemType.isLane) fZero fZero crossAcc
      fun lgm pr v dir idx ety _ _ => (ElemType.ofCode ety).map fun t => .accwr lgm pr v dir idx t)
  | 0x62 => some (formVA fZero fZero fZero fAny crossClr
      fun lgm pr _ dir idx _ _ all => some (.accclr lgm pr dir idx (bitOf all)))
  | 0x63 => some (formVA fZero (fTy lane32) (fTy lane32) fZero crossAcvt
      fun lgm pr _ dir idx ety sty _ => (ElemType.ofCode ety).bind fun t =>
        (ElemType.ofCode sty).map fun u => .acccvt lgm pr dir idx t u)
  | 0x8D => some (formVI (fLt 16) (fLt 40) ElemType.isSeed (fLt 1024) fZero noCross
      fun h imm _ => some (.fclass h imm))
  | 0x90 => some (formVImm ElemType.isArith 65536 .fscaleI)
  | 0xA0 => some (formVImm ElemType.isInt 65536 .iaddI)
  | 0xA1 => some (formVImm ElemType.isInt 65536 .isubI)
  | 0xA6 => some (formVImm ElemType.isInt 65536 .iandI)
  | 0xA7 => some (formVImm ElemType.isInt 65536 .iorI)
  | 0xA8 => some (formVImm ElemType.isInt 65536 .ixorI)
  | 0xA9 => some (formVImm ElemType.isInt 256 .ishlI)
  | 0xAA => some (formVImm ElemType.isInt 256 .ishrI)
  | 0xAB => some (formVImm ElemType.isInt 65536 .iminI)
  | 0xAC => some (formVImm ElemType.isInt 65536 .imaxI)
  | 0xAE => some (formVI (fLt 16) (fLt 40) ElemType.isWord fAny (fLt 6) noCross
      fun h imm sub => (Cond.ofCode sub).map fun c => .icmpI c h imm)
  | 0xC5 => some (formVI (fLt 32) (fLt 40) ElemType.isPlain (fLt 1024) fZero crossShuf
      fun h imm _ => some (.vshuf h imm))
  | 0xC6 => some (formVI fAny (fLt 40) ElemType.isLane (fLt 16) fZero crossLane fun h imm _ => some (.vext h imm))
  | 0xC7 => some (formVI (fLt 32) fAny ElemType.isLane (fLt 16) fZero crossLane fun h imm _ => some (.vins h imm))
  | _ => none

/-- Opcodes assigned in V0 only (R142). -/
def v0Only (op : Nat) : Bool := fIn [0x48, 0x49, 0x60, 0x61, 0x62, 0x63] op

/-! ### MX, XF, LD, ST, CE, SY and AD slots (R144 to R150) -/

def formMX : Nat → Option Form
  | 0x01 => some (form layMXP [fAny, fAny, fZero, fAny, fZero]
      fun | [_, mp, _, x, _] => some (.mset mp x)
          | _ => none)
  | 0x02 => some (form layMXI [fAny, fAny, fAny, fZero]
      fun | [_, mp, imm, _] => some (.mseti mp imm)
          | _ => none)
  | 0x03 => some (form layMXC [fAny, fAny, fZero]
      fun | [_, idx, _] => some (.mcall idx)
          | _ => none)
  | 0x04 => some (form layMXP [fAny, fZero, fZero, fAny, fZero]
      fun | [_, _, _, x, _] => some (.mstat x)
          | _ => none)
  | 0x05 => some (form layMXP [fAny, fZero, fZero, fLt 8, fZero]
      fun | [_, _, _, c, _] => some (.mchk c)
          | _ => none)
  | _ => none

def formXF : Nat → Option Form
  | 0x01 => some (form layXFT [fAny, fLt 32, fAny, fZero, fZero]
      fun | [_, v, idx, _, _] => some (.trpush v idx)
          | _ => none)
  | 0x02 => some (form layXFT [fAny, fLt 32, fAny, fZero, fZero]
      fun | [_, v, idx, _, _] => some (.trpop v idx)
          | _ => none)
  | 0x03 => some (form layXFT [fAny, fZero, fZero, fTy narrow, fZero]
      fun | [_, _, _, ety, _] => (ElemType.ofCode ety).map .trcfg
          | _ => none)
  | 0x10 => some (form layXFR [fAny, fAny, fAny, fZero, fZero, fZero]
      fun | [_, ha, hd, _, _, _] => some (.resm ha hd)
          | _ => none)
  | 0x11 => some (form layXFR [fAny, fAny, fAny, fZero, fLt 2, fZero]
      fun | [_, ha, hd, _, opt, _] => some (.renorm ha hd (bitOf opt))
          | _ => none)
  | 0x12 => some (form layXFR [fAny, fAny, fAny, fAny, fZero, fZero]
      fun | [_, ha, hd, tb, _, _] => some (.retab ha hd tb)
          | _ => none)
  | 0x13 => some (form layXFR [fAny, fAny, fZero, fAny, fZero, fZero]
      fun | [_, ha, _, tb, _, _] => some (.retload ha tb)
          | _ => none)
  | _ => none

def formTile (ety : Nat → Bool) (mk : TileArg → Instr) : Form :=
  form layT [fAny, fLt 32, fAny, fAny, fAny, ety, fAny, fNz, fZero]
    fun | [_, r, h, ag, agv, ety, off, lgm, _] =>
            (ElemType.ofCode ety).map fun t => mk ⟨r, h, ag, bitOf agv, t, off, lgm⟩
        | _ => none

/-- A scope without an ordering suffix is reserved (R293). -/
def crossLoad : List Nat → Option Nat
  | _ :: _ :: _ :: _ :: _ :: _ :: sc :: ord :: _ => if ord == 0 && sc != 0 then some 6 else none
  | _ => none

def crossStore : List Nat → Option Nat
  | [_, _, _, _, sc, ord, _, _, _, _] => if ord == 0 && sc != 0 then some 4 else none
  | _ => none

/-- The data register and the mask of a store follow VS (R133, R146). -/
def crossVs : List Nat → Option Nat
  | [_, a, _, _, _, _, vs, _, lgm, _] =>
    if vs == 1 && decide (32 ≤ a) then some 1 else if (vs == 1) != (lgm != 0) then some 8 else none
  | _ => none

def crossStG (fs : List Nat) : Option Nat := minBad (crossStore fs) (crossVs fs)

def withOrd (sc ord : Nat) (mk : Scope → Order → Instr) : Option Instr :=
  (Scope.ofCode sc).bind fun s => (Order.ofCode ord).map fun o => mk s o

def formLD : Nat → Option Form
  | 0x01 => some (formTile (fTy fun _ => true) .ldSp)
  | 0x02 => some (formTile (fTy (· == .n8)) .ldB)
  | 0x10 => some
      { lay := layGL, cross := crossLoad
        chk := [fAny, fLt 8, fAny, fZero, fZero, fTy ElemType.isPlain, fLt 7, fLt 2, fZero, fAny]
        build := fun | [_, d, a, _, _, ety, sc, ord, _, off] =>
                         (ElemType.ofCode ety).bind fun t => withOrd sc ord fun s o => .ldG d a t s o off
                     | _ => none }
  | 0x11 => some
      { lay := layGG, cross := crossLoad
        chk := [fAny, fLt 8, fLt 32, fZero, fZero, fTy ElemType.isPlain, fLt 7, fLt 2, fZero, fNz, fZero]
        build := fun | [_, d, a, _, _, ety, sc, ord, _, lgm, _] =>
                         (ElemType.ofCode ety).bind fun t => withOrd sc ord fun s o => .gath d a t s o lgm
                     | _ => none }
  | 0x12 => some (form layGL [fAny, fLt 8, fAny, fAny, fZero, fTy ElemType.isWord, fLt 7, fAny, fLt 7, fAny]
      fun | [_, d, a, b, _, ety, sc, ord, aop, off] =>
              (AmoOp.ofCode aop).bind fun op => (ElemType.ofCode ety).bind fun t =>
                withOrd sc ord fun s o => .amo op d a b t s o off
          | _ => none)
  | 0x13 => some (form layGL [fAny, fLt 8, fAny, fAny, fAny, fTy ElemType.isWord, fLt 7, fAny, fZero, fAny]
      fun | [_, d, a, b, c, ety, sc, ord, _, off] =>
              (ElemType.ofCode ety).bind fun t => withOrd sc ord fun s o => .cas d a b c t s o off
          | _ => none)
  | 0x20 => some (form layGL [fAny, fLt 8, fLt 8, fZero, fZero, fTy ElemType.isPlain, fZero, fZero, fZero, fZero]
      fun | [_, d, ag, _, _, ety, _, _, _, _] => (ElemType.ofCode ety).map fun t => .qbind d ag t
          | _ => none)
  | 0x21 => some (form layGL [fAny, fLt 8, fZero, fZero, fZero, fZero, fZero, fZero, fZero, fZero]
      fun | [_, d, _, _, _, _, _, _, _, _] => some (.qfree d)
          | _ => none)
  | _ => none

def formST : Nat → Option Form
  | 0x01 => some (formTile (fTy fun _ => true) .stSp)
  | 0x10 => some
      { lay := layGS, cross := crossStG
        chk := [fAny, fAny, fAny, fTy ElemType.isPlain, fLt 7, fIn [0, 2], fAny, fAny, fAny, fZero]
        build := fun | [_, a, b, ety, sc, ord, vs, off, lgm, _] =>
                         (ElemType.ofCode ety).bind fun t =>
                           withOrd sc ord fun s o => .stG (bitOf vs) a b t s o off lgm
                     | _ => none }
  | 0x11 => some
      { lay := layGS, cross := crossStore
        chk := [fAny, fLt 32, fLt 32, fTy ElemType.isPlain, fLt 7, fIn [0, 2], fNz, fZero, fNz, fZero]
        build := fun | [_, a, b, ety, sc, ord, _, _, lgm, _] =>
                         (ElemType.ofCode ety).bind fun t => withOrd sc ord fun s o => .scat a b t s o lgm
                     | _ => none }
  | 0x12 => some
      { lay := layGS, cross := crossVs
        chk := [fAny, fAny, fAny, fTy ElemType.isPlain, fZero, fZero, fAny, fAny, fAny, fZero]
        build := fun | [_, a, b, ety, _, _, vs, off, lgm, _] =>
                         (ElemType.ofCode ety).map fun t => .epSt (bitOf vs) a b t off lgm
                     | _ => none }
  | 0x20 => some
      { lay := layGS, cross := crossStore
        chk := [fAny, fLt 8, fAny, fTy ElemType.isPlain, fLt 7, fIn [0, 2], fZero, fAny, fZero, fZero]
        build := fun | [_, a, b, ety, sc, ord, _, off, _, _] =>
                         (ElemType.ofCode ety).bind fun t => withOrd sc ord fun s o => .qout a b t s o off
                     | _ => none }
  | _ => none

/-- SC without ACQ or REL is reserved (R367, R474). -/
def crossCe : List Nat → Option Nat
  | [_, _, _, _, sc, acq, rel, _, _, _, _] => if acq == 0 && rel == 0 && sc != 0 then some 4 else none
  | _ => none

/-- The domain barrier takes a descriptor only (R474). -/
def crossCol : List Nat → Option Nat
  | [op, a, b, c, sc, acq, rel, sub, q, qe, r] =>
    if sub == 5 && a != 0 then some 1
    else if sub == 5 && b != 0 then some 2
    else crossCe [op, a, b, c, sc, acq, rel, sub, q, qe, r]
  | _ => none

def formCmd (mk : CeArg → Instr) : Form :=
  { lay := layCE, cross := crossCe
    chk := [fAny, fAny, fAny, fAny, fLt 7, fAny, fAny, fZero, fAny, fAny, fZero]
    build := fun | [_, a, b, c, sc, acq, rel, _, q, qe, _] =>
                     (Scope.ofCode sc).map fun s => mk ⟨a, b, c, s, bitOf acq, bitOf rel, q, bitOf qe⟩
                 | _ => none }

def formHint (mk : Nat → Nat → Nat → Instr) : Form :=
  form layCE [fAny, fAny, fAny, fZero, fZero, fZero, fZero, fLt 4, fZero, fZero, fZero]
    fun | [_, a, b, _, _, _, _, sub, _, _, _] => some (mk a b sub)
        | _ => none

def formCE : Nat → Option Form
  | 0x01 => some (formCmd .cp)
  | 0x02 => some (formCmd .cpg)
  | 0x03 => some (formCmd .cps)
  | 0x04 => some (formCmd .stage)
  | 0x05 => some (formCmd .sealRec)
  | 0x06 => some (formCmd .openRec)
  | 0x10 => some (form layCE [fAny, fAny, fZero, fZero, fZero, fZero, fZero, fZero, fAny, fAny, fZero]
      fun | [_, a, _, _, _, _, _, _, q, qe, _] => some (.ckpt a q (bitOf qe))
          | _ => none)
  | 0x11 => some (formHint .pf)
  | 0x12 => some (formHint .res)
  | 0x20 => some
      { lay := layCE, cross := crossCol
        chk := [fAny, fAny, fAny, fAny, fLt 7, fAny, fAny, fLt 6, fAny, fAny, fZero]
        build := fun | [_, a, b, c, sc, acq, rel, sub, q, qe, _] =>
                         (Scope.ofCode sc).bind fun s => (ColOp.ofCode sub).map fun o =>
                           .col o ⟨a, b, c, s, bitOf acq, bitOf rel, q, bitOf qe⟩
                     | _ => none }
  | 0x30 => some (form layCE [fAny, fAny, fAny, fZero, fZero, fZero, fZero, fZero, fAny, fAny, fZero]
      fun | [_, a, b, _, _, _, _, _, q, qe, _] => some (.meas a b q (bitOf qe))
          | _ => none)
  | _ => none

/-- A `mark` takes a scope only when it names LD or ST (R415). -/
def crossMark : List Nat → Option Nat
  | [_, qm, sc, _] => if sc != 0 && qm % 4 == 0 then some 2 else none
  | _ => none

def formSync (i : Instr) : Form :=
  form laySYM [fAny, fZero, fZero, fZero]
    fun | [_, _, _, _] => some i
        | _ => none

def formSY : Nat → Option Form
  | 0x01 => some
      { lay := laySYM, cross := crossMark
        chk := [fAny, fNz, fLt 7, fZero]
        build := fun | [_, qm, sc, _] => (Scope.ofCode sc).map fun s => .mark qm s
                     | _ => none }
  | 0x02 => some (formSync .join)
  | 0x03 => some (formSync .ssarr)
  | 0x04 => some (formSync .sswait)
  | 0x05 => some (formSync .cbar)
  | 0x06 => some (formSync .halt)
  | 0x07 => some (form laySYL [fAny, fNz, fLt 3, fZero]
      fun | [_, lgm, lst, _] => (LgState.ofCode lst).map fun s => .lgate lgm s
          | _ => none)
  | 0x08 => some (form laySYL [fAny, fNz, fZero, fZero]
      fun | [_, lgm, _, _] => some (.wake lgm)
          | _ => none)
  | _ => none

/-- MOD and RB belong to level 3 (R150). -/
def crossLset : List Nat → Option Nat
  | [_, lv, _, _, _, mod, rb] =>
    if lv != 3 && mod != 0 then some 5 else if lv != 3 && rb != 0 then some 6 else none
  | _ => none

/-- P + STG names a predicate (R193); of the two fields the model reports STG, which the manual leaves open (log 35). -/
def crossSpred : List Nat → Option Nat
  | [_, p, stg, _] => if 15 < p + stg then some 2 else none
  | _ => none

def loopCount (kind cnt : Nat) : Option LoopCount :=
  match kind with
  | 0 => some (.imm cnt)
  | 1 => some (.reg cnt)
  | 2 => some (.word cnt)
  | _ => none

def formAD : Nat → Option Form
  | 0x01 => some
      { lay := layADL, cross := crossLset
        chk := [fAny, fAny, fLt 3, fAny, fAny, fAny, fAny]
        build := fun | [_, lv, kind, cnt, body, mod, rb] =>
                         (loopCount kind cnt).map fun c => .lset lv c body (bitOf mod) (bitOf rb)
                     | _ => none }
  | 0x02 => some (form layADB [fAny, fAny, fAny, fAny, fZero]
      fun | [_, lv, cn, neg, _] => some (.lbrk lv cn (bitOf neg))
          | _ => none)
  | 0x03 => some (form layADG [fAny, fAny, fAny, fZero]
      fun | [_, ag, x, _] => some (.agset ag x)
          | _ => none)
  | 0x04 => some (form layADS [fAny, fAny, fAny, fAny, fZero]
      fun | [_, ag, lv, x, _] => some (.agstr ag lv x)
          | _ => none)
  | 0x05 => some (form layADR [fAny, fZero]
      fun | [_, _] => some .lrot
          | _ => none)
  | 0x06 => some
      { lay := layADP, cross := crossSpred
        chk := [fAny, fun p => decide (8 ≤ p), fLt 8, fZero]
        build := fun | [_, p, stg, _] => some (.spred p stg)
                     | _ => none }
  | _ => none

/-! ### Slots -/

/-- The slots in the order of their codes (R128). -/
inductive Slot where
  | s | v0 | v1 | mx | xf | ld | st | ce | sy | ad
  deriving DecidableEq, Repr

/-- R128. -/
def Slot.code : Slot → Nat
  | .s => 0 | .v0 => 1 | .v1 => 2 | .mx => 3 | .xf => 4 | .ld => 5 | .st => 6 | .ce => 7 | .sy => 8 | .ad => 9

/-- First bundle bit of the slot (R128). -/
def Slot.base : Slot → Nat
  | .s => 32 | .v0 => 96 | .v1 => 160 | .mx => 224 | .xf => 272
  | .ld => 304 | .st => 360 | .ce => 416 | .sy => 464 | .ad => 488

/-- R128. -/
def Slot.width : Slot → Nat
  | .s | .v0 | .v1 => 64
  | .mx | .ce => 48
  | .xf => 32
  | .ld | .st => 56
  | .sy | .ad => 24

def allSlots : List Slot := [.s, .v0, .v1, .mx, .xf, .ld, .st, .ce, .sy, .ad]

/-- Width of the opcode (R149, R150). -/
def Slot.opWidth : Slot → Nat
  | .sy | .ad => 6
  | _ => 8

/-- The form that a slot's map assigns to an opcode (R130, R142). -/
def slotForm (sl : Slot) (op : Nat) : Option Form :=
  match sl with
  | .s => formS op
  | .v0 => formV op
  | .v1 => if v0Only op then none else formV op
  | .mx => formMX op
  | .xf => formXF op
  | .ld => formLD op
  | .st => formST op
  | .ce => formCE op
  | .sy => formSY op
  | .ad => formAD op

/-- Reads the bits of a present slot (R154); a state register number above 13 has reason 7. -/
def decodeSlot (sl : Slot) (w : Nat) : Except SlotError Instr :=
  match slotForm sl (w % 2 ^ sl.opWidth) with
  | none => .error .unassigned
  | some f =>
    match runForm f w with
    | .ok (.mfs d sr) => if sr < 14 then .ok (.mfs d sr) else .error .stateRegister
    | .ok (.mts a sr) => if sr < 14 then .ok (.mts a sr) else .error .stateRegister
    | r => r

/-! ### Bundles -/

/-- Why fetch rejects a bundle: the fields of TINFO for ILLENC (R155). -/
structure IllEnc where
  reason : Nat
  reg : Nat := 0
  slot : Nat := 15
  bit : Nat := 0
  deriving DecidableEq, Repr

/-- R155. -/
def IllEnc.tinfo (e : IllEnc) : Nat :=
  e.reason % 256 + 2 ^ 8 * (e.reg % 256) + 2 ^ 16 * (e.slot % 16) + 2 ^ 20 * (e.bit % 512)

/-- A decoded bundle: header marks and the operations of its slots, in slot order (R129). -/
structure Bundle where
  stop : Bool
  gap : Nat
  swa : Bool
  cls : Nat
  ops : List (Slot × Instr)
  deriving DecidableEq, Repr

/-- The place of the lowest set bit below `k`, or `k` where none is set. -/
def lowBit (n : Nat) : Nat → Nat
  | 0 => 0
  | k + 1 => if n % 2 = 1 then 0 else 1 + lowBit (n / 2) k

def slotBits (b : Nat) (sl : Slot) : Nat := b / 2 ^ sl.base % 2 ^ sl.width

/-- MX and XF slots and the `acc` forms need ownership of the array (R19, R142). -/
def Instr.needsOwner : Instr → Bool
  | .accrd .. | .accwr .. | .accclr .. | .acccvt .. | .mset .. | .mseti .. | .mcall .. | .mstat .. | .mchk ..
  | .trpush .. | .trpop .. | .trcfg .. | .resm .. | .renorm .. | .retab .. | .retload .. => true
  | _ => false

/-- The current class that an operation needs, bits in the order VF, MA, XR, GM (R54, R208). `qbind` and `qfree`, which R54 does
not name, count as global-memory forms of their slots (log 35). -/
def Instr.cls : Instr → Nat
  | .fadd .. | .fsub .. | .fmul .. | .fma .. | .fms .. | .fnma .. | .fmin .. | .fmax .. | .fabs .. | .fneg ..
  | .fcpys .. | .fcmp .. | .fclass .. | .frecpe .. | .frsqe .. | .fscale .. | .fscaleI .. | .fround ..
  | .cvt .. | .mxq .. | .mxdq .. | .bpq .. | .imul .. | .imad .. | .acccvt .. => 1
  | .mset .. | .mseti .. | .mcall .. | .mstat .. | .mchk .. => 2
  | .trpush .. | .trpop .. | .trcfg .. | .resm .. | .renorm .. | .retab .. | .retload .. => 4
  | .ldG .. | .gath .. | .amo .. | .cas .. | .qbind .. | .qfree .. | .stG .. | .scat .. | .epSt .. | .qout ..
  | .cp .. | .cpg .. | .cps .. | .stage .. | .sealRec .. | .openRec .. | .ckpt .. | .pf .. | .res .. | .col ..
  | .meas .. => 8
  | _ => 0

/-- The slots of a bundle in order, stopping at the first that fetch rejects (R130, R154). `owner` says whether
the strand owns the array. -/
def decodeSlots (owner : Bool) (b : Nat) : List Slot → Except IllEnc (List (Slot × Instr))
  | [] => .ok []
  | sl :: rest =>
    if b / 2 ^ sl.code % 2 = 0 then
      if slotBits b sl = 0 then decodeSlots owner b rest
      else .error { reason := 2, slot := sl.code, bit := sl.base + lowBit (slotBits b sl) sl.width }
    else
      match decodeSlot sl (slotBits b sl) with
      | .error .unassigned => .error { reason := 3, slot := sl.code }
      | .error (.reserved k) => .error { reason := 1, slot := sl.code, bit := sl.base + k }
      | .error .stateRegister => .error { reason := 7, slot := sl.code }
      | .ok i =>
        if i.needsOwner && !owner then .error { reason := 5, slot := sl.code }
        else
          match decodeSlots owner b rest with
          | .ok l => .ok ((sl, i) :: l)
          | .error e => .error e

/-- Every class that the operations need is declared (R54). -/
def classesOk (cls : Nat) (ops : List (Slot × Instr)) : Bool :=
  ops.all fun o => (o.2.cls &&& cls) == o.2.cls

/-- Header and slot checks of R154, up to the current class. -/
def decodeBundle (owner : Bool) (b : Nat) : Except IllEnc Bundle :=
  if b / 2 ^ 19 % 2 ^ 13 ≠ 0 then .error { reason := 1, bit := 19 + lowBit (b / 2 ^ 19 % 2 ^ 13) 13 }
  else
    match decodeSlots owner b allSlots with
    | .error e => .error e
    | .ok ops =>
      if classesOk (b / 2 ^ 15 % 16) ops then
        .ok { stop := b / 2 ^ 10 % 2 = 1, gap := b / 2 ^ 11 % 8, swa := b / 2 ^ 14 % 2 = 1,
              cls := b / 2 ^ 15 % 16, ops := ops }
      else .error { reason := 6 }

/-! ### Micro-words (R151, R152) -/

/-- The micro-operation of a micro-word whose unused fields are zero, before the limits of its fields (R151, R152). -/
def microForm (w : Nat) : Option Instr :=
  match unpack layM w with
  | [mop, ma, mb, mc, n8, n16, tgt, r] =>
    if r ≠ 0 ∨ mc ≠ 0 then none
    else
      match mop with
      | 0x01 => if mb = 0 ∧ n8 = 0 ∧ tgt = 0 then some (.aload ma n16) else none
      | 0x02 => if mb = 0 ∧ n8 = 0 ∧ n16 = 0 ∧ tgt = 0 then some (.bsel ma) else none
      | 0x03 => if ma = 0 ∧ mb = 0 ∧ n16 = 0 ∧ tgt = 0 then some (.planes n8) else none
      | 0x04 => if ma = 0 ∧ mb = 0 ∧ n16 = 0 ∧ tgt = 0 then some (.limb n8) else none
      | 0x05 => if ma = 0 ∧ mb = 0 ∧ n16 = 0 ∧ tgt = 0 then some (.pass n8) else none
      | 0x06 => if ma = 0 ∧ mb = 0 ∧ n8 = 0 ∧ tgt = 0 then some (.accz n16) else none
      | 0x07 => if ma = 0 ∧ mb = 0 ∧ n16 = 0 ∧ tgt = 0 then some (.accm n8) else none
      | 0x08 => if n8 = 0 ∧ n16 = 0 ∧ tgt = 0 then some (.scale ma mb) else none
      | 0x09 => if mb = 0 ∧ n16 = 0 ∧ tgt = 0 then some (.drain ma n8) else none
      | 0x0A => if ma = 0 ∧ mb = 0 ∧ n8 = 0 ∧ n16 = 0 ∧ tgt = 0 then some .chk else none
      | 0x0B =>
        if mb = 0 ∧ n8 = 0 ∧ tgt = 0 then
          if n16 = 0 then some (.mloop (.mp ma)) else if ma = 0 then some (.mloop (.imm n16)) else none
        else none
      | 0x0C => if ma = 0 ∧ mb = 0 ∧ n8 = 0 ∧ n16 = 0 then some (.mend tgt) else none
      | 0x0D => if ma = 0 ∧ mb = 0 ∧ n8 = 0 ∧ tgt = 0 then some (.mwait n16) else none
      | 0x0E => if ma = 0 ∧ mb = 0 ∧ n8 = 0 ∧ n16 = 0 ∧ tgt = 0 then some .msync else none
      | 0x0F => if ma = 0 ∧ mb = 0 ∧ n8 = 0 ∧ n16 = 0 ∧ tgt = 0 then some .mret else none
      | _ => none
  | _ => none

/-- Reads a micro-word, with its field limits; the loader refuses every word for which this is `none` (R153, R255). -/
def decodeMicro (w : Nat) : Option Instr := (microForm w).filter Instr.wf

/-! ### Administrative items (R350, R352, R445, R470) -/

/-- The 128 bytes of an administrative item as fields: KIND, three zero bytes, opcode, three zero bytes, context,
byte 10, byte 11, byte 12, byte 13, bytes 14-15 (byte 14 is EPWIN's ring), 16-23, 24-31, 32-39, 40-95, TAG, 104-127. -/
def layItem : List Nat := [8, 24, 8, 24, 16, 8, 8, 8, 8, 16, 64, 64, 64, 448, 64, 192]

/-- Reads an administrative item; `none` completes FAULT (R351, R352). -/
def decodeAdmin (w : Nat) : Option Instr :=
  match unpack layItem w with
  | [kind, z1, op, z2, ctx, b10, b11, b12, b13, b14, w16, w24, w32, z3, tag, z4] =>
    if kind ≠ 1 ∨ z1 ≠ 0 ∨ z2 ≠ 0 ∨ z3 ≠ 0 ∨ z4 ≠ 0 ∨ (op ≠ 16 ∧ b14 ≠ 0) then none
    else
      match op with
      | 1 => if b10 < 2 ∧ b12 = 0 ∧ b13 = 0 then some (.create ctx (bitOf b10) b11 w16 w24 w32 tag) else none
      | 2 => if b10 = 0 ∧ b11 = 0 ∧ b12 = 0 ∧ b13 = 0 ∧ w16 = 0 ∧ w24 = 0 ∧ w32 = 0
             then some (.destroy ctx tag) else none
      | 3 => if b10 = 0 ∧ b11 = 0 ∧ b12 = 0 ∧ b13 = 0 ∧ w24 = 0 ∧ w32 = 0
             then some (.park ctx w16 tag) else none
      | 4 => if b10 = 0 ∧ b11 = 0 ∧ b12 = 0 ∧ b13 = 0 ∧ w24 = 0 ∧ w32 = 0
             then some (.unpark ctx w16 tag) else none
      | 5 => if ctx = 0 ∧ b10 = 0 ∧ b11 = 0 ∧ b12 = 0 ∧ b13 = 0 ∧ w16 = 0 ∧ w24 = 0 ∧ w32 = 0
             then some (.relock tag) else none
      | 6 => if b10 < 2 ∧ b11 = 0 ∧ b12 = 0 ∧ b13 = 0 ∧ w16 = 0 ∧ w24 = 0 ∧ w32 = 0
             then some (.force ctx (bitOf b10) tag) else none
      | 7 => if w32 < 2 ^ 32 then some (.map ⟨ctx, b10, b11, b12, b13, w16, w24, w32, tag⟩) else none
      | 8 => if b11 = 0 ∧ b12 = 0 ∧ b13 = 0 ∧ w24 = 0 ∧ w32 < 2 ^ 32
             then some (.unmap ctx b10 w16 w32 tag) else none
      | 9 => if b11 = 0 ∧ b12 = 0 ∧ b13 = 0 ∧ w32 = 0 then some (.migrate ctx b10 w16 w24 tag) else none
      | 10 => if b10 = 0 ∧ b11 = 0 ∧ b12 = 0 ∧ w16 = 0 ∧ w32 = 0 then some (.wreg ctx b13 w24 tag) else none
      | 11 => if b10 = 0 ∧ b11 = 0 ∧ b12 = 0 ∧ w16 = 0 ∧ w24 = 0 ∧ w32 = 0
              then some (.wbegin ctx b13 tag) else none
      | 12 => if b10 = 0 ∧ b11 = 0 ∧ b12 = 0 ∧ w32 < 2 ^ 32
              then some (.wpage ctx b13 w16 w24 w32 tag) else none
      | 13 => if b10 = 0 ∧ b11 = 0 ∧ b12 = 0 ∧ w16 = 0 ∧ w24 = 0 ∧ w32 = 0
              then some (.wcommit ctx b13 tag) else none
      | 14 => if b10 = 0 ∧ b11 = 0 ∧ b12 = 0 ∧ w16 = 0 ∧ w24 = 0 ∧ w32 = 0
              then some (.wabort ctx b13 tag) else none
      | 15 => if b10 = 0 ∧ b11 = 0 ∧ b12 = 0 ∧ b13 = 0 ∧ w24 = 0 ∧ w32 < 2 ^ 32
              then some (.ckcfg ctx w16 w32 tag) else none
      | 16 => if b11 < 2 ∧ b14 < 64 ∧ w16 = 0 ∧ w24 = 0 ∧ w32 = 0
              then some (.epwin ctx b10 (bitOf b11) (b12 + 256 * b13) b14 tag) else none
      | 17 => if b12 < 2 ∧ b13 = 0 ∧ w24 = 0 ∧ w32 = 0
              then some (.epring ctx b10 b11 (bitOf b12) w16 tag) else none
      | 18 => if b12 = 0 ∧ b13 = 0 ∧ w24 = 0 ∧ w32 = 0
              then some (.cancel ctx (b10 + 256 * b11) w16 tag) else none
      | _ => none
  | _ => none

/-! ### The encoder -/

/-- The layout and fields of a bundle operation, with the slot it stands in; a V form stands in V0. -/
def slotFields : Instr → Option (Slot × List Nat × List Nat)
  | .add t d a b => some (.s, laySR, [0x01, d, a, b, 0, 0, t.code, 0, 0])
  | .sub t d a b => some (.s, laySR, [0x02, d, a, b, 0, 0, t.code, 0, 0])
  | .mul t d a b => some (.s, laySR, [0x03, d, a, b, 0, 0, t.code, 0, 0])
  | .mulh t d a b => some (.s, laySR, [0x04, d, a, b, 0, 0, t.code, 0, 0])
  | .div t d a b => some (.s, laySR, [0x05, d, a, b, 0, 0, t.code, 0, 0])
  | .rem t d a b => some (.s, laySR, [0x06, d, a, b, 0, 0, t.code, 0, 0])
  | .and t d a b => some (.s, laySR, [0x07, d, a, b, 0, 0, t.code, 0, 0])
  | .or t d a b => some (.s, laySR, [0x08, d, a, b, 0, 0, t.code, 0, 0])
  | .xor t d a b => some (.s, laySR, [0x09, d, a, b, 0, 0, t.code, 0, 0])
  | .andn t d a b => some (.s, laySR, [0x0A, d, a, b, 0, 0, t.code, 0, 0])
  | .shl t d a b => some (.s, laySR, [0x0B, d, a, b, 0, 0, t.code, 0, 0])
  | .shr t d a b => some (.s, laySR, [0x0C, d, a, b, 0, 0, t.code, 0, 0])
  | .rotl t d a b => some (.s, laySR, [0x0D, d, a, b, 0, 0, t.code, 0, 0])
  | .clz t d a => some (.s, laySR, [0x0E, d, a, 0, 0, 0, t.code, 0, 0])
  | .ctz t d a => some (.s, laySR, [0x0F, d, a, 0, 0, 0, t.code, 0, 0])
  | .popc t d a => some (.s, laySR, [0x10, d, a, 0, 0, 0, t.code, 0, 0])
  | .min t d a b => some (.s, laySR, [0x11, d, a, b, 0, 0, t.code, 0, 0])
  | .max t d a b => some (.s, laySR, [0x12, d, a, b, 0, 0, t.code, 0, 0])
  | .sel t d a b cn => some (.s, laySR, [0x13, d, a, b, cn, 0, t.code, 0, 0])
  | .cmp cc t d a b => some (.s, laySR, [0x14, d, a, b, 0, 0, t.code, cc.code, 0])
  | .ext t d a => some (.s, laySR, [0x15, d, a, 0, 0, 0, t.code, 0, 0])
  | .addI t d a i => some (.s, laySI, [0x41, d, a, t.code, 0, i])
  | .subI t d a i => some (.s, laySI, [0x42, d, a, t.code, 0, i])
  | .mulI t d a i => some (.s, laySI, [0x43, d, a, t.code, 0, i])
  | .andI t d a i => some (.s, laySI, [0x47, d, a, t.code, 0, i])
  | .orI t d a i => some (.s, laySI, [0x48, d, a, t.code, 0, i])
  | .xorI t d a i => some (.s, laySI, [0x49, d, a, t.code, 0, i])
  | .andnI t d a i => some (.s, laySI, [0x4A, d, a, t.code, 0, i])
  | .shlI t d a i => some (.s, laySI, [0x4B, d, a, t.code, 0, i])
  | .shrI t d a i => some (.s, laySI, [0x4C, d, a, t.code, 0, i])
  | .rotlI t d a i => some (.s, laySI, [0x4D, d, a, t.code, 0, i])
  | .minI t d a i => some (.s, laySI, [0x51, d, a, t.code, 0, i])
  | .maxI t d a i => some (.s, laySI, [0x52, d, a, t.code, 0, i])
  | .cmpI cc t d a i => some (.s, laySI, [0x54, d, a, t.code, cc.code, i])
  | .movi d i => some (.s, laySI, [0x58, d, 0, 0, 0, i])
  | .movhi d a i => some (.s, laySI, [0x59, d, a, 0, 0, i])
  | .bfx t d a pos len => some (.s, laySI, [0x5A, d, a, t.code, 0, pos + 64 * len])
  | .bfi t d a pos len => some (.s, laySI, [0x5B, d, a, t.code, 0, pos + 64 * len])
  | .prep bt (.index g) => some (.s, laySB, [0x80, bt, 0, 0, 0, 0, g, 0])
  | .prep bt (.reg a) => some (.s, laySB, [0x80, bt, 0, 0, 1, a, 0, 0])
  | .br bt cn neg => some (.s, laySB, [0x81, bt, cn, ofBit neg, 0, 0, 0, 0])
  | .call bt cn neg => some (.s, laySB, [0x82, bt, cn, ofBit neg, 0, 0, 0, 0])
  | .trap i => some (.s, laySY, [0xC0, 0, 0, 0, i])
  | .rett => some (.s, laySY, [0xC1, 0, 0, 0, 0])
  | .mfs d sr => some (.s, laySY, [0xC2, d, 0, sr, 0])
  | .mts a sr => some (.s, laySY, [0xC3, 0, a, sr, 0])
  | .setfmt v m => some (.s, laySY, [0xC4, 0, 0, 0, v + 65536 * m])
  | .setcar (.imm g) => some (.s, laySY, [0xC5, 0, 0, 0, g])
  | .setcar (.reg a) => some (.s, laySY, [0xC5, 0, a, 0, 4])
  | .time d => some (.s, laySY, [0xC6, d, 0, 0, 0])
  | .halloc l t d a => some (.s, laySY, [0xC7, d, a, 0, l.code + 4 * t.code])
  | .hfree a => some (.s, laySY, [0xC8, 0, a, 0, 0])
  | .mbox d w => some (.s, laySY, [0xC9, d, 0, 0, w])
  | .fadd h b => some (.v0, layVR, [0x01, h.lgm, h.pr, h.d, h.a, b, 0, h.ty.code, 0, 0, 0, 0])
  | .fsub h b => some (.v0, layVR, [0x02, h.lgm, h.pr, h.d, h.a, b, 0, h.ty.code, 0, 0, 0, 0])
  | .fmul h b => some (.v0, layVR, [0x03, h.lgm, h.pr, h.d, h.a, b, 0, h.ty.code, 0, 0, 0, 0])
  | .fma h b c => some (.v0, layVR, [0x04, h.lgm, h.pr, h.d, h.a, b, c, h.ty.code, 0, 0, 0, 0])
  | .fms h b c => some (.v0, layVR, [0x05, h.lgm, h.pr, h.d, h.a, b, c, h.ty.code, 0, 0, 0, 0])
  | .fnma h b c => some (.v0, layVR, [0x06, h.lgm, h.pr, h.d, h.a, b, c, h.ty.code, 0, 0, 0, 0])
  | .fmin h b => some (.v0, layVR, [0x07, h.lgm, h.pr, h.d, h.a, b, 0, h.ty.code, 0, 0, 0, 0])
  | .fmax h b => some (.v0, layVR, [0x08, h.lgm, h.pr, h.d, h.a, b, 0, h.ty.code, 0, 0, 0, 0])
  | .fabs h => some (.v0, layVR, [0x09, h.lgm, h.pr, h.d, h.a, 0, 0, h.ty.code, 0, 0, 0, 0])
  | .fneg h => some (.v0, layVR, [0x0A, h.lgm, h.pr, h.d, h.a, 0, 0, h.ty.code, 0, 0, 0, 0])
  | .fcpys h b => some (.v0, layVR, [0x0B, h.lgm, h.pr, h.d, h.a, b, 0, h.ty.code, 0, 0, 0, 0])
  | .fcmp c h b => some (.v0, layVR, [0x0C, h.lgm, h.pr, h.d, h.a, b, 0, h.ty.code, c.code, 0, 0, 0])
  | .fclass h m => some (.v0, layVI, [0x8D, h.lgm, h.pr, h.d, h.a, h.ty.code, m, 0, 0])
  | .frecpe h => some (.v0, layVR, [0x0E, h.lgm, h.pr, h.d, h.a, 0, 0, h.ty.code, 0, 0, 0, 0])
  | .frsqe h => some (.v0, layVR, [0x0F, h.lgm, h.pr, h.d, h.a, 0, 0, h.ty.code, 0, 0, 0, 0])
  | .fscale h b => some (.v0, layVR, [0x10, h.lgm, h.pr, h.d, h.a, b, 0, h.ty.code, 0, 0, 0, 0])
  | .fscaleI h i => some (.v0, layVI, [0x90, h.lgm, h.pr, h.d, h.a, h.ty.code, i, 0, 0])
  | .fround m h => some (.v0, layVR, [0x11, h.lgm, h.pr, h.d, h.a, 0, 0, h.ty.code, m.code, 0, 0, 0])
  | .cvt h sty sat =>
    some (.v0, layVR, [0x12, h.lgm, h.pr, h.d, h.a, 0, 0, h.ty.code, 0, ofBit sat, sty.code, 0])
  | .mxq h b c sty => some (.v0, layVR, [0x13, h.lgm, h.pr, h.d, h.a, b, c, h.ty.code, 0, 0, sty.code, 0])
  | .mxdq h b sty => some (.v0, layVR, [0x14, h.lgm, h.pr, h.d, h.a, b, 0, h.ty.code, 0, 0, sty.code, 0])
  | .bpq h sty => some (.v0, layVR, [0x15, h.lgm, h.pr, h.d, h.a, 0, 0, h.ty.code, 0, 0, sty.code, 0])
  | .iadd h b => some (.v0, layVR, [0x20, h.lgm, h.pr, h.d, h.a, b, 0, h.ty.code, 0, 0, 0, 0])
  | .iaddI h i => some (.v0, layVI, [0xA0, h.lgm, h.pr, h.d, h.a, h.ty.code, i, 0, 0])
  | .isub h b => some (.v0, layVR, [0x21, h.lgm, h.pr, h.d, h.a, b, 0, h.ty.code, 0, 0, 0, 0])
  | .isubI h i => some (.v0, layVI, [0xA1, h.lgm, h.pr, h.d, h.a, h.ty.code, i, 0, 0])
  | .imul h b sat => some (.v0, layVR, [0x22, h.lgm, h.pr, h.d, h.a, b, 0, h.ty.code, 0, ofBit sat, 0, 0])
  | .imad h b c sat => some (.v0, layVR, [0x23, h.lgm, h.pr, h.d, h.a, b, c, h.ty.code, 0, ofBit sat, 0, 0])
  | .iadds h b => some (.v0, layVR, [0x24, h.lgm, h.pr, h.d, h.a, b, 0, h.ty.code, 0, 0, 0, 0])
  | .isubs h b => some (.v0, layVR, [0x25, h.lgm, h.pr, h.d, h.a, b, 0, h.ty.code, 0, 0, 0, 0])
  | .iand h b => some (.v0, layVR, [0x26, h.lgm, h.pr, h.d, h.a, b, 0, h.ty.code, 0, 0, 0, 0])
  | .iandI h i => some (.v0, layVI, [0xA6, h.lgm, h.pr, h.d, h.a, h.ty.code, i, 0, 0])
  | .ior h b => some (.v0, layVR, [0x27, h.lgm, h.pr, h.d, h.a, b, 0, h.ty.code, 0, 0, 0, 0])
  | .iorI h i => some (.v0, layVI, [0xA7, h.lgm, h.pr, h.d, h.a, h.ty.code, i, 0, 0])
  | .ixor h b => some (.v0, layVR, [0x28, h.lgm, h.pr, h.d, h.a, b, 0, h.ty.code, 0, 0, 0, 0])
  | .ixorI h i => some (.v0, layVI, [0xA8, h.lgm, h.pr, h.d, h.a, h.ty.code, i, 0, 0])
  | .ishl h b sat => some (.v0, layVR, [0x29, h.lgm, h.pr, h.d, h.a, b, 0, h.ty.code, 0, ofBit sat, 0, 0])
  | .ishlI h i => some (.v0, layVI, [0xA9, h.lgm, h.pr, h.d, h.a, h.ty.code, i, 0, 0])
  | .ishr h b => some (.v0, layVR, [0x2A, h.lgm, h.pr, h.d, h.a, b, 0, h.ty.code, 0, 0, 0, 0])
  | .ishrI h i => some (.v0, layVI, [0xAA, h.lgm, h.pr, h.d, h.a, h.ty.code, i, 0, 0])
  | .imin h b => some (.v0, layVR, [0x2B, h.lgm, h.pr, h.d, h.a, b, 0, h.ty.code, 0, 0, 0, 0])
  | .iminI h i => some (.v0, layVI, [0xAB, h.lgm, h.pr, h.d, h.a, h.ty.code, i, 0, 0])
  | .imax h b => some (.v0, layVR, [0x2C, h.lgm, h.pr, h.d, h.a, b, 0, h.ty.code, 0, 0, 0, 0])
  | .imaxI h i => some (.v0, layVI, [0xAC, h.lgm, h.pr, h.d, h.a, h.ty.code, i, 0, 0])
  | .iabs h sat => some (.v0, layVR, [0x2D, h.lgm, h.pr, h.d, h.a, 0, 0, h.ty.code, 0, ofBit sat, 0, 0])
  | .icmp c h b => some (.v0, layVR, [0x2E, h.lgm, h.pr, h.d, h.a, b, 0, h.ty.code, c.code, 0, 0, 0])
  | .icmpI c h i => some (.v0, layVI, [0xAE, h.lgm, h.pr, h.d, h.a, h.ty.code, i, c.code, 0])
  | .ipopc h => some (.v0, layVR, [0x2F, h.lgm, h.pr, h.d, h.a, 0, 0, h.ty.code, 0, 0, 0, 0])
  | .vmov h => some (.v0, layVR, [0x40, h.lgm, h.pr, h.d, h.a, 0, 0, h.ty.code, 0, 0, 0, 0])
  | .vmovi lgm pr d t i => some (.v0, layVK, [0x41, lgm, pr, d, t.code, i, 0])
  | .vbcast h => some (.v0, layVR, [0x42, h.lgm, h.pr, h.d, h.a, 0, 0, h.ty.code, 0, 0, 0, 0])
  | .vsel h b c => some (.v0, layVR, [0x43, h.lgm, h.pr, h.d, h.a, b, c, h.ty.code, 0, 0, 0, 0])
  | .vperm h b => some (.v0, layVR, [0x44, h.lgm, h.pr, h.d, h.a, b, 0, h.ty.code, 0, 0, 0, 0])
  | .vshuf h i => some (.v0, layVI, [0xC5, h.lgm, h.pr, h.d, h.a, h.ty.code, i, 0, 0])
  | .vext h l => some (.v0, layVI, [0xC6, h.lgm, h.pr, h.d, h.a, h.ty.code, l, 0, 0])
  | .vins h l => some (.v0, layVI, [0xC7, h.lgm, h.pr, h.d, h.a, h.ty.code, l, 0, 0])
  | .xcopy h s => some (.v0, layVR, [0x48, h.lgm, h.pr, h.d, h.a, 0, 0, h.ty.code, s, 0, 0, 0])
  | .xbcast h s => some (.v0, layVR, [0x49, h.lgm, h.pr, h.d, h.a, 0, 0, h.ty.code, s, 0, 0, 0])
  | .vred o h => some (.v0, layVR, [0x4A, h.lgm, h.pr, h.d, h.a, 0, 0, h.ty.code, o.code, 0, 0, 0])
  | .pand lgm pr d a b => some (.v0, layVR, [0x50, lgm, pr, d, a, b, 0, 0, 0, 0, 0, 0])
  | .por lgm pr d a b => some (.v0, layVR, [0x51, lgm, pr, d, a, b, 0, 0, 0, 0, 0, 0])
  | .pxor lgm pr d a b => some (.v0, layVR, [0x52, lgm, pr, d, a, b, 0, 0, 0, 0, 0, 0])
  | .pnot lgm pr d a => some (.v0, layVR, [0x53, lgm, pr, d, a, 0, 0, 0, 0, 0, 0, 0])
  | .pmov lgm pr d a => some (.v0, layVR, [0x54, lgm, pr, d, a, 0, 0, 0, 0, 0, 0, 0])
  | .vany lgm pr d a => some (.v0, layVR, [0x55, lgm, pr, d, a, 0, 0, 0, 0, 0, 0, 0])
  | .vall lgm pr d a => some (.v0, layVR, [0x56, lgm, pr, d, a, 0, 0, 0, 0, 0, 0, 0])
  | .pcnt lgm pr d a => some (.v0, layVR, [0x57, lgm, pr, d, a, 0, 0, 0, 0, 0, 0, 0])
  | .accrd lgm pr v dr i t => some (.v0, layVA, [0x60, lgm, pr, v, dr.code, i, t.code, 0, 0, 0])
  | .accwr lgm pr v dr i t => some (.v0, layVA, [0x61, lgm, pr, v, dr.code, i, t.code, 0, 0, 0])
  | .accclr lgm pr dr i all => some (.v0, layVA, [0x62, lgm, pr, 0, dr.code, i, 0, 0, ofBit all, 0])
  | .acccvt lgm pr dr i t u => some (.v0, layVA, [0x63, lgm, pr, 0, dr.code, i, t.code, u.code, 0, 0])
  | .mset mp x => some (.mx, layMXP, [0x01, mp, 0, x, 0])
  | .mseti mp i => some (.mx, layMXI, [0x02, mp, i, 0])
  | .mcall i => some (.mx, layMXC, [0x03, i, 0])
  | .mstat x => some (.mx, layMXP, [0x04, 0, 0, x, 0])
  | .mchk c => some (.mx, layMXP, [0x05, 0, 0, c, 0])
  | .trpush v i => some (.xf, layXFT, [0x01, v, i, 0, 0])
  | .trpop v i => some (.xf, layXFT, [0x02, v, i, 0, 0])
  | .trcfg t => some (.xf, layXFT, [0x03, 0, 0, t.code, 0])
  | .resm ha hd => some (.xf, layXFR, [0x10, ha, hd, 0, 0, 0])
  | .renorm ha hd rms => some (.xf, layXFR, [0x11, ha, hd, 0, ofBit rms, 0])
  | .retab ha hd tb => some (.xf, layXFR, [0x12, ha, hd, tb, 0, 0])
  | .retload ha tb => some (.xf, layXFR, [0x13, ha, 0, tb, 0, 0])
  | .ldSp t => some (.ld, layT, [0x01, t.r, t.h, t.ag, ofBit t.agv, t.ty.code, t.off, t.lgm, 0])
  | .ldB t => some (.ld, layT, [0x02, t.r, t.h, t.ag, ofBit t.agv, t.ty.code, t.off, t.lgm, 0])
  | .ldG d a t sc o off => some (.ld, layGL, [0x10, d, a, 0, 0, t.code, sc.code, o.code, 0, off])
  | .gath d a t sc o lgm => some (.ld, layGG, [0x11, d, a, 0, 0, t.code, sc.code, o.code, 0, lgm, 0])
  | .amo op d a b t sc o off => some (.ld, layGL, [0x12, d, a, b, 0, t.code, sc.code, o.code, op.code, off])
  | .cas d a b c t sc o off => some (.ld, layGL, [0x13, d, a, b, c, t.code, sc.code, o.code, 0, off])
  | .qbind d ag t => some (.ld, layGL, [0x20, d, ag, 0, 0, t.code, 0, 0, 0, 0])
  | .qfree d => some (.ld, layGL, [0x21, d, 0, 0, 0, 0, 0, 0, 0, 0])
  | .stSp t => some (.st, layT, [0x01, t.r, t.h, t.ag, ofBit t.agv, t.ty.code, t.off, t.lgm, 0])
  | .stG vs a b t sc o off lgm =>
    some (.st, layGS, [0x10, a, b, t.code, sc.code, o.code, ofBit vs, off, lgm, 0])
  | .scat a b t sc o lgm => some (.st, layGS, [0x11, a, b, t.code, sc.code, o.code, 1, 0, lgm, 0])
  | .epSt vs a b t off lgm => some (.st, layGS, [0x12, a, b, t.code, 0, 0, ofBit vs, off, lgm, 0])
  | .qout a b t sc o off => some (.st, layGS, [0x20, a, b, t.code, sc.code, o.code, 0, off, 0, 0])
  | .cp c => some (.ce, layCE, [0x01, c.a, c.b, c.c, c.sc.code, ofBit c.acq, ofBit c.rel, 0, c.q, ofBit c.qe, 0])
  | .cpg c => some (.ce, layCE, [0x02, c.a, c.b, c.c, c.sc.code, ofBit c.acq, ofBit c.rel, 0, c.q, ofBit c.qe, 0])
  | .cps c => some (.ce, layCE, [0x03, c.a, c.b, c.c, c.sc.code, ofBit c.acq, ofBit c.rel, 0, c.q, ofBit c.qe, 0])
  | .stage c =>
    some (.ce, layCE, [0x04, c.a, c.b, c.c, c.sc.code, ofBit c.acq, ofBit c.rel, 0, c.q, ofBit c.qe, 0])
  | .sealRec c =>
    some (.ce, layCE, [0x05, c.a, c.b, c.c, c.sc.code, ofBit c.acq, ofBit c.rel, 0, c.q, ofBit c.qe, 0])
  | .openRec c =>
    some (.ce, layCE, [0x06, c.a, c.b, c.c, c.sc.code, ofBit c.acq, ofBit c.rel, 0, c.q, ofBit c.qe, 0])
  | .ckpt a q qe => some (.ce, layCE, [0x10, a, 0, 0, 0, 0, 0, 0, q, ofBit qe, 0])
  | .pf a b l => some (.ce, layCE, [0x11, a, b, 0, 0, 0, 0, l, 0, 0, 0])
  | .res a b l => some (.ce, layCE, [0x12, a, b, 0, 0, 0, 0, l, 0, 0, 0])
  | .col op c =>
    some (.ce, layCE, [0x20, c.a, c.b, c.c, c.sc.code, ofBit c.acq, ofBit c.rel, op.code, c.q, ofBit c.qe, 0])
  | .meas a b q qe => some (.ce, layCE, [0x30, a, b, 0, 0, 0, 0, 0, q, ofBit qe, 0])
  | .mark qm sc => some (.sy, laySYM, [0x01, qm, sc.code, 0])
  | .join => some (.sy, laySYM, [0x02, 0, 0, 0])
  | .ssarr => some (.sy, laySYM, [0x03, 0, 0, 0])
  | .sswait => some (.sy, laySYM, [0x04, 0, 0, 0])
  | .cbar => some (.sy, laySYM, [0x05, 0, 0, 0])
  | .halt => some (.sy, laySYM, [0x06, 0, 0, 0])
  | .lgate lgm st => some (.sy, laySYL, [0x07, lgm, st.code, 0])
  | .wake lgm => some (.sy, laySYL, [0x08, lgm, 0, 0])
  | .lset lv (.imm n) body mod rb => some (.ad, layADL, [0x01, lv, 0, n, body, ofBit mod, ofBit rb])
  | .lset lv (.reg n) body mod rb => some (.ad, layADL, [0x01, lv, 1, n, body, ofBit mod, ofBit rb])
  | .lset lv (.word n) body mod rb => some (.ad, layADL, [0x01, lv, 2, n, body, ofBit mod, ofBit rb])
  | .lbrk lv cn neg => some (.ad, layADB, [0x02, lv, cn, ofBit neg, 0])
  | .agset ag x => some (.ad, layADG, [0x03, ag, x, 0])
  | .agstr ag lv x => some (.ad, layADS, [0x04, ag, lv, x, 0])
  | .lrot => some (.ad, layADR, [0x05, 0])
  | .spred p stg => some (.ad, layADP, [0x06, p, stg, 0])
  | _ => none

/-- The fields of a micro-operation (R152). -/
def microFields : Instr → Option (List Nat)
  | .aload ma n16 => some [0x01, ma, 0, 0, 0, n16, 0, 0]
  | .bsel ma => some [0x02, ma, 0, 0, 0, 0, 0, 0]
  | .planes n => some [0x03, 0, 0, 0, n, 0, 0, 0]
  | .limb n => some [0x04, 0, 0, 0, n, 0, 0, 0]
  | .pass n => some [0x05, 0, 0, 0, n, 0, 0, 0]
  | .accz n => some [0x06, 0, 0, 0, 0, n, 0, 0]
  | .accm n => some [0x07, 0, 0, 0, n, 0, 0, 0]
  | .scale ma mb => some [0x08, ma, mb, 0, 0, 0, 0, 0]
  | .drain ma n => some [0x09, ma, 0, 0, n, 0, 0, 0]
  | .chk => some [0x0A, 0, 0, 0, 0, 0, 0, 0]
  | .mloop (.mp ma) => some [0x0B, ma, 0, 0, 0, 0, 0, 0]
  | .mloop (.imm n) => some [0x0B, 0, 0, 0, 0, n, 0, 0]
  | .mend tgt => some [0x0C, 0, 0, 0, 0, 0, tgt, 0]
  | .mwait n => some [0x0D, 0, 0, 0, 0, n, 0, 0]
  | .msync => some [0x0E, 0, 0, 0, 0, 0, 0, 0]
  | .mret => some [0x0F, 0, 0, 0, 0, 0, 0, 0]
  | _ => none

/-- The fields of an administrative item (R352, R445, R470). -/
def adminFields : Instr → Option (List Nat)
  | .create ctx w pol root save len tag =>
    some [1, 0, 1, 0, ctx, ofBit w, pol, 0, 0, 0, root, save, len, 0, tag, 0]
  | .destroy ctx tag => some [1, 0, 2, 0, ctx, 0, 0, 0, 0, 0, 0, 0, 0, 0, tag, 0]
  | .park ctx blob tag => some [1, 0, 3, 0, ctx, 0, 0, 0, 0, 0, blob, 0, 0, 0, tag, 0]
  | .unpark ctx blob tag => some [1, 0, 4, 0, ctx, 0, 0, 0, 0, 0, blob, 0, 0, 0, tag, 0]
  | .relock tag => some [1, 0, 5, 0, 0, 0, 0, 0, 0, 0, 0, 0, 0, 0, tag, 0]
  | .force ctx on tag => some [1, 0, 6, 0, ctx, ofBit on, 0, 0, 0, 0, 0, 0, 0, 0, tag, 0]
  | .map m => some [1, 0, 7, 0, m.ctx, m.size, m.state, m.perm, m.wreg, 0, m.va, m.pa, m.count, 0, m.tag, 0]
  | .unmap ctx size va count tag => some [1, 0, 8, 0, ctx, size, 0, 0, 0, 0, va, 0, count, 0, tag, 0]
  | .migrate ctx size va pa tag => some [1, 0, 9, 0, ctx, size, 0, 0, 0, 0, va, pa, 0, 0, tag, 0]
  | .wreg ctx region delta tag => some [1, 0, 10, 0, ctx, 0, 0, 0, region, 0, 0, delta, 0, 0, tag, 0]
  | .wbegin ctx region tag => some [1, 0, 11, 0, ctx, 0, 0, 0, region, 0, 0, 0, 0, 0, tag, 0]
  | .wpage ctx region va src count tag =>
    some [1, 0, 12, 0, ctx, 0, 0, 0, region, 0, va, src, count, 0, tag, 0]
  | .wcommit ctx region tag => some [1, 0, 13, 0, ctx, 0, 0, 0, region, 0, 0, 0, 0, 0, tag, 0]
  | .wabort ctx region tag => some [1, 0, 14, 0, ctx, 0, 0, 0, region, 0, 0, 0, 0, 0, tag, 0]
  | .ckcfg ctx base len tag => some [1, 0, 15, 0, ctx, 0, 0, 0, 0, 0, base, 0, len, 0, tag, 0]
  | .epwin ctx w en dest ring tag =>
    some [1, 0, 16, 0, ctx, w, ofBit en, dest % 256, dest / 256, ring, 0, 0, 0, 0, tag, 0]
  | .epring ctx r l wake base tag => some [1, 0, 17, 0, ctx, r, l, ofBit wake, 0, 0, base, 0, 0, 0, tag, 0]
  | .cancel ctx q t tag => some [1, 0, 18, 0, ctx, q % 256, q / 256, 0, 0, 0, t, 0, 0, 0, tag, 0]
  | _ => none

/-- The header of a bundle that holds one operation, with stop set (R129). -/
def headerOf (sl : Slot) (i : Instr) : Nat := 2 ^ sl.code + 2 ^ 10 + 2 ^ 15 * i.cls

/-- The header of an empty bundle (R130). -/
def emptyHeader (stop : Bool) (gap : Nat) (swa : Bool) : Nat :=
  2 ^ 10 * ofBit stop + 2 ^ 11 * gap + 2 ^ 14 * ofBit swa

/-- The word of an instruction and its width in bits: a bundle that holds it alone and closes its group, a
micro-word, or a work item. Events have no encoding. -/
def encode (i : Instr) : Option (Nat × Nat) :=
  match i with
  | .emptyBundle stop gap swa => some (512, emptyHeader stop gap swa)
  | _ =>
    match slotFields i with
    | some (sl, lay, fs) => some (512, headerOf sl i + 2 ^ sl.base * pack lay fs)
    | none =>
      match microFields i with
      | some fs => some (128, pack layM fs)
      | none =>
        match adminFields i with
        | some fs => some (1024, pack layItem fs)
        | none => none

/-! ### Words as the opcode table numbers them -/

/-- The instruction of a bundle that is empty or holds one operation. -/
def singleOp (b : Bundle) : Option Instr :=
  match b.ops with
  | [] => some (.emptyBundle b.stop b.gap b.swa)
  | [(_, i)] => some i
  | _ => none

/-- The decoder on one instruction: 512 bits or fewer but more than 128 are a bundle, 128 or fewer a micro-word,
more than 512 a work item. The strand is taken to own the array. -/
def decodeTableWord (nbits w : Nat) : Option Instr :=
  if nbits ≤ 128 then decodeMicro w
  else if nbits ≤ 512 then
    match decodeBundle true w with
    | .ok b => singleOp b
    | .error _ => none
  else decodeAdmin w

end Sys2Proof
end

