-- ==== Sys2Proof/Machine/Bits.lean ====
section
/-! DEFINITION. Bit fields, two's complement, byte order, the elements of a register, and sparse maps in canonical
form (R1, R82, R86, R87, R168). -/

namespace Sys2Proof.Machine

/-! ### Integers of a width -/

/-- The low `n` bits of an exact integer (R82). -/
def low (v : Int) (n : Nat) : Nat := (v % (2 ^ n : Nat)).toNat

/-- Sign extension from `n` bits. -/
def sx (n v : Nat) : Int :=
  if v % 2 ^ n < 2 ^ (n - 1) then (v % 2 ^ n : Nat) else (v % 2 ^ n : Nat) - (2 ^ n : Nat)

/-- Bits `lo + n - 1` to `lo`. -/
def field (v lo n : Nat) : Nat := v / 2 ^ lo % 2 ^ n

/-- Bit `i`. -/
def bit (v i : Nat) : Bool := v / 2 ^ i % 2 == 1

/-- `v` with bits `lo + n - 1` to `lo` replaced by the low bits of `x`. -/
def setField (v lo n x : Nat) : Nat := v % 2 ^ lo + 2 ^ lo * (x % 2 ^ n) + 2 ^ (lo + n) * (v / 2 ^ (lo + n))

/-- `v` with bit `i` set or cleared. -/
def setBit (v i : Nat) (b : Bool) : Nat := setField v i 1 (if b then 1 else 0)

def IntTy.width : IntTy → Nat
  | .s8 | .n8 => 8
  | .s16 | .n16 => 16
  | .s32 | .n32 => 32
  | .s64 | .n64 => 64

def IntTy.signed : IntTy → Bool
  | .s8 | .s16 | .s32 | .s64 => true
  | _ => false

/-- in(v) at a width and signedness (R168, R223). -/
def inInt (signed : Bool) (n v : Nat) : Int := if signed then sx n v else (v % 2 ^ n : Nat)

/-- in(v) of the S slot (R168). -/
def IntTy.read (t : IntTy) (v : Nat) : Int := inInt (IntTy.signed t) (IntTy.width t) v

/-- low(in(low(v, N)), 64): how an S-slot result arrives in its register (R168). -/
def IntTy.result (t : IntTy) (v : Int) : Nat := low (IntTy.read t (low v (IntTy.width t))) 64

/-- The bounds of an integer type (R82). -/
def intMin (signed : Bool) (n : Nat) : Int := if signed then -((2 ^ (n - 1) : Nat) : Int) else 0
def intMax (signed : Bool) (n : Nat) : Int := if signed then (2 ^ (n - 1) : Nat) - 1 else (2 ^ n : Nat) - 1

/-- Clamped to bounds, with a mark where it had to be. -/
def clampTo (v lo hi : Int) : Int × Bool :=
  if v < lo then (lo, true) else if hi < v then (hi, true) else (v, false)

/-- Ones in the low `n` bits. -/
def popCount (v : Nat) : Nat → Nat
  | 0 => 0
  | n + 1 => (if bit v n then 1 else 0) + popCount v n

/-- Number of significant bits. -/
def bitLen (n : Nat) : Nat := if n = 0 then 0 else Nat.log2 n + 1

/-- Leading zeros of the low `n` bits (R169). -/
def leadingZeros (v n : Nat) : Nat := n - bitLen (v % 2 ^ n)

/-- Trailing zeros of the low `n` bits (R169). -/
def trailingZeros (v n : Nat) : Nat := if v % 2 ^ n = 0 then n else lowBit v n

/-- The lowest set bit of an eight-bit mask, or 8. -/
def lowGroup (m : Nat) : Nat := lowBit m 8

/-- The lanegroups of a mask, ascending. -/
def groups (m : Nat) : List Nat := (List.range 8).filter fun g => bit m g

/-! ### Elements and bytes -/

/-- The first `n` elements of `w` bits, from the least significant (R87). -/
def elems (w : Nat) (v : Nat) : Nat → List Nat
  | 0 => []
  | n + 1 => v % 2 ^ w :: elems w (v / 2 ^ w) n

/-- The word whose elements of `w` bits these are (R87). -/
def ofElems (w : Nat) : List Nat → Nat
  | [] => 0
  | x :: xs => x % 2 ^ w + 2 ^ w * ofElems w xs

/-- Element `i` of `w` bits. -/
def elem (w v i : Nat) : Nat := v / 2 ^ (w * i) % 2 ^ w

/-- The bytes of a little-endian word (R1). -/
def toBytes (v n : Nat) : List Byte := (elems 8 v n).map (BitVec.ofNat 8)

/-- The little-endian word of some bytes (R1). -/
def ofBytes (bs : List Byte) : Nat := ofElems 8 (bs.map BitVec.toNat)

/-- A mask of `n` ones. -/
def ones (n : Nat) : Nat := 2 ^ n - 1

/-- Each bit of `m` repeated `w` times. -/
def spread (w m : Nat) (n : Nat) : Nat := ofElems w ((List.range n).map fun i => if bit m i then ones w else 0)

/-! ### Sparse maps

A map is a list of keys and values, keys rising, where a key that is not listed has the map's default value. -/

/-- A sparse map. -/
abbrev SMap (α : Type) := List (Nat × α)

/-- The entry of a key. -/
def SMap.find {α : Type} : SMap α → Nat → Option α
  | [], _ => none
  | (a, v) :: m, k => if a = k then some v else SMap.find m k

/-- The value at a key, or the default. -/
def SMap.get {α : Type} (m : SMap α) (k : Nat) (d : α) : α := (SMap.find m k).getD d

/-- The map without a key. -/
def SMap.erase {α : Type} : SMap α → Nat → SMap α
  | [], _ => []
  | (a, v) :: m, k => if a = k then SMap.erase m k else (a, v) :: SMap.erase m k

/-- The map with an entry, keys rising. -/
def SMap.insert {α : Type} : SMap α → Nat → α → SMap α
  | [], k, v => [(k, v)]
  | (a, w) :: m, k, v =>
    if k < a then (k, v) :: (a, w) :: m else if a = k then (k, v) :: m else (a, w) :: SMap.insert m k v

/-- The map with a value, which is not listed where it is the default. -/
def SMap.put {α : Type} [DecidableEq α] (m : SMap α) (k : Nat) (v d : α) : SMap α :=
  if v = d then SMap.erase m k else SMap.insert m k v

/-- Keys rise strictly and no listed value is the default. -/
def SMap.wf {α : Type} [DecidableEq α] (d : α) : SMap α → Bool
  | [] => true
  | [(_, v)] => v != d
  | (a, v) :: (b, w) :: m => v != d && decide (a < b) && SMap.wf d ((b, w) :: m)

/-- The keys of a map. -/
def SMap.keys {α : Type} (m : SMap α) : List Nat := m.map (·.1)

end Sys2Proof.Machine
end

