-- ==== Sys2Proof/Machine/Crypto.lean ====
section
/-! DEFINITION. SHA3-256 and SHAKE (R334, R338), AES-256, AES-256-GCM (R333, R345) and AES-256-XTS (R326, R330), as their standards lay them down. -/

namespace Sys2Proof.Machine

/-! ### SHA3-256 -/

/-- The sponge's state is 25 lanes of 64 bits; lane (x, y), coordinates modulo 5, stands at place x + 5y. -/
abbrev Lanes : Type := List (BitVec 64)
def Lanes.lane (a : Lanes) (x y : Nat) : BitVec 64 := (a[x % 5 + 5 * (y % 5)]?).getD 0
def Lanes.of (f : Nat → Nat → BitVec 64) : Lanes := (List.range 5).flatMap fun y => (List.range 5).map fun x => f x y

/-- θ: each lane takes the parities of two neighbouring columns. -/
def Lanes.theta (a : Lanes) : Lanes :=
  let column := fun (x : Nat) => (List.range 5).foldl (fun p y => p ^^^ a.lane x y) 0
  let parity := (List.range 5).map column
  let p := fun (x : Nat) => (parity[x % 5]?).getD 0
  Lanes.of fun x y => a.lane x y ^^^ p (x + 4) ^^^ (p (x + 1)).rotateLeft 1

/-- ρ and π as one walk through all lanes but (0, 0): the lane met at step t, from (1, 0) on, is turned by t (t + 1) / 2 and goes to the
place of the next. -/
def Lanes.walk (a : Lanes) : Nat → Nat → Nat → Nat → Lanes → Lanes
  | 0, _, _, _, out => out
  | n + 1, t, x, y, out =>
    let y' := (2 * x + 3 * y) % 5
    a.walk n (t + 1) y y' (out.set (y + 5 * y') ((a.lane x y).rotateLeft (t * (t + 1) / 2 % 64)))

/-- χ: each lane is changed where the next in its row is 0 and the one after that is 1. -/
def Lanes.chi (a : Lanes) : Lanes := Lanes.of fun x y => a.lane x y ^^^ (a.lane (x + 2) y &&& ~~~a.lane (x + 1) y)

/-- One step of the shift register, of polynomial x^8 + x^6 + x^5 + x^4 + 1, that the round constants come from. -/
def spongeStep (r : Nat) : Nat := if r < 128 then 2 * r else (2 * r) ^^^ 0x171

/-- A round constant from the register's state: its outputs are the bits at 2^j - 1, j from 0 to 6. -/
def spongeConst : List Nat → Nat → BitVec 64 × Nat
  | [], r => (0, r)
  | j :: js, r =>
    let rest := spongeConst js (spongeStep r)
    (if bit r 0 then rest.1 ^^^ 1 <<< (2 ^ j - 1) else rest.1, rest.2)

/-- Some rounds of the permutation, with the register's state. -/
def Lanes.rounds : Nat → Nat → Lanes → Lanes
  | 0, _, a => a
  | n + 1, r, a =>
    let c := spongeConst (List.range 7) r
    let b := (a.theta.walk 24 1 1 0 a.theta).chi
    Lanes.rounds n c.2 (b.set 0 (b.lane 0 0 ^^^ c.1))

/-- Blocks of `rate` bytes taken in one by one, each added to as many lanes, from the first on, before the 24 rounds. -/
def Lanes.absorb (rate : Nat) : Nat → Lanes → List Byte → Lanes
  | 0, a, _ => a
  | n + 1, a, bs =>
    let word := fun (x y : Nat) => if x + 5 * y < rate / 8 then BitVec.ofNat 64 (ofBytes ((bs.drop (8 * (x + 5 * y))).take 8)) else 0
    Lanes.absorb rate n (Lanes.rounds 24 1 (Lanes.of fun x y => a.lane x y ^^^ word x y)) (bs.drop rate)

/-- Blocks of `rate` bytes given out one by one, the 24 rounds between them. -/
def Lanes.squeeze (rate : Nat) : Nat → Lanes → List Byte
  | 0, _ => []
  | n + 1, a => ((a.take (rate / 8)).flatMap fun l => toBytes l.toNat 8) ++ Lanes.squeeze rate n (Lanes.rounds 24 1 a)

/-- The first `n` bytes that a message gives under a rate and the bits that end it, which a 1, zeros and a 1 up to a whole block follow. -/
def sponge (rate suffix n : Nat) (bs : List Byte) : List Byte :=
  let pad := rate - bs.length % rate
  let a := Lanes.absorb rate (bs.length / rate + 1) (Lanes.of fun _ _ => 0) (bs ++ toBytes (suffix + 2 ^ (8 * pad - 1)) pad)
  (Lanes.squeeze rate ((n + rate - 1) / rate) a).take n

/-- SHA3-256: the message ends with the bits 01. SHAKE128 and SHAKE256: it ends with 1111, and the output is as long as is asked for. -/
def sha3 (bs : List Byte) : List Byte := sponge 136 6 32 bs
def shake128 (n : Nat) (bs : List Byte) : List Byte := sponge 168 0x1F n bs
def shake256 (n : Nat) (bs : List Byte) : List Byte := sponge 136 0x1F n bs

/-! ### AES-256 -/

/-- The S-box: the row of the high hexadecimal digit, its byte of the low one. -/
def aesRows : List Nat :=
  [0x76ABD7FE2B670130C56F6BF27B777C63, 0xC072A49CAFA2D4ADF04759FA7DC982CA,
   0x1531D871F1E5A534CCF73F362693FDB7, 0x75B227EBE28012079A059618C323C704,
   0x842FE329B3D63B52A05A6E1B1A2C8309, 0xCF584C4A39BECB6A5BB1FC20ED00D153,
   0xA89F3C507F02F94585334D43FBAAEFD0, 0xD2F3FF1021DAB6BCF5389D928F40A351,
   0x73195D643D7EA7C41744975FEC130CCD, 0xDB0B5EDE14B8EE4688902A22DC4F8160,
   0x79E4959162ACD3C25C2406490A3A32E0, 0x08AE7A65EAF4566CA94ED58D6D37C8E7,
   0x8A8BBD4B1F74DDE8C6B4A61C2E2578BA, 0x9E1DC186B95735610EF6034866B53E70,
   0xDF2855CEE9871E9B948ED9691198F8E1, 0x16BB54B00F2D99416842E6BF0D89A18C]
def aesSub (a : Byte) : Byte := BitVec.ofNat 8 ((aesRows[a.toNat / 16]?).getD 0 / 2 ^ (8 * (a.toNat % 16)))

/-- Multiplication by x in GF(2^8). -/
def aesX2 (a : Byte) : Byte := BitVec.ofNat 8 (if a.toNat < 128 then 2 * a.toNat else (2 * a.toNat) ^^^ 0x11B)

/-- Element of a byte list, 0 past its end. -/
def at8 (l : List Byte) (i : Nat) : Byte := (l[i]?).getD 0
/-- Two byte lists added. -/
def xorBytes (a b : List Byte) : List Byte := List.zipWith (· ^^^ ·) a b

/-- `n` further words of the key schedule; `rev` holds the words so far, the last first, `i` how many. -/
def aesExpand : Nat → Nat → Byte → List (List Byte) → List (List Byte)
  | 0, _, _, rev => rev.reverse
  | n + 1, i, rc, rev =>
    let prev := (rev[0]?).getD []
    let back := (rev[7]?).getD []
    let t := if i % 8 = 0 then
        (match (prev.drop 1 ++ prev.take 1).map aesSub with
         | x :: l => (x ^^^ rc) :: l
         | [] => [])
      else if i % 8 = 4 then prev.map aesSub else prev
    aesExpand n (i + 1) (if i % 8 = 0 then aesX2 rc else rc) (xorBytes back t :: rev)

/-- The fifteen round keys of a 32-byte key. -/
def aesKeys (key : List Byte) : List (List Byte) :=
  let ws := aesExpand 52 8 1 ((List.range 8).map fun i => (key.drop (4 * i)).take 4).reverse
  (List.range 15).map fun r => ((ws.drop (4 * r)).take 4).flatten

/-- ShiftRows: byte r + 4c comes from column c + r. -/
def aesShift (s : List Byte) : List Byte := (List.range 16).map fun i => at8 s (i % 4 + 4 * ((i / 4 + i % 4) % 4))

/-- MixColumns. -/
def aesMix (s : List Byte) : List Byte :=
  (List.range 16).map fun i =>
    let c := 4 * (i / 4)
    let b := fun k => at8 s (c + (i + k) % 4)
    aesX2 (b 0) ^^^ aesX2 (b 1) ^^^ b 1 ^^^ b 2 ^^^ b 3

/-- One block under a key schedule. -/
def aesBlock (keys : List (List Byte)) (blk : List Byte) : List Byte :=
  let k := fun r => (keys[r]?).getD []
  let mid := (List.range 13).foldl (fun s r => xorBytes (aesMix (aesShift (s.map aesSub))) (k (r + 1))) (xorBytes blk (k 0))
  xorBytes (aesShift (mid.map aesSub)) (k 14)

/-- The S-box backwards. -/
def aesUnsub (b : Byte) : Byte := BitVec.ofNat 8 (((List.range 256).find? fun i => aesSub (BitVec.ofNat 8 i) == b).getD 0)
/-- ShiftRows backwards: byte r + 4c comes from column c - r. -/
def aesUnshift (s : List Byte) : List Byte := (List.range 16).map fun i => at8 s (i % 4 + 4 * ((i / 4 + 4 - i % 4) % 4))
/-- MixColumns backwards: the matrix of 14, 11, 13 and 9. -/
def aesUnmix (s : List Byte) : List Byte :=
  (List.range 16).map fun i =>
    let b := fun k => at8 s (4 * (i / 4) + (i + k) % 4)
    let x8 := aesX2 (aesX2 (aesX2 (b 0 ^^^ b 1 ^^^ b 2 ^^^ b 3)))
    x8 ^^^ aesX2 (aesX2 (b 0 ^^^ b 2)) ^^^ aesX2 (b 0 ^^^ b 1) ^^^ b 1 ^^^ b 2 ^^^ b 3
/-- One block opened under a key schedule. -/
def aesUnblock (keys : List (List Byte)) (blk : List Byte) : List Byte :=
  let k := fun r => (keys[r]?).getD []
  let back := fun (s : List Byte) => (aesUnshift s).map aesUnsub
  let mid := (List.range 13).foldl (fun s r => back (aesUnmix (xorBytes s (k (13 - r))))) (back (xorBytes blk (k 14)))
  xorBytes mid (k 0)

/-! ### AES-256-XTS (R326, R330, R331) -/

/-- The next block's tweak: multiplication by x in GF(2^128), little-endian. -/
def xtsNext (t : Nat) : Nat := if t < 2 ^ 127 then 2 * t else (2 * t) % 2 ^ 128 ^^^ 0x87

/-- `n` blocks of a data unit, each with its tweak added before and after the cipher. -/
def xtsBlocks (f : List Byte → List Byte) : Nat → Nat → List Byte → List Byte
  | 0, _, _ => []
  | n + 1, t, bs =>
    let tw := toBytes t 16
    xorBytes (f (xorBytes (bs.take 16) tw)) tw ++ xtsBlocks f n (xtsNext t) (bs.drop 16)

/-- A data unit of whole blocks under a key pair, sealed or opened; the second key makes the tweak. -/
def xtsUnit (f : List (List Byte) → List Byte → List Byte) (pair : List Byte × List Byte) (tweak : Nat) (bs : List Byte) : List Byte :=
  xtsBlocks (f (aesKeys pair.1)) (bs.length / 16) (ofBytes (aesBlock (aesKeys pair.2) (toBytes tweak 16))) bs
def xtsSeal (pair : List Byte × List Byte) (tweak : Nat) (bs : List Byte) : List Byte := xtsUnit aesBlock pair tweak bs
def xtsOpen (pair : List Byte × List Byte) (tweak : Nat) (bs : List Byte) : List Byte := xtsUnit aesUnblock pair tweak bs

/-! ### AES-256-GCM -/

/-- Multiplication in GF(2^128), bits in GCM's order: bit 0 is the most significant. -/
def gf128 (v y : BitVec 128) : Nat → BitVec 128
  | 0 => 0
  | n + 1 => (if y.getMsbD 0 then v else 0) ^^^
      gf128 (if v.getLsbD 0 then (v >>> 1) ^^^ 0xE1000000000000000000000000000000 else v >>> 1) (y <<< 1) n

/-- Sixteen bytes as a big-endian block, and back. -/
def beBlock (bs : List Byte) : BitVec 128 := BitVec.ofNat 128 (ofBytes (bs ++ List.replicate (16 - bs.length) 0).reverse)
def blockBytesBe (b : BitVec 128) : List Byte := (toBytes b.toNat 16).reverse
/-- A number as `n` big-endian bytes. -/
def beBytes (v n : Nat) : List Byte := (toBytes v n).reverse

/-- GHASH over `n` blocks. -/
def ghash (h : BitVec 128) : Nat → BitVec 128 → List Byte → BitVec 128
  | 0, y, _ => y
  | n + 1, y, bs => ghash h n (gf128 h (y ^^^ beBlock (bs.take 16)) 128) (bs.drop 16)

/-- Counter mode from a counter value. -/
def gctr (keys : List (List Byte)) (iv : List Byte) : Nat → Nat → List Byte → List Byte
  | 0, _, _ => []
  | n + 1, ctr, bs => xorBytes (bs.take 16) (aesBlock keys (iv ++ beBytes ctr 4)) ++ gctr keys iv n (ctr + 1) (bs.drop 16)

/-- Bytes padded to whole blocks. -/
def padBlock (bs : List Byte) : List Byte := bs ++ List.replicate ((16 - bs.length % 16) % 16) 0

/-- The tag of a ciphertext (16 bytes). -/
def gcmTag (keys : List (List Byte)) (iv aad c : List Byte) : List Byte :=
  let h := beBlock (aesBlock keys (List.replicate 16 0))
  let m := padBlock aad ++ padBlock c ++ beBytes (8 * aad.length) 8 ++ beBytes (8 * c.length) 8
  xorBytes (blockBytesBe (ghash h (m.length / 16) 0 m)) (aesBlock keys (iv ++ beBytes 1 4))

/-- A plaintext sealed under a 12-byte IV: ciphertext and tag. -/
def gcmSeal (key iv aad p : List Byte) : List Byte × List Byte :=
  let keys := aesKeys key
  let c := gctr keys iv ((p.length + 15) / 16) 2 p
  (c, gcmTag keys iv aad c)

/-- A ciphertext opened, if its tag is right. -/
def gcmOpen (key iv aad c tag : List Byte) : Option (List Byte) :=
  let keys := aesKeys key
  if gcmTag keys iv aad c = tag then some (gctr keys iv ((c.length + 15) / 16) 2 c) else none

/-- The 32 bytes of a key held as a number. -/
def keyBytes (k : Nat) : List Byte := toBytes k 32

/-! ### AES key wrap with padding (R327) -/

/-- One step of the wrap: the register `a`, the semiblocks to come and those done. -/
def wrapPass (keys : List (List Byte)) : Nat → List Byte → List (List Byte) → List Byte × List (List Byte)
  | _, a, [] => (a, [])
  | t, a, r :: rs =>
    let b := aesBlock keys (a ++ r)
    let (a', l) := wrapPass keys (t + 1) (xorBytes (b.take 8) (beBytes t 8)) rs
    (a', b.drop 8 :: l)

/-- The wrap of a text of whole semiblocks under a 32-byte key. -/
def keyWrap (key p : List Byte) : List Byte :=
  let keys := aesKeys key
  let n := p.length / 8
  let r := (List.range n).map fun i => (p.drop (8 * i)).take 8
  let start : List Byte × List (List Byte) := ([0xA6, 0x59, 0x59, 0xA6] ++ beBytes p.length 4, r)
  let e := (List.range 6).foldl (fun e j => wrapPass keys (n * j + 1) e.1 e.2) start
  e.1 ++ e.2.flatten

/-! ### Measurement chains (R334, R335) -/

/-- A number as little-endian bytes (R1). -/
def le (v n : Nat) : List Byte := toBytes v n

/-- X ← SHA3-256(X ∥ τ ∥ le64(|d|) ∥ SHA3-256(d)), from the length and the digest of d. -/
def extendDigest (x : List Byte) (tag : Nat) (len : Nat) (digest : List Byte) : List Byte :=
  sha3 (x ++ le tag 1 ++ le len 8 ++ digest)

/-- A chain value extended with data (R334). -/
def extendChain (x : List Byte) (tag : Nat) (d : List Byte) : List Byte := extendDigest x tag d.length (sha3 d)

/-! ### The keys of worlds (R326, R330) -/

/-- The 32 bytes of a key that the security controller holds (free values, log 12). -/
def secretKey (n : Nat) : List Byte := toBytes (Config.randomBits n).toNat 32
/-- The instruction key and the data key of a world, a pair each (R326). -/
def instructionKey (key : Nat) : List Byte × List Byte := (secretKey (2 ^ 81 + 4 * key), secretKey (2 ^ 81 + 4 * key + 1))
def dataKey (key : Nat) : List Byte × List Byte := (secretKey (2 ^ 81 + 4 * key + 2), secretKey (2 ^ 81 + 4 * key + 3))
/-- The tweak of a bundle (region 0) or a micro-word (region 1) in its memory (R331). -/
def codeTweak (loadId region index : Nat) : Nat := loadId % 2 ^ 64 * 2 ^ 64 + region * 2 ^ 56 + index

/-- A bundle (64 bytes) or a micro-word (16) as a load leaves it and as it is opened, under the instruction key of a world; key 0 stands for
none (R331). -/
def sealCode (key tweak n w : Nat) : Nat := if key = 0 then w else ofBytes (xtsSeal (instructionKey key) tweak (toBytes w n))
def openCode (key tweak n w : Nat) : Nat := if key = 0 then w else ofBytes (xtsOpen (instructionKey key) tweak (toBytes w n))

end Sys2Proof.Machine
end

