-- ==== Sys2Proof/Machine/Float.lean ====
section
/-! DEFINITION. Number formats: what a pattern means, how an exact real becomes one, conversions, the block-scaled
formats and bit planes (R72 to R102). An exact real is a dyadic rational `m * 2 ^ e`. -/

namespace Sys2Proof.Machine

/-! ### Flags (R69) -/

def flNV : Nat := 1
def flDZ : Nat := 2
def flOF : Nat := 4
def flUF : Nat := 8
def flNX : Nat := 16
def flSA : Nat := 32

/-- The flags of two results together. -/
def flOr (a b : Nat) : Nat := a ||| b

/-- The flags of several results together. -/
def flAll (l : List Nat) : Nat := l.foldl flOr 0

/-! ### Formats (R72 to R75, R89) -/

/-- A floating-point format: exponent and mantissa bits, bias, largest finite magnitude pattern. -/
structure FFmt where
  ebits : Nat
  mbits : Nat
  bias : Nat
  maxPat : Nat
  hasInf : Bool
  qnan : Nat
  deriving DecidableEq, Repr

def fmtF64 : FFmt := ⟨11, 52, 1023, 0x7FEFFFFFFFFFFFFF, true, 0x7FF8000000000000⟩
def fmtF32 : FFmt := ⟨8, 23, 127, 0x7F7FFFFF, true, 0x7FC00000⟩
def fmtBf16 : FFmt := ⟨8, 7, 127, 0x7F7F, true, 0x7FC0⟩
def fmtF16 : FFmt := ⟨5, 10, 15, 0x7BFF, true, 0x7E00⟩
def fmtE4m3 : FFmt := ⟨4, 3, 7, 0x7E, false, 0x7F⟩
def fmtE5m2 : FFmt := ⟨5, 2, 15, 0x7B, true, 0x7E⟩
def fmtE2m3 : FFmt := ⟨2, 3, 1, 0x1F, false, 0⟩
def fmtE2m1 : FFmt := ⟨2, 1, 1, 0x7, false, 0⟩

/-- The floating-point format of an element type (R72, R89). -/
def floatFmt : ElemType → Option FFmt
  | .f64 => some fmtF64
  | .f32 => some fmtF32
  | .bf16 => some fmtBf16
  | .f16 => some fmtF16
  | .e4m3 | .mxf8 => some fmtE4m3
  | .e5m2 => some fmtE5m2
  | .mxf6 => some fmtE2m3
  | .mxf4 => some fmtE2m1
  | _ => none

/-- The width of a format. -/
def FFmt.width (f : FFmt) : Nat := 1 + f.ebits + f.mbits

/-- What a floating-point pattern stands for: `fin s m e` is `(-1)^s * m * 2^e`, zero included. -/
inductive FVal where
  | nan (signalling : Bool)
  | inf (neg : Bool)
  | fin (neg : Bool) (m : Nat) (e : Int)
  deriving DecidableEq, Repr

/-- R73 to R75. -/
def decodeF (f : FFmt) (p : Nat) : FVal :=
  let m := p % 2 ^ f.mbits
  let e := p / 2 ^ f.mbits % 2 ^ f.ebits
  let s := bit p (f.ebits + f.mbits)
  if f.hasInf ∧ e = 2 ^ f.ebits - 1 then
    if m = 0 then .inf s else .nan (m < 2 ^ (f.mbits - 1))
  else if f.maxPat < p % 2 ^ (f.ebits + f.mbits) then .nan false
  else if e = 0 then .fin s m (1 - f.bias - f.mbits)
  else .fin s (2 ^ f.mbits + m) (e - f.bias - f.mbits)

/-- An exact dyadic rational `m * 2^e`. -/
structure Dy where
  m : Int
  e : Int
  deriving DecidableEq, Repr

def dyZero : Dy := ⟨0, 0⟩

/-- Both mantissas at the lesser exponent. -/
def Dy.align (a b : Dy) : Int × Int × Int :=
  if a.e ≤ b.e then (a.m, b.m * (2 ^ (b.e - a.e).toNat : Nat), a.e)
  else (a.m * (2 ^ (a.e - b.e).toNat : Nat), b.m, b.e)

def Dy.add (a b : Dy) : Dy :=
  let (x, y, e) := Dy.align a b
  ⟨x + y, e⟩

def Dy.neg (a : Dy) : Dy := ⟨-a.m, a.e⟩
def Dy.sub (a b : Dy) : Dy := Dy.add a (Dy.neg b)
def Dy.mul (a b : Dy) : Dy := ⟨a.m * b.m, a.e + b.e⟩
def Dy.scale (a : Dy) (k : Int) : Dy := ⟨a.m, a.e + k⟩
def Dy.ofInt (n : Int) : Dy := ⟨n, 0⟩
def Dy.isZero (a : Dy) : Bool := a.m == 0
def Dy.abs (a : Dy) : Dy := ⟨a.m.natAbs, a.e⟩

def Dy.lt (a b : Dy) : Bool :=
  let (x, y, _) := Dy.align a b
  decide (x < y)

def Dy.le (a b : Dy) : Bool := !Dy.lt b a
def Dy.eq (a b : Dy) : Bool :=
  let (x, y, _) := Dy.align a b
  x == y

def Dy.max (a b : Dy) : Dy := if Dy.lt a b then b else a
def Dy.min (a b : Dy) : Dy := if Dy.lt b a then b else a
def Dy.sum (l : List Dy) : Dy := l.foldl Dy.add dyZero

/-- floor(log2 |a|) of a nonzero value. -/
def Dy.log2 (a : Dy) : Int := a.e + (Nat.log2 a.m.natAbs : Int)

/-- The finite value of a pattern. -/
def FVal.toDy : FVal → Dy
  | .fin s m e => ⟨if s then -(m : Int) else m, e⟩
  | _ => dyZero

def FVal.isNaN : FVal → Bool
  | .nan _ => true
  | _ => false

def FVal.isSig : FVal → Bool
  | .nan s => s
  | _ => false

def FVal.isInf : FVal → Bool
  | .inf _ => true
  | _ => false

def FVal.isZero : FVal → Bool
  | .fin _ m _ => m == 0
  | _ => false

def FVal.neg : FVal → Bool
  | .nan _ => false
  | .inf s => s
  | .fin s _ _ => s

/-- The same value with the other sign. -/
def FVal.flip : FVal → FVal
  | .nan s => .nan s
  | .inf s => .inf (!s)
  | .fin s m e => .fin (!s) m e

/-! ### Rounding (R77 to R79) -/

/-- Rounding modes (R66, R77). -/
inductive RMode where
  | rne | rz | rp | rm | ra
  deriving DecidableEq, Repr

/-- FMT.RM as a mode; 4 counts as nearest-even but for conversions (R66). -/
def RMode.ofRM (n : Nat) (conversion : Bool) : RMode :=
  match n with
  | 1 => .rz
  | 2 => .rp
  | 3 => .rm
  | 4 => if conversion then .ra else .rne
  | _ => .rne

/-- Whether a magnitude with quotient `q` and remainder `r` of `2 ^ k` rounds away from zero. -/
def roundUp (md : RMode) (neg : Bool) (q r k : Nat) : Bool :=
  match md with
  | .rne => decide (2 ^ k < 2 * r) || (decide (2 * r = 2 ^ k) && q % 2 == 1)
  | .rz => false
  | .rp => !neg && r != 0
  | .rm => neg && r != 0
  | .ra => decide (2 ^ k ≤ 2 * r)

/-- `m * 2 ^ e` as a multiple of `2 ^ q`, rounded, with a mark where it is inexact. -/
def roundAt (md : RMode) (neg : Bool) (m : Nat) (e q : Int) : Nat × Bool :=
  if q ≤ e then (m * 2 ^ (e - q).toNat, false)
  else
    let k := (q - e).toNat
    (m / 2 ^ k + (if roundUp md neg (m / 2 ^ k) (m % 2 ^ k) k then 1 else 0), m % 2 ^ k != 0)

/-- The magnitude pattern of `n * 2 ^ q` with `n` of at most `mbits + 1` bits and `q` at or above the subnormal
quantum; a carry out of the mantissa moves into the exponent. -/
def magPat (f : FFmt) (n : Nat) (q : Int) : Nat := ((q + f.mbits + f.bias - 1) * (2 ^ f.mbits : Nat) + n).toNat

/-- A magnitude pattern with its sign. -/
def withSign (f : FFmt) (neg : Bool) (p : Nat) : Nat := p + (if neg then 2 ^ (f.ebits + f.mbits) else 0)

/-- The pattern of an overflow (R78). -/
def overflowPat (f : FFmt) (md : RMode) (neg : Bool) : Nat :=
  let toInf := match md with
    | .rne | .ra => true
    | .rz => false
    | .rp => !neg
    | .rm => neg
  withSign f neg (if f.hasInf && toInf then f.maxPat + 1 else f.maxPat)

/-- A nonzero value is tiny: rounded with an unbounded exponent it lies below the smallest normal (R79). -/
def tinyDy (f : FFmt) (md : RMode) (x : Dy) : Bool :=
  let qU := x.e + (Nat.log2 x.m.natAbs : Int) - f.mbits
  x.m != 0 && (Dy.mk (roundAt md (decide (x.m < 0)) x.m.natAbs x.e qU).1 qU).lt ⟨1, 1 - f.bias⟩

/-- round(x, fmt, mode) of a nonzero or zero exact real, with its flags; `ftz` delivers a tiny result as zero
(R77 to R79, R81). A zero takes the sign `zneg`. -/
def roundDy (f : FFmt) (md : RMode) (ftz : Bool) (x : Dy) (zneg : Bool) : Nat × Nat :=
  if x.m = 0 then (withSign f zneg 0, 0)
  else
    let neg := decide (x.m < 0)
    let m := x.m.natAbs
    let top : Int := x.e + (Nat.log2 m : Int)
    let emin : Int := 1 - f.bias
    let qU := top - f.mbits
    let tiny := tinyDy f md x
    if tiny && ftz then (withSign f neg 0, flOr flUF flNX)
    else
      let q := if qU < emin - f.mbits then emin - f.mbits else qU
      let r := roundAt md neg m x.e q
      let p := magPat f r.1 q
      if f.maxPat < p then (overflowPat f md neg, flOr flOF flNX)
      else (withSign f neg p, if r.2 then (if tiny then flOr flUF flNX else flNX) else 0)

/-- The sign of an exact zero sum (R77). -/
def zeroSign (md : RMode) (a b : FVal) : Bool :=
  if a.isZero && b.isZero && a.neg == b.neg then a.neg else md == .rm

/-- A value that lies just above `m * 2^e` in magnitude, as a dyadic rational that rounds as it does. -/
def stickyDy (neg : Bool) (m : Nat) (e : Int) (sticky : Bool) : Dy :=
  let n : Nat := if sticky then m * 2 ^ 80 + 1 else m * 2 ^ 80
  ⟨if neg then -(n : Int) else n, e - 80⟩

/-! ### Operands under FMT.FTZ (R80, R81) -/

/-- An operand as read: under FTZ a subnormal .f32 reads as zero of its sign. -/
def readF (f : FFmt) (ftz : Bool) (p : Nat) : FVal :=
  match decodeF f p with
  | .fin s m e => if ftz && f == fmtF32 && decide (m < 2 ^ f.mbits) then .fin s 0 e else .fin s m e
  | v => v

/-- FTZ acts on .f32 only (R80). -/
def ftzOf (f : FFmt) (ftz : Bool) : Bool := ftz && f == fmtF32

def infPat (f : FFmt) (neg : Bool) : Nat := withSign f neg (f.maxPat + 1)

/-- The flag of a NaN operand. -/
def nanFlag (l : List FVal) : Nat := if l.any FVal.isSig then flNV else 0

/-! ### Vector arithmetic (R209 to R217) -/

/-- One exact sum `a + b`, rounded once (R209). -/
def addF (f : FFmt) (md : RMode) (ftz : Bool) (a b : FVal) : Nat × Nat :=
  if a.isNaN || b.isNaN then (f.qnan, nanFlag [a, b])
  else if a.isInf && b.isInf then
    if a.neg == b.neg then (infPat f a.neg, 0) else (f.qnan, flNV)
  else if a.isInf then (infPat f a.neg, 0)
  else if b.isInf then (infPat f b.neg, 0)
  else roundDy f md ftz (Dy.add a.toDy b.toDy) (zeroSign md a b)

/-- The exact product of two operands that are not NaN and not 0 × ∞. -/
def mulVal (a b : FVal) : FVal :=
  match a, b with
  | .fin s m e, .fin t n k => .fin (s != t) (m * n) (e + k)
  | a, b => .inf (a.neg != b.neg)

/-- 0 × ∞ (R209). -/
def badMul (a b : FVal) : Bool := (a.isZero && b.isInf) || (a.isInf && b.isZero)

def mulF (f : FFmt) (md : RMode) (ftz : Bool) (a b : FVal) : Nat × Nat :=
  if badMul a b then (f.qnan, flNV)
  else if a.isNaN || b.isNaN then (f.qnan, nanFlag [a, b])
  else
    match mulVal a b with
    | .inf s => (infPat f s, 0)
    | v => roundDy f md ftz v.toDy v.neg

/-- a·b + c with one rounding; a product 0 × ∞ is invalid whatever c is (R209). -/
def fmaF (f : FFmt) (md : RMode) (ftz : Bool) (a b c : FVal) : Nat × Nat :=
  if badMul a b then (f.qnan, flNV)
  else if a.isNaN || b.isNaN || c.isNaN then (f.qnan, nanFlag [a, b, c])
  else addF f md ftz (mulVal a b) c

/-- Less than among values that are not NaN, −0 below +0 (R211). -/
def orderedLt (a b : FVal) : Bool :=
  match a, b with
  | .inf s, .inf t => s && !t
  | .inf s, _ => s
  | _, .inf t => !t
  | a, b => if a.isZero && b.isZero then a.neg && !b.neg else Dy.lt a.toDy b.toDy

/-- Equality among values that are not NaN, zeros alike (R212). -/
def orderedEq (a b : FVal) : Bool :=
  match a, b with
  | .inf s, .inf t => s == t
  | .inf _, _ => false
  | _, .inf _ => false
  | a, b => Dy.eq a.toDy b.toDy

/-- The pattern of a value as read: a flushed subnormal is a zero of its sign. -/
def patOf (f : FFmt) (v : FVal) (p : Nat) : Nat := if v.isZero then withSign f v.neg 0 else p

/-- `fmin` (R211): the lesser operand as read, a single NaN ignored. -/
def minF (f : FFmt) (ftz : Bool) (p q : Nat) : Nat × Nat :=
  let a := readF f ftz p
  let b := readF f ftz q
  (if a.isNaN && b.isNaN then f.qnan
   else if a.isNaN then patOf f b q
   else if b.isNaN then patOf f a p
   else if orderedLt b a then patOf f b q else patOf f a p, nanFlag [a, b])

/-- `fmax` (R211). -/
def maxF (f : FFmt) (ftz : Bool) (p q : Nat) : Nat × Nat :=
  let a := readF f ftz p
  let b := readF f ftz q
  (if a.isNaN && b.isNaN then f.qnan
   else if a.isNaN then patOf f b q
   else if b.isNaN then patOf f a p
   else if orderedLt a b then patOf f b q else patOf f a p, nanFlag [a, b])

/-- `fcmp` (R212). -/
def cmpF (f : FFmt) (ftz : Bool) (c : FCond) (p q : Nat) : Bool × Nat :=
  let a := readF f ftz p
  let b := readF f ftz q
  let un := a.isNaN || b.isNaN
  let eq := !un && orderedEq a b
  let lt := !un && !eq && orderedLt a b
  let gt := !un && !eq && !lt
  let noisy := match c with
    | .lt | .le | .gt | .ge => un
    | _ => a.isSig || b.isSig
  (match c with
   | .eq => eq
   | .ne => !eq
   | .lt => lt
   | .le => lt || eq
   | .gt => gt
   | .ge => gt || eq
   | .un => un
   | .or => !un, if noisy then flNV else 0)

/-- The class of a pattern, a bit number of R213. -/
def classF (f : FFmt) (p : Nat) : Nat :=
  match decodeF f p with
  | .nan s => if s then 0 else 1
  | .inf s => if s then 2 else 9
  | .fin s m _ =>
    if m = 0 then (if s then 5 else 6)
    else if m < 2 ^ f.mbits then (if s then 4 else 7)
    else if s then 3 else 8

/-- Integer square root by bits, from bit `k` down. -/
def isqrtFrom (n : Nat) : Nat → Nat → Nat
  | 0, r => if (r + 1) * (r + 1) ≤ n then r + 1 else r
  | k + 1, r => isqrtFrom n k (if (r + 2 ^ (k + 1)) * (r + 2 ^ (k + 1)) ≤ n then r + 2 ^ (k + 1) else r)

/-- floor(√n). -/
def isqrt (n : Nat) : Nat := isqrtFrom n (bitLen n / 2 + 1) 0

/-- A positive dyadic rational onto 13 significant bits, nearest-even, exponent unbounded (R214). -/
def round13 (x : Dy) : Dy :=
  let q := x.log2 - 12
  ⟨(roundAt .rne false x.m.natAbs x.e q).1, q⟩

/-- 1/(m·2^e) as a dyadic rational that rounds as it does, and whether that is exact. -/
def recipDy (m : Nat) (e : Int) : Dy × Bool :=
  let k := bitLen m + 140
  (stickyDy false (2 ^ k / m) (-e - k) (2 ^ k % m != 0), 2 ^ k % m == 0)

/-- 1/√(m·2^e), likewise: √(2^k/m)·2^(−(e+k)/2) with e + k even. -/
def rsqrtDy (m : Nat) (e : Int) : Dy × Bool :=
  let k0 := bitLen m + 280
  let k := if (e + k0) % 2 = 0 then k0 else k0 + 1
  let n := 2 ^ k / m
  let r := isqrt n
  let exact := r * r * m == 2 ^ k
  (stickyDy false r (-((e + k) / 2)) (!exact), exact)

/-- A seed (R214, R215): `rsq` takes 1/√x. -/
def seedF (f : FFmt) (ftz : Bool) (rsq : Bool) (p : Nat) : Nat × Nat :=
  match readF f ftz p with
  | .nan s => (f.qnan, if s then flNV else 0)
  | .inf s => if rsq && s then (f.qnan, flNV) else (withSign f s 0, 0)
  | .fin s m e =>
    if m = 0 then (infPat f s, flDZ)
    else if rsq && s then (f.qnan, flNV)
    else
      let y := if rsq then rsqrtDy m e else recipDy m e
      let s13 := round13 y.1
      let r := roundDy f .rne (ftzOf f ftz) (if s then Dy.neg s13 else s13) s
      let huge := r.2 % 8 / 4 == 1
      let v := decodeF f r.1
      let exact := y.2 && !huge && Dy.eq v.toDy.abs y.1
      let tiny := tinyDy f .rne s13
      (r.1, flAll [if huge then flOF else 0, if exact then 0 else flNX, if tiny && !exact then flUF else 0])

/-- a · 2^k (R216). -/
def scaleF (f : FFmt) (md : RMode) (ftz : Bool) (p : Nat) (k : Int) : Nat × Nat :=
  match readF f ftz p with
  | .nan s => (f.qnan, if s then flNV else 0)
  | .inf s => (infPat f s, 0)
  | .fin s m e => roundDy f md (ftzOf f ftz) (FVal.fin s m (e + k)).toDy s

/-- The integer nearest to a dyadic rational in a mode, and whether it differs (R84, R217). -/
def roundInt (md : RMode) (x : Dy) : Int × Bool :=
  let r := roundAt md (decide (x.m < 0)) x.m.natAbs x.e 0
  (if x.m < 0 then -(r.1 : Int) else r.1, r.2)

/-- `fround` (R217). -/
def roundF (f : FFmt) (md : RMode) (ftz : Bool) (p : Nat) : Nat × Nat :=
  match readF f ftz p with
  | .nan s => (f.qnan, if s then flNV else 0)
  | .inf s => (infPat f s, 0)
  | .fin s m e =>
    let r := roundInt md (FVal.fin s m e).toDy
    ((roundDy f .rne false (Dy.ofInt r.1) s).1, if r.2 then flNX else 0)

/-! ### Conversions (R82 to R85, R218, R219) -/

/-- One element from `sty` to `ety`; `sat` is `.sat` or FMT.SAT. -/
def cvtElem (ety sty : ElemType) (md : RMode) (ftz sat : Bool) (p : Nat) : Nat × Nat :=
  match floatFmt sty, floatFmt ety with
  | some fs, some fd =>
    match readF fs ftz p with
    | .nan s => (fd.qnan, if s then flNV else 0)
    | .inf s => if fd.hasInf then (infPat fd s, 0) else (withSign fd s fd.maxPat, flOr flOF flNX)
    | .fin s m e => roundDy fd md (ftzOf fd ftz) (FVal.fin s m e).toDy s
  | some fs, none =>
    let lo := intMin ety.isSigned ety.width
    let hi := intMax ety.isSigned ety.width
    match readF fs ftz p with
    | .nan _ => (0, flNV)
    | .inf s => (low (if s then lo else hi) ety.width, flNV)
    | .fin s m e =>
      let r := roundInt md (FVal.fin s m e).toDy
      let c := clampTo r.1 lo hi
      (low c.1 ety.width, if c.2 then flNV else if r.2 then flNX else 0)
  | none, some fd => roundDy fd md false (Dy.ofInt (inInt sty.isSigned sty.width p)) false
  | none, none =>
    let v := inInt sty.isSigned sty.width p
    if sat then
      let c := clampTo v (intMin ety.isSigned ety.width) (intMax ety.isSigned ety.width)
      (low c.1 ety.width, if c.2 then flSA else 0)
    else (low v ety.width, 0)

/-! ### Block-scaled formats (R88 to R92) -/

/-- emax of the element format (R89). -/
def mxEmax : ElemType → Int
  | .mxf8 => 8
  | .mxf6 => 2
  | .mxf4 => 2
  | _ => 0

/-- One MX element as an exact value, or a NaN. -/
def mxElem (t : ElemType) (p : Nat) : FVal :=
  match floatFmt t with
  | some f => decodeF f p
  | none =>
    let n := sx 8 p
    .fin (decide (n < 0)) n.natAbs (-6)

/-- Quantises one value at scale 2^X (R91): the element's pattern and flags. -/
def mxQuant (t : ElemType) (neg : Bool) (y : Dy) : Nat × Nat :=
  match floatFmt t with
  | some f =>
    if y.m = 0 then (withSign f neg 0, 0)
    else
      let r := roundDy f .rne false y neg
      if r.2 % 8 / 4 == 1 then (r.1, flOr flSA flNX) else (r.1, if r.2 = 0 then 0 else flNX)
  | none =>
    let r := roundInt .rne (Dy.scale y 6)
    let c := clampTo r.1 (-127) 127
    (low c.1 8, flAll [if c.2 then flSA else 0, if c.2 || r.2 then flNX else 0])

/-- `mxq` on 32 source patterns of format `fs` (R91): elements, scale byte, flags. -/
def mxQuantBlock (t : ElemType) (fs : FFmt) (ftz : Bool) (src : List Nat) : List Nat × Nat × Nat :=
  let vs := src.map (readF fs ftz)
  if vs.any fun v => v.isNaN || v.isInf then (src.map fun _ => 0, 0xFF, flNV)
  else
    let amax := (vs.map fun v => v.toDy.abs).foldl Dy.max dyZero
    if amax.m = 0 then (vs.map fun v => (mxQuant t v.neg dyZero).1, 0, 0)
    else
      let x0 := amax.log2 - mxEmax t
      let x := if x0 < -127 then -127 else x0
      let es := vs.map fun v => mxQuant t v.neg (Dy.scale v.toDy (-x))
      (es.map (·.1), (x + 127).toNat, flAll (es.map (·.2)))

/-- One element of a block dequantised exactly and rounded (R92). -/
def mxDequant (t : ElemType) (fd : FFmt) (md : RMode) (ftz : Bool) (scale p : Nat) : Nat × Nat :=
  if scale = 0xFF then (fd.qnan, flNV)
  else
    match mxElem t p with
    | .fin s m e => roundDy fd md (ftzOf fd ftz) (FVal.fin s m (e + scale - 127)).toDy s
    | _ => (fd.qnan, 0)

/-! ### Bit planes (R93, R94, R222) -/

/-- `bpq` on one source value (R222): the byte w and flags, for K planes. The last comparison of R222 finds a NaN unequal as well, since
its NaN line does not return (DEDUCED, log 31). -/
def bpQuant (k : Nat) (fs : FFmt) (ftz : Bool) (p : Nat) : Nat × Nat :=
  let lo : Int := -((2 ^ (k - 1) : Nat) : Int)
  let hi : Int := (2 ^ (k - 1) : Nat) - 1
  let byte (t : Int) : Nat := low (t * (2 ^ (8 - k) : Nat) + (if k < 8 then (2 ^ (7 - k) : Nat) else 0)) 8
  match readF fs ftz p with
  | .nan _ => (byte 0, flOr flNV flNX)
  | .inf s => (byte (if s then lo else hi), flOr flSA flNX)
  | .fin s m e =>
    let x := (FVal.fin s m e).toDy
    let r := roundInt .rne (Dy.sub (Dy.scale x (-(8 - k : Nat))) ⟨1, -1⟩)
    let c := clampTo r.1 lo hi
    let mid : Dy := ⟨2 * c.1 + 1, (7 : Int) - k⟩
    (byte c.1, flAll [if c.2 then flSA else 0, if Dy.eq mid x then 0 else flNX])

/-- The value of a stored byte read with K planes, in units of 2^(7−K): 2t + 1 (R93, R94). -/
def bpTwice (k w : Nat) : Int := 2 * sx k (w / 2 ^ (8 - k)) + 1

end Sys2Proof.Machine
end

