-- ==== Sys2Proof/Machine/State.lean ====
section
/-! DEFINITION. The state of the package as plain data, the fault and refusal reasons, and the state after reset.
Every field names the rule that gives it; the model's own fields are named in log rows 1 to 4 and 7. -/

namespace Sys2Proof.Machine

/-! ### How a step can stop -/

/-- Faults. The manual turns every error into a trap, a status or a record, which are next states, so the one
constructor is raised by no instruction: only `step` on a state that no run reaches raises it. -/
inductive Fault where
  /-- Raised by `step` when an instruction is to run for a core or strand number the package does not have.
  Safe: the package has no such agent (R17). -/
  | noSuchAgent (n : Nat)
  deriving DecidableEq, Repr

/-- Refusals. -/
inductive Refusal where
  /-- Raised by `exec` for an instruction that has no meaning in the model. Safe. -/
  | notModelled (mnemonic : String)
  deriving DecidableEq, Repr

/-! ### A strand (R63 to R69, R313, R314) -/

/-- Life of a strand (R301). -/
inductive Life where
  | unalloc | live | shadowed | imaged | retained | halted | aborted
  deriving DecidableEq, Repr

/-- An address generator: base and strides (R191). -/
structure AddrGen where
  base : Word := 0
  s0 : Word := 0
  s1 : Word := 0
  s2 : Word := 0
  s3 : Word := 0
  deriving DecidableEq, Repr

/-- A hardware loop level (R185). -/
structure LoopLevel where
  active : Bool := false
  first : Nat := 0
  last : Nat := 0
  iter : Nat := 0
  deriving DecidableEq, Repr

/-- The register a pending write goes to: a flat index (R134), rotating registers by their physical place. -/
inductive PendKind where
  | x | v | p | c | b | mp | lc | ag | acc | accAll | sr | flags
  deriving DecidableEq, Repr

/-- A pending result (R36 to R38, R314): register, lanegroups, due count on the strand or handler count, the bytes
written and their value, flags, whether it has arrived, whether it travels the ring (R230), whether an LD slot issued
it, and the number of the bundle that did (R198). -/
structure Pending where
  kind : PendKind
  reg : Nat
  lgm : Nat := 0
  dir : AccDir := .h
  idx : Nat := 0
  due : Nat
  hnd : Bool := false
  mask : BitVec 512 := 0
  value : Vec := 0
  flags : Nat := 0
  arrived : Bool := false
  ring : Bool := false
  ld : Bool := false
  born : Nat := 0
  deriving DecidableEq, Repr

/-- What a queued global access does (R293). -/
inductive AccOp where
  | load | gather | store | scatter | qstore | epstore
  | amo (op : AmoOp) (signed : Bool)
  | cas (signed : Bool)
  deriving DecidableEq, Repr

/-- One part of an access, within one line: its virtual address and length, the physical address it was translated to
with the marks of its page (poisoned, tracked), where its bytes lie in the entry, what it stores (or the operands of
an atomic) and later what it read, the poison it carries, whether it is parked, whether it has returned, the widest
scope at which it is performed, 0 for none and 1 to 7 for .st to .sy (R416), the number of its write, and the request that it has
outstanding at a peer (R467). -/
structure Part where
  va : Nat
  len : Nat
  pos : Nat := 0
  pa : Option Nat := none
  bad : Bool := false
  track : Bool := false
  data : List Byte := []
  cmp : List Byte := []
  poison : Bool := false
  parked : Bool := false
  returned : Bool := false
  level : Nat := 0
  wid : Nat := 0
  ask : Option Nat := none
  deriving DecidableEq, Repr

/-- Kinds of stream register (R287). -/
inductive QKind where
  | unbound | pattern | explicit
  deriving DecidableEq, Repr

/-- A release side (R421): the agent, the scope and the bundle of its release, and the writes that happen before it. -/
structure Release where
  agent : Nat
  sc : Scope
  seq : Nat := 0
  writes : List Nat
  deriving DecidableEq, Repr

/-- One entry of a stream register: 512 bytes, the operation that fills it, the address it was fetched from, the
address of its first poisoned line and the bytes that came of poisoned lines, whether it has arrived, the load that a rollback repeats
(R287 to R290, R297, R198); of the completion of an engine command with REL the bundle that issued it (R423), of an entry of a pattern the writes
that it returned and the release sequences that it read from (R420, R421). -/
structure QEntry where
  tag : Nat
  addr : Nat := 0
  data : Vec := 0
  poison : Option Nat := none
  bad : BitVec 512 := 0
  arrived : Bool := false
  refetch : List Part := []
  eng : Option Nat := none
  ids : List Nat := []
  heads : List Release := []
  deriving DecidableEq, Repr

/-- A stream register (R287 to R291). -/
structure QReg where
  kind : QKind := .unbound
  ety : ElemType := .s8
  gen : AddrGen := {}
  entries : List QEntry := []
  deriving DecidableEq, Repr

/-- An access in a load or store queue (R293): the bundle that issued it, its context, once its strand is gone its launch (R309,
R355), the register and tag it fills
(for `ep.st` the window and the packet); its type, lanegroups, address, `scat` addresses and data as its form gave them, which a
strand image holds (R314, R316); its parts. -/
structure Access where
  seq : Nat
  ctx : Nat := 0
  launch : Nat := 0
  op : AccOp
  sc : Scope := .st
  ord : Order := .none
  q : Nat := 0
  tag : Nat := 0
  hnd : Bool := false
  ety : ElemType := .s8
  lgm : Nat := 0
  addr : Nat := 0
  addrs : Vec := 0
  dat : Vec := 0
  parts : List Part := []
  deriving DecidableEq, Repr

/-- A marker (R415, R416): its queue (a QM bit), scope, the bundle that placed it, whether it reached its head. -/
structure Marker where
  queue : Nat
  sc : Scope
  seq : Nat
  hnd : Bool := false
  reached : Bool := false
  deriving DecidableEq, Repr

/-- One operation in the store buffer of a rollback loop (R197, R314): its source iteration, and a tile store with its handle,
type, lanegroups, element index and data, or an access of the store queue. -/
inductive BufStore where
  | tile (iter h : Nat) (ety : ElemType) (lgm e : Nat) (data : Vec)
  | global (iter : Nat) (a : Access)
  deriving DecidableEq, Repr

/-- The stream registers, the rotation and the next bundle's number at the start of a kernel iteration (R197, R198). -/
structure Snapshot where
  iter : Nat
  rot : Nat
  seq : Nat
  qs : List (Nat × QReg) := []
  deriving DecidableEq, Repr

/-- A transfer of control under way: its target and how many delay bundles are still to issue (R60, R313). -/
structure Branch where
  target : Nat
  left : Nat
  taken : Bool := true
  deriving DecidableEq, Repr

/-- A release sequence that a strand has read from (R421): the queue of the read (a QM bit), its bundle, the release side. -/
structure HeadRead where
  queue : Nat
  seq : Nat
  head : Release
  deriving DecidableEq, Repr

/-- Why a strand does not issue (R38, R53); of a miss in the TLBs the virtual address (R437). -/
inductive Stall where
  | lateResult | emptyStream (q : Nat) | queueFull | translation (va : Nat) | drowsy (g : Nat) | engineQueue | markers | markerFull
  | barrier | superstep | handlerDrain | wake | classMask | tileBusy | rail | prefetch (q : Nat) | endpoint | halt
  deriving DecidableEq, Repr

/-- A poison rollback under way: the iteration to re-enter and the kernel iteration at whose end to do it (R198). -/
structure Drain where
  iter : Nat
  upto : Nat
  deriving DecidableEq, Repr

/-- A strand. -/
structure Strand where
  life : Life := .unalloc
  grp : Nat := 0
  ctx : Nat := 0
  launch : Nat := 0
  placeCore : Nat := 0
  own : Bool := false
  second : Bool := false
  merge : Bool := false
  half : Nat := 0
  x : SMap Word := []
  xv : BitVec 64 := 0
  v : SMap Vec := []
  vv : BitVec 256 := 0
  p : SMap PVec := []
  pv : BitVec 128 := 0
  c : BitVec 8 := 0
  cv : BitVec 8 := 0
  b : SMap (BitVec 12) := []
  bv : BitVec 4 := 0
  mp : SMap Word := []
  mpv : BitVec 8 := 0
  lc : SMap (BitVec 32) := []
  lcv : BitVec 4 := 0
  ag : SMap AddrGen := []
  agv : BitVec 8 := 0
  q : SMap QReg := []
  rot : Nat := 0
  rotLoop : Nat := 0
  fmt : Word := 0x2900
  carat : Word := 0
  flags : Word := 0
  tcause : Word := 0
  tinfo : Word := 0
  tbundle : Word := 0
  tslot : Word := 0
  errcnt : SMap Word := []
  sbc : Nat := 0
  hbc : Nat := 0
  hnd : Bool := false
  next : Nat := 0
  hnext : Nat := 0
  branch : Option Branch := none
  hbranch : Option Branch := none
  gpos : Nat := 0
  hgpos : Nat := 0
  gwritten : List Nat := []
  hwritten : List Nat := []
  loops : SMap LoopLevel := []
  md : Bool := false
  rb : Bool := false
  srcIters : Nat := 0
  stages : Nat := 1
  pbase : Nat := 8
  dbuf : List Pending := []
  lq : List Access := []
  sq : List Access := []
  seq : Nat := 0
  tagNext : Nat := 0
  markers : List Marker := []
  fences : List Release := []
  reads : List HeadRead := []
  stbuf : List BufStore := []
  snaps : List Snapshot := []
  drain : Option Drain := none
  rolledTo : List Nat := []
  arrival : Option Nat := none
  arriving : Option Nat := none
  arrivedAt : Nat := 0
  cbarGen : Option Nat := none
  cbarDone : Bool := false
  wakeWait : Nat := 0
  halting : Bool := false
  haltAt : Nat := 0
  begun : Bool := false
  debugHalt : Bool := false
  debugSteps : Nat := 0
  gap : Nat := 0
  swa : Bool := false
  stall : Option Stall := none
  deriving DecidableEq, Repr

/-! ### A core (R18, R33, R328, R407) -/

/-- Ownership of a core's storage (R328). -/
inductive Ownership where
  | clean | opened | owned (ctx : Nat) | draining
  deriving DecidableEq, Repr

/-- State of a lanegroup (R407, R408). -/
inductive LgPower where
  | on | drowsy | gated | waking
  deriving DecidableEq, Repr

/-- A deferred fault of a matrix call (R247); of a checksum failure also its residual, unsaturated (R126). -/
structure Deferred where
  cause : Nat
  info : Nat
  rho : Nat := 0
  deriving DecidableEq, Repr

/-- Credits of a matrix call or of a pass (R118): detections and repeats per band, checksum replays, residual,
grades used. -/
structure Credits where
  det : List Nat := [0, 0, 0, 0]
  rpl : List Nat := [0, 0, 0, 0]
  ckr : Nat := 0
  resmax : Nat := 0
  grades : Nat := 0
  deriving DecidableEq, Repr

/-- A matrix call issued and not joined (R242 to R247). What races with it (R246): the scratchpad and B-stack lines that other
agents wrote since it issued, as they were before; the lines that its drains wrote, as they were before, with the width of the
elements written, and of those the lines written since its last `msync` (R255). -/
structure MCall where
  sid : Nat
  idx : Nat
  mp : List Nat
  fmt : Nat
  grade : Nat
  rpl : Bool
  busy : List Nat
  seq : Nat
  started : Bool := false
  ended : Bool := false
  flags : Nat := 0
  passes : Nat := 0
  faults : List Deferred := []
  credits : Credits := {}
  touched : SMap (BitVec 512) := []
  touchedB : SMap (BitVec 512) := []
  wrote : SMap (Nat × BitVec 512) := []
  unsynced : SMap (BitVec 512) := []
  deriving DecidableEq, Repr

/-- What β holds for one output element: the exact products, and the special values met, for each K-block (R100,
R254). -/
structure BetaElem where
  prods : List Dy := []
  nan : List Nat := []
  pinf : List Nat := []
  ninf : List Nat := []
  deriving DecidableEq, Repr

/-- The registers of the matrix sequencer (R254); of the pass under way its repeated runs, the grade fixed at its start, whether
it repeats at 24k, and what it is to be credited with when it ends (R111, R115, R118, R126). -/
structure Sequencer where
  running : Bool := false
  upc : Nat := 0
  loops : List (Nat × Nat) := []
  a : Option Nat := none
  m : Nat := 0
  b : Option Nat := none
  kappa : Nat := 0
  pl : Nat := 8
  lj : Nat := 0
  lk : Nat := 0
  sc : Nat := 0x3F800000
  cv : Option Nat := none
  mode : Option Nat := none
  beta : SMap BetaElem := []
  repeats : Nat := 0
  force24 : Bool := false
  railWait : Bool := false
  passGrade : Option Nat := none
  credits : Credits := {}
  deriving DecidableEq, Repr

/-- A batch of the transpose unit (R261 to R263). -/
structure Batch where
  rows : SMap Vec := []
  width : Nat := 32
  closed : Nat := 0
  popped : Nat := 0
  deriving DecidableEq, Repr

/-- A row-engine table (R272). -/
structure RowTable where
  head : SMap Nat := []
  coeff : SMap Nat := []
  deriving DecidableEq, Repr

/-- Row-engine commands (R268). -/
inductive RowOp where
  | resm | renorm (rms : Bool) | retab (tb : Nat) | retload (tb : Nat)
  deriving DecidableEq, Repr

/-- An outstanding row-engine command, its step, and the row values it has read and formed (R265, R266). -/
structure RowCmd where
  op : RowOp
  ha : Nat
  hd : Nat
  seq : Nat
  issued : Nat
  step : Nat := 0
  read : SMap Nat := []
  flags : Nat := 0
  deriving DecidableEq, Repr

/-- A half of instruction memory (R18, R385): the kernel and context it holds, the load identifier and the key under which it was written
(R331; key 0 for plaintext), its bundles as they lie there, its trap table. -/
structure ImemHalf where
  kernel : Option Nat := none
  ctx : Nat := 0
  loadId : Nat := 0
  key : Nat := 0
  bundles : SMap BundleWord := []
  traps : SMap Nat := []
  deriving DecidableEq, Repr

/-- A core; its micro-words lie as a load left them, under the load identifier and the key `microLoad` and `microKey` (R331). -/
structure Core where
  on : Bool := false
  ownership : Ownership := .clean
  force : Bool := false
  forceUntil : Option Nat := none
  detSecond : Nat := 0
  detCounts : SMap Nat := []
  half0 : ImemHalf := {}
  half1 : ImemHalf := {}
  active : Nat := 0
  mstore : SMap MicroWord := []
  routines : SMap Nat := []
  microLoad : Nat := 0
  microKey : Nat := 0
  fgSet : Nat := 0
  lgs : SMap LgPower := []
  owner : Option Nat := none
  sp : SMap (BitVec 512) := []
  spPoison : List Nat := []
  scaleBad : List Nat := []
  bst : SMap (BitVec 512) := []
  bPoison : List Nat := []
  bScaleBad : List Nat := []
  counts : SMap Int := []
  acc : SMap Vec := []
  accv : BitVec 128 := 0
  calls : List MCall := []
  seqr : Sequencer := {}
  rails : Nat := 0
  trWidth : Nat := 32
  trOpen : Option Batch := none
  trClosed : List Batch := []
  tables : SMap RowTable := []
  rowq : List RowCmd := []
  saved : Bool := false
  wear : SMap Nat := []
  retired : List Nat := []
  deriving DecidableEq, Repr

/-! ### A cluster (R22, R273, R365, R412) -/

/-- An entry of the tile table (R273), its poison mark (R259), and what `stage` filled from weight pages (R317, R372): each such row, and
each such block of scales after the rows, with the address it came from and whether it came as dense elements. -/
structure Tile where
  level : TileLevel
  core : Nat
  rows : Nat
  cols : Nat
  ety : ElemType
  base : Nat
  pitch : Nat
  poisoned : Bool := false
  staged : SMap (Nat × Bool) := []
  deriving DecidableEq, Repr

/-- The forms that go to the copy engines (R365, R371 to R373, R336, R453). -/
inductive CeOp where
  | cp | cpg | cps | stage | sealRec | openRec | meas | ckpt
  deriving DecidableEq, Repr

/-- A copy-engine command: the strand that issued it, its group with the placement in it, launch and context, its operands as
captured and its tiles, its order, the entry it posts to, its progress: the lines moved, poison, bits written (R365 to R370), what a `seal` or an `open` that passed its checks
writes, with the poison of each line (R345), the access that it last parked on (R441), its slot word (R499); `c` of a `ckpt` is the
generation that it awaits (R454). A copy of a group that has no tiles now, being imaged, has none either, and stands still (R316). -/
structure CeCmd where
  id : Nat
  sid : Nat
  grp : Nat := 0
  launch : Nat := 0
  ctx : Nat := 0
  seq : Nat
  op : CeOp
  a : Nat
  b : Nat
  c : Nat
  sc : Scope := .st
  acq : Bool := false
  rel : Bool := false
  q : Nat := 0
  tag : Nat := 0
  qe : Bool := false
  place : Nat := 0
  dst : Option Tile := none
  src : Option Tile := none
  begun : Bool := false
  beganAt : Nat := 0
  moved : List Nat := []
  p : Bool := false
  n : Nat := 0
  out : Option (List Byte × List Bool) := none
  parked : Option (Nat × Bool) := none
  word : Nat := 0
  deriving DecidableEq, Repr

/-- A translation held in a TLB (R437): context, page, size code, leaf entry. -/
structure TlbEntry where
  ctx : Nat
  page : Nat
  size : Nat
  leaf : Nat
  deriving DecidableEq, Repr

/-- A cluster; `rr` is the strand of it that its copy engines served last (R365), `swapped` the cores that have changed their sets in
the swap under way (R310, R399). -/
structure Cluster where
  tiles : SMap Tile := []
  shadow : SMap Tile := []
  ceq : List CeCmd := []
  ceId : Nat := 0
  rr : Nat := 63
  swapped : List Nat := []
  mailbox : SMap Word := []
  tlb : List TlbEntry := []
  deriving DecidableEq, Repr

/-! ### Groups and launches (R398, R411, R429, R308) -/

/-- States of a group (R398). -/
inductive GroupState where
  | waking | preloaded | running | switching | shadowed | imaged | retained | draining | halted | faulted
  deriving DecidableEq, Repr

/-- Completion statuses (R324). -/
inductive Status where
  | ok | late | latePartial | budget | fault | abort | lost | tagfail | replay | peerlost | keyslots | debugActive
  deriving DecidableEq, Repr

/-- The escalation record (R308). -/
structure EscRecord where
  sid : Nat := 0
  cause : Nat := 0
  slot : Nat := 0
  bundle : Nat := 0
  kind : Nat := 0
  info : Nat := 0
  sbc : Nat := 0
  time : Nat := 0
  deriving DecidableEq, Repr

/-- A placement record of a kernel (R375). -/
structure Placement where
  core : Nat
  set : Nat
  strand : Nat
  own : Bool := false
  second : Bool := false
  entry : Nat := 0
  deriving DecidableEq, Repr

/-- A group (R394, R398, R411, R363): its launch and task, its place, its strands, its barrier generation, the half that
each placement core runs from, its charge; whether it is a rerun, or stops on account of its budget; while it is swapped
out the owned units that it left and where core images of them lie (R311), while it is imaged its strands, its tiles, where its images
lie (R312), and the completions that wait for its return: placement, register, entry and data (R316); the load identifier of its code
(R331, R385); `entering` while it is SWITCHING into the foreground, `unissued` from its swap until a bundle of it issues, for a
preloaded task (R404); `taken` are the tiles that others held in its cluster at its dispatch: its pool is the rest (R277). -/
structure Group where
  state : GroupState := .waking
  launch : Nat := 0
  task : Nat := 0
  ctx : Nat := 0
  cluster : Nat := 0
  kernel : Nat := 0
  cls : Nat := 0
  placements : List Placement := []
  strands : List Nat := []
  gen : Nat := 0
  prior : GroupState := .running
  halves : SMap Nat := []
  charged : Nat := 0
  rerun : Bool := false
  overrun : Bool := false
  scratchOnly : Bool := true
  units : SMap Core := []
  saved : List Strand := []
  tiles : SMap Tile := []
  images : Option (Nat × Nat) := none
  unitImages : List (Nat × Nat) := []
  loadId : Option Nat := none
  entering : Bool := false
  unissued : Bool := false
  taken : List Tile := []
  held : List (Nat × Nat × Nat × Nat) := []
  deriving DecidableEq, Repr

/-- State of a superstep barrier (R429). -/
inductive BarrierState where
  | none | open_ (gen : Nat) | aborted | closed
  deriving DecidableEq, Repr

/-- A `meas` record: the task, the strand and the bundle that issued it, the length, the digest (R335, R336). -/
structure MeasRec where
  task : Nat
  sid : Nat
  seq : Nat
  len : Nat
  digest : List Byte
  deriving DecidableEq, Repr

/-- A read-only copy of what a launch was dispatched with, and how far it has come (R349, R354, R388, R393); `carried` are the writes that
happen before the release from its completed superstep generations (R428), `rewritten` the addresses in its argument block and its shape
record that it has written itself (R354, log 20). -/
structure Launch where
  item : Nat := 0
  queue : Nat := 0
  ctx : Nat := 0
  cls : Nat := 0
  readAt : Nat := 0
  aged : Bool := false
  bound : Bool := false
  tstart : Nat := 0
  cbase : List Byte := []
  chain : List Byte := []
  debugMax : Nat := 0
  forced24 : Bool := false
  shape : List Byte := []
  args : List Byte := []
  kernel : Option Nat := none
  versions : SMap Nat := []
  nextTask : Nat := 0
  started : Nat := 0
  again : List Nat := []
  reruns : List Nat := []
  deadlineHit : Bool := false
  barrier : BarrierState := .none
  carried : List Nat := []
  rewritten : List Nat := []
  engerr : Nat := 0
  credits : Credits := {}
  measured : List MeasRec := []
  measLost : Bool := false
  status : Option Status := none
  esc : EscRecord := {}
  tend : Nat := 0
  stage9 : Nat := 0
  hmBody : List Byte := []
  hmSigned : Bool := false
  hmLost : Bool := false
  deriving DecidableEq, Repr

/-- States of a kernel record (R383). -/
inductive KernelState where
  | staged | measured | resident | bound | retired
  deriving DecidableEq, Repr

/-- A kernel record, and the launch that reads its object (R382, R383). -/
structure KernelRec where
  ctx : Nat
  addr : Nat
  reader : Nat := 0
  state : KernelState := .staged
  bytes : List Byte := []
  digest : List Byte := []
  used : Nat := 0
  deriving DecidableEq, Repr

/-- State of a command queue (R346, R347). -/
inductive QueueState where
  | off | on | error
  deriving DecidableEq, Repr

/-- A command queue (R346); `en` is QCFG.EN as last written (R4), whatever state the queue is in. -/
structure CmdQueue where
  en : Bool := false
  base : Word := 0
  loc : Bool := false
  log2n : Nat := 0
  ctx : Nat := 0
  weight : Nat := 1
  cq : Nat := 0
  tail : Nat := 0
  head : Nat := 0
  state : QueueState := .off
  cqfull : Bool := false
  cfgerr : Bool := false
  deriving DecidableEq, Repr

/-- A completion record before its PHASE is known (R356); `raw` holds the 64 bytes of a fault notice or a
machine-check record (R444, R496). -/
structure Completion where
  status : Nat := 0
  hmlost : Bool := false
  cls : Nat := 0
  engerr : Nat := 0
  queue : Nat := 0
  tasks : Nat := 0
  tag : Nat := 0
  launch : Nat := 0
  tend : Nat := 0
  esc : EscRecord := {}
  raw : List Byte := []
  signal : Bool := false
  deriving DecidableEq, Repr

/-- A completion queue and the records held for it (R346, R348, R357); `en` is CCFG.EN as last written (R4). -/
structure CmplQueue where
  en : Bool := false
  base : Word := 0
  loc : Bool := false
  log2n : Nat := 0
  ctx : Nat := 0
  vec : Nat := 0
  mask : Bool := false
  head : Nat := 0
  tail : Nat := 0
  on : Bool := false
  held : List Completion := []
  deriving DecidableEq, Repr

/-- The command processor (R346 to R364, R382, R393); `wpageDone` counts the granules that the WPAGE at the head has written (R449);
`adminDone` holds records of administrative commands behind that of a launch of
queue 0 (R357). -/
structure CmdState where
  queues : SMap CmdQueue := []
  cqs : SMap CmplQueue := []
  age : Nat := 10000
  reserve : Nat := 0
  readPtr : Nat := 0
  admin : List Nat := []
  wpageDone : Nat := 0
  adminDone : List (Nat × Completion) := []
  launches : SMap Launch := []
  launchNext : Nat := 0
  turnsUsed : SMap Nat := []
  lastQueue : Nat := 0
  groups : SMap Group := []
  groupNext : Nat := 1
  kernels : SMap KernelRec := []
  kernelNext : Nat := 0
  loadNext : Nat := 0
  statusOrder : List Nat := []
  msix : List Nat := []
  dispatchNext : Nat := 0
  deriving DecidableEq, Repr

/-! ### The bundle being issued (model's own, log 3) -/

/-- How a slot ended that did not run (R57, R53). -/
inductive SlotEnd where
  | trap (slot cause info : Nat)
  | stall (why : Stall)
  | rollback (iter : Nat)
  deriving DecidableEq, Repr

/-- The bundle that a strand issues: its index, marks and operations, the slot that runs, what takes effect when
the bundle commits, and how it ended if it does not. -/
structure Iss where
  idx : Nat := 0
  stop : Bool := false
  gap : Nat := 0
  swa : Bool := false
  slot : Nat := 0
  ops : List (Slot × Instr) := []
  pops : List Nat := []
  binds : List (Nat × QReg) := []
  tiles : List (Nat × Option Tile) := []
  next : Option Nat := none
  branch : Option Branch := none
  rett : Bool := false
  lrot : Bool := false
  ended : Option SlotEnd := none
  consumed : Option (Nat × Nat) := none
  deriving DecidableEq, Repr

/-! ### Global memory (R414 to R424, R330, R332, R491) -/

/-- Where a write comes from: the launch, group and placement of its issuer and the bundle (R390, R393, R426), whether an engine command
made it, one of the collective engine, and one with REL (R423), and the release sides whose sequences it is of (R421). -/
structure WriteTag where
  launch : Nat := 0
  grp : Nat := 0
  place : Nat := 0
  seq : Nat := 0
  eng : Bool := false
  col : Bool := false
  rel : Bool := false
  heads : List Release := []
  deriving DecidableEq, Repr

/-- A write that is on its way to its home (level 0), or is performed at a scope narrower than .sy (R416, R423): its
number, the agent that issued it, its level, its physical address, its bytes, whether it poisons; `clears` where with it its
operation has written every byte of its line (R297); where it comes from; the agents with a bundle number each from which on it happens
before their accesses (R423, R424, R428), and the agents that have read it or a later write through their load queue (R420). -/
structure NarrowWrite where
  wid : Nat
  sid : Nat
  level : Nat := 0
  addr : Nat
  data : List (Option Byte)
  poison : Bool := false
  key : Nat := 0
  clears : Bool := false
  tag : WriteTag := {}
  before : List (Nat × Nat) := []
  seen : List Nat := []
  deriving DecidableEq, Repr

/-- A line in a memory-side cache: the key slot it is tagged with, whether it is dirty (R330, R332, R495), its priority, 0
evicted first, 1 normal, 3 highest, and whether a context has pinned it (R456). -/
structure CacheLine where
  slot : Nat := 0
  dirty : Bool := false
  prio : Nat := 1
  pinned : Bool := false
  deriving DecidableEq, Repr

/-- Memory at the homes: bytes, poisoned lines, the key under which a line was written, writes below .sy in
coherence order, the stores of strands that are gone (R309), the lines that the memory-side caches took in (R16, R24), the full fences that
have issued, by what happens before each (R422), and the lines that fail their check on their next way to a reader (R492). -/
structure Mem where
  cells : List Host.Cell := []
  poison : List Nat := []
  keys : SMap Nat := []
  narrow : List NarrowWrite := []
  orphans : List (Nat × Access) := []
  wnext : Nat := 1
  cache : SMap CacheLine := []
  fences : List Release := []
  transit : List Nat := []
  deriving DecidableEq, Repr

/-! ### Contexts (R298, R299, R327, R334, R344, R355, R435, R447, R452) -/

/-- States of a context (R299). -/
inductive CtxState where
  | free | opened | active | closing | broken
  deriving DecidableEq, Repr

/-- States of an update transaction (R448). -/
inductive TxState where
  | idle | opened | failed
  deriving DecidableEq, Repr

/-- A copy that an open transaction has written: granule, copy number, its version before (R448). -/
structure CopyWritten where
  granule : Nat
  copy : Nat
  prev : Nat
  deriving DecidableEq, Repr

/-- A weight region with its journal record (R447 to R451); `commit` once the record holds COMMIT. -/
structure Region where
  delta : Nat := 0
  current : Nat := 0
  versions : SMap (Nat × Nat) := []
  tx : TxState := .idle
  commit : Bool := false
  written : List CopyWritten := []
  digest : List Byte := List.replicate 32 0
  deriving DecidableEq, Repr

/-- A channel (R344). -/
structure Channel where
  id : Nat
  key : Nat := 0
  e : Nat := 0
  failures : Nat := 0
  deriving DecidableEq, Repr

/-- A checkpoint that waits for its snapshot or streams (R454, R455). -/
structure Ckpt where
  launch : Nat
  gen : Nat
  area : Nat
  capacity : Nat
  cmds : List (Nat × Nat) := []
  taken : Bool := false
  number : Nat := 0
  manifest : List Nat := []
  time : Nat := 0
  failed : Bool := false
  deriving DecidableEq, Repr

/-- A context. Page tables are held as the leaf entry of each mapped page, keyed by the page's first granule, and the places of the L1 and
L2 tables, keyed by `tableKey` (R434). -/
structure Ctx where
  state : CtxState := .free
  root : Nat := 0
  world : Bool := false
  slot : Nat := 0
  keyId : Nat := 0
  parked : Bool := false
  saveBase : Nat := 0
  saveLen : Nat := 0
  policy : Nat := 0
  chain : List Byte := []
  tokens : SMap (Nat × Bool) := []
  pages : SMap Nat := []
  tables : SMap Nat := []
  regions : SMap Region := []
  window : Option (Nat × Nat) := none
  dirty : List Nat := []
  pending : List Nat := []
  ckptGen : Nat := 0
  ckpt : Option Ckpt := none
  channels : List Channel := []
  notices : List Nat := []
  pins : List Nat := []
  force : Bool := false
  deriving DecidableEq, Repr

/-! ### Command processor: outstanding page work (R440) -/

/-- A MIGRATE whose copy is under way. -/
structure Migration where
  ctx : Nat
  va : Nat
  size : Nat
  pa : Nat
  deriving DecidableEq, Repr

/-! ### Security (R28, R326, R340 to R343, R460, R461) -/

/-- A key slot (R326): the context and the identity of its keys. -/
structure KeySlot where
  ctx : Nat
  keyId : Nat
  deriving DecidableEq, Repr

/-- TDISP states (R461). -/
inductive Tdi where
  | unlocked | locked | run | error
  deriving DecidableEq, Repr

/-- The security controller: key slots, debug state with its expiry and challenge, the count of CREATE commands, park
generations by context (R327), the SPDM session with its key and the last envelope counter (R333), the TDI, the launches
whose hallmarks it is to sign. -/
structure SecState where
  slots : SMap KeySlot := []
  keyNext : Nat := 1
  debug : Nat := 0
  expiry : Nat := 0
  challenge : Option Nat := none
  creations : Nat := 0
  gens : SMap Nat := []
  spdm : Option Nat := none
  lastN : Option Nat := none
  tdi : Tdi := .unlocked
  signQ : List Nat := []
  deriving DecidableEq, Repr

/-! ### Links (R459 to R478) -/

/-- States of a UCIe link (R459). -/
inductive UcieState where
  | untrained | active | retrain | failed
  deriving DecidableEq, Repr

/-- A UCIe link: its state and the times of its recent failed retrains. -/
structure Ucie where
  state : UcieState := .untrained
  fails : List Nat := []
  deriving DecidableEq, Repr

/-- States of an Ibilman port (R463). -/
inductive PortState where
  | down | training | up | degraded | failed
  deriving DecidableEq, Repr

/-- An Ibilman port (R463, R464). -/
structure Port where
  state : PortState := .down
  en : Bool := false
  trn : Nat := 0
  nbr : Nat := 0
  lane0 : Bool := false
  lane1 : Bool := false
  since : Nat := 0
  retrans : Nat := 0
  drops : Nat := 0
  marked : Nat := 0
  deriving DecidableEq, Repr

/-- A packet that has been sent and not acknowledged (R465), when it was last sent and whether it was sent again. -/
structure Sent where
  seq : Nat
  body : PacketBody
  time : Nat := 0
  again : Bool := false
  deriving DecidableEq, Repr

/-- An acknowledgement (R465, R466): the cumulative number, the map of the later packets held, and the echo of a mark. -/
structure Ack where
  cum : Nat
  map : Nat
  mark : Bool := false
  deriving DecidableEq, Repr

/-- The sending and the receiving side of a flow (R465, R466). Rates are in Mb/s, alpha in 2^-16; `port` is the port that the flow
keeps while that port is in its route (R464); `srtt` is the smoothed round-trip time in ns, `turnAt` when the last change of the
rate was made, `marks` and `acked` the packets marked and acknowledged since; `ack` is the last acknowledgement formed on the receiving
side. -/
structure Flow where
  port : Option Nat := none
  next : Nat := 0
  unacked : List Sent := []
  rate : Nat := 400000
  alpha : Nat := 0
  srtt : Nat := 0
  turnAt : Nat := 0
  marks : Nat := 0
  acked : Nat := 0
  expect : Nat := 0
  held : List Sent := []
  ack : Option Ack := none
  deriving DecidableEq, Repr

/-- A peer package (R466): silent, when it was last heard and last sent to. -/
structure Peer where
  silent : Bool := false
  heard : Nat := 0
  sentAt : Nat := 0
  deriving DecidableEq, Repr

/-- States of a communicator (R475). -/
inductive CommState where
  | empty | opened | aborted
  deriving DecidableEq, Repr

/-- A communicator (R475); `ahead` counts the commands that took their places at an EPOCH that is not adopted yet, since their own records
were malformed. -/
structure Comm where
  state : CommState := .empty
  epoch : Nat := 0
  ctx : Nat := 0
  members : List Nat := []
  mypos : Nat := 0
  gen : Nat := 0
  silent : Option Nat := none
  count : Nat := 0
  ahead : Option (Nat × Nat) := none
  deriving DecidableEq, Repr

/-- A collective command (R474 to R477): its operands and what its descriptor gave, the steps that it completed and sent
for, the chunks it holds and those of them that are poisoned, the access that it last parked on (R441). -/
structure ColCmd where
  id : Nat
  sid : Nat
  grp : Nat := 0
  place : Nat := 0
  launch : Nat
  ctx : Nat
  seq : Nat
  op : ColOp
  a : Nat
  b : Nat
  c : Nat
  sc : Scope := .st
  acq : Bool := false
  rel : Bool := false
  q : Nat := 0
  tag : Nat := 0
  qe : Bool := false
  begun : Bool := false
  comm : Option Nat := none
  epoch : Nat := 0
  index : Nat := 0
  count : Nat := 0
  ety : Nat := 0
  rop : Nat := 0
  peer : Nat := 0
  mtag : Nat := 0
  step : Nat := 0
  sent : Nat := 0
  data : SMap (List Byte) := []
  bad : List Nat := []
  parked : Option (Nat × Bool) := none
  deriving DecidableEq, Repr

/-- Collective data that came for a communicator and step (R475, R522). -/
structure ColData where
  comm : Nat
  epoch : Nat
  step : Nat
  src : Nat
  data : List Byte
  deriving DecidableEq, Repr

/-- An endpoint window (R470). -/
structure EpWin where
  ctx : Nat
  enabled : Bool
  dest : Nat
  ring : Nat
  deriving DecidableEq, Repr

/-- A receive ring (R470, R473). -/
structure EpRing where
  ctx : Nat
  log2s : Nat
  wake : Bool
  base : Nat
  deriving DecidableEq, Repr

/-- An endpoint packet: its number, its launch, task, placement strand and window (R472), its bytes, whether it is
sealed, and where it then goes. -/
structure EpPacket where
  id : Nat
  launch : Nat
  task : Nat
  place : Nat
  window : Nat
  data : List Byte := []
  sealed : Bool := false
  dest : Nat := 0
  deriving DecidableEq, Repr

/-- A request outstanding at a peer (R467): its number, the peer, whether an access waits for its answer, where it comes from, and the
answer once it has come, empty where the line is poisoned. -/
structure Ask where
  id : Nat
  peer : Nat
  own : Bool := false
  tag : WriteTag := {}
  answer : Option (List Byte) := none
  deriving DecidableEq, Repr

/-- The links of the package. -/
structure LinkState where
  pto : Nat := 2000
  kai : Nat := 250
  sysid : Nat := 0
  ports : SMap Port := []
  ucie : SMap Ucie := []
  hostUp : Bool := false
  hostDownSince : Nat := 0
  hostFailed : Bool := false
  routes : SMap Nat := []
  flows : SMap Flow := []
  peers : SMap Peer := []
  comms : SMap Comm := []
  cols : List ColCmd := []
  colNext : Nat := 0
  colData : List ColData := []
  windows : SMap EpWin := []
  rings : SMap EpRing := []
  packets : List EpPacket := []
  epNext : Nat := 0
  lsbUpdates : Nat := 0
  lsbTime : Nat := 0
  lsbDiscarded : Nat := 0
  lsbRetrans : Nat := 0
  lsbDrops : Nat := 0
  outbox : List (Nat × Nat × PacketBody) := []
  askNext : Nat := 0
  asks : List Ask := []
  deriving DecidableEq, Repr

/-! ### Dies, power, health (R437, R441, R457, R481 to R502) -/

/-- An entry of a fault table (R441, R444). -/
structure FaultEntry where
  ctx : Nat
  page : Nat
  count : Nat := 1
  write : Bool := false
  launch : Nat := 0
  deriving DecidableEq, Repr

/-- A page walk under way (R437): the context, the granule that missed, the clusters whose misses share it. -/
structure Walk where
  ctx : Nat
  page : Nat
  clusters : List Nat := []
  deriving DecidableEq, Repr

/-- A hint that waits in a hint unit (R457): the context, the cluster and strand that gave it, the operation, the page. -/
structure Hint where
  ctx : Nat
  cluster : Nat
  sid : Nat
  op : Nat
  lv : Nat
  va : Nat
  len : Nat
  deriving DecidableEq, Repr

/-- Steps of a hop (R482, R483). -/
inductive HopStep where
  | none | locking | lowering | abandoned | paused
  deriving DecidableEq, Repr

/-- A compute die; `lastDroop` is when its last droop event came (R482), `amps` the current that its loop last measured and `calmSince` since
when that lies below the threshold of its level less 5 % (R485). -/
structure Die where
  tgt : Nat := 1500
  cur : Nat := 1500
  hopTgt : Nat := 1500
  hop : HopStep := .none
  abn : Nat := 0
  hopFail : Bool := false
  off : Bool := false
  stretch : Bool := false
  raised : Nat := 1500
  level : Nat := 0
  throttle : Bool := false
  tlb : List TlbEntry := []
  faults : List FaultEntry := []
  hintDrops : Nat := 0
  failed : Bool := false
  walks : List Walk := []
  hints : List Hint := []
  lastDroop : Option Nat := none
  amps : Nat := 0
  calmSince : Option Nat := none
  deriving DecidableEq, Repr

/-- States of the kiln (R500). -/
inductive Kiln where
  | running | entering | held
  deriving DecidableEq, Repr

/-- The latched copy of every block (R497), with the tick of its trigger. -/
structure Snap where
  tick : Nat := 0
  groups : SMap Group := []
  strands : SMap Strand := []
  cores : SMap Core := []
  clusters : SMap Cluster := []
  dies : SMap Die := []
  ports : SMap Port := []
  temps : SMap Nat := []
  packets : List EpPacket := []
  deriving DecidableEq, Repr

/-- Power, heat and health: `tripped` is the THERMTRIP record that waits for the next boot (R489), `expected` the wait in microseconds that
the command processor expects of cores that wait (R319, R490; a free value, log 12). -/
structure PowerState where
  dtime : Nat := 0
  gateIdle : Nat := 50
  detLim : Nat := 64
  temps : SMap Nat := []
  pwr : Nat := 0
  kiln : Kiln := .running
  kilnSince : Nat := 0
  holds : Nat := 0
  lost : Bool := false
  off : Bool := false
  tripped : Option (List Byte) := none
  expected : Nat := 0
  stage : Nat := 0
  err : Nat := 0
  mcRing : SMap (List Byte) := []
  mcCount : Nat := 0
  mcLast : SMap Nat := []
  mcSuppressed : SMap Nat := []
  corrected : SMap (List Nat) := []
  wearWrites : SMap Nat := []
  wearRewrites : SMap Nat := []
  retired : List Nat := []
  snapArm : Bool := false
  snapSrc : Nat := 0
  snapCode : Nat := 0
  snapDone : Bool := false
  snapCmp : Nat := 0
  snapAddr : Nat := 0
  snap : Option Snap := none
  wearAddr : Nat := 0
  mcIdx : Nat := 0
  dbgSid : Nat := 0
  dbgRefused : Bool := false
  dbgErr : Bool := false
  dbgSteps : Nat := 0
  dbgVa : Nat := 0
  dbgData : Nat := 0
  i3cAddr : Nat := 0x4E
  wakes : Nat := 0
  deriving DecidableEq, Repr

/-! ### The package -/

/-- Which agent moves next (model's own, log 1): a strand issues, a core's sequencer runs its next micro-word, the command
processor takes its next administrative command, an event of the device comes about, or time passes. -/
inductive Turn where
  | issue (sid : Nat)
  | micro (core : Nat)
  | admin
  | event (i : Instr)
  | elapse
  deriving DecidableEq, Repr

/-- What is fixed at boot (R433, R434, R464): bytes of installed LPDDR6, the table pool, LSBASE. -/
structure Boot where
  lpddr : Nat := 0
  poolBase : Nat := 0
  poolBytes : Nat := 0
  lsBase : Nat := 0
  deriving DecidableEq, Repr

/-- The package. Strands are keyed by their identifier, cores, clusters and dies by their number (R17); a strand whose `halt` drains stands
in `halts` as it was before its `halt` bundle (R321, R390). -/
structure State where
  strands : SMap Strand := []
  halts : SMap Strand := []
  cores : SMap Core := []
  clusters : SMap Cluster := []
  dies : SMap Die := []
  ctxs : SMap Ctx := []
  migrations : List Migration := []
  mem : Mem := {}
  cmd : CmdState := {}
  sec : SecState := {}
  link : LinkState := {}
  power : PowerState := {}
  boot : Boot := {}
  cur : Nat := 0
  iss : Iss := {}
  turns : List Turn := []
  tick : Nat := 0
  deriving DecidableEq, Repr

/-- The package right after cold reset (R302, R303, R500): no context, no strand, nothing in memory; the values that
the manual gives no reset for are named in log rows 5 to 9, what an implementation installs in Config. -/
def State.reset : State :=
  { boot := { lpddr := Config.lpddrBytes, poolBase := Config.tablePoolBase, poolBytes := Config.tablePoolBytes, lsBase := 4096 * (Config.lsBase % 2 ^ 40) } }

end Sys2Proof.Machine
end

