-- ==== Sys2Proof/Machine/Ops.lean ====
section
/-! DEFINITION. The named operations over the state: lookups and updates of agents, registers with their valid bits
and rotation (R63, R64, R192), the delivery buffer (R36 to R40), tiles (R274, R277), the end of strands and groups
(R303, R309), taking a trap (R57, R59, R304), escalation (R307, R308), and return from a trap (R306). -/

namespace Sys2Proof.Machine

/-! ### Agents (R17) -/

/-- The core of a strand. -/
def coreOf (sid : Nat) : Nat := sid / 8
/-- The bank set of a strand, as its bank is numbered. -/
def bankSetOf (sid : Nat) : Nat := sid / 4 % 2
/-- The cluster of a strand. -/
def clusterOf (sid : Nat) : Nat := sid / 64
/-- The compute die of a strand. -/
def dieOf (sid : Nat) : Nat := sid / 384

def State.strand (s : State) (n : Nat) : Strand := SMap.get s.strands n {}
def State.core (s : State) (n : Nat) : Core := SMap.get s.cores n {}
def State.cluster (s : State) (n : Nat) : Cluster := SMap.get s.clusters n {}
def State.die (s : State) (n : Nat) : Die := SMap.get s.dies n {}
def State.ctx (s : State) (n : Nat) : Ctx := SMap.get s.ctxs n {}
def State.group (s : State) (n : Nat) : Group := SMap.get s.cmd.groups n {}
def State.launch (s : State) (n : Nat) : Launch := SMap.get s.cmd.launches n {}

def State.setStrand (s : State) (n : Nat) (v : Strand) : State := { s with strands := SMap.insert s.strands n v }
def State.setCore (s : State) (n : Nat) (v : Core) : State := { s with cores := SMap.insert s.cores n v }
def State.setCluster (s : State) (n : Nat) (v : Cluster) : State := { s with clusters := SMap.insert s.clusters n v }
def State.setDie (s : State) (n : Nat) (v : Die) : State := { s with dies := SMap.insert s.dies n v }
def State.setCtx (s : State) (n : Nat) (v : Ctx) : State := { s with ctxs := SMap.insert s.ctxs n v }
def State.setGroup (s : State) (n : Nat) (v : Group) : State :=
  { s with cmd := { s.cmd with groups := SMap.insert s.cmd.groups n v } }
def State.setLaunch (s : State) (n : Nat) (v : Launch) : State :=
  { s with cmd := { s.cmd with launches := SMap.insert s.cmd.launches n v } }

/-- The strand whose bundle is being issued. -/
def State.me (s : State) : Strand := s.strand s.cur
def State.setMe (s : State) (v : Strand) : State := s.setStrand s.cur v
/-- The core of the strand whose bundle is being issued. -/
def State.myCore (s : State) : Core := s.core (coreOf s.cur)
def State.setMyCore (s : State) (v : Core) : State := s.setCore (coreOf s.cur) v
def State.myCluster (s : State) : Cluster := s.cluster (clusterOf s.cur)
def State.setMyCluster (s : State) (v : Cluster) : State := s.setCluster (clusterOf s.cur) v
/-- The issuing strand's launch and context. -/
def State.myLaunch (s : State) : Launch := s.launch s.me.launch
def State.myCtx (s : State) : Ctx := s.ctx s.me.ctx

/-- The half of instruction memory that a strand runs from (R385). -/
def State.half (s : State) (sid : Nat) : ImemHalf :=
  let c := s.core (coreOf sid)
  if (s.strand sid).half = 0 then c.half0 else c.half1

/-- A free value (log 12); the counter that indexes it advances. -/
def State.bump (s : State) : State := { s with tick := s.tick + 1 }

/-- The split factor of a level (R485). -/
def Die.split (d : Die) : Nat := if d.level = 0 then 1 else if d.level = 1 then 2 else 4

/-- The class mask of a level, in the order of R54 (R485). -/
def Die.mask (d : Die) : Nat := if d.level < 3 then 0 else if d.level = 3 then 2 else 3

/-! ### What a slot's operation comes to -/

/-- What a slot's operation comes to before its bundle commits (R42, R53, R57, R198); `deferred` is a trap that a join
takes from the records of the calls up to a bundle number (R247). -/
inductive Res where
  | ok (s : State)
  | trap (cause info : Nat)
  | stall (why : Stall)
  | rollback (iter : Nat)
  | deferred (cause info upto : Nat)
  deriving DecidableEq, Repr

/-- The trap causes (R70). -/
def cILLENC : Nat := 0x01
def cINVREG : Nat := 0x02
def cBANKCONF : Nat := 0x03
def cHANDLE : Nat := 0x04
def cALIGN : Nat := 0x05
def cPERM : Nat := 0x06
def cGATED : Nat := 0x07
def cIDIV : Nat := 0x08
def cPOISON : Nat := 0x09
def cCHECKSUM : Nat := 0x0A
def cTRAPI : Nat := 0x0B
def cSCHEDVIOL : Nat := 0x40

/-! ### Register names and physical places (R64, R192)

v16 to v31 and p8 to p15 rotate: after r rotations the name 16 + j names the place that held name 16 + (j - r). -/

/-- Place of a rotating name, `n` names from `lo`. -/
def rotated (lo n rot name : Nat) : Nat :=
  if name < lo then name else lo + (name - lo + n - rot % n) % n

/-- Place of a v register. -/
def Strand.vIdx (st : Strand) (r : Nat) : Nat := rotated 16 16 st.rot r
/-- Place of a p register. -/
def Strand.pIdx (st : Strand) (r : Nat) : Nat := rotated 8 8 st.rot r

/-- Value and validity of an x register (R63). -/
def Strand.xGet (st : Strand) (r : Nat) : Nat := if r = 0 then 0 else (SMap.get st.x r 0).toNat
def Strand.xOk (st : Strand) (r : Nat) : Bool := r == 0 || st.xv.getLsbD r
/-- The 512 bits of a v register in a lanegroup, and its validity. -/
def Strand.vRaw (st : Strand) (r : Nat) : Vec := SMap.get st.v (st.vIdx r) 0
def Strand.vGet (st : Strand) (r g : Nat) : Nat := (st.vRaw r).toNat / 2 ^ (512 * g) % 2 ^ 512
def Strand.vOk (st : Strand) (r g : Nat) : Bool := st.vv.getLsbD (8 * st.vIdx r + g)
/-- Does a drain force a stage predicate false: p(P + t) in kernel iteration k whenever k - t is at or past the
iteration to re-enter (R198)? -/
def Strand.forcedOff (st : Strand) (r : Nat) : Bool :=
  match st.drain with
  | none => false
  | some d => decide (st.pbase ≤ r) && decide (r < st.pbase + st.stages) &&
      decide (d.iter + (r - st.pbase) ≤ (SMap.get st.loops 3 {}).iter)
/-- The 16 bits of a p register in a lanegroup, and its validity. -/
def Strand.pGet (st : Strand) (r g : Nat) : Nat :=
  if r = 0 then 0xFFFF else if st.forcedOff r then 0 else (SMap.get st.p (st.pIdx r) 0).toNat / 2 ^ (16 * g) % 2 ^ 16
def Strand.pOk (st : Strand) (r g : Nat) : Bool := r == 0 || st.pv.getLsbD (8 * st.pIdx r + g)
def Strand.cGet (st : Strand) (r : Nat) : Bool := r == 0 || st.c.getLsbD r
def Strand.cOk (st : Strand) (r : Nat) : Bool := r == 0 || st.cv.getLsbD r
def Strand.bGet (st : Strand) (r : Nat) : Nat := (SMap.get st.b r 0).toNat
def Strand.bOk (st : Strand) (r : Nat) : Bool := st.bv.getLsbD r
def Strand.mpGet (st : Strand) (r : Nat) : Nat := (SMap.get st.mp r 0).toNat
def Strand.mpOk (st : Strand) (r : Nat) : Bool := st.mpv.getLsbD r
def Strand.lcOk (st : Strand) (r : Nat) : Bool := st.lcv.getLsbD r
def Strand.lcGet (st : Strand) (r : Nat) : Nat := (SMap.get st.lc r 0).toNat
def Strand.agGet (st : Strand) (r : Nat) : AddrGen := SMap.get st.ag r {}
def Strand.agOk (st : Strand) (r : Nat) : Bool := st.agv.getLsbD r
def Strand.qGet (st : Strand) (r : Nat) : QReg := SMap.get st.q r {}
def Strand.setQ (st : Strand) (r : Nat) (v : QReg) : Strand := { st with q := SMap.put st.q r v {} }
def Strand.loop (st : Strand) (l : Nat) : LoopLevel := SMap.get st.loops l {}
def Strand.setLoop (st : Strand) (l : Nat) (v : LoopLevel) : Strand := { st with loops := SMap.put st.loops l v {} }

/-- A bit vector with a bit set. -/
def setOne {n : Nat} (b : BitVec n) (i : Nat) : BitVec n := b ||| BitVec.ofNat n (2 ^ i)
/-- A bit vector with a bit cleared. -/
def clearOne {n : Nat} (b : BitVec n) (i : Nat) : BitVec n := b &&& ~~~ BitVec.ofNat n (2 ^ i)

/-- Writes, with the valid bit; a write to x0, p0 or c0 is discarded (R64). -/
def Strand.xSet (st : Strand) (r v : Nat) : Strand :=
  if r = 0 then st else { st with x := SMap.put st.x r (BitVec.ofNat 64 v) 0, xv := setOne st.xv r }
def Strand.cSet (st : Strand) (r : Nat) (v : Bool) : Strand :=
  if r = 0 then st else { st with c := if v then setOne st.c r else clearOne st.c r, cv := setOne st.cv r }
def Strand.bSet (st : Strand) (r v : Nat) : Strand :=
  { st with b := SMap.put st.b r (BitVec.ofNat 12 v) 0, bv := setOne st.bv r }
def Strand.mpSet (st : Strand) (r v : Nat) : Strand :=
  { st with mp := SMap.put st.mp r (BitVec.ofNat 64 v) 0, mpv := setOne st.mpv r }
def Strand.lcSet (st : Strand) (r v : Nat) : Strand :=
  { st with lc := SMap.put st.lc r (BitVec.ofNat 32 v) 0, lcv := setOne st.lcv r }
def Strand.agSet (st : Strand) (r : Nat) (v : AddrGen) : Strand :=
  { st with ag := SMap.put st.ag r v {}, agv := setOne st.agv r }

/-- The valid bits `8 r + g` of a register for the lanegroups of a mask. -/
def groupBits (r lgm : Nat) : Nat := (lgm % 256) * 2 ^ (8 * r)

/-- A v register, by its place: the masked bytes change, valid in each lanegroup of the mask, also where no element is active, which R202
leaves open (log 15); a lanegroup that was invalid shows zero elsewhere. -/
def Strand.vPut (st : Strand) (place lgm : Nat) (mask : BitVec 512) (v : Vec) : Strand :=
  let m := BitVec.ofNat 4096 (spread 8 mask.toNat 512)
  let old := BitVec.ofNat 4096 (spread 512 (field st.vv.toNat (8 * place) 8) 8)
  { st with v := SMap.put st.v place ((SMap.get st.v place 0 &&& old &&& ~~~m) ||| (v &&& m)) 0,
            vv := st.vv ||| BitVec.ofNat 256 (groupBits place lgm) }

/-- A p register, by its place; bit `16 g + l` of the mask stands for lane `l` of lanegroup `g`. -/
def Strand.pPut (st : Strand) (place lgm : Nat) (mask : BitVec 512) (v : Vec) : Strand :=
  let m := mask.setWidth 128
  let old := BitVec.ofNat 128 (spread 16 (field st.pv.toNat (8 * place) 8) 8)
  if place = 0 then st else
  { st with p := SMap.put st.p place ((SMap.get st.p place 0 &&& old &&& ~~~m) ||| (v.setWidth 128 &&& m)) 0,
            pv := st.pv ||| BitVec.ofNat 128 (groupBits place lgm) }

/-! ### `acc` (R63, R64, R234) -/

/-- Element (i, j) of `acc`. -/
def Core.accGet (c : Core) (i j : Nat) : Nat := elem 32 (SMap.get c.acc i 0).toNat j
/-- `acc` with element (i, j) written and its row valid; a row that was invalid is zero elsewhere (R238). -/
def Core.accSet (c : Core) (i j v : Nat) : Core :=
  let old := if c.accv.getLsbD i then (SMap.get c.acc i 0).toNat else 0
  { c with acc := SMap.put c.acc i (BitVec.ofNat 4096 (setField old (32 * j) 32 v)) 0,
           accv := setOne c.accv i }
/-- Row and column of element `k` of a line (R234). -/
def accPlace (dir : AccDir) (idx k : Nat) : Nat × Nat :=
  match dir with
  | .h => (idx, k)
  | .v => (k, idx)
  | .d => (k, (k + idx) % 128)
/-- The rows that a line touches in the lanegroups of a mask (R234): elements 16 g to 16 g + 15. -/
def accRows (dir : AccDir) (idx lgm : Nat) : List Nat :=
  match dir with
  | .h => [idx]
  | _ => (groups lgm).flatMap fun g => (List.range 16).map fun l => 16 * g + l
/-- The elements of a line in a list of element numbers, written where the byte mask says. -/
def Core.accLine (c : Core) (dir : AccDir) (idx : Nat) (mask : BitVec 512) (v : Vec) : List Nat → Core
  | [] => c
  | k :: ks =>
    let (i, j) := accPlace dir idx k
    Core.accLine (if mask.getLsbD (4 * k) then c.accSet i j (elem 32 v.toNat k) else c) dir idx mask v ks

/-! ### The delivery buffer (R36 to R40, R59) -/

/-- The count by which the strand's results fall due (R35, R59). -/
def Strand.count (st : Strand) : Nat := if st.hnd then st.hbc else st.sbc

/-- Puts a result into the delivery buffer of the issuing strand, due `lat` bundles later (R36). -/
def State.post (s : State) (lat : Nat) (p : Pending) : State :=
  let st := s.me
  s.setMe { st with dbuf := st.dbuf ++ [{ p with due := st.count + lat, hnd := st.hnd, born := st.seq }] }

/-- A pending x result. -/
def State.postX (s : State) (lat d v : Nat) : State :=
  s.post lat { kind := .x, reg := d, due := 0, value := BitVec.ofNat 4096 (v % 2 ^ 64) }
/-- A pending c result with flags. -/
def State.postC (s : State) (lat d : Nat) (v : Bool) : State :=
  s.post lat { kind := .c, reg := d, due := 0, value := if v then 1 else 0 }

/-- The bits of a state register that a write keeps (R65 to R69, R114). -/
def fmtWrite (v : Nat) : Nat :=
  let rm := field v 0 3
  let dft := field v 8 4
  let dit := field v 12 4
  (if rm < 5 then rm else 0) + 8 * field v 3 2
    + 256 * (if dft < 14 then dft else 9) + 4096 * (if dit < 14 then dit else 2)

/-- CARAT after a write of GRADE, never looser than CAP (R111, R114). -/
def caratWrite (old v : Nat) : Nat := setField old 0 2 (min (field v 0 2) (field old 2 2))

/-- A state register written (R65). -/
def Strand.srSet (st : Strand) (n v : Nat) : Strand :=
  match n with
  | 0 => { st with fmt := BitVec.ofNat 64 (fmtWrite v) }
  | 1 => { st with carat := BitVec.ofNat 64 (caratWrite st.carat.toNat v) }
  | 3 => { st with tcause := BitVec.ofNat 64 (v % 2 ^ 12) }
  | 4 => { st with tinfo := BitVec.ofNat 64 v }
  | 5 => { st with tbundle := BitVec.ofNat 64 (v % 2 ^ 12) }
  | 6 => { st with tslot := BitVec.ofNat 64 (v % 2 ^ 4) }
  | 7 => { st with flags := BitVec.ofNat 64 (v % 2 ^ 6) }
  | _ => st

/-- Flags that become visible (R40). -/
def Strand.orFlags (st : Strand) (f : Nat) : Strand := { st with flags := st.flags ||| BitVec.ofNat 64 (f % 64) }

/-- The bytes of an address generator in a pending value: base, then strides (R191). -/
def agOfValue (v : Nat) : AddrGen :=
  { base := BitVec.ofNat 64 (elem 64 v 0), s0 := BitVec.ofNat 64 (elem 64 v 1), s1 := BitVec.ofNat 64 (elem 64 v 2),
    s2 := BitVec.ofNat 64 (elem 64 v 3), s3 := BitVec.ofNat 64 (elem 64 v 4) }
def agValue (a : AddrGen) : Nat :=
  ofElems 64 [a.base.toNat, a.s0.toNat, a.s1.toNat, a.s2.toNat, a.s3.toNat]

/-- A pending result takes its place in the registers, with its valid bit and its flags (R36, R40). -/
def State.apply (s : State) (sid : Nat) (p : Pending) : State :=
  let st := s.strand sid
  let v := p.value.toNat
  let core := s.core (coreOf sid)
  let s := match p.kind with
    | .acc => s.setCore (coreOf sid) (core.accLine p.dir p.idx p.mask p.value (List.range 128))
    | .accAll => s.setCore (coreOf sid) ({ core with acc := [], accv := BitVec.allOnes 128 })
    | _ => s
  let st := match p.kind with
    | .x => st.xSet p.reg v
    | .v => st.vPut p.reg p.lgm p.mask p.value
    | .p => st.pPut p.reg p.lgm p.mask p.value
    | .c => st.cSet p.reg (v % 2 == 1)
    | .b => st.bSet p.reg v
    | .mp => st.mpSet p.reg v
    | .lc => st.lcSet p.reg v
    | .ag => st.agSet p.reg (agOfValue v)
    | .sr => st.srSet p.reg v
    | .acc | .accAll | .flags => st
  s.setStrand sid (st.orFlags p.flags)

/-- Is a pending result due at the count that the strand stands at (R36, R59)? -/
def Strand.isDue (st : Strand) (p : Pending) : Bool := p.hnd == st.hnd && decide (p.due ≤ st.count)

/-- The results that are due, in the order in which they take effect: by due count, then by issue (R37); a write of
FLAGS before the flags of operations due with it. -/
def dueOrder (l : List Pending) : List Pending :=
  let ins := fun (acc : List Pending) (p : Pending) =>
    let key := fun (q : Pending) => 2 * q.due + (if q.kind == .sr && q.reg == 7 then 0 else 1)
    acc.filter (fun q => decide (key q ≤ key p)) ++ [p] ++ acc.filter (fun q => decide (key p < key q))
  l.foldl ins []

/-- Delivers every result that is due (R36, R38). -/
def State.deliverDue (s : State) (sid : Nat) : State :=
  let st := s.strand sid
  let due := dueOrder (st.dbuf.filter st.isDue)
  let s := s.setStrand sid { st with dbuf := st.dbuf.filter fun p => !st.isDue p }
  due.foldl (fun s p => s.apply sid p) s

/-- Does a due result still have to arrive (R38)? -/
def Strand.lateResult (st : Strand) : Bool := st.dbuf.any fun p => st.isDue p && !p.arrived

/-! ### Tiles (R273 to R277) -/

/-- The bytes of the MX scale region (R275). -/
def Tile.scaleBytes (t : Tile) : Nat :=
  if !t.ety.isMx then 0
  else if t.level == .bstack then 128 * ((t.rows + 31) / 32) else t.rows * ((t.cols + 31) / 32)
/-- The bytes of a tile's image without its final padding. -/
def Tile.imageBytes (t : Tile) : Nat :=
  if t.level == .bstack then t.rows * t.pitch + t.scaleBytes else t.rows * t.pitch * 64 + t.scaleBytes
/-- The lines of a tile (R274, R276). -/
def Tile.lines (t : Tile) : Nat := (t.imageBytes + 63) / 64

def Core.spLine (c : Core) (l : Nat) : Nat := (SMap.get c.sp l 0).toNat
def Core.setSp (c : Core) (l v : Nat) : Core := { c with sp := SMap.put c.sp l (BitVec.ofNat 512 v) 0 }
def Core.bLine (c : Core) (l : Nat) : Nat := (SMap.get c.bst l 0).toNat
def Core.setB (c : Core) (l v : Nat) : Core := { c with bst := SMap.put c.bst l (BitVec.ofNat 512 v) 0 }
/-- The scratchpad, and the B-stack, with some lines replaced. -/
def Core.withLines (c : Core) (lines : SMap (BitVec 512)) : Core :=
  { c with sp := lines.foldl (fun m e => SMap.put m e.1 e.2 0) c.sp }
def Core.withBLines (c : Core) (lines : SMap (BitVec 512)) : Core :=
  { c with bst := lines.foldl (fun m e => SMap.put m e.1 e.2 0) c.bst }

/-- A run of keys that is not kept. -/
def dropRange {α : Type} (m : SMap α) (base len : Nat) : SMap α :=
  m.filter fun e => decide (e.1 < base) || decide (base + len ≤ e.1)

/-- The package index of placement core `c` of cluster `k`. -/
def coreAt (k c : Nat) : Nat := 8 * k + c

/-- Numbers that a run does not hold. -/
def dropNats (l : List Nat) (base len : Nat) : List Nat := l.filter fun n => decide (n < base) || decide (base + len ≤ n)

/-- A tile's lines are zeroed, with their poison and their checksum counts (R277, R124). -/
def State.zeroTile (s : State) (k : Nat) (t : Tile) : State :=
  let n := coreAt k t.core
  let c := s.core n
  if t.level == .bstack then
    s.setCore n { c with bst := dropRange c.bst t.base t.lines, bPoison := dropNats c.bPoison t.base t.lines,
                         bScaleBad := dropNats c.bScaleBad (64 * t.base) (64 * t.lines),
                         counts := dropRange c.counts (4 * t.base) (4 * t.lines) }
  else
    s.setCore n { c with sp := dropRange c.sp t.base t.lines,
                         spPoison := dropNats c.spPoison t.base t.lines,
                         scaleBad := dropNats c.scaleBad (512 * t.base) (512 * t.lines) }

/-- A handle of a cluster is freed: its lines are zeroed and it names nothing (R277, R279). -/
def State.freeTile (s : State) (k h : Nat) : State :=
  match SMap.find (s.cluster k).tiles h with
  | none => s
  | some t =>
    let s := s.zeroTile k t
    let cl := s.cluster k
    s.setCluster k { cl with tiles := SMap.erase cl.tiles h }

/-- Tiles that a command which has begun works on; those of a group that has ended are not free before its end (R309, log 12). -/
def CeCmd.working (c : CeCmd) : List Tile := if c.begun then c.dst.toList ++ c.src.toList else []

/-- Do two tiles have a line of one memory in common? -/
def Tile.overlaps (t u : Tile) : Bool :=
  t.core == u.core && (t.level == .bstack) == (u.level == .bstack) && decide (t.base < u.base + u.lines) && decide (u.base < t.base + t.lines)

/-- A tile that no handle names any more is zeroed, now, or when the command that works on it ends (R277, R309). -/
def State.releaseTile (s : State) (k : Nat) (t : Tile) : State :=
  if ((s.cluster k).ceq.flatMap CeCmd.working).any t.overlaps then s else s.zeroTile k t

/-- Every handle of a cluster's tile table is freed (R277, R392). -/
def State.freeTable (s : State) (k : Nat) : State :=
  let s := ((s.cluster k).tiles.map (·.2)).foldl (fun s t => s.releaseTile k t) s
  s.setCluster k { s.cluster k with tiles := [] }

/-- Every handle of the shadow tile table is freed, its lines zeroed (R406). -/
def State.freeShadow (s : State) (k : Nat) : State :=
  let s := ((s.cluster k).shadow.map (·.2)).foldl (fun s t => s.releaseTile k t) s
  s.setCluster k { s.cluster k with shadow := [] }

/-! ### The end of strands and groups (R303, R309, R390 to R392, R405, R472) -/

/-- An access whose stores reach memory after its strand is gone (R309): loads and parked parts are dropped. -/
def Access.survives (a : Access) : Option Access :=
  match a.op with
  | .load | .gather | .epstore => none
  | _ =>
    let parts := a.parts.filter fun p => !p.parked && decide (p.level < 7)
    if parts.isEmpty then none else some { a with parts := parts }

/-- What the counters of a strand add to the totals of its work item (R127). -/
def Strand.counted (st : Strand) : Credits :=
  let e := fun (n lo w : Nat) => field (SMap.get st.errcnt n (0 : Word)).toNat lo w
  { det := (List.range 4).map fun n => e n 0 32, rpl := (List.range 4).map fun n => e n 32 16,
    ckr := field st.carat.toNat 8 16, resmax := field st.carat.toNat 32 32 }

/-- Two lists of counts added. -/
def addCounts (a b : List Nat) : List Nat := List.zipWith (· + ·) a b

/-- Credits added together (R118, R127). -/
def Credits.add (a b : Credits) : Credits :=
  { det := addCounts a.det b.det, rpl := addCounts a.rpl b.rpl, ckr := a.ckr + b.ckr,
    resmax := max a.resmax b.resmax, grades := a.grades ||| b.grades }

/-- The counters of a strand that ends reach the totals of its work item (R127). -/
def State.countStrand (s : State) (st : Strand) : State :=
  match SMap.find s.cmd.launches st.launch with
  | some l => s.setLaunch st.launch { l with credits := l.credits.add st.counted }
  | none => s

/-- The owned units of a core, empty and owned by no strand (R309). -/
def Core.idleUnits (c : Core) : Core :=
  { c with owner := none, calls := [], seqr := {}, trWidth := 32, trOpen := none, trClosed := [], rowq := [], tables := [], acc := [],
           accv := 0 }

/-- The answers that some accesses await from peers are awaited no longer (R467). -/
def State.forgetAsks (s : State) (l : List Access) : State :=
  let ids := l.flatMap fun a => a.parts.filterMap (·.ask)
  if ids.isEmpty then s else
  let left := s.link.asks.filter fun (k : Ask) => !(ids.contains k.id && k.answer.isSome)
  let mark := fun (k : Ask) => if ids.contains k.id then { k with own := false } else k
  { s with link := { s.link with asks := left.map mark } }

/-- Nothing happens before the accesses of an agent any longer, and it has read nothing: its strand is gone. -/
def Mem.forget (m : Mem) (agent : Nat) : Mem :=
  { m with narrow := m.narrow.map fun w => { w with before := w.before.filter (·.1 != agent), seen := w.seen.filter (· != agent) } }

/-- What an agent has read, and what happens before its accesses, is another's: its strand has another bank (R399, R424). -/
def Mem.rename (m : Mem) (agent new : Nat) : Mem :=
  let f := fun (x : Nat) => if x = agent then new else x
  { m with narrow := m.narrow.map fun w => { w with before := w.before.map fun e => (f e.1, e.2), seen := w.seen.map f } }

/-- The agent that stands for a strand of a group while it has no bank. -/
def savedAgent (gid place : Nat) : Nat := 2 ^ 20 + 64 * gid + place

/-- A strand returns to UNALLOC: its bank is zero (R303); stores that its queues accepted go on to memory, and a matrix call
stops (R309). -/
def State.dropStrand (s : State) (sid : Nat) : State :=
  let st := s.strand sid
  let left : List (Nat × Access) := (st.sq.filterMap Access.survives).map fun a => (sid, { a with launch := st.launch })
  let s := (s.countStrand st).forgetAsks st.lq
  let s : State := { s with strands := SMap.erase s.strands sid, halts := SMap.erase s.halts sid, mem := { s.mem.forget sid with orphans := s.mem.orphans ++ left } }
  let c := s.core (coreOf sid)
  if c.owner = some sid then s.setCore (coreOf sid) c.idleUnits else s

/-- The commands of a group to the copy engines and to the collective engine that have not begun are cancelled (R309). -/
def State.cancelCommands (s : State) (gid : Nat) : State :=
  { s with clusters := s.clusters.map fun e => (e.1, { e.2 with ceq := e.2.ceq.filter fun (c : CeCmd) => c.grp != gid || c.begun }),
           link := { s.link with cols := s.link.cols.filter fun (c : ColCmd) => c.grp != gid || c.begun } }

/-- Does the group stand in the cluster's foreground? -/
def Group.foreground (g : Group) : Bool :=
  match g.state with
  | .waking | .running | .draining => true
  | .switching => !g.entering
  | .retained => g.prior != .shadowed
  | _ => false

/-- Does the group stand in the cluster's shadow set? One that enters the foreground does until every core has swapped (R398). -/
def Group.shadow (g : Group) : Bool :=
  g.state == .preloaded || g.state == .shadowed || (g.state == .switching && g.entering) || (g.state == .retained && g.prior == .shadowed)

/-- Does a group that has not ended satisfy a condition? -/
def State.anyGroup (s : State) (f : Group → Bool) : Bool :=
  s.cmd.groups.any fun e => e.2.state != .halted && e.2.state != .faulted && f e.2

/-- Once its last group has ended a context is OPEN again, and a kernel record RESIDENT (R299, R383). -/
def State.settleEnded (s : State) (ctx kernel : Nat) : State :=
  let c := s.ctx ctx
  let s := if c.state == .active && !s.anyGroup (fun g => g.ctx == ctx) then s.setCtx ctx { c with state := .opened } else s
  match SMap.find s.cmd.kernels kernel with
  | some k =>
    if k.state == .bound && !s.anyGroup (fun g => g.kernel == kernel) then
      { s with cmd := { s.cmd with kernels := SMap.insert s.cmd.kernels kernel { k with state := .resident } } }
    else s
  | none => s

/-- With no group of a cluster SWITCHING no swap is under way. -/
def State.settleSwap (s : State) (k : Nat) : State :=
  if s.anyGroup fun g => g.cluster == k && g.state == .switching then s else s.setCluster k { s.cluster k with swapped := [] }

/-- Sorted list of numbers with one added. -/
def insertNat : List Nat → Nat → List Nat
  | [], n => [n]
  | m :: l, n => if n < m then n :: m :: l else if n = m then m :: l else m :: insertNat l n

/-- The cores of a group's placement. -/
def Group.cores (g : Group) : List Nat := g.placements.foldl (fun l p => insertNat l (coreAt g.cluster p.core)) []

/-- The groups that stand on clusters, in a foreground or in a shadow set. -/
def State.standing (s : State) : List Group :=
  (s.cmd.groups.filter fun e => e.2.state != .halted && e.2.state != .faulted && e.2.state != .imaged).map (·.2)

/-- Is 24k forced on a core for the context of a group that stands there (R113, R352)? -/
def State.forceAsked (s : State) (core : Nat) : Bool := s.standing.any fun g => g.cores.contains core && (s.ctx g.ctx).force

/-- Forced 24k set or released on cores, as the contexts that run there ask: as groups come to stand there and leave, and on FORCE (R113, R352). -/
def State.forceCores (s : State) (cores : List Nat) : State :=
  cores.foldl (fun s n => s.setCore n { s.core n with force := s.forceAsked n }) s

/-- A group ends: its strands pass to UNALLOC, its commands that have not begun are cancelled, its tiles are freed, its open packets
are discarded, its images released (R303, R309, R392, R406, R472). -/
def State.endGroup (s : State) (gid : Nat) (into : GroupState) : State :=
  let g := s.group gid
  if g.state == .halted || g.state == .faulted then s else
  let s := (g.strands.foldl State.dropStrand (g.saved.foldl State.countStrand s)).cancelCommands gid
  let s := if g.foreground then s.freeTable g.cluster else if g.shadow then s.freeShadow g.cluster else s
  let s := { s with link := { s.link with
    packets := s.link.packets.filter fun p => p.sealed || p.launch != g.launch || p.task != g.task },
                    halts := s.halts.filter fun e => e.1 / 64 != savedAgent gid 0 / 64 }
  let s := s.setGroup gid { g with state := into, strands := [], units := [], saved := [], tiles := [], images := none, unitImages := [],
                                   held := [], entering := false, unissued := false }
  ((s.forceCores g.cores).settleSwap g.cluster).settleEnded g.ctx g.kernel

/-- The groups of a launch that have not ended. -/
def State.groupsOf (s : State) (lid : Nat) : List Nat :=
  (s.cmd.groups.filter fun e => e.2.launch == lid && e.2.state != .halted && e.2.state != .faulted).map (·.1)

/-- The placement of a strand in its group (R375, R472). -/
def State.placeOf (s : State) (sid : Nat) : Nat := (s.group (s.strand sid).grp).strands.idxOf sid

/-- Does a command of a placement of a group belong to the strand of a bank? -/
def State.issued (s : State) (sid grp place : Nat) : Bool := (s.strand sid).grp == grp && s.placeOf sid == place

/-- The bank of a placement of a group that is in its cluster. -/
def State.bankAt (s : State) (grp place : Nat) : Option Nat :=
  match (s.group grp).strands[place]? with
  | some n => if (s.strand n).grp = grp then some n else none
  | none => none

/-- The strand of a placement of a group, in its bank or as it was saved. -/
def State.memberAt (s : State) (grp place : Nat) : Option Strand :=
  match s.bankAt grp place with
  | some n => some (s.strand n)
  | none => (s.group grp).saved[place]?

/-- The commands to copy engines that a strand has issued and that have not completed, wherever it now runs. -/
def State.commandsOf (s : State) (sid : Nat) : List CeCmd :=
  s.clusters.flatMap fun e => e.2.ceq.filter fun c => s.issued sid c.grp c.place

/-- The collective commands that a strand has issued and that have not completed. -/
def State.colsOf (s : State) (sid : Nat) : List ColCmd := s.link.cols.filter fun c => s.issued sid c.grp c.place

/-- The superstep barrier of a launch whose last group has ended is CLOSED (R429). -/
def State.closeBarrier (s : State) (lid : Nat) : State :=
  if (s.groupsOf lid).isEmpty then s.setLaunch lid { s.launch lid with barrier := .closed, carried := [] } else s

/-- The superstep barrier of a launch of which a group is aborted is ABORTED (R429). -/
def State.abortBarrier (s : State) (lid : Nat) : State := s.setLaunch lid { s.launch lid with barrier := .aborted, carried := [] }

/-- Every group of a launch is aborted; its superstep barrier is ABORTED, and CLOSED once the last of them has ended (R309, R429). -/
def State.abortLaunch (s : State) (lid : Nat) : State :=
  ((s.groupsOf lid).foldl (fun s g => s.endGroup g .faulted) (s.abortBarrier lid)).closeBarrier lid

/-- A launch's status is fixed, once, with its escalation record and the time (R324, R356, R392); of one that no task started the
debug level of this moment is the one to report (R337). -/
def State.fixStatus (s : State) (lid : Nat) (status : Status) (esc : EscRecord) : State :=
  let l := s.launch lid
  match l.status with
  | some _ => s
  | none =>
    let s := s.setLaunch lid { l with status := some status, esc := esc, tend := s.power.dtime,
                                      debugMax := if l.started = 0 then s.sec.debug else l.debugMax }
    { s with cmd := { s.cmd with statusOrder := s.cmd.statusOrder ++ [lid] } }

/-- The launches of a context whose status is not fixed. -/
def State.openLaunches (s : State) (ctx : Nat) : List Nat :=
  (s.cmd.launches.filter fun e => e.2.ctx == ctx && e.2.status == none).map (·.1)

/-- Launches end with a status, their groups aborted. -/
def State.endLaunches (s : State) (ids : List Nat) (status : Status) (esc : EscRecord) : State :=
  ids.foldl (fun s lid => (s.abortLaunch lid).fixStatus lid status esc) s

/-- A launch ends FAULT by escalation: its groups are aborted, and with policy bit 0 every other launch of the
context completes ABORT (R307, R309). -/
def State.faultLaunch (s : State) (lid : Nat) (esc : EscRecord) : State :=
  let ctx := (s.launch lid).ctx
  let s := (s.abortLaunch lid).fixStatus lid .fault esc
  if bit (s.ctx ctx).policy 0 then s.endLaunches ((s.openLaunches ctx).filter (· != lid)) .abort {} else s

/-! ### Snapshots that a trap or a record triggers (R497) -/

/-- Every block's snapshot registers are latched. -/
def State.latch (s : State) : State :=
  { s with power := { s.power with
      snap := some { tick := s.tick, groups := s.cmd.groups, strands := s.strands, cores := s.cores, clusters := s.clusters, dies := s.dies,
                     ports := s.link.ports, temps := s.power.temps, packets := s.link.packets },
      snapDone := true } }

/-- Does SNAPCTL wait for its trigger: ARM stands and nothing was latched since (R497, R500)? -/
def State.armed (s : State) : Bool := s.power.snapArm && !s.power.snapDone

/-- An armed trigger whose source and code match latches the snapshot (R497). -/
def State.trigger (s : State) (src code : Nat) : State :=
  if s.armed && s.power.snapSrc == src && s.power.snapCode == code then s.latch else s

/-! ### Taking a trap, and returning from one (R57 to R60, R304 to R308) -/

/-- TCAUSE of a trap taken now: the cause, the die clock and the split factor (R69, R484). -/
def State.tcauseOf (s : State) (sid cause : Nat) : Nat :=
  let d := s.die (dieOf sid)
  cause + 2 ^ 8 * (if d.stretch then 2 else if d.hop != .none then 1 else 0)
    + 2 ^ 10 * (if d.split = 1 then 0 else if d.split = 2 then 1 else 2)

/-- The escalation record of a strand (R308); KIND bit 0, in a handler, is the strand's own; `kind` gives bit 1, no entry, and bit 2,
image check. -/
def State.escOf (s : State) (sid cause slot info bundle kind : Nat) : EscRecord :=
  { sid := sid, cause := cause, slot := slot, bundle := bundle, kind := kind / 2 * 2 + ofBit (s.strand sid).hnd, info := info,
    sbc := (s.strand sid).sbc, time := s.power.dtime }

/-- Taking a trap at bundle `idx` (R57, R59, R304). The trap registers record it; with a handler for the cause the
strand enters it on a fresh handler count, its bundle count, branch and loops frozen; otherwise, in a handler, or
for a fatal cause, it escalates (R307). -/
def State.takeTrap (s : State) (sid cause slot info idx : Nat) : State :=
  let s := s.trigger 1 cause
  let st := s.strand sid
  let entry := SMap.find (s.half sid).traps cause
  let st1 := { st with tcause := BitVec.ofNat 64 (s.tcauseOf sid cause), tinfo := BitVec.ofNat 64 info,
                       tbundle := BitVec.ofNat 64 (idx % 2 ^ 12), tslot := BitVec.ofNat 64 slot }
  let escalate := fun (kind : Nat) =>
    (s.setStrand sid st1).faultLaunch st.launch (s.escOf sid cause slot info (idx % 2 ^ 12) kind)
  if 0x40 ≤ cause || st.hnd then escalate 0
  else match entry with
    | none => escalate 2
    | some e => s.setStrand sid { st1 with hnd := true, hbc := 0, hnext := e, hbranch := none, hgpos := 0,
                                           hwritten := [], stall := none }

/-- Return from a trap (R306): HND clears, the strand goes on at TBUNDLE at its frozen count; another index than the
trapping one opens a new issue group. Markers that the handler did not consume stay, for the interrupted code's next `join` (R418). -/
def Strand.fromTrap (st : Strand) (target : Nat) : Strand :=
  { st with hnd := false, hbc := 0, hbranch := none,
            gpos := if target = st.next then st.gpos else 0, next := target,
            gwritten := if target = st.next then st.gwritten else [], hwritten := [],
            markers := st.markers.map fun m => { m with hnd := false } }

/-- An escalation that has no bundle of its own: a parked access, a failed check, BUDGET (R307, R308, R443). -/
def State.escalateOutside (s : State) (sid cause info kind : Nat) : State :=
  s.faultLaunch (s.strand sid).launch (s.escOf sid cause 0 info 0 kind)

/-! ### Ending the bundle's slot -/

/-- The bundle does not issue: a slot traps. The trap is taken on the state as it stands; ILLENC names the whole
bundle (R58). -/
def State.endTrap (s : State) (cause info : Nat) : State :=
  let slot := if cause = cILLENC then 15 else s.iss.slot
  let t := s.takeTrap s.cur cause slot info s.iss.idx
  { t with iss := { s.iss with ended := some (.trap slot cause info) } }

/-- The bundle does not issue: a slot waits (R53). -/
def State.endStall (s : State) (why : Stall) : State :=
  let t := s.setMe { s.me with stall := some why }
  { t with iss := { s.iss with ended := some (.stall why) } }

/-- The bundle does not issue: poison in a rollback loop starts a rollback (R198). -/
def State.endRollback (s : State) (iter : Nat) : State :=
  { s with iss := { s.iss with ended := some (.rollback iter) } }

/-- The deferred records of a cause are consumed, over the calls that a strand issued up to a bundle number (R247). -/
def State.consumeRecords (s : State) (sid upto cause : Nat) : State :=
  let n := coreOf sid
  let c := s.core n
  s.setCore n { c with calls := c.calls.map fun m =>
    if m.sid = sid && m.seq ≤ upto then { m with faults := m.faults.filter fun f => f.cause != cause } else m }

/-- The bundle does not issue: a join raises a deferred fault, and its records are consumed. -/
def State.endDeferred (s : State) (cause info upto : Nat) : State :=
  let t := (s.consumeRecords s.cur upto cause).endTrap cause info
  { t with iss := { t.iss with consumed := some (upto, cause) } }

/-- A result as the next state. -/
def finish (s : State) : Res → Host.Outcome State Fault Refusal
  | .ok t => .next t
  | .trap c info => .next (s.endTrap c info)
  | .stall why => .next (s.endStall why)
  | .rollback it => .next (s.endRollback it)
  | .deferred c info upto => .next (s.endDeferred c info upto)

/-- A result passed on. -/
def Res.bind (r : Res) (f : State → Res) : Res :=
  match r with
  | .ok s => f s
  | .trap c i => .trap c i
  | .stall w => .stall w
  | .rollback i => .rollback i
  | .deferred c i u => .deferred c i u

/-- The first trap of a list of checks, or the rest. -/
def firstTrap : List (Option (Nat × Nat)) → (Unit → Res) → Res
  | [], k => k ()
  | some (c, i) :: _, _ => .trap c i
  | none :: l, k => firstTrap l k

/-- A trap where a condition holds. -/
def trapIf (b : Bool) (c i : Nat) : Option (Nat × Nat) := if b then some (c, i) else none

/-- Allocated strands of a core. -/
def State.strandsOn (s : State) (core : Nat) : List Nat := ((List.range 8).map (8 * core + ·)).filter fun n => (s.strand n).life != .unalloc

/-- The markers that a `join` waits for (R417, R418). -/
def Strand.joinMarkers (st : Strand) : List Marker := if st.hnd then st.markers.filter (·.hnd) else st.markers

end Sys2Proof.Machine
end

