-- ==== Sys2Proof/Machine/Operands.lean ====
section
/-! DEFINITION. The registers that each form reads and writes: the validity checks before a bundle has any effect
(R43, R58, R201), and the flat register indices of the group checks (R41, R44, R45, R134). -/

namespace Sys2Proof.Machine

/-- A register that a form reads (R70). -/
inductive RRef where
  | x (n : Nat) | v (n g : Nat) | p (n g : Nat) | c (n : Nat) | b (n : Nat) | q (n : Nat) | mp (n : Nat)
  | ag (n : Nat) | acc (row : Nat)
  deriving DecidableEq, Repr

/-- Is it a stream register? -/
def RRef.isQ : RRef → Bool
  | .q _ => true
  | _ => false

/-- TINFO of INVREG (R70). -/
def RRef.info : RRef → Nat
  | .x n => n
  | .v n g => n + 2 ^ 6 * 1 + 2 ^ 10 * g
  | .p n g => n + 2 ^ 6 * 2 + 2 ^ 10 * g
  | .c n => n + 2 ^ 6 * 3
  | .b n => n + 2 ^ 6 * 4
  | .q n => n + 2 ^ 6 * 5
  | .mp n => n + 2 ^ 6 * 6
  | .ag n => n + 2 ^ 6 * 8
  | .acc r => 2 ^ 6 * 9 + 2 ^ 13 * r

/-- Is the register's valid bit set (R63, R287)? -/
def RRef.ok (st : Strand) (core : Core) : RRef → Bool
  | .x n => st.xOk n
  | .v n g => st.vOk n g
  | .p n g => st.pOk n g
  | .c n => st.cOk n
  | .b n => st.bOk n
  | .q n => (st.qGet n).kind != .unbound
  | .mp n => st.mpOk n
  | .ag n => st.agOk n
  | .acc r => core.accv.getLsbD r

/-- The flat index of a register that the group checks cover; the constants x0, p0 and c0 and the stream registers
are not covered (R45, R134). -/
def RRef.flat : RRef → Option Nat
  | .x n => if n = 0 then none else some n
  | .v n _ => some (0x40 + n)
  | .p n _ => if n = 0 then none else some (0x60 + n)
  | .c n => if n = 0 then none else some (0x70 + n)
  | .b n => some (0x78 + n)
  | .q _ => none
  | .mp n => some (0x80 + n)
  | .ag n => some (0x90 + n)
  | .acc _ => some 0x98

/-! ### Operand lists -/

/-- A v register in each lanegroup of a mask. -/
def vRefs (r lgm : Nat) : List RRef := (groups lgm).map (.v r)
/-- A p register in each lanegroup of a mask. -/
def pRefs (r lgm : Nat) : List RRef := (groups lgm).map (.p r)
/-- A vector source: v0 to v31, or q0 to q7 as 32 to 39 (R204). -/
def srcRefs (r lgm : Nat) : List RRef := if r < 32 then vRefs r lgm else [.q (r - 32)]
/-- The rows of an acc line in the lanegroups of a mask (R64). -/
def accRefs (dir : AccDir) (idx lgm : Nat) : List RRef := (accRows dir idx lgm).map .acc
/-- The generator of a tile operand (R281). -/
def tileRefs (t : TileArg) : List RRef := if t.agv then [.ag t.ag] else []

/-- The routine that an index names in a microprogram store: its first word and its end, the next declared start or
the number of words, which the table keeps under index 64 (R379). -/
def Core.routine (c : Core) (idx : Nat) : Option (Nat × Nat) :=
  match SMap.find c.routines idx with
  | none => none
  | some start =>
    let later := (c.routines.map (·.2)).filter fun e => decide (start < e)
    some (start, later.foldl min 512)

/-- The micro-word at an index of the store, as the sequencer opens it (R331). -/
def Core.microAt (c : Core) (u : Nat) : Nat :=
  match SMap.find c.mstore u with
  | none => 0
  | some w => openCode c.microKey (codeTweak c.microLoad 1 u) 16 w.toNat

/-- A routine's micro-operations, in word order (R379). -/
def Core.routineOps (c : Core) (idx : Nat) : List Instr :=
  match c.routine idx with
  | none => []
  | some (lo, hi) => (List.range (hi - lo)).filterMap fun k => decodeMicro (c.microAt (lo + k))

/-- The mp registers that a micro-operation names (R152, R242). -/
def Instr.mpUsed : Instr → List Nat
  | .aload ma _ => [ma]
  | .bsel ma => [ma]
  | .scale ma mb => [ma, mb]
  | .drain ma _ => [ma]
  | .mloop (.mp a) => [a]
  | _ => []

/-- The operand mask of a routine: the mp registers that its micro-words name (R242). -/
def Core.operandMask (c : Core) (idx : Nat) : List Nat :=
  let used := (c.routineOps idx).flatMap Instr.mpUsed
  (List.range 8).filter fun r => used.contains r

/-- The registers that a form reads, in the order in which an invalid one is reported: A, B, C, PR, and within one
operand the lowest lanegroup (R201). -/
def Instr.sources (core : Core) : Instr → List RRef
  | .add _ _ a b | .sub _ _ a b | .mul _ _ a b | .mulh _ _ a b | .div _ _ a b | .rem _ _ a b | .and _ _ a b
  | .or _ _ a b | .xor _ _ a b | .andn _ _ a b | .shl _ _ a b | .shr _ _ a b | .rotl _ _ a b | .min _ _ a b
  | .max _ _ a b | .cmp _ _ _ a b => [.x a, .x b]
  | .addI _ _ a _ | .subI _ _ a _ | .mulI _ _ a _ | .andI _ _ a _ | .orI _ _ a _ | .xorI _ _ a _ | .andnI _ _ a _
  | .shlI _ _ a _ | .shrI _ _ a _ | .rotlI _ _ a _ | .minI _ _ a _ | .maxI _ _ a _ | .cmpI _ _ _ a _
  | .clz _ _ a | .ctz _ _ a | .popc _ _ a | .ext _ _ a | .movhi _ a _ | .bfx _ _ a _ _ | .mts a _
  | .halloc _ _ _ a | .hfree a => [.x a]
  | .bfi _ d a _ _ => [.x a, .x d]
  | .sel _ _ a b cn => [.x a, .x b, .c cn]
  | .prep _ (.reg a) => [.x a]
  | .br bt cn _ | .call bt cn _ => [.b bt, .c cn]
  | .setcar (.reg a) => [.x a]
  | .fadd h b | .fsub h b | .fmul h b | .fmin h b | .fmax h b | .fcpys h b | .fcmp _ h b | .fscale h b
  | .iadd h b | .isub h b | .imul h b _ | .iadds h b | .isubs h b | .iand h b | .ior h b | .ixor h b | .ishl h b _
  | .ishr h b | .imin h b | .imax h b | .icmp _ h b | .vperm h b =>
    srcRefs h.a h.lgm ++ srcRefs b h.lgm ++ pRefs h.pr h.lgm
  | .fma h b c | .fms h b c | .fnma h b c | .imad h b c _ =>
    srcRefs h.a h.lgm ++ srcRefs b h.lgm ++ vRefs c h.lgm ++ pRefs h.pr h.lgm
  | .vsel h b c => srcRefs h.a h.lgm ++ srcRefs b h.lgm ++ pRefs c h.lgm ++ pRefs h.pr h.lgm
  | .fabs h | .fneg h | .fclass h _ | .frecpe h | .frsqe h | .fscaleI h _ | .fround _ h | .cvt h _ _ | .bpq h _
  | .iaddI h _ | .isubI h _ | .iandI h _ | .iorI h _ | .ixorI h _ | .ishlI h _ | .ishrI h _ | .iminI h _
  | .imaxI h _ | .iabs h _ | .icmpI _ h _ | .ipopc h | .vmov h | .vshuf h _ | .vext h _ | .vred _ h =>
    srcRefs h.a h.lgm ++ pRefs h.pr h.lgm
  | .mxq h b _ sty => srcRefs h.a h.lgm ++ (if sty == .f32 then srcRefs b h.lgm else []) ++ pRefs h.pr h.lgm
  | .mxdq h b _ => srcRefs h.a h.lgm ++ srcRefs b h.lgm ++ pRefs h.pr h.lgm
  | .vmovi lgm pr _ _ _ => pRefs pr lgm
  | .vbcast h | .vins h _ => .x h.a :: pRefs h.pr h.lgm
  | .xcopy h s | .xbcast h s => .v h.a s :: pRefs h.pr h.lgm
  | .pand lgm pr _ a b | .por lgm pr _ a b | .pxor lgm pr _ a b => pRefs a lgm ++ pRefs b lgm ++ pRefs pr lgm
  | .pnot lgm pr _ a | .pmov lgm pr _ a | .vany lgm pr _ a | .vall lgm pr _ a | .pcnt lgm pr _ a =>
    pRefs a lgm ++ pRefs pr lgm
  | .accrd lgm pr _ dir idx _ | .acccvt lgm pr dir idx _ _ => accRefs dir idx lgm ++ pRefs pr lgm
  | .accwr lgm pr v _ _ _ => vRefs v lgm ++ pRefs pr lgm
  | .accclr lgm pr _ _ _ => pRefs pr lgm
  | .mset _ x => [.x x]
  | .mcall idx => .mp 7 :: ((core.operandMask idx).filter (· != 7)).map .mp
  | .trpush v _ => vRefs v 255
  | .ldSp t | .ldB t => tileRefs t
  | .stSp t => tileRefs t ++ vRefs t.r t.lgm
  | .ldG _ a _ _ _ _ => [.x a]
  | .gath _ a _ _ _ lgm => vRefs a lgm
  | .amo _ _ a b _ _ _ _ => [.x a, .x b]
  | .cas _ a b c _ _ _ _ => [.x a, .x b, .x c]
  | .qbind _ ag _ => [.ag ag]
  | .stG vs a b _ _ _ _ lgm | .epSt vs a b _ _ lgm => (if vs then vRefs a lgm else [.x a]) ++ [.x b]
  | .scat a b _ _ _ lgm => vRefs a lgm ++ vRefs b lgm
  | .qout a b _ _ _ _ => [.q a, .x b]
  | .cp c | .cpg c | .cps c | .stage c | .sealRec c | .openRec c | .col _ c => [.x c.a, .x c.b, .x c.c]
  | .ckpt a _ _ => [.x a]
  | .pf a b _ | .res a b _ | .meas a b _ _ => [.x a, .x b]
  | .lset _ (.reg x) _ _ _ => [.x x]
  | .lbrk _ cn _ => [.c cn]
  | .agset _ x => [.x x]
  | .agstr ag _ x => [.ag ag, .x x]
  | _ => []

/-- The flat indices of x, v, p and c destinations; the constants are not covered (R45). -/
def fx (d : Nat) : List Nat := if d = 0 then [] else [d]
def fv (d : Nat) : List Nat := [0x40 + d]
def fp (d : Nat) : List Nat := if d = 0 then [] else [0x60 + d]
def fc (d : Nat) : List Nat := if d = 0 then [] else [0x70 + d]

/-- The flat indices of the registers that a form writes, implicit ones among them (R41, R134). -/
def Instr.dests (st : Strand) : Instr → List Nat
  | .add _ d _ _ | .sub _ d _ _ | .mul _ d _ _ | .mulh _ d _ _ | .div _ d _ _ | .rem _ d _ _ | .and _ d _ _
  | .or _ d _ _ | .xor _ d _ _ | .andn _ d _ _ | .shl _ d _ _ | .shr _ d _ _ | .rotl _ d _ _ | .min _ d _ _
  | .max _ d _ _ | .addI _ d _ _ | .subI _ d _ _ | .mulI _ d _ _ | .andI _ d _ _ | .orI _ d _ _ | .xorI _ d _ _
  | .andnI _ d _ _ | .shlI _ d _ _ | .shrI _ d _ _ | .rotlI _ d _ _ | .minI _ d _ _ | .maxI _ d _ _ | .clz _ d _
  | .ctz _ d _ | .popc _ d _ | .ext _ d _ | .sel _ d _ _ _ | .movi d _ | .movhi d _ _ | .bfx _ d _ _ _
  | .bfi _ d _ _ _ | .mfs d _ | .time d | .halloc _ _ d _ | .mbox d _ | .mstat d | .pcnt _ _ d _ => fx d
  | .cmp _ _ d _ _ | .cmpI _ _ d _ _ | .vany _ _ d _ | .vall _ _ d _ | .mchk d => fc d
  | .prep bt _ => [0x78 + bt]
  | .call _ _ _ => [0x7B]
  | .mts _ sr => [0xA0 + sr]
  | .setfmt _ _ => [0xA0]
  | .setcar _ => [0xA1]
  | .fadd h _ | .fsub h _ | .fmul h _ | .fma h _ _ | .fms h _ _ | .fnma h _ _ | .fmin h _ | .fmax h _ | .fabs h
  | .fneg h | .fcpys h _ | .frecpe h | .frsqe h | .fscale h _ | .fscaleI h _ | .fround _ h | .cvt h _ _ | .bpq h _
  | .iadd h _ | .iaddI h _ | .isub h _ | .isubI h _ | .imul h _ _ | .imad h _ _ _ | .iadds h _ | .isubs h _
  | .iand h _ | .iandI h _ | .ior h _ | .iorI h _ | .ixor h _ | .ixorI h _ | .ishl h _ _ | .ishlI h _ | .ishr h _
  | .ishrI h _ | .imin h _ | .iminI h _ | .imax h _ | .imaxI h _ | .iabs h _ | .ipopc h | .vmov h | .vbcast h
  | .vsel h _ _ | .vperm h _ | .vshuf h _ | .vins h _ | .xcopy h _ | .xbcast h _ | .vred _ h => fv h.d
  | .mxq h _ c _ => fv h.d ++ fv c
  | .mxdq h _ _ => if h.ty == .f32 then fv h.d ++ fv (h.d + 1) else fv h.d
  | .fcmp _ h _ | .fclass h _ | .icmp _ h _ | .icmpI _ h _ => fp h.d
  | .vmovi _ _ d _ _ => fv d
  | .vext h _ => fx h.d
  | .pand _ _ d _ _ | .por _ _ d _ _ | .pxor _ _ d _ _ | .pnot _ _ d _ | .pmov _ _ d _ => fp d
  | .accrd _ _ v _ _ _ => fv v
  | .accwr .. | .accclr .. | .acccvt .. => [0x98]
  | .mset mp _ | .mseti mp _ => [0x80 + mp]
  | .trpop v _ => fv v
  | .ldSp t | .ldB t => fv t.r
  | .lset lv _ _ mod _ =>
    (0x88 + lv) :: (if mod then (List.range st.stages).map fun t => 0x60 + st.pbase + t else [])
  | .agset ag _ | .agstr ag _ _ => [0x90 + ag]
  | _ => []

/-- The flat indices of the registers that a form reads: its sources, all eight mp registers for `mcall` (R242), the
state register of `mfs`. FMT read by an arithmetic form is not covered (R67). -/
def Instr.reads (core : Core) (i : Instr) : List Nat :=
  (Instr.sources core i).filterMap RRef.flat ++
    (match i with
     | .mcall _ => (List.range 8).map (0x80 + ·)
     | .mfs _ sr => [0xA0 + sr]
     | _ => [])

/-- The first invalid register that a form reads (R43). -/
def badSource (st : Strand) (core : Core) (i : Instr) : Option RRef :=
  (Instr.sources core i).find? fun r => !r.ok st core

/-! ### What a form is, for the fetch checks -/

def Instr.isBranch : Instr → Bool
  | .br .. | .call .. => true
  | _ => false

/-- The forms that a delay bundle may not carry (R176). -/
def Instr.banDelay : Instr → Bool
  | .br .. | .call .. | .rett | .trap _ | .lset .. | .lbrk .. | .halt => true
  | _ => false

/-- Forms of the MX and XF slots. -/
def Instr.isMxXf : Instr → Bool
  | .mset .. | .mseti .. | .mcall .. | .mstat .. | .mchk .. | .trpush .. | .trpop .. | .trcfg .. | .resm ..
  | .renorm .. | .retab .. | .retload .. => true
  | _ => false

/-- Forms of the CE slot. -/
def Instr.isCe : Instr → Bool
  | .cp .. | .cpg .. | .cps .. | .stage .. | .sealRec .. | .openRec .. | .ckpt .. | .pf .. | .res .. | .col ..
  | .meas .. => true
  | _ => false

/-- V-A forms. -/
def Instr.isAcc : Instr → Bool
  | .accrd .. | .accwr .. | .accclr .. | .acccvt .. => true
  | _ => false

/-- Forms that a handler may not run (R190, R305, R415). -/
def Instr.banHandler : Instr → Bool
  | .cbar | .ssarr | .sswait | .halt | .lgate .. | .wake .. | .lset .. | .lbrk .. | .lrot | .spred .. => true
  | .mark qm _ => bit qm 2 || bit qm 3
  | i => Instr.isMxXf i || Instr.isCe i || Instr.isAcc i

/-- Forms that the body of a rollback loop may not hold, but for q reads (R196). -/
def Instr.banRollback : Instr → Bool
  | .amo .. | .cas .. | .epSt .. | .qout .. | .br .. | .call .. | .trap _ | .halt | .cbar | .ssarr | .sswait => true
  | i => Instr.isCe i || Instr.isMxXf i

/-- The q registers that a V-slot form reads, with its mask and predicate (R204). -/
def Instr.qReads : Instr → List Nat
  | .fadd h b | .fsub h b | .fmul h b | .fmin h b | .fmax h b | .fcpys h b | .fcmp _ h b | .fscale h b
  | .iadd h b | .isub h b | .imul h b _ | .iadds h b | .isubs h b | .iand h b | .ior h b | .ixor h b | .ishl h b _
  | .ishr h b | .imin h b | .imax h b | .icmp _ h b | .vperm h b | .fma h b _ | .fms h b _ | .fnma h b _
  | .imad h b _ _ | .vsel h b _ | .mxdq h b _ => ([h.a, b].filter fun r => decide (32 ≤ r)).map (· - 32)
  | .mxq h b _ sty => ([h.a, if sty == .f32 then b else 0].filter fun r => decide (32 ≤ r)).map (· - 32)
  | .fabs h | .fneg h | .fclass h _ | .frecpe h | .frsqe h | .fscaleI h _ | .fround _ h | .cvt h _ _ | .bpq h _
  | .iaddI h _ | .isubI h _ | .iandI h _ | .iorI h _ | .ixorI h _ | .ishlI h _ | .ishrI h _ | .iminI h _
  | .imaxI h _ | .iabs h _ | .icmpI _ h _ | .ipopc h | .vmov h | .vshuf h _ | .vext h _ | .vred _ h =>
    ([h.a].filter fun r => decide (32 ≤ r)).map (· - 32)
  | _ => []

/-- The mask and predicate of a V-slot form. -/
def Instr.vMask : Instr → Option (Nat × Nat)
  | .fadd h _ | .fsub h _ | .fmul h _ | .fmin h _ | .fmax h _ | .fcpys h _ | .fcmp _ h _ | .fscale h _
  | .iadd h _ | .isub h _ | .imul h _ _ | .iadds h _ | .isubs h _ | .iand h _ | .ior h _ | .ixor h _ | .ishl h _ _
  | .ishr h _ | .imin h _ | .imax h _ | .icmp _ h _ | .vperm h _ | .fma h _ _ | .fms h _ _ | .fnma h _ _
  | .imad h _ _ _ | .vsel h _ _ | .mxdq h _ _ | .mxq h _ _ _ | .fabs h | .fneg h | .fclass h _ | .frecpe h
  | .frsqe h | .fscaleI h _ | .fround _ h | .cvt h _ _ | .bpq h _ | .iaddI h _ | .isubI h _ | .iandI h _
  | .iorI h _ | .ixorI h _ | .ishlI h _ | .ishrI h _ | .iminI h _ | .imaxI h _ | .iabs h _ | .icmpI _ h _
  | .ipopc h | .vmov h | .vbcast h | .vshuf h _ | .vext h _ | .vins h _ | .xcopy h _ | .xbcast h _ | .vred _ h =>
    some (h.lgm, h.pr)
  | .vmovi lgm pr _ _ _ | .pand lgm pr _ _ _ | .por lgm pr _ _ _ | .pxor lgm pr _ _ _ | .pnot lgm pr _ _
  | .pmov lgm pr _ _ | .vany lgm pr _ _ | .vall lgm pr _ _ | .pcnt lgm pr _ _ | .accrd lgm pr _ _ _ _
  | .accwr lgm pr _ _ _ _ | .accclr lgm pr _ _ _ | .acccvt lgm pr _ _ _ _ => some (lgm, pr)
  | _ => none

end Sys2Proof.Machine
end

