-- ==== Sys2Proof/Machine/Fetch.lean ====
section
/-! DEFINITION. The fetch checks on a form in its place (R19, R176 to R193, R196, R305, R389), on a bundle in its
issue group (R41, R44, R45), and the frame in which every slot's meaning runs: fetch, then validity, then effect
(R58). -/

namespace Sys2Proof.Machine

/-- ILLENC for the shape of a group, branch or loop (R155). -/
def illShape : IllEnc := { reason := 4, reg := 0xFF }

/-- The transfer under way in the count that the strand runs on (R60). -/
def Strand.pendBranch (st : Strand) : Option Branch := if st.hnd then st.hbranch else st.branch

/-- Is an index the last of the body of an active loop level (R188)? Loops are not recognised in a handler (R179). -/
def Strand.loopLast (st : Strand) (idx : Nat) : Bool :=
  !st.hnd && (List.range 4).any fun l => (st.loop l).active && (st.loop l).last == idx

/-- Does the body of a level hold an index? -/
def LoopLevel.holds (l : LoopLevel) (idx : Nat) : Bool := l.active && decide (l.first ≤ idx) && decide (idx ≤ l.last)

/-- Inside the body of an active modulo level, or rollback level (R192, R196). -/
def Strand.inModulo (st : Strand) (idx : Nat) : Bool := !st.hnd && st.md && (st.loop 3).holds idx
def Strand.inRollback (st : Strand) (idx : Nat) : Bool := !st.hnd && st.rb && (st.loop 3).holds idx

/-- The checks that an `lset` meets (R187). -/
def lsetOk (st : Strand) (idx lv body : Nat) : Bool :=
  !(st.loop lv).active
  && ((List.range 4).all fun l => decide (l ≤ lv) || !(st.loop l).active)
  && ((List.range lv).all fun m => !(st.loop m).active ||
        (decide ((st.loop m).first ≤ idx + 1) && decide (idx + 1 + body ≤ (st.loop m).last)))
  && decide (idx + 1 + body ≤ 2047)

/-- Why fetch rejects a form in its place: ownership (R19), a handler (R190, R305), a rollback body (R196), a delay
window (R176), the loop and branch rules (R178, R179, R187, R189, R192, R193), `halt` (R389), a routine index that
names no routine (R153). The last check has no place in the order of R154, and the model makes it here, after the bundle's
class, destination and group checks; so are those of R305, R190 and R179, which the order of R154 does not place either (log 35). -/
def formIll (s : State) (i : Instr) : Option IllEnc :=
  let st := s.me
  let idx := s.iss.idx
  let here (r : Nat) : IllEnc := { reason := r, slot := s.iss.slot }
  if i.needsOwner && s.myCore.owner != some s.cur then some (here 5)
  else if st.hnd && Instr.banHandler i then some (here 3)
  else if st.pendBranch.isSome && Instr.banDelay i then some illShape
  else if st.inRollback idx && (Instr.banRollback i ||
      (!(Instr.qReads i).isEmpty && (Instr.vMask i).any fun m => m.2 != st.pbase)) then some illShape
  else match i with
    | .mcall r => if (s.myCore.routine r).isNone then some (here 3) else none
    | .rett => if !st.hnd then some (here 3) else if !s.iss.stop then some illShape else none
    | .trap _ => if st.loopLast idx then some illShape else none
    | .lset lv _ body _ _ => if s.iss.stop && lsetOk st idx lv body then none else some illShape
    | .lbrk .. => if s.iss.stop then none else some illShape
    | .lrot => if st.inModulo idx then some illShape else none
    | .spred .. => if !st.hnd && st.md && (st.loop 3).active then some illShape else none
    | .halt => if s.iss.stop && s.iss.ops.all fun o => !Instr.isMxXf o.2 && (o.2 == .halt || !Instr.banDelay o.2)
               then none else some illShape
    | _ => none

/-! ### A bundle in its issue group -/

/-- The register that two destinations of one bundle share, or that `lrot` rotates (R41). Of several, REG names that of the lowest
index; x0, p0 and c0, which keep no write, are no destination here either; one `mxq` that names one register twice counts as two slots
that do (log 35). -/
def sameDest (st : Strand) (ops : List (Slot × Instr)) : Option Nat :=
  let all := ops.flatMap fun o => Instr.dests st o.2
  let twice := all.filter fun r => decide (2 ≤ all.count r)
  let rot := if ops.any (fun o => o.2 == .lrot)
    then all.filter fun r => (decide (0x50 ≤ r) && decide (r < 0x60)) || (decide (0x68 ≤ r) && decide (r < 0x70))
    else []
  match twice ++ rot with
  | [] => none
  | r :: rs => some (rs.foldl min r)

/-- The lowest register that a bundle reads or writes and an earlier bundle of its group writes (R44). -/
def groupClash (st : Strand) (core : Core) (ops : List (Slot × Instr)) : Option Nat :=
  let all := ops.flatMap fun o => Instr.dests st o.2 ++ Instr.reads core o.2
  match all.filter fun r => (if st.hnd then st.hwritten else st.gwritten).contains r with
  | [] => none
  | r :: rs => some (rs.foldl min r)

/-- The position of the next bundle in its issue group (R44). -/
def Strand.groupPos (st : Strand) : Nat := if st.hnd then st.hgpos else st.gpos

/-- The checks of a bundle as a whole in its group (R41, R44, R176). -/
def groupIll (st : Strand) (core : Core) (idx : Nat) (stop : Bool) (ops : List (Slot × Instr)) : Option IllEnc :=
  match sameDest st ops with
  | some r => some { reason := 4, reg := r }
  | none =>
    if 16 ≤ st.groupPos then some illShape
    else match groupClash st core ops with
      | some r => some { reason := 4, reg := r }
      | none =>
        let third := st.pendBranch.any fun b => b.left == 1
        if third && !stop then some illShape
        else if st.loopLast idx && (!stop || st.pendBranch.isSome) then some illShape
        else none

/-! ### The frame of a slot's meaning -/

/-- LD-slot and ST-slot forms. -/
def Instr.isLd : Instr → Bool
  | .ldSp .. | .ldB .. | .ldG .. | .gath .. | .amo .. | .cas .. | .qbind .. | .qfree .. => true
  | _ => false
def Instr.isSt : Instr → Bool
  | .stSp .. | .stG .. | .scat .. | .epSt .. | .qout .. => true
  | _ => false

/-- In the body of a modulo loop, an LD or ST form whose stage predicate is false has no effect: LD belongs to stage
0, ST to stage S - 1 (R195). -/
def offStage (s : State) (i : Instr) : Bool :=
  let st := s.me
  st.inModulo s.iss.idx &&
    ((Instr.isLd i && !bit (st.pGet st.pbase 0) 0) || (Instr.isSt i && !bit (st.pGet (st.pbase + st.stages - 1) 0) 0))

/-- Does a V form read no stream register, since a stage predicate of the modulo loop, false in every lanegroup of its mask, gates it
(R195)? -/
def offPop (s : State) (i : Instr) : Bool :=
  let st := s.me
  st.inModulo s.iss.idx && match Instr.vMask i with
    | some (lgm, pr) => decide (st.pbase ≤ pr) && decide (pr < st.pbase + st.stages) && (groups lgm).all fun g => st.pGet pr g == 0
    | none => false

/-- The first invalid register that a form reads where it stands (R43, R195). -/
def State.badRead (s : State) (i : Instr) : Option RRef :=
  if offPop s i then ((Instr.sources s.myCore i).filter fun r => !r.isQ).find? fun r => !r.ok s.me s.myCore
  else badSource s.me s.myCore i

/-- What keeps a form from taking effect before its own checks: a fetch rejection (TSLOT 0xF) or an invalid
source (R57, R58); a form that is off stage reads nothing. -/
def slotBad (s : State) (i : Instr) : Option (Nat × Nat × Nat) :=
  match formIll s i with
  | some e => some (cILLENC, 15, e.tinfo)
  | none =>
    if offStage s i then none
    else match s.badRead i with
      | some r => some (cINVREG, s.iss.slot, r.info)
      | none => none

/-- A form runs as a slot of the bundle being issued: the trap of the first failing check, or its own effect. -/
def slotOp (i : Instr) (s : State) (f : State → Res) : Host.Outcome State Fault Refusal :=
  match slotBad s i with
  | some (c, slot, info) =>
    .next { s.takeTrap s.cur c slot info s.iss.idx with iss := { s.iss with ended := some (.trap slot c info) } }
  | none => if offStage s i then .next s else finish s (f s)

end Sys2Proof.Machine
end

