-- ==== Sys2Proof/Machine/Flags.lean ====
section
/-! DEFINITION. The mode that FMT sets for an operation (R66, R67, R80), the state registers as they are read
(R65, R69, R114, R117, R180), and the credits and flags that reach them (R40, R118). -/

namespace Sys2Proof.Machine

/-- FMT.RM as an arithmetic operation takes it: mode 4 acts as 0 (R66, R77). -/
def Strand.rm (st : Strand) : RMode := .ofRM (field st.fmt.toNat 0 3) false
/-- FMT.RM as a conversion takes it. -/
def Strand.rmCvt (st : Strand) : RMode := .ofRM (field st.fmt.toNat 0 3) true
def Strand.ftz (st : Strand) : Bool := bit st.fmt.toNat 3
def Strand.sat (st : Strand) : Bool := bit st.fmt.toNat 4

/-- Is the strand's core OWNED by a world (R69, R329)? -/
def Core.isOwned (c : Core) : Bool :=
  match c.ownership with
  | .owned _ => true
  | _ => false

/-- STATUS (R69). -/
def statusOf (s : State) (sid : Nat) : Nat :=
  let st := s.strand sid
  sid % 2 ^ 12 + 2 ^ 12 * ofBit st.merge + 2 ^ 13 * ofBit (st.merge && st.second) + 2 ^ 14 * ofBit st.hnd
    + 2 ^ 15 * ofBit (s.core (coreOf sid)).isOwned

/-- Is 24k forced on a core: by FORCE, or for a second by DETLIM (R113, R490)? -/
def Core.forced (c : Core) : Bool := c.force || c.forceUntil.isSome

/-- CARAT as it reads: FORCE is the core's force state (R113, R114). -/
def caratOf (s : State) (sid : Nat) : Nat := setBit (s.strand sid).carat.toNat 4 (s.core (coreOf sid)).forced

/-- A state register as it reads at the bundle's count (R65, R180). -/
def srRead (s : State) (sid n : Nat) : Nat :=
  let st := s.strand sid
  match n with
  | 0 => st.fmt.toNat
  | 1 => caratOf s sid
  | 2 => statusOf s sid
  | 3 => st.tcause.toNat
  | 4 => st.tinfo.toNat
  | 5 => st.tbundle.toNat
  | 6 => st.tslot.toNat
  | 7 => st.flags.toNat
  | 8 => (SMap.get st.errcnt 0 0).toNat
  | 9 => (SMap.get st.errcnt 1 0).toNat
  | 10 => (SMap.get st.errcnt 2 0).toNat
  | 11 => (SMap.get st.errcnt 3 0).toNat
  | 12 => s.power.dtime % 2 ^ 64
  | 13 => st.sbc % 2 ^ 64
  | _ => 0

/-- May `mts` write a state register (R65)? -/
def srWritable (n : Nat) : Bool := n == 0 || n == 1 || (decide (3 ≤ n) && decide (n ≤ 7))

/-- Credits of calls reach ERRCNT and CARAT, each field saturating (R114, R117, R118). -/
def Strand.credit (st : Strand) (c : Credits) : Strand :=
  let err := (List.range 4).foldl (fun m n =>
    let old := (SMap.get m n (0 : Word)).toNat
    let det := min (field old 0 32 + (c.det[n]?).getD 0) (2 ^ 32 - 1)
    let rpl := min (field old 32 16 + (c.rpl[n]?).getD 0) (2 ^ 16 - 1)
    SMap.put m n (BitVec.ofNat 64 (det + 2 ^ 32 * rpl)) 0) st.errcnt
  let car := st.carat.toNat
  let ckr := min (field car 8 16 + c.ckr) (2 ^ 16 - 1)
  let res := min (max (field car 32 32) c.resmax) (2 ^ 32 - 1)
  { st with errcnt := err, carat := BitVec.ofNat 64 (setField (setField car 8 16 ckr) 32 32 res) }

end Sys2Proof.Machine
end

