-- ==== Sys2Proof/Machine/Memory.lean ====
section
/-! DEFINITION. Global memory: bytes at their homes, poison and keys of lines (R25, R297, R332, R491), writes that
are performed at a scope (R414, R416), page-table entries and translation (R433 to R440, R447), fault tables (R441),
dirty tracking (R452), the line check (R491), and packets to other packages (R463 to R467). -/

namespace Sys2Proof.Machine

/-! ### Bytes (R1, R25)

Memory is a list of address and byte pairs, addresses rising, none listed with the value 0 that an unlisted address
reads as (log 6). -/

/-- The canonical form of memory. -/
def Memory.wf (m : List Host.Cell) : Bool := SMap.wf (0 : Byte) m

/-- The byte at an address. -/
def cellGet (m : List Host.Cell) (a : Nat) : Byte := SMap.get m a 0

/-- Memory with a byte written. -/
def cellPut (m : List Host.Cell) (a : Nat) (b : Byte) : List Host.Cell := SMap.put m a b 0

/-- The bytes at consecutive addresses. -/
def cellsGet (m : List Host.Cell) (a : Nat) : Nat → List Byte
  | 0 => []
  | n + 1 => cellGet m a :: cellsGet m (a + 1) n

/-- Memory with consecutive bytes written; `none` leaves a byte. -/
def cellsPut (m : List Host.Cell) (a : Nat) : List (Option Byte) → List Host.Cell
  | [] => m
  | none :: bs => cellsPut m (a + 1) bs
  | some b :: bs => cellsPut (cellPut m a b) (a + 1) bs

/-! ### CRC-32C: the line check of a line (R491) -/

/-- One bit of the reflected CRC. -/
def crcBit (c : BitVec 32) : BitVec 32 := if c.getLsbD 0 then (c >>> 1) ^^^ 0x82F63B78 else c >>> 1
/-- One byte. -/
def crcByte (c : BitVec 32) (b : Byte) : BitVec 32 :=
  crcBit (crcBit (crcBit (crcBit (crcBit (crcBit (crcBit (crcBit (c ^^^ b.setWidth 32))))))))
/-- The line check of 64 bytes (R491): reflected polynomial 0x1EDC6F41, initial value and final XOR all ones. -/
def lineCheck (bs : List Byte) : BitVec 32 := bs.foldl crcByte 0xFFFFFFFF ^^^ 0xFFFFFFFF

/-! ### Scopes and agents (R414) -/

/-- The level of a scope: 1 for .st to 7 for .sy. -/
def Scope.level : Scope → Nat
  | .st => 1 | .co => 2 | .cl => 3 | .di => 4 | .pk => 5 | .dm => 6 | .sy => 7

/-- Agents that read memory: a strand by its identifier, the copy engines of cluster `k` as 4096 + k, the collective engine as
4999, the command processor as 5000, another package as 5001, the host as 5002. -/
def engineOf (k : Nat) : Nat := 4096 + k
def agentCol : Nat := 4999
def agentCp : Nat := 5000
def agentPeer : Nat := 5001
def agentHost : Nat := 5002

/-- The cluster of an agent, if it has one. -/
def agentCluster (a : Nat) : Option Nat :=
  if a < 3072 then some (clusterOf a) else if 4096 ≤ a ∧ a < 4144 then some (a - 4096) else none

/-- Does the scope instance of a strand at a level hold an agent (R414)? -/
def inScope (level sid agent : Nat) : Bool :=
  match level with
  | 0 => false
  | 1 => agent == sid
  | 2 => decide (agent < 3072) && coreOf agent == coreOf sid
  | 3 => agentCluster agent == some (clusterOf sid)
  | 4 => (agentCluster agent).map (· / 6) == some (dieOf sid)
  | 5 => decide (agent ≤ agentCp)
  | 6 => decide (agent ≤ agentPeer)
  | _ => true

/-- Are a release of scope `sa` by one agent and an acquire of scope `sb` by another mutually in scope (R414)? -/
def mutuallyInScope (x : Nat) (sa : Scope) (y : Nat) (sb : Scope) : Bool := inScope (Scope.level sa) x y && inScope (Scope.level sb) y x

/-! ### The form of lines in memory (R330) -/

/-- A line as it lies in LPDDR6 or MRAM: under the data key, with its address as the tweak; slot 0 holds no key (R326, R330). -/
def sealLine (key line : Nat) (bs : List Byte) : List Byte := if key = 0 then bs else xtsSeal (dataKey key) (64 * line) bs
def unsealLine (key line : Nat) (bs : List Byte) : List Byte := if key = 0 then bs else xtsOpen (dataKey key) (64 * line) bs

/-! ### Reading (R297, R332, R416, R419 to R424) -/

/-- The byte that a write gives at an address. -/
def NarrowWrite.at? (w : NarrowWrite) (a : Nat) : Option Byte :=
  if w.addr ≤ a ∧ a < w.addr + w.data.length then (w.data[a - w.addr]?).getD none else none

/-- Does a write give bytes of a location, a word of 8 bytes (R419)? -/
def NarrowWrite.inWord (w : NarrowWrite) (word : Nat) : Bool := (List.range 8).any fun i => (w.at? (8 * word + i)).isSome

/-- Who reads: the agent that scopes judge, the agent and the bundle number whose happens-before counts, whether its own earlier
writes happen before the read (R423), and the number of its free choices. -/
structure Reader where
  place : Nat
  who : Option Nat := none
  num : Nat := 2 ^ 64
  own : Bool := false
  pick : Nat := 0

/-- An agent that reads now, after all that happens before any access of it. -/
def Reader.of (agent : Nat) (pick : Nat := 0) : Reader := { place := agent, who := some agent, pick := pick }

/-- Must a read return a write or a later one of the coherence order: it is performed at a scope that holds the reader (R416), it
happens before the read (R424), or the reader's load queue has returned it (R420)? -/
def Reader.mustSee (r : Reader) (w : NarrowWrite) : Bool :=
  inScope w.level w.sid r.place ||
  r.who.any fun x => w.seen.contains x || w.before.any (fun e => e.1 == x && decide (e.2 ≤ r.num)) ||
    (r.own && w.sid == x && !w.tag.eng && decide (w.tag.seq < r.num))

/-- The writes to a location that are not at .sy, in its coherence order: those that have reached their home (R416, R419). -/
def Mem.history (m : Mem) (word : Nat) : List NarrowWrite := m.narrow.filter fun w => decide (0 < w.level) && w.inWord word

/-- The writes of a location's history up to the one that a read returns: the last that it must see, or any later one (R424); which
of several is a free choice (log 17). -/
def Mem.returned (m : Mem) (r : Reader) (word : Nat) : List NarrowWrite :=
  let h := m.history word
  let may := (h.reverse.takeWhile fun w => !r.mustSee w).length
  h.take (h.length - (if may = 0 then 0 else Config.freeNat (r.pick + word) % (may + 1)))

/-- A byte as some writes leave it. -/
def Mem.after (m : Mem) (ws : List NarrowWrite) (a : Nat) : Byte := ws.foldl (fun b w => (w.at? a).getD b) (cellGet m.cells a)

/-- The byte that a reader gets, and the byte that an atomic finds, that of the last write (R295, R419). -/
def Mem.byteFor (m : Mem) (r : Reader) (a : Nat) : Byte := m.after (m.returned r (a / 8)) a
def Mem.byteLast (m : Mem) (a : Nat) : Byte := m.after (m.history (a / 8)) a

/-- Consecutive bytes. -/
def Mem.bytesFor (m : Mem) (r : Reader) (a n : Nat) : List Byte := (List.range n).map fun i => m.byteFor r (a + i)
def Mem.bytesLast (m : Mem) (a n : Nat) : List Byte := (List.range n).map fun i => m.byteLast (a + i)

/-- Does a write cover a whole line with clean bytes, alone or as the last of its operation's (R297)? -/
def NarrowWrite.wholeLine (w : NarrowWrite) (line : Nat) : Bool :=
  !w.poison && (w.clears || (decide (w.addr ≤ 64 * line) && decide (64 * line + 64 ≤ w.addr + w.data.length) && w.data.all Option.isSome))

/-- Does a write touch a line? -/
def NarrowWrite.touches (w : NarrowWrite) (line : Nat) : Bool :=
  decide (w.addr < 64 * line + 64) && decide (64 * line < w.addr + w.data.length)

/-- A line's poison as some writes leave it (R297). -/
def Mem.poisonAfter (m : Mem) (ws : List NarrowWrite) (line : Nat) : Bool :=
  ws.foldl (fun p w => if w.touches line then (if w.wholeLine line then false else p || w.poison) else p) (m.poison.contains line)

/-- Is a line poisoned for a reader of one of its locations (R297, R491)? -/
def Mem.poisonAt (m : Mem) (r : Reader) (word : Nat) : Bool :=
  let ids := (m.returned r word).map (·.wid)
  m.poisonAfter (m.narrow.filter fun w => decide (0 < w.level) && (ids.contains w.wid || r.mustSee w)) (word / 8)

/-- Is a line poisoned for a reader of bytes of it, or of all of it? -/
def Mem.poisonIn (m : Mem) (r : Reader) (a n : Nat) : Bool :=
  (List.range ((a + n + 7) / 8 - a / 8)).any fun i => m.poisonAt r (a / 8 + i)
def Mem.poisonFor (m : Mem) (r : Reader) (line : Nat) : Bool := m.poisonIn r (64 * line) 64

/-- Is a line poisoned as the last writes of the coherence order leave it (R297)? -/
def Mem.poisonLast (m : Mem) (line : Nat) : Bool := m.poisonAfter (m.narrow.filter fun w => decide (0 < w.level)) line

/-- LPDDR6 or MRAM lines are held under a key; host and peer lines are not (R330). -/
def keyed (pa : Nat) : Bool := decide (pa < 0x4000000000000)

/-- Is a line held under the data key of a context (R332)? -/
def Mem.sameKey (m : Mem) (key pa : Nat) : Bool := !keyed pa || SMap.get m.keys (pa / 64) 0 == key

/-- A line at its home, in plaintext, and as it lies in LPDDR6 or MRAM (R330). -/
def Mem.plainLine (m : Mem) (line : Nat) : List Byte := cellsGet m.cells (64 * line) 64
def Mem.storedLine (m : Mem) (line : Nat) : List Byte := sealLine (SMap.get m.keys line 0) line (m.plainLine line)

/-- A line opened under the data key of a context (R332). -/
def Mem.openedLine (m : Mem) (key line : Nat) : List Byte := unsealLine key line (m.storedLine line)

/-- Does a line pass the check that its opening under a key makes: the key is that which wrote it, or what comes out has the line check
that was stored with it (R332, R491, R492)? -/
def Mem.opens (m : Mem) (key pa : Nat) : Bool :=
  m.sameKey key pa || lineCheck (m.openedLine key (pa / 64)) == lineCheck (m.plainLine (pa / 64))

/-! ### Writing (R297, R370, R416, R419, R424) -/

/-- A write takes its place in memory at .sy: bytes, poison and key of each line that it touches. A whole-line clean
write clears poison; a partial write into a line that does not open under its key leaves it poisoned, since the home verifies the
stored line before it merges the two (R491). -/
def Mem.land (m : Mem) (w : NarrowWrite) : Mem :=
  let lines := (List.range ((w.addr + w.data.length + 63) / 64 - w.addr / 64)).map (w.addr / 64 + ·)
  let poison := lines.foldl (fun l n =>
    if w.wholeLine n then l.filter (· != n)
    else if w.poison || (keyed w.addr && !m.opens w.key (64 * n)) then insertNat l n else l) m.poison
  let keys := if keyed w.addr then lines.foldl (fun k n => SMap.put k n w.key 0) m.keys else m.keys
  { m with cells := cellsPut m.cells w.addr w.data, poison := poison, keys := keys }

/-- The bytes of a write in the locations of another, and those outside them. -/
def NarrowWrite.within (v w : NarrowWrite) : NarrowWrite :=
  { v with data := v.data.mapIdx fun i b => if w.inWord ((v.addr + i) / 8) then b else none }
def NarrowWrite.outside (v w : NarrowWrite) : NarrowWrite :=
  { v with data := v.data.mapIdx fun i b => if w.inWord ((v.addr + i) / 8) then none else b }

/-- A write that every agent sees leaves the histories of its locations, with what stands before it there (R419). -/
def Mem.retire (m : Mem) (w : NarrowWrite) : Mem :=
  let earlier := m.narrow.takeWhile (·.wid != w.wid)
  let later := (m.narrow.dropWhile (·.wid != w.wid)).drop 1
  let old := (earlier.filter fun v => decide (0 < v.level)).map fun v => v.within w
  let m := ((old.filter fun v => v.data.any Option.isSome).foldl Mem.land m).land w
  { m with narrow := (earlier.map fun v => if 0 < v.level then v.outside w else v).filter (fun v => v.data.any Option.isSome) ++ later }

/-- May some agent still miss a write? -/
def Mem.hidden (m : Mem) (wid : Nat) : Bool := m.narrow.any fun w => w.wid == wid && decide (w.level < 7)

/-- Writes at .sy leave the histories, but for those whose release still has writes behind it that some agent may miss (R421). -/
def Mem.settle (m : Mem) : Mem :=
  (m.narrow.filter fun w => decide (7 ≤ w.level)).foldl (fun m w =>
    if w.tag.heads.any fun h => h.writes.any m.hidden then m else m.retire w) m

/-- A write becomes performed at a level (R416); one that reaches its home only now takes the last place of the coherence order. -/
def Mem.promote (m : Mem) (wid level : Nat) : Mem :=
  match m.narrow.find? (·.wid == wid) with
  | none => m
  | some w =>
    if level ≤ w.level then m else
    let others := m.narrow.filter (·.wid != wid)
    let m := { m with narrow := if w.level = 0 then others ++ [{ w with level := level }]
      else m.narrow.map fun v => if v.wid = wid then { v with level := level } else v }
    if 7 ≤ level then m.settle else m

/-- Lines of LPDDR6, host or CXL memory that a memory-side cache of 3 GiB has room for (R16). -/
def cacheLines : Nat := 3 * 2 ^ 30 / 64

/-- The I/O die that holds the memory-side cache, and so the home, of an LPDDR6 line (R25). -/
def homeIo (pa : Nat) : Nat := pa / 4096 % 2

/-- The line that leaves a full cache: one of the lowest priority that is not pinned; the manual does not say which, a free choice
(R24, R456, log 28). A dirty one is written back. -/
def Mem.victim (m : Mem) (io : Nat) : Option Nat :=
  let free := m.cache.filter fun e => homeIo (64 * e.1) == io && !e.2.pinned
  let low := free.foldl (fun p e => min p e.2.prio) 3
  let all := free.filter fun e => e.2.prio == low
  (all[Config.freeNat m.wnext % all.length]?).map (·.1)

/-- A line enters the memory-side cache of its home, where it has room or another makes room for it (R24). -/
def Mem.intoCache (m : Mem) (line : Nat) (l : CacheLine) : Mem :=
  let io := homeIo (64 * line)
  let full := (SMap.find m.cache line).isNone && decide (cacheLines ≤ (m.cache.filter fun e => homeIo (64 * e.1) == io).length)
  if full then
    match m.victim io with
    | some v => { m with cache := SMap.insert (SMap.erase m.cache v) line l }
    | none => m
  else { m with cache := SMap.insert m.cache line l }

/-- Some lines are no longer pinned in the memory-side caches (R456). -/
def Mem.unpin (m : Mem) (lines : List Nat) : Mem :=
  { m with cache := m.cache.map fun e => if lines.contains e.1 then (e.1, { e.2 with pinned := false }) else e }

/-- A line of LPDDR6 goes through the memory-side cache of its home (R25): it is held under the requester's key; a line held under
another key is written back first (R332). -/
def Mem.cached (m : Mem) (key pa : Nat) (write : Bool) : Mem :=
  if 0x10000000000 ≤ pa then m else
  let l := SMap.get m.cache (pa / 64) {}
  let old := (SMap.find m.cache (pa / 64)).isSome && l.slot == key && l.dirty
  m.intoCache (pa / 64) { l with slot := key, dirty := write || old }

/-- The lines of a key slot leave the memory-side caches (R327). -/
def Mem.dropSlot (m : Mem) (key : Nat) : Mem := { m with cache := m.cache.filter fun e => e.2.slot != key }

/-- A new write of some bytes of a range, performed at a level, last in the coherence order; `clears` says that its operation has now
written its whole line. -/
def Mem.writeSome (m : Mem) (sid level pa : Nat) (bs : List (Option Byte)) (poison : Bool) (key : Nat) (clears : Bool := false)
    (tag : WriteTag := {}) : Mem :=
  let w : NarrowWrite := { wid := m.wnext, sid := sid, level := 0, addr := pa, data := bs,
                           poison := poison, key := key, clears := clears, tag := tag }
  ({ m with narrow := m.narrow ++ [w], wnext := m.wnext + 1 }.promote m.wnext level).cached key pa true

/-- A new write of a range. -/
def Mem.write (m : Mem) (sid level pa : Nat) (bs : List Byte) (poison : Bool) (key : Nat) (clears : Bool := false)
    (tag : WriteTag := {}) : Mem :=
  m.writeSome sid level pa (bs.map some) poison key clears tag

/-! ### Happens-before (R420 to R424, R428) -/

/-- Some writes happen before the accesses of an agent from a bundle number on. -/
def Mem.order (m : Mem) (ids : List Nat) (agent n : Nat) : Mem :=
  { m with narrow := m.narrow.map fun w =>
      if ids.contains w.wid && !w.before.any (fun e => e.1 == agent && decide (e.2 ≤ n)) then { w with before := (agent, n) :: w.before } else w }

/-- The writes that happen before bundle `n` of an agent, with its own of the bundles below `upto`; those of its engine commands count
where `eng` says so. -/
def Mem.beforeOf (m : Mem) (agent n upto : Nat) (eng : Bool := false) : List Nat :=
  (m.narrow.filter fun w => w.before.any (fun e => e.1 == agent && decide (e.2 ≤ n)) ||
    (w.sid == agent && (eng || !w.tag.eng) && decide (w.tag.seq < upto))).map (·.wid)

/-- An acquire side of an agent synchronises with the release sides whose sequences it has read, where the two are mutually in scope:
what happens before them happens before the agent's bundles from `n` on (R421). -/
def Mem.acquire (m : Mem) (heads : List Release) (agent : Nat) (sc : Scope) (n : Nat) : Mem :=
  heads.foldl (fun m h => if mutuallyInScope h.agent h.sc agent sc then m.order h.writes agent n else m) m

/-- The release sides whose sequences a read has read from, in the locations of a range. -/
def Mem.headsRead (m : Mem) (r : Reader) (a n : Nat) : List Release :=
  (List.range ((a + n + 7) / 8 - a / 8)).flatMap fun i => ((m.returned r (a / 8 + i)).getLast?.map fun w => w.tag.heads).getD []

/-- The writes that a read returns in the locations of a range. -/
def Mem.idsRead (m : Mem) (r : Reader) (a n : Nat) : List Nat :=
  (List.range ((a + n + 7) / 8 - a / 8)).filterMap fun i => ((m.returned r (a / 8 + i)).getLast?).map (·.wid)

/-- An agent's load queue has returned some writes: its later loads of their locations read no older ones (R420). -/
def Mem.noteRead (m : Mem) (ids : List Nat) (agent : Nat) : Mem :=
  { m with narrow := m.narrow.map fun w =>
      if ids.contains w.wid && !w.seen.contains agent then { w with seen := agent :: w.seen } else w }

/-- Is a release side one that some agent may still have to learn of: a write that happens before it may be missed? -/
def Mem.matters (m : Mem) (h : Release) : Bool := h.writes.any m.hidden

/-- The write that an atomic reads: the last of its location's history (R295, R419). -/
def Mem.lastWrite (m : Mem) (word : Nat) : Option NarrowWrite := (m.history word).getLast?

/-- A line is poisoned where it lies (R492, R493). -/
def Mem.poisonLine (m : Mem) (line : Nat) : Mem := { m with poison := insertNat m.poison line }

/-! ### Physical addresses (R433) -/

/-- The MRAM slice that an address lies in, and the offset in it. -/
def mramSlice (pa : Nat) : Option (Nat × Nat) :=
  if 0x10000000000 ≤ pa ∧ pa < 0x10000000000 + 0x10000000 * 384
  then some ((pa - 0x10000000000) / 0x10000000, (pa - 0x10000000000) % 0x10000000) else none
/-- The peer that an address reaches. -/
def peerOf (pa : Nat) : Option Nat :=
  if 0x4000000000000 ≤ pa ∧ pa < 0x8000000000000 then some ((pa - 0x4000000000000) / 0x100000000000) else none
/-- A host bus address. -/
def isHost (pa : Nat) : Bool := decide (0x8000000000000 ≤ pa) && decide (pa < 0x10000000000000)
/-- Installed LPDDR6 (R433). -/
def State.isLpddr (s : State) (pa : Nat) : Bool := decide (pa < s.boot.lpddr) && decide (pa < 0x10000000000)
/-- Weight frames of a slice (R26, R433). -/
def isWeight (pa : Nat) : Bool :=
  match mramSlice pa with
  | some (_, off) => decide (off < 0xF800000)
  | none => false

/-! ### Homes and routes (R14 to R16, R25, R458, R459) -/

/-- Blocks of the I/O dies that requests come from or go to (R16). -/
inductive IoBlock where
  | commandProcessor | securityController | wakeController | lossDetector | deviceTime | hostPort | collectiveEngine | ibilman
  | memory (pa : Nat)
  deriving DecidableEq, Repr

/-- The I/O die that holds a block (R16). -/
def IoBlock.die : IoBlock → Nat
  | .commandProcessor | .securityController | .wakeController | .lossDetector | .deviceTime | .hostPort => 0
  | .collectiveEngine | .ibilman => 1
  | .memory pa => homeIo pa

/-- The I/O die that holds a channel's LPDDR6 controller (R16). -/
def channelDie (channel : Nat) : Nat := channel / 16

/-- Where a request starts or is served: a compute die or an I/O die. -/
inductive FabricEnd where
  | compute (die : Nat)
  | io (die : Nat)
  deriving DecidableEq, Repr

/-- The end of an agent's requests. -/
def agentEnd (agent : Nat) : FabricEnd :=
  match agentCluster agent with
  | some k => .compute (k / 6)
  | none => .io (IoBlock.die (if agent = agentCol then .collectiveEngine else if agent = agentPeer then .ibilman
      else if agent = agentHost then .hostPort else .commandProcessor))

/-- The end at which an address is served: the die of its slice, or the I/O die of its cache, port or host port. -/
def homeEnd (pa : Nat) : FabricEnd :=
  match mramSlice pa with
  | some (c, _) => .compute (c / 48)
  | none => .io (IoBlock.die (if isHost pa then .hostPort else if (peerOf pa).isSome then .ibilman else .memory pa))

/-- The UCIe links that a request crosses, and its reply too (R15). Links 2 d and 2 d + 1 join compute die d to IO0 and IO1; link
16 joins IO0 and IO1. -/
def fabricRoute : FabricEnd → FabricEnd → List Nat
  | .compute a, .compute b => if a = b then [] else [2 * a + b % 2, 2 * b + b % 2]
  | .compute a, .io i => [2 * a + i]
  | .io i, .compute b => [2 * b + i]
  | .io i, .io j => if i = j then [] else [16]

/-- Is a link's traffic held (R459)? -/
def State.linkHeld (s : State) (link : Nat) : Bool := (SMap.get s.link.ucie link {}).state == .retrain

/-- Do the links between an agent and the home of an address carry its request now (R15, R53, R459)? -/
def State.routeOpen (s : State) (agent pa : Nat) : Bool := (fabricRoute (agentEnd agent) (homeEnd pa)).all fun l => !s.linkHeld l

/-! ### Page-table entries (R434, R435) -/

def pteSize (e : Nat) : Nat := field e 2 2
def pteState (e : Nat) : Nat := field e 4 3
def pteR (e : Nat) : Bool := bit e 7
def pteW (e : Nat) : Bool := bit e 8
def pteEp (e : Nat) : Bool := bit e 9
def pteD (e : Nat) : Bool := bit e 10
def ptePa (e : Nat) : Nat := field e 16 36 * 2 ^ 16
def pteWreg (e : Nat) : Nat := field e 52 8

/-- A leaf entry from its fields. -/
def pteOf (size state : Nat) (r w ep d : Bool) (pa wreg : Nat) : Nat :=
  3 + 4 * size + 16 * state + 128 * ofBit r + 256 * ofBit w + 512 * ofBit ep + 1024 * ofBit d
    + pa / 2 ^ 16 * 2 ^ 16 + 2 ^ 52 * wreg

/-- Granules of a page of each size code (R432). -/
def pageGranules : Nat → Nat
  | 0 => 1
  | 1 => 32
  | 2 => 1024
  | _ => 16384

/-- States of a page as coded (R435). -/
def pgResident : Nat := 0
def pgNonres : Nat := 1
def pgMigrating : Nat := 2
def pgPoisoned : Nat := 3
def pgSealed : Nat := 4
def pgWeight : Nat := 5

/-- The leaf entry of an address, with the page's first granule (R434). -/
def Ctx.leaf (c : Ctx) (va : Nat) : Option (Nat × Nat) :=
  let g := va / 2 ^ 16
  (List.range 4).findSome? fun size =>
    let base := g / pageGranules size * pageGranules size
    match SMap.find c.pages base with
    | some e => if pteSize e = size then some (base, e) else none
    | none => none

/-- The frame address of an address under its leaf entry. -/
def frameOf (base e va : Nat) : Nat := ptePa e + (va - base * 2 ^ 16)

/-- The copy of a granule that a launch bound to a version reads: the greatest version not above it, copy 0 on a
tie (R447). -/
def Region.copyFor (r : Region) (granule bound : Nat) : Nat :=
  if r.delta = 0 then 0 else
  let (v0, v1) := SMap.get r.versions granule (0, 0)
  if v1 ≤ bound ∧ (bound < v0 ∨ v0 < v1) then 1 else 0

/-- What comes of translating an address (R439). -/
inductive Trans where
  | denied
  | park
  | ok (pa : Nat) (bad track : Bool)
  deriving DecidableEq, Repr

/-- Translation of an address for an access (R439): permissions first, then the state of its page. `world` says that
a strand of a world asks, for which a sealed page is denied (R339); `bound` gives the bound version of a region. -/
def Ctx.translate (c : Ctx) (va : Nat) (write world : Bool) (bound : Nat → Nat) : Trans :=
  if 2 ^ 52 ≤ va then .denied else
  match c.leaf va with
  | none => .denied
  | some (base, e) =>
    if pteEp e then .denied
    else if write && !pteW e then .denied
    else if !write && !pteR e then .denied
    else if pteState e = pgNonres || pteState e = pgMigrating then .park
    else if pteState e = pgSealed && world then .denied
    else if pteState e = pgPoisoned then .ok (frameOf base e va) true (pteD e)
    else if pteState e = pgWeight then
      let reg := SMap.get c.regions (pteWreg e) {}
      let copy := reg.copyFor (va / 2 ^ 16) (bound (pteWreg e))
      .ok (frameOf base e va + copy * reg.delta) false false
    else if write && c.pending.contains (va / 2 ^ 16) then .park
    else .ok (frameOf base e va) false (pteD e)

/-! ### Page tables (R434 to R437)

The root of a context is its L0 table. The other tables lie in slots of the table pool (log 13). An entry is the word that its context's
map gives it, unless a host or a peer has written over it. -/

/-- The key of the L1 table, and of the L2 table, that hold the entries of an address. -/
def l1Key (va : Nat) : Nat := 2 ^ 22 + va / 2 ^ 39 % 2 ^ 13
def l2Key (va : Nat) : Nat := va / 2 ^ 30 % 2 ^ 22

/-- An entry that names the next table: V = 1, LEAF = 0 (R435). -/
def pteTable (base : Nat) : Nat := 1 + base / 2 ^ 16 * 2 ^ 16

/-- Does a valid entry of a level break R435? -/
def pteBad (level e : Nat) : Bool :=
  bit e 0 && (field e 11 5 != 0 || field e 60 4 != 0 ||
    (if bit e 1 then
      level == 0 || decide (6 ≤ pteState e) || (pteSize e == 3) != (level == 1) ||
        (pteState e == pgWeight && (!pteR e || pteW e || pteEp e || pteD e || pteSize e == 3 || !isWeight (ptePa e))) ||
        (pteEp e && pteState e != pgResident)
    else level == 2))

/-- An entry on a walk: its level, its address, the run of identical entries that it stands in, the word that the map gives it. -/
structure WalkEntry where
  level : Nat
  addr : Nat
  run : Nat
  count : Nat
  word : Nat

/-- The entries that a walk of an address reads: one per level, down to the leaf or to an invalid entry (R434, R436). -/
def Ctx.walk (c : Ctx) (va : Nat) : List WalkEntry :=
  let at_ := fun (level base i word : Nat) (n : Nat) => ({ level := level, addr := base + 8 * i, run := base + 8 * (i / n * n), count := n, word := word } : WalkEntry)
  let leaf := (c.leaf va).map (·.2)
  let i0 := va / 2 ^ 39 % 2 ^ 13
  match SMap.find c.tables (l1Key va) with
  | none => [at_ 0 c.root i0 0 1]
  | some t1 =>
    at_ 0 c.root i0 (pteTable t1) 1 ::
    match leaf.filter fun e => pteSize e == 3, SMap.find c.tables (l2Key va) with
    | some e, _ => [at_ 1 t1 (va / 2 ^ 30 % 2 ^ 9) e 1]
    | none, none => [at_ 1 t1 (va / 2 ^ 30 % 2 ^ 9) 0 1]
    | none, some t2 =>
      [at_ 1 t1 (va / 2 ^ 30 % 2 ^ 9) (pteTable t2) 1,
       at_ 2 t2 (va / 2 ^ 16 % 2 ^ 14) (leaf.getD 0) (match leaf with | some e => pageGranules (pteSize e) | none => 1)]

/-- Is an entry of a walk as no table of the command processor is: its line is poisoned, a foreign write lies in its run, or its word breaks
R435 (R436)? -/
def State.entryBad (s : State) (e : WalkEntry) : Bool :=
  s.mem.poison.contains (e.addr / 64) ||
    (s.mem.cells.any fun c => decide (e.run ≤ c.1) && decide (c.1 < e.run + 8 * e.count)) || pteBad e.level e.word

/-- Is a walk of an address bound to end in a walk error (R436)? -/
def State.walkBad (s : State) (c : Ctx) (va : Nat) : Bool := (c.walk va).any s.entryBad

/-- The slots of the table pool that hold a root or a table, and the lowest that holds none (R434). -/
def State.poolUsed (s : State) : List Nat := s.ctxs.flatMap fun e => e.2.root :: e.2.tables.map (·.2)
def State.poolSlot (s : State) : Option Nat :=
  let lo := (s.boot.poolBase + 65535) / 65536
  let n := (s.boot.poolBase + s.boot.poolBytes) / 65536 - lo
  ((List.range (min n (s.poolUsed.length + 1))).map fun i => 65536 * (lo + i)).find? fun b => !s.poolUsed.contains b

/-- A table of a context is taken from the pool, where it has none under a key; `none` where the pool is full. -/
def State.takeTable (s : State) (ctx key : Nat) : Option State :=
  if (SMap.find (s.ctx ctx).tables key).isSome then some s
  else s.poolSlot.map fun b => s.setCtx ctx { s.ctx ctx with tables := SMap.insert (s.ctx ctx).tables key b }

/-- The tables for a page of a size code. -/
def State.takeTables (s : State) (ctx va size : Nat) : Option State :=
  (s.takeTable ctx (l1Key va)).bind fun s => if size = 3 then some s else s.takeTable ctx (l2Key va)

/-- The command processor writes the entries of a page: nothing foreign is left in its run. -/
def State.writeEntries (s : State) (ctx va : Nat) : State :=
  { s with mem := { s.mem with cells := ((s.ctx ctx).walk va).foldl (fun m e => dropRange m e.run (8 * e.count)) s.mem.cells } }

/-- Does a TLB hold the page of an address (R437)? -/
def TlbEntry.hits (ctx va : Nat) (t : TlbEntry) : Bool :=
  t.ctx == ctx && decide (t.page ≤ va / 2 ^ 16) && decide (va / 2 ^ 16 < t.page + pageGranules t.size)

/-- Does a TLB that serves a strand or a copy engine hold the page of an address (R437)? The command processor and the collective engine
have none. -/
def State.tlbHit (s : State) (agent ctx va : Nat) : Bool :=
  (agentCluster agent).any fun k => (s.cluster k).tlb.any (TlbEntry.hits ctx va) || (s.die (k / 6)).tlb.any (TlbEntry.hits ctx va)

/-- Must an address wait for a walk (R292 step 3, R437)? An unmapped address has no translation to wait for. -/
def State.needsWalk (s : State) (sid ctx va : Nat) : Bool :=
  !s.tlbHit sid ctx va && (((s.ctx ctx).leaf va).isSome || s.walkBad (s.ctx ctx) va)

/-- Does an agent that translates for itself meet a walk error (R436)? -/
def State.walkFails (s : State) (agent ctx va : Nat) : Bool := !s.tlbHit agent ctx va && s.walkBad (s.ctx ctx) va

/-- The links that a walk of a compute die takes to the memory-side caches of its lines (R15, R436). -/
def State.walkOpen (s : State) (die : Nat) (c : Ctx) (va : Nat) : Bool :=
  (c.walk va).all fun e => (fabricRoute (.compute die) (.io (homeIo e.addr))).all fun l => !s.linkHeld l

/-- A miss starts a walk of its die, or joins one of the same page; with 32 under way it waits (R437). -/
def State.startWalk (s : State) (agent ctx va : Nat) : State :=
  match agentCluster agent with
  | none => s
  | some k =>
    let d := s.die (k / 6)
    let page := match (s.ctx ctx).leaf va with
      | some (base, _) => base
      | none => va / 2 ^ 16
    if d.walks.any fun w => w.ctx == ctx && w.page == page then
      s.setDie (k / 6) { d with walks := d.walks.map fun w =>
        if w.ctx == ctx && w.page == page then { w with clusters := insertNat w.clusters k } else w }
    else if 32 ≤ d.walks.length then s
    else s.setDie (k / 6) { d with walks := d.walks ++ [{ ctx := ctx, page := page, clusters := [k] }] }

/-- The version of a region that a strand's launch is bound to (R388). -/
def State.boundOf (s : State) (sid : Nat) (region : Nat) : Nat := SMap.get (s.launch (s.strand sid).launch).versions region 0

/-- The SIDX of package `p` of the load-store domain (R464). -/
def State.peerSidx (s : State) (p : Nat) : Nat := s.link.sysid / 64 * 64 + p

/-- The range of this package itself is its own memory (R433). -/
def State.foldPa (s : State) (pa : Nat) : Nat := if peerOf pa = some (s.link.sysid % 64) then pa % 2 ^ 44 else pa

/-- Translation in a context. -/
def State.transIn (s : State) (c : Ctx) (va : Nat) (write world : Bool) (bound : Nat → Nat) : Trans :=
  match c.translate va write world bound with
  | .ok pa bad track => .ok (s.foldPa pa) bad track
  | r => r

/-- Translation for a strand. -/
def State.transFor (s : State) (sid va : Nat) (write : Bool) : Trans :=
  let c := s.ctx (s.strand sid).ctx
  s.transIn c va write c.world (s.boundOf sid)

/-! ### Lines of a range -/

/-- A range of bytes cut at the boundaries of units of a size: address, length and position of each part. -/
def cutUnits (u a n : Nat) : List (Nat × Nat × Nat) :=
  (List.range ((a + n + u - 1) / u - a / u)).map fun i =>
    let lo := max a (u * (a / u + i))
    let hi := min (a + n) (u * (a / u + i) + u)
    (lo, hi - lo, lo - a)

/-- Cut at line boundaries, and into locations (R419). -/
def cutLines (a n : Nat) : List (Nat × Nat × Nat) := cutUnits 64 a n
def cutWords (a n : Nat) : List (Nat × Nat × Nat) := cutUnits 8 a n

/-! ### Machine-check records and fault notices (R444, R496) -/

/-- Bytes of a record of 64, from fields of offset, length and value. -/
def recordBytes (n : Nat) (fs : List (Nat × Nat × Nat)) : List Byte :=
  fs.foldl (fun bs f => bs.take f.1 ++ toBytes f.2.2 f.2.1 ++ bs.drop (f.1 + f.2.1)) (List.replicate n 0)

/-! ### Completion queues (R348, R355 to R357) -/

def State.cq (s : State) (n : Nat) : CmplQueue := SMap.get s.cmd.cqs n {}
def State.setCq (s : State) (n : Nat) (q : CmplQueue) : State := { s with cmd := { s.cmd with cqs := SMap.insert s.cmd.cqs n q } }

/-- Is a completion queue full, or OFF, which counts as full (R348, R357)? -/
def CmplQueue.full (q : CmplQueue) : Bool := !q.on || decide (2 ^ q.log2n ≤ (q.tail + 2 ^ 32 - q.head) % 2 ^ 32)

/-- The 32 bytes of an escalation record (R308). -/
def EscRecord.bytes (e : EscRecord) : List Byte :=
  recordBytes 32 [(0, 2, e.sid), (2, 1, e.cause), (3, 1, e.slot % 16), (4, 2, e.bundle), (6, 1, e.kind), (8, 8, e.info),
    (16, 8, e.sbc), (24, 8, e.time)]

/-- The 64 bytes of a completion record with its phase (R356). -/
def Completion.bytes (c : Completion) (phase : Nat) : List Byte :=
  if c.raw.isEmpty then
    recordBytes 32 [(0, 1, c.status), (1, 1, phase + 2 * (if c.hmlost then 1 else 0)), (2, 1, c.cls), (3, 1, min 255 c.engerr), (4, 2, c.queue),
      (6, 2, c.tasks), (8, 8, c.tag), (16, 8, c.launch), (24, 8, c.tend)] ++ c.esc.bytes
  else c.raw.take 1 ++ toBytes phase 1 ++ c.raw.drop 2

/-- Bytes of a work item (R350). -/
def itemBytes (w lo n : Nat) : Nat := w / 2 ^ (8 * lo) % 2 ^ (8 * n)

/-- The token of a completed launch is signalled; a status other than OK also sets FAILED (R355). -/
def State.signal (s : State) (c : Completion) : State :=
  let l := s.launch c.launch
  let sg := itemBytes l.item 84 2
  if !c.signal || !bit sg 15 then s else
    let x := s.ctx l.ctx
    let (n, f) := SMap.get x.tokens (sg % 256) (0, false)
    match SMap.find s.ctxs l.ctx with
    | some _ => s.setCtx l.ctx { x with tokens := SMap.insert x.tokens (sg % 256) ((n + 1) % 2 ^ 32, f || c.status != 0) }
    | none => s

/-- The address at which a queue in host or in device memory lies. -/
def queueAddr (loc : Bool) (base : Word) : Nat := if loc then base.toNat else 2 ^ 51 + base.toNat

/-- One held record is written, its message sent and its token signalled, where the queue has room and can be reached
(R355, R357, R462). -/
def State.flushOne (s : State) (n : Nat) : State :=
  let q := s.cq n
  match q.held with
  | [] => s
  | c :: rest =>
    if q.full || (!q.loc && !s.link.hostUp) then s
    else
      let i := q.tail % 2 ^ q.log2n
      let phase := (q.tail / 2 ^ q.log2n + 1) % 2
      let s := { s with mem := s.mem.write agentCp 7 (queueAddr q.loc q.base + 64 * i) (c.bytes phase) false 0 }
      let s := s.setCq n { q with tail := (q.tail + 1) % 2 ^ 32, held := rest }
      let s := if q.mask then s else { s with cmd := { s.cmd with msix := s.cmd.msix ++ [q.vec] } }
      s.signal c

/-- The 64 command queues changed where they name a completion queue. -/
def State.queuesNaming (s : State) (n : Nat) (f : CmdQueue → CmdQueue) : State :=
  let one := fun (m : SMap CmdQueue) (i : Nat) =>
    let q := SMap.get m i {}
    if q.cq = n then SMap.put m i (f q) {} else m
  { s with cmd := { s.cmd with queues := (List.range 64).foldl one s.cmd.queues } }

/-- Held records are written in order, and QSTAT.CQFULL follows in every queue that names the completion queue (R348, R349, R357). -/
def State.flushCq (s : State) (n : Nat) : State :=
  let s := (s.cq n).held.foldl (fun s _ => s.flushOne n) s
  let full := (s.cq n).full
  s.queuesNaming n fun q => { q with cqfull := full }

/-- Does a completion queue take no more records, because its context closes and it is full or OFF (R348)? -/
def State.cqDrops (s : State) (q : CmplQueue) : Bool := q.full && q.ctx != 0 && (s.ctx q.ctx).state == .closing

/-- The records held for the completion queues of a closing context that are full or OFF are dropped; their tokens are signalled
(R348). -/
def State.dropHeld (s : State) (ctx : Nat) : State :=
  (SMap.keys s.cmd.cqs).foldl (fun s n =>
    let q := s.cq n
    if q.ctx = ctx && s.cqDrops q then q.held.foldl State.signal (s.setCq n { q with held := [] }) else s) s

/-- A record joins a completion queue. -/
def State.postRecord (s : State) (n : Nat) (c : Completion) : State :=
  let q := s.cq n
  if s.cqDrops q then s.signal c else (s.setCq n { q with held := q.held ++ [c] }).flushCq n

/-- A record for the completion queue of queue 0 (R348, R444, R496). -/
def State.toQueue0 (s : State) (raw : List Byte) : State := s.postRecord (SMap.get s.cmd.queues 0 {}).cq { raw := raw }

/-- The bytes of a machine-check record of this moment (R496). -/
def State.checkBytes (s : State) (kind src ctx addr band : Nat) : List Byte :=
  recordBytes 64 [(2, 1, 0xFD), (3, 1, kind), (4, 2, src), (6, 2, ctx), (8, 8, addr), (16, 8, s.power.dtime),
    (24, 4, SMap.get s.power.mcSuppressed kind 0), (28, 1, band)]

/-- A machine-check record is written to queue 0's completion queue and to the ring of 256 (R496). -/
def State.deliverCheck (s : State) (raw : List Byte) : State :=
  let p := s.power
  { s with power := { p with mcRing := SMap.insert p.mcRing (p.mcCount % 256) raw, mcCount := p.mcCount + 1 } }.toQueue0 raw

/-- A machine-check record of a kind (R496); a record trigger may latch the snapshot (R497). -/
def State.machineCheck (s : State) (kind src ctx addr band : Nat) : State :=
  let raw := s.checkBytes kind src ctx addr band
  ({ s with power := { s.power with mcSuppressed := SMap.erase s.power.mcSuppressed kind } }.deliverCheck raw).trigger 2 kind

/-- A LINECHK record for a line, at most one per 64 KiB and second; the rest are counted (R492). -/
def State.lineCheckRecord (s : State) (ctx pa : Nat) : State :=
  let p := s.power
  match SMap.find p.mcLast (pa / 65536) with
  | some t =>
    if p.dtime < t + 1000000000 then
      { s with power := { p with mcSuppressed := SMap.insert p.mcSuppressed 8 (SMap.get p.mcSuppressed 8 0 + 1) } }
    else { s with power := { p with mcLast := SMap.insert p.mcLast (pa / 65536) p.dtime } }.machineCheck 8 0xFFFF ctx (pa / 64 * 64) 0
  | none =>
    { s with power := { p with mcLast := SMap.insert p.mcLast (pa / 65536) p.dtime } }.machineCheck 8 0xFFFF ctx (pa / 64 * 64) 0

/-! ### The end of a context (R299, R309, R347, R348, R383, R472)

A closing context is released once nothing of it is left at work. -/

/-- A context closes: its queues are unbound, its open launches complete ABORT, its kernel records are retired, the
cores that its world owns drain; a parked world's blob dies with its generation (R327, R328). Its pages that are not there are unmapped at once,
so that no access is parked on them any longer; the others once nothing of it is at work (R440, log 18). -/
def State.closeCtx (s : State) (ctx : Nat) : State :=
  let c := s.ctx ctx
  let there := c.pages.filter fun e => pteState e.2 != pgNonres && pteState e.2 != pgMigrating
  let s := (s.setCtx ctx { c with state := .closing, notices := [], pages := there }).dropHeld ctx
  let off := fun (e : Nat × CmdQueue) => (e.1, if e.2.ctx = ctx then { e.2 with state := .off } else e.2)
  let s := { s with cmd := { s.cmd with queues := s.cmd.queues.map off, kernels := s.cmd.kernels.filter fun e => e.2.ctx != ctx } }
  let s := s.endLaunches (s.openLaunches ctx) .abort {}
  let drain := fun (e : Nat × Core) => (e.1, if e.2.ownership == .owned ctx then { e.2 with ownership := .draining } else e.2)
  let s := { s with cores := s.cores.map drain, migrations := s.migrations.filter fun m => m.ctx != ctx,
                    dies := s.dies.map fun e => (e.1, { e.2 with faults := e.2.faults.filter fun f => f.ctx != ctx }) }
  if c.parked then { s with sec := { s.sec with gens := SMap.insert s.sec.gens ctx (SMap.get s.sec.gens ctx 0 + 1) } } else s

/-- Is anything of a context still at work: a launch, a group or its image, and what an aborted group leaves that runs to its end or
reaches memory under the context's translations and key (R299, R309, log 18)? -/
def State.ctxBusy (s : State) (ctx : Nat) : Bool :=
  (s.cmd.launches.any fun e => e.2.ctx == ctx && e.2.stage9 != 2) || s.anyGroup (fun g => g.ctx == ctx) ||
  (s.clusters.any fun e => e.2.ceq.any fun (c : CeCmd) => c.ctx == ctx) || (s.link.cols.any fun (c : ColCmd) => c.ctx == ctx) ||
  s.mem.orphans.any fun o => o.2.ctx == ctx

/-- A closing context with nothing left is FREE: its key slot, queues, windows, rings and translations go with it; the cache lines of
its slot are invalidated without write-back (R327). -/
def State.settleClosing (s : State) (ctx : Nat) : State :=
  match SMap.find s.ctxs ctx with
  | none => s
  | some c =>
    if c.state != .closing || s.ctxBusy ctx then s else
    let cqOff := fun (e : Nat × CmplQueue) => (e.1, if e.2.ctx = ctx then { e.2 with on := false, held := [] } else e.2)
    let l := s.link
    { s with ctxs := SMap.erase s.ctxs ctx,
             sec := { s.sec with slots := s.sec.slots.filter fun e => e.2.ctx != ctx },
             mem := if c.world then s.mem.dropSlot c.keyId else s.mem,
             cmd := { s.cmd with cqs := s.cmd.cqs.map cqOff },
             clusters := s.clusters.map fun e => (e.1, { e.2 with tlb := e.2.tlb.filter fun t => t.ctx != ctx }),
             dies := s.dies.map fun e => (e.1, { e.2 with tlb := e.2.tlb.filter fun t => t.ctx != ctx }),
             link := { l with comms := l.comms.filter fun e => e.2.ctx != ctx, windows := l.windows.filter fun e => e.2.ctx != ctx,
                              rings := l.rings.filter fun e => e.2.ctx != ctx } }

/-- Every closing context that can be is released. -/
def State.settleAll (s : State) : State := (SMap.keys s.ctxs).foldl State.settleClosing s

/-! ### Fault tables (R441, R444) -/

/-- An access parks: it joins the entry of its page, or takes a new one where the table has room (R441). A new entry
of a NONRES page writes a fault notice, once per page and fault (R444). `none` where the table is full. -/
def State.park (s : State) (die ctx va : Nat) (write : Bool) (launch : Nat) : Option State :=
  let c := s.ctx ctx
  match c.leaf va with
  | none => some s
  | some (base, e) =>
    let d := s.die die
    if d.faults.any fun f => f.ctx == ctx && f.page == base then
      some (s.setDie die { d with faults := d.faults.map fun f =>
        if f.ctx == ctx && f.page == base then { f with count := f.count + 1, write := f.write || write } else f })
    else if 512 ≤ d.faults.length then none
    else
      let s := s.setDie die { d with faults := d.faults ++ [{ ctx := ctx, page := base, write := write, launch := launch }] }
      if pteState e = pgNonres && !c.notices.contains base then
        let raw := recordBytes 64 [(2, 1, 0xFE), (8, 8, base * 2 ^ 16), (16, 8, launch), (24, 8, s.power.dtime),
          (32, 2, ctx), (34, 1, ofBit write)]
        some ((s.setCtx ctx { c with notices := insertNat c.notices base }).toQueue0 raw)
      else some s

/-- A context whose walk met an error is BROKEN: its work items complete FAULT (R299, R436). -/
def State.breakCtx (s : State) (ctx : Nat) : State :=
  let c := s.ctx ctx
  if c.state == .opened || c.state == .active then
    (s.setCtx ctx { c with state := .broken }).endLaunches (s.openLaunches ctx) .fault {}
  else s

/-- An access of the command processor is held at a page; a notice is written for a NONRES page (R525); a walk error breaks the
context (R436). -/
def State.cpPark (s : State) (ctx va launch : Nat) (write : Bool) : State :=
  let c := s.ctx ctx
  if s.walkFails agentCp ctx va then s.breakCtx ctx else
  match c.leaf va with
  | some (base, e) =>
    if pteState e = pgNonres && !c.notices.contains base then
      (s.setCtx ctx { c with notices := insertNat c.notices base }).toQueue0 (recordBytes 64 [(2, 1, 0xFE), (8, 8, base * 65536),
        (16, 8, launch), (24, 8, s.power.dtime), (32, 2, ctx), (34, 1, ofBit write)])
    else s
  | none => s

/-! ### Dirty tracking (R452) -/

/-- A write through a tracked entry marks its granule dirty, in the tracked window. -/
def Ctx.mark (c : Ctx) (va : Nat) : Ctx :=
  match c.window with
  | none => c
  | some (base, len) =>
    if base ≤ va ∧ va < base + len * 2 ^ 30 then { c with dirty := insertNat c.dirty (va / 2 ^ 16) } else c

/-! ### Bytes for the command processor and the engines (R525, R367) -/

/-- What a read of a range comes to. -/
inductive RangeRead where
  | denied (at_ : Nat)
  | park (at_ : Nat)
  | bytes (bs : List Byte) (poison : Bool)
  deriving DecidableEq, Repr

/-- Can an agent reach the home of a frame now: the links of its route carry traffic (R15, R459), the host link is up (R462), the
peer is not silent (R467)? -/
def State.reachable (s : State) (agent pa : Nat) : Bool :=
  s.routeOpen agent pa && (!isHost pa || s.link.hostUp) &&
  (match peerOf pa with
   | some p => !(SMap.get s.link.peers (s.peerSidx p) {}).silent
   | none => true)

/-- An access that fails instead of waiting for its home: the peer is silent (R467), or the host link stayed away for
50 ms (R462). -/
def State.lostHome (s : State) (pa : Nat) : Bool :=
  (isHost pa && s.link.hostFailed) ||
  (match peerOf pa with
   | some p => (SMap.get s.link.peers (s.peerSidx p) {}).silent
   | none => false)

/-- The line of a frame as a reader of a context gets it: bytes, poisoned by its own mark, by a check that fails on the way (R492), by a key
that does not open it (R332), or by its die being out of service (R459). What an engine gets of a peer is a free value (log 12). A slice is read whether or not its core is on: the
manual says that its read logic is off with the core (R32) and not what a read meets, and the model takes the read logic to be on for it
(log 36). -/
def State.readLine (s : State) (r : Reader) (key pa n : Nat) : List Byte × Bool :=
  match peerOf pa with
  | some _ => ((List.range n).map fun i => BitVec.ofNat 8 (Config.freeNat (s.tick + pa + i)), Config.peerPoison (s.tick + pa))
  | none =>
    let dead := match mramSlice pa with
      | some (c, _) => (s.die (c / 48)).failed
      | none => false
    (if s.mem.sameKey key pa then s.mem.bytesFor r pa n else ((s.mem.openedLine key (pa / 64)).drop (pa % 64)).take n,
     dead || s.mem.poisonIn r pa n || s.mem.transit.contains (pa / 64) || !s.mem.opens key pa)

/-- A line is opened under the key of a context, and enters the cache of its home. One that fails its line check is poisoned where it lies,
and a LINECHK record is raised (R332, R492). -/
def State.openLine (s : State) (ctx key pa : Nat) : State :=
  let m := s.mem.cached key pa false
  let s := { s with mem := { m with transit := m.transit.filter (· != pa / 64) } }
  if s.mem.opens key pa || s.mem.poison.contains (pa / 64) then s
  else { s with mem := s.mem.poisonLine (pa / 64) }.lineCheckRecord ctx pa

/-- The copies of the argument block and the shape record that every task of a launch sees, each with its address (R354). -/
def Launch.copies (l : Launch) : List (Nat × List Byte) :=
  let shape := itemBytes l.item 24 8
  if l.bound then [(itemBytes l.item 16 8, l.args), (shape, if shape = 0 then [] else l.shape)] else []

/-- The byte that the copies give at an address, where the launch has not written there itself (log 20). -/
def Launch.copied (l : Launch) (a : Nat) : Option Byte :=
  if l.rewritten.contains a then none else
  l.copies.findSome? fun e => if e.1 ≤ a ∧ a < e.1 + e.2.length then e.2[a - e.1]? else none

/-- What a task of a launch reads at an address: bytes of the copies come from there, and without poison (R354). -/
def State.asCopied (s : State) (lid va : Nat) (r : List Byte × Bool) : List Byte × Bool :=
  let l := s.launch lid
  if l.copies.all (fun e => decide (e.1 + e.2.length ≤ va) || decide (va + r.1.length ≤ e.1)) then r else
  let cs := (List.range r.1.length).map fun i => l.copied (va + i)
  (List.zipWith Option.getD cs r.1, r.2 && !cs.all Option.isSome)

/-- A task of a launch writes in its argument block or its shape record: it reads there what it wrote (R354, log 20). -/
def State.rewrites (s : State) (lid va n : Nat) : State :=
  let l := s.launch lid
  let hit := ((List.range n).map (va + ·)).filter fun a => l.copies.any fun e => decide (e.1 ≤ a) && decide (a < e.1 + e.2.length)
  if hit.isEmpty then s else s.setLaunch lid { l with rewritten := hit.foldl insertNat l.rewritten }

/-- A range read through a context's page tables, line by line in ascending order; `via` is the agent whose route the request takes. A
walk error stops it as a page that is not there does, and whoever waits breaks the context (`cpPark`, `engineWaits`). The memory of a
parked world, whose keys are away, is not read before they are back (R327, log 28). A reader for a launch sees the copies that it was
dispatched with (R354). -/
def State.readRange (s : State) (r : Reader) (ctx : Nat) (world : Bool) (bound : Nat → Nat) (va n : Nat) (via : Nat := r.place)
    (lid : Option Nat := none) : RangeRead :=
  let c := s.ctx ctx
  let step := fun (acc : RangeRead) (l : Nat × Nat × Nat) =>
    match acc with
    | .bytes bs p =>
      if c.parked || s.walkFails via ctx l.1 then .park l.1 else
      match s.transIn c l.1 false world bound with
      | .denied => .denied l.1
      | .park => .park l.1
      | .ok pa bad _ =>
        if s.lostHome pa then .denied l.1
        else if s.reachable via pa then
          let (b, q) := s.readLine r c.keyId pa l.2.1
          let (b, q) := match lid with
            | some n => s.asCopied n l.1 (b, q || bad)
            | none => (b, q || bad)
          .bytes (bs ++ b) (p || q)
        else .park l.1
    | r => r
  (cutLines va n).foldl step (.bytes [] false)

/-- The lines of a range that was read are opened at their homes (R332, R492). -/
def State.openRange (s : State) (ctx : Nat) (bound : Nat → Nat) (va n : Nat) : State :=
  (cutLines va n).foldl (fun s l =>
    match s.transIn (s.ctx ctx) l.1 false false bound with
    | .ok pa _ _ => if (peerOf pa).isSome then s else s.openLine ctx (s.ctx ctx).keyId pa
    | _ => s) s

/-- What the writes of a range meet: the first address that is denied, or that parks. -/
def State.probeWrite (s : State) (agent ctx : Nat) (world : Bool) (va n : Nat) : Option (Bool × Nat) :=
  let c := s.ctx ctx
  (cutLines va n).findSome? fun l =>
    if c.parked || s.walkFails agent ctx l.1 then some (false, l.1) else
    match s.transIn c l.1 true world (fun _ => 0) with
    | .denied => some (true, l.1)
    | .park => some (false, l.1)
    | .ok pa _ _ => if s.lostHome pa then some (true, l.1) else if s.reachable agent pa then none else some (false, l.1)

/-! ### Packets to other packages (R463 to R467) -/

/-- Is something outstanding toward a package: a packet, or a pending command on an open communicator that it is a
member of (R466, R521)? -/
def State.outstanding (s : State) (dest : Nat) : Bool :=
  (List.range 4).any (fun c => !(SMap.get s.link.flows (4 * dest + c) {}).unacked.isEmpty) ||
  s.link.asks.any (fun k => k.peer == dest && k.answer.isNone) ||
  s.link.outbox.any (fun o => o.1 == dest) ||
  s.link.cols.any fun (c : ColCmd) => c.begun && match c.comm with
    | some i => let m := SMap.get s.link.comms i {}
                m.state == .opened && m.epoch == c.epoch && m.members.contains dest
    | none => false

/-- The time of quiet toward a package starts when something first becomes outstanding toward it (R466). -/
def State.watch (s : State) (dest : Nat) : State :=
  if s.outstanding dest then s else
    let p := SMap.get s.link.peers dest {}
    { s with link := { s.link with peers := SMap.insert s.link.peers dest { p with heard := s.power.dtime } } }

/-- Is a port in the routes (R463)? -/
def PortState.live (p : PortState) : Bool := p == .up || p == .degraded

/-- The live ports of the route to a package: its table entry names them, bit by bit (log 10). -/
def LinkState.portsTo (l : LinkState) (pkg : Nat) : List Nat :=
  (List.range 8).filter fun n => bit (SMap.get l.routes pkg 0) n && PortState.live (SMap.get l.ports n {}).state

/-- One of the live ports to a package; the manual does not say which (log 12). -/
def State.anyPort (s : State) (pkg : Nat) : Option Nat :=
  let ps := s.link.portsTo pkg
  ps[Config.freeNat s.tick % ps.length]?

/-- The rate of a port in Mb/s: half of it with one lane (R463). -/
def State.portRate (s : State) (port : Option Nat) : Nat :=
  if port.any fun n => (SMap.get s.link.ports n {}).state == .degraded then 200000 else 400000

/-- A flow on the port that it keeps while that port is in its route, and on another one then; its rate starts at the rate of its
port (R464, R466). -/
def State.route (s : State) (dest : Nat) (f : Flow) : Flow :=
  if f.port.any (s.link.portsTo dest).contains then f else
  let p := s.anyPort dest
  { f with port := p, rate := if f.port.isNone then s.portRate p else f.rate }

/-- Does a kiln hold keep the packets of a class back (R488)? -/
def State.holdsClass (s : State) (cls : Nat) : Bool := s.power.kiln == .held && decide (2 ≤ cls)

/-- A packet of a flow is sent: it takes the flow's next number, or waits where 256 are not acknowledged, or a kiln hold keeps its class
back (R465, R488). -/
def State.sendPacket (s : State) (dest cls : Nat) (body : PacketBody) : State :=
  let s := s.watch dest
  let k := 4 * dest + cls
  let f := s.route dest (SMap.get s.link.flows k {})
  if f.unacked.length < 256 && !s.holdsClass cls then
    let f := { f with unacked := f.unacked ++ [{ seq := f.next, body := body, time := s.power.dtime }], next := (f.next + 1) % 2 ^ 32 }
    let p := SMap.get s.link.peers dest {}
    { s with link := { s.link with flows := SMap.insert s.link.flows k f,
                                   peers := SMap.insert s.link.peers dest { p with sentAt := s.power.dtime } } }
  else { s with link := { s.link with outbox := s.link.outbox ++ [(dest, cls, body)] } }

/-- A remote access leaves for the home of its line in the peer; its answer is awaited (R467). -/
def State.askPeer (s : State) (d pa : Nat) (op : RemoteOp) (data : List Byte) (own : Bool := false) (tag : WriteTag := {}) : State :=
  let s := s.sendPacket (s.peerSidx d) 0 (.request op pa data)
  { s with link := { s.link with askNext := s.link.askNext + 1,
                                 asks := s.link.asks ++ [{ id := s.link.askNext, peer := s.peerSidx d, own := own, tag := tag }] } }

/-! ### Writing a range (R452, R525) -/

/-- Bytes of a line written through a context's page tables, performed at a level, with dirty tracking, which leaves out the command
processor's own writes (R452); one of a peer goes there (R467). -/
def State.writeSome (s : State) (sid level ctx va : Nat) (bs : List (Option Byte)) (poison : Bool) (clears : Bool := false)
    (tag : WriteTag := {}) : State :=
  let c := s.ctx ctx
  match s.transIn c va true false (fun _ => 0) with
  | .ok pa bad track =>
    let s := if track && sid != agentCp then s.setCtx ctx (c.mark va) else s
    let s := if tag.eng then s.rewrites tag.launch va bs.length else s
    match peerOf pa with
    | some d => if bs.all Option.isSome then s.askPeer d pa (.write (poison || bad) clears) (bs.filterMap id) false tag
      else (List.range bs.length).foldl (fun s i => match (bs[i]?).getD none with
        | some b => s.askPeer d (pa + i) (.write (poison || bad) false) [b] false tag
        | none => s) s
    | none => { s with mem := s.mem.writeSome sid level pa bs (poison || bad) c.keyId clears tag }
  | _ => s
def State.writeLine (s : State) (sid level ctx va : Nat) (bs : List Byte) (poison : Bool) (clears : Bool := false)
    (tag : WriteTag := {}) : State :=
  s.writeSome sid level ctx va (bs.map some) poison clears tag

/-- A range written, line by line. -/
def State.writeRange (s : State) (sid level ctx va : Nat) (bs : List Byte) (poison : Bool) (tag : WriteTag := {}) : State :=
  (cutLines va bs.length).foldl (fun s l => s.writeLine sid level ctx l.1 ((bs.drop l.2.2).take l.2.1) poison false tag) s

end Sys2Proof.Machine
end

