-- ==== Sys2Proof/Machine/Streams.lean ====
section
/-! DEFINITION. Address generators at a count (R191), the pop of a stream register by a bundle (R205, R287 to R290,
R297), and the iteration that a poisoned slot rolls back to (R198). -/

namespace Sys2Proof.Machine

/-- The value of a generator at the strand's loop indices (R191). -/
def Strand.genValue (st : Strand) (a : AddrGen) : Nat :=
  let i := fun l => if (st.loop l).active then (st.loop l).iter else 0
  (a.base.toNat + i 0 * a.s0.toNat + i 1 * a.s1.toNat + i 2 * a.s2.toNat + i 3 * a.s3.toNat) % 2 ^ 64

/-- State of a lanegroup of the issuing strand's bank set (R407). -/
def State.lgState (s : State) (g : Nat) : LgPower := SMap.get s.myCore.lgs (8 * bankSetOf s.cur + g) .on

/-- A gated lanegroup that a slot names raises GATED; one that is not on stalls the bundle (R206). -/
def lgWait (s : State) (named : List Nat) : Option Res :=
  match named.find? fun g => s.lgState g == .gated with
  | some g => some (.trap cGATED g)
  | none => (named.find? fun g => s.lgState g != .on).map fun g => .stall (.drowsy g)

/-- Stages of the level-3 loop: a loop that is not modulo has one (R196). -/
def Strand.loopStages (st : Strand) : Nat := if st.md then st.stages else 1

/-- The rollback iteration of a slot that consumes poison under a predicate, if the bundle is in the body of a
rollback loop, no drain is under way, and the iteration has not been rolled back to already (R198). -/
def Strand.rollbackTo (st : Strand) (idx : Nat) (pr : Option Nat) : Option Nat :=
  let j := (st.loop 3).iter
  let i := match pr with
    | some r => if st.pbase ≤ r ∧ r < st.pbase + st.loopStages then j - (r - st.pbase) else j - (st.loopStages - 1)
    | none => j - (st.loopStages - 1)
  if st.inRollback idx && st.drain.isNone && !st.rolledTo.contains i then some i else none

/-- Poison is consumed by a slot: a rollback, or POISON (R198, R205). -/
def poisonRes (s : State) (pr : Option Nat) (info : Nat) : Res :=
  match s.me.rollbackTo s.iss.idx pr with
  | some i => .rollback i
  | none => .trap cPOISON info

/-- The first line of a range that a strand's translation denies (R292 step 4). -/
def State.deniedAt (s : State) (sid a n : Nat) (write : Bool) : Option Nat :=
  (cutLines a n).findSome? fun l =>
    match s.transFor sid l.1 write with
    | .denied => some l.1
    | _ => none

/-- The first line of a range that must wait for its translation (R292 step 3). -/
def State.waitAt (s : State) (sid a n : Nat) : Option Nat :=
  ((cutLines a n).find? fun l => s.needsWalk sid (s.strand sid).ctx l.1).map (·.1)
def State.rangeWaits (s : State) (sid a n : Nat) : Bool := (s.waitAt sid a n).isSome

/-- Of the stops of one slot that the manual does not order otherwise the lowest cause counts, and of equals the first; a wait for a
translation stands where the check that follows it does (R58, R292). -/
def Res.rank : Res → Nat
  | .trap c _ => c
  | _ => cPERM
def lowestStop (l : List (Option Res)) : Option Res :=
  l.foldl (fun a b => match a, b with
    | some x, some y => some (if Res.rank y < Res.rank x then y else x)
    | none, y => y
    | x, none => x) none

/-- What a pop of a stream register by the issuing strand meets before its data: the address checks of a pattern
(R289, R292), as a trap or a wait. -/
def popAddress (s : State) (n : Nat) : Option Res :=
  let st := s.me
  let q := st.qGet n
  if q.kind == .pattern then
    let a := st.genValue q.gen
    if 2 ^ 52 ≤ a then some (.trap cPERM a)
    else if a % (q.ety.width / 8) ≠ 0 then some (.trap cALIGN a)
    else match s.waitAt s.cur a 512 with
      | some va => some (.stall (.translation va))
      | none => (s.deniedAt s.cur a 512 false).map (.trap cPERM ·)
  else none

/-- Accesses that acquire, and that release (R420). -/
def Access.acquires (a : Access) : Bool := a.ord == .acq || a.ord == .ar
def Access.releases (a : Access) : Bool := a.ord == .rel || a.ord == .ar

/-- Accesses that load, and atomics (R293). -/
def AccOp.isLoad : AccOp → Bool
  | .load | .gather => true
  | _ => false
def AccOp.isAtomic : AccOp → Bool
  | .amo .. | .cas _ => true
  | _ => false

/-- Is a part performed at a level (R416): a load has returned, an atomic as well? -/
def Part.doneAt (p : Part) (op : AccOp) (level : Nat) : Bool :=
  if AccOp.isLoad op then p.returned else decide (level ≤ p.level) && (!AccOp.isAtomic op || p.returned)
def Access.doneAt (a : Access) (level : Nat) : Bool := a.parts.all (·.doneAt a.op level)

/-- Do two ranges of bytes have a word in common (R419)? -/
def wordsMeet (a n b m : Nat) : Bool := decide (a / 8 < (b + m + 7) / 8) && decide (b / 8 < (a + n + 7) / 8)

/-- The frames of a range of a strand, line by line. -/
def State.frames (s : State) (sid a n : Nat) : List (Nat × Nat) :=
  (cutLines a n).filterMap fun l => match s.transFor sid l.1 false with
    | .ok pa _ _ => some (pa, l.2.1)
    | _ => none

/-- Do two ranges of a strand have a location in common, at one address or by way of two mappings of one frame (R419, R420)? -/
def State.locationsMeet (s : State) (sid a n b m : Nat) : Bool :=
  wordsMeet a n b m || (s.frames sid a n).any fun x => (s.frames sid b m).any fun y => wordsMeet x.1 x.2 y.1 y.2

/-- Does an earlier access of the strand hold back a pop of a pattern: an acquire not performed, or a load of one of
its words that has not returned (R290, R420)? -/
def State.popHeld (s : State) (sid a : Nat) : Bool :=
  ((s.strand sid).lq ++ (s.strand sid).sq).any fun x =>
    (x.acquires && !x.doneAt (Scope.level x.sc)) ||
    (AccOp.isLoad x.op && x.parts.any fun p => !p.returned && s.locationsMeet sid p.va p.len a 512)

/-- Has the head entry of a stream register arrived, at the address of the pop where the stream is a pattern? -/
def headReady (st : Strand) (q : QReg) : Bool :=
  match q.entries with
  | [] => false
  | e :: _ => e.arrived && (q.kind != .pattern || e.addr == st.genValue q.gen)

/-- Entries of a load and of a store queue (R293). -/
def queueSize : Nat := 32

/-- A pop whose data is not there waits (R53, R205, R290); one of a pattern, which the load queue lists, waits for room in it as well
(R293). -/
def popWait (s : State) (n : Nat) : Option Res :=
  let q := s.me.qGet n
  let pattern := q.kind == .pattern
  if !headReady s.me q || (pattern && s.popHeld s.cur (s.me.genValue q.gen)) then some (.stall (if pattern then .prefetch n else .emptyStream n))
  else if pattern && decide (queueSize ≤ s.me.lq.length) then some (.stall .queueFull)
  else none

/-- A pop of a poisoned entry by a V slot (R205, R297). -/
def popPoison (s : State) (n : Nat) (pr : Nat) : Option Res :=
  match (s.me.qGet n).entries with
  | e :: _ => e.poison.map fun a => poisonRes s (some pr) a
  | [] => none

/-- The data of the head entry. -/
def headData (st : Strand) (n : Nat) : Vec :=
  match (st.qGet n).entries with
  | e :: _ => e.data
  | [] => 0

/-- An entry that was waiting for its operation, filled. -/
def QReg.fill (r : QReg) (tag : Nat) (f : QEntry → QEntry) : QReg :=
  if r.kind == .explicit then { r with entries := r.entries.map fun e => if e.tag == tag && !e.arrived then f e else e } else r

/-- An entry is filled in the snapshots of a rollback loop, and in its register as well (R197, R198). -/
def Strand.fillSnaps (st : Strand) (q tag : Nat) (f : QEntry → QEntry) : Strand :=
  { st with snaps := st.snaps.map fun x => { x with qs := x.qs.map fun e => if e.1 = q then (e.1, e.2.fill tag f) else e } }
def Strand.fillEntry (st : Strand) (q tag : Nat) (f : QEntry → QEntry) : Strand :=
  (st.setQ q ((st.qGet q).fill tag f)).fillSnaps q tag f

/-- A pop of a pattern entry is a load: entries of other patterns fetched before it, of words that it reads, are fetched again before
their own pops (R290, R420); `meet` says which entries have a location in common. The tag of a pattern entry says when it was fetched. -/
def Strand.loadOrder (st : Strand) (meet : Nat → Nat → Bool) (n : Nat) : Strand :=
  match (st.qGet n).kind, (st.qGet n).entries with
  | .pattern, e :: _ => { st with q := st.q.map fun r =>
      if r.1 = n || r.2.kind != .pattern then r
      else (r.1, { r.2 with entries := r.2.entries.filter fun x => !(decide (x.tag < e.tag) && meet x.addr e.addr) }) }
  | _, _ => st

/-- Entries fetched ahead are discarded where a condition on their address holds (R290). -/
def Strand.dropFetched (st : Strand) (f : Nat → Bool) : Strand :=
  { st with q := st.q.map fun e => if e.2.kind == .pattern
      then (e.1, { e.2 with entries := e.2.entries.filter fun x => !f x.addr }) else e }

/-- The pops of a bundle, each q register once (R205). -/
def State.popQ (s : State) (n : Nat) : State :=
  { s with iss := { s.iss with pops := if s.iss.pops.contains n then s.iss.pops else s.iss.pops ++ [n] } }

end Sys2Proof.Machine
end

