-- ==== Sys2Proof/Machine/Tiles.lean ====
section
/-! DEFINITION. Tile handles (R273 to R280), the row engine's timetable of lines (R267, R268), and tile access by
`ld.sp`, `ld.b` and `st.sp` (R281 to R286). -/

namespace Sys2Proof.Machine

/-! ### Shapes (R253, R274 to R276) -/

/-- Bytes of a row of strips (R253). -/
def stripBytes (t : ElemType) : Nat :=
  match t with
  | .s8 | .n8 | .mxi8 => 128
  | t =>
    if t.isBp then 16 * t.width
    else match floatFmt t with
      | some f => 16 * (2 + f.ebits + f.mbits)
      | none => 0

/-- Types of a BSTACK tile (R276). -/
def bstackType (t : ElemType) : Bool :=
  t.isBp || t.isMx || (match t with
    | .s8 | .n8 | .bf16 | .f16 | .e4m3 | .e5m2 | .f32 | .f64 => true
    | _ => false)

/-- PITCH of a tile: lines per row, or bytes per row of a BSTACK tile (R273). -/
def pitchOf (level : TileLevel) (ty : ElemType) (cols : Nat) : Nat :=
  if level == .bstack then stripBytes ty else (cols * ty.width + 511) / 512

/-- Lines of a core's scratchpad and of its B-stack (R274, R276). -/
def spLines : Nat := 5120
def bLines : Nat := 32768

/-- Do two tiles draw on one store of one core? -/
def sameStore (t : Tile) (level : TileLevel) (core : Nat) : Bool :=
  t.core == core && ((t.level == .bstack) == (level == .bstack))

/-- The first line from which `n` lines are free in a store (R277). -/
def firstFit (tiles : List Tile) (level : TileLevel) (core n : Nat) : Option Nat :=
  let own := tiles.filter fun t => sameStore t level core
  let cap := if level == .bstack then bLines else spLines
  let fits := fun b => decide (b + n ≤ cap) && own.all fun t => decide (b + n ≤ t.base) || decide (t.base + t.lines ≤ b)
  let good := (0 :: own.map fun t => t.base + t.lines).filter fits
  match good with
  | [] => none
  | b :: bs => some (bs.foldl min b)

/-- A tile of a shape placed first-fit among others (R277). -/
def placeTile (tiles : List Tile) (level : TileLevel) (core rows cols : Nat) (ty : ElemType) : Option Tile :=
  let t : Tile := { level := level, core := core, rows := rows, cols := cols, ety := ty, base := 0,
                    pitch := pitchOf level ty cols }
  (firstFit tiles level core t.lines).map fun b => { t with base := b }

/-- Every tile of a cluster whose lines are not free, those of a preload among them. -/
def Cluster.allTiles (c : Cluster) : List Tile := c.tiles.map (·.2) ++ c.shadow.map (·.2) ++ c.ceq.flatMap CeCmd.working

/-- The preloaded group of a cluster, whose handles stand in the shadow tile table (R403). -/
def State.preloadOf (s : State) (k : Nat) : Option Nat :=
  (s.cmd.groups.find? fun e => e.2.cluster == k && e.2.state == .preloaded).map (·.1)

/-- The tiles whose lines a task in the foreground cannot take: its own, those that were outside its pool when it was dispatched, and those
of a group that is swapped out. Those of a preload are not among them, since a preload never changes what the foreground does; it is
discarded where its handles no longer fit (R277, R402, R405, log 15). -/
def State.heldTiles (s : State) (gid k : Nat) : List Tile :=
  let c := s.cluster k
  c.tiles.map (·.2) ++ (s.group gid).taken ++ (if (s.preloadOf k).isSome then [] else c.shadow.map (·.2))

/-- Do commands of groups that have ended still work on tiles of a cluster? No task is dispatched there meanwhile (R277, R309, log 15). -/
def State.lingering (s : State) (k : Nat) : Bool :=
  (s.cluster k).ceq.any fun c => !c.working.isEmpty && ((s.group c.grp).state == .halted || (s.group c.grp).state == .faulted)

/-- The lowest free handle number (R277). -/
def Cluster.freeHandle (c : Cluster) : Option Nat := (List.range 256).find? fun h => (SMap.find c.tiles h).isNone

/-! ### `halloc` and `hfree` (R278 to R280) -/

/-- The core of a strand within its cluster. -/
def localCore (sid : Nat) : Nat := coreOf sid % 8

def execHalloc (level : TileLevel) (ty : ElemType) (d a : Nat) (s : State) : Host.Outcome State Fault Refusal :=
  slotOp (.halloc level ty d a) s fun s =>
    let v := s.me.xGet a
    let rows := field v 0 13
    let cols := field v 16 13
    let core := if level == .shared then field v 32 3 else localCore s.cur
    let named := (s.group s.me.grp).placements.any fun p => p.core == core
    if rows = 0 || 4096 < rows || cols = 0 || 4096 < cols || (level == .bstack && (128 < cols || !bstackType ty)) || !named
    then .trap cHANDLE 0xFF
    else
      let cl := s.myCluster
      match cl.freeHandle, placeTile (s.heldTiles s.me.grp (clusterOf s.cur)) level core rows cols ty with
      | some h, some t => .ok { s.postX 1 d h with iss := { s.iss with tiles := [(h, some t)] } }
      | _, _ => .ok (s.postX 1 d (2 ^ 64 - 1))

/-- Parameters of a routine's micro-operations that are descriptors (R250, R255). -/
def Core.descMask (c : Core) (idx : Nat) : List Nat :=
  (c.routineOps idx).filterMap fun i => match i with
    | .aload ma _ | .bsel ma | .drain ma _ => some ma
    | .scale _ mb => some mb
    | _ => none

/-- Handles that the descriptors of a call name; an MRAM descriptor, or none of a `scale`, names no handle (R250). -/
def MCall.handles (core : Core) (m : MCall) : List Nat :=
  (core.descMask m.idx).filterMap fun r =>
    let v := (m.mp[r]?).getD 0
    if bit v 63 then none else some (v % 256)

/-- The handle that a buffered tile store names. -/
def BufStore.handle : BufStore → Option Nat
  | .tile _ h .. => some h
  | .global .. => none

/-- Handles that a row-engine command names. -/
def RowCmd.handles (c : RowCmd) : List Nat :=
  match c.op with
  | .retload _ => [c.ha]
  | _ => [c.ha, c.hd]

/-- Handles that a copy-engine command names (R371, R372). -/
def CeCmd.handles (c : CeCmd) : List Nat :=
  match c.op with
  | .cp => [c.a % 256, c.b % 256]
  | .cps | .stage => [c.a % 256]
  | _ => []

/-- Is a handle in use by an operation of the task (R280)? -/
def State.handleBusy (s : State) (k h : Nat) : Bool :=
  (s.cluster k).ceq.any (fun c => c.handles.contains h) ||
  (List.range 8).any fun c =>
    let core := s.core (coreAt k c)
    core.calls.any (fun m => (m.handles core).contains h) || (core.rowq.any fun r => r.handles.contains h) ||
      (s.strandsOn (coreAt k c)).any fun n => (s.strand n).stbuf.any fun b => b.handle == some h

def execHfree (a : Nat) (s : State) : Host.Outcome State Fault Refusal :=
  slotOp (.hfree a) s fun s =>
    let v := s.me.xGet a
    if 256 ≤ v || (SMap.find s.myCluster.tiles v).isNone then .trap cHANDLE (v % 256)
    else if s.handleBusy (clusterOf s.cur) v then .stall .tileBusy
    else .ok { s with iss := { s.iss with tiles := [(v, none)] } }

/-- A group that has not started is discarded; its task, which has work to do, goes back to the pool (R406). -/
def State.dropPreload (s : State) (g : Nat) (back : Bool) : State :=
  let x := s.group g
  let s := s.endGroup g .faulted
  if back then s.setLaunch x.launch { s.launch x.launch with again := (s.launch x.launch).again ++ [x.task] } else s

/-- A preload whose handles a new tile of the foreground takes lines of no longer fits (R277, R402). -/
def State.makeRoom (s : State) (k : Nat) (t : Tile) : State :=
  match s.preloadOf k with
  | some g => if (s.cluster k).shadow.any fun e => e.2.overlaps t then s.dropPreload g true else s
  | none => s

/-- The table changes of a bundle take effect when it commits (R278, R279). -/
def State.commitTiles (s : State) (l : List (Nat × Option Tile)) : State :=
  let k := clusterOf s.cur
  l.foldl (fun s e => match e.2 with
    | some t =>
      let s := (s.makeRoom k t).zeroTile k t
      s.setCluster k { s.cluster k with tiles := SMap.insert (s.cluster k).tiles e.1 t }
    | none => s.freeTile k e.1) s

/-! ### Bits of a scratchpad -/

/-- `len` bits of a core's scratchpad from a bit offset; at most 512, over two lines. -/
def Core.spBits (c : Core) (off len : Nat) : Nat :=
  (c.spLine (off / 512) + 2 ^ 512 * c.spLine (off / 512 + 1)) / 2 ^ (off % 512) % 2 ^ len

/-- The lines that a run of bits touches. -/
def bitLines (off len : Nat) : List Nat :=
  if len = 0 then [] else (List.range ((off + len - 1) / 512 - off / 512 + 1)).map (off / 512 + ·)

/-- A run of at most 512 bits written; scale bytes in it are good again (R494). -/
def Core.setSpBits (c : Core) (off len v : Nat) : Core :=
  if len = 0 then c else
  let both := setField (c.spLine (off / 512) + 2 ^ 512 * c.spLine (off / 512 + 1)) (off % 512) len v
  let c := { c.setSp (off / 512) (both % 2 ^ 512) with scaleBad := dropNats c.scaleBad off len }
  if off % 512 + len ≤ 512 then c else c.setSp (off / 512 + 1) (both / 2 ^ 512)

/-- Bits of a row of elements, padding apart. -/
def Tile.rowBits (t : Tile) : Nat := t.cols * t.ety.width

/-- Bit offset of a row in the scratchpad. -/
def Tile.rowAt (t : Tile) (r : Nat) : Nat := 512 * (t.base + r * t.pitch)

/-- Bit offset of the scale region of a LOCAL or SHARED MX tile (R275). -/
def Tile.scaleAt (t : Tile) : Nat := 512 * (t.base + t.rows * t.pitch)

/-- Blocks to a row of an MX tile. -/
def Tile.rowBlocks (t : Tile) : Nat := (t.cols + 31) / 32

/-- The pattern of element (r, j) of a LOCAL or SHARED tile, 0 outside its shape (R251, R274). -/
def Core.tileElem (c : Core) (t : Tile) (r j : Nat) : Nat :=
  if t.rows ≤ r || t.cols ≤ j then 0 else c.spBits (t.rowAt r + j * t.ety.width) t.ety.width

/-- The tile with an element written; nothing outside its shape. -/
def Core.setTileElem (c : Core) (t : Tile) (r j v : Nat) : Core :=
  if t.rows ≤ r || t.cols ≤ j then c else c.setSpBits (t.rowAt r + j * t.ety.width) t.ety.width v

/-- Bytes of a tile's elements, dense in row-major order without padding (R380). -/
def Core.denseByte (c : Core) (t : Tile) (j : Nat) : Nat :=
  ofElems 1 ((List.range 8).map fun b =>
    let d := 8 * j + b
    if t.rowBits = 0 || t.rows ≤ d / t.rowBits then 0 else c.spBits (t.rowAt (d / t.rowBits) + d % t.rowBits) 1)

/-- The lines that the dense bytes `j` to `j + n - 1` touch. -/
def Tile.denseLines (t : Tile) (j n : Nat) : List Nat :=
  if t.rowBits = 0 || n = 0 then [] else
  let lo := 8 * j
  let hi := 8 * (j + n)
  (List.range ((hi - 1) / t.rowBits - lo / t.rowBits + 1)).flatMap fun i =>
    let r := lo / t.rowBits + i
    let a := max lo (r * t.rowBits) - r * t.rowBits
    let b := min hi ((r + 1) * t.rowBits) - r * t.rowBits
    bitLines (t.rowAt r + a) (b - a)

/-- The lines of `n` elements of a row from column `j`. -/
def Tile.elemLines (t : Tile) (r j n : Nat) : List Nat :=
  if t.rows ≤ r || t.cols ≤ j then [] else bitLines (t.rowAt r + j * t.ety.width) ((min (j + n) t.cols - j) * t.ety.width)

/-! ### Races with an unjoined matrix call (R246)

A call notes the scratchpad and B-stack lines that another agent writes before it is joined, as they were before, and the
lines that its own drains write. Each element that it reads of the former, and that another agent reads of the latter or
writes there, is the old or the new one, by a free value (log 12). -/

/-- One of two values, by a free value. -/
def raced {α : Type} (key : Nat) (old new : α) : α := if Config.freeNat key % 2 = 1 then old else new

/-- A line whose elements of width `w` are each of one line or the other. -/
def racedLine (key w old new : Nat) : Nat :=
  ofElems w ((List.range (512 / w)).map fun e => raced (key + e) (elem w old e) (elem w new e))

/-- A map of lines with some lines of a core noted as they stand, if they are not noted yet. -/
def noteLines {α : Type} (c : Core) (f : BitVec 512 → α) (lines : List Nat) (m : SMap α) : SMap α :=
  lines.foldl (fun m l => if (SMap.find m l).isSome then m else SMap.insert m l (f (SMap.get c.sp l 0))) m

/-- Some lines of a core that changed hold, element by element, the old value or the new one. -/
def raceLines (key w : Nat) (lines : List Nat) (old new : Core) : Core :=
  lines.foldl (fun c l => if old.spLine l = new.spLine l then c
    else c.setSp l (racedLine (key + 512 * l) w (old.spLine l) (new.spLine l))) new

/-- What another agent than the calls reads of a core's scratchpad: the lines that an unjoined call wrote are raced. -/
def Core.raceView (c : Core) (tick : Nat) : Core :=
  c.calls.foldl (fun c m => m.wrote.foldl (fun c e =>
    c.setSp e.1 (racedLine (tick * 2 ^ 22 + 512 * e.1) e.2.1 e.2.2.toNat (c.spLine e.1))) c) c

/-- Another agent than the calls has written lines of a core's scratchpad: the unjoined calls note them, and those that such
a call wrote are raced. -/
def Core.raceWrite (old new : Core) (tick : Nat) (lines : List Nat) : Core :=
  let c := new.calls.foldl (fun c m => m.wrote.foldl (fun c e => raceLines (tick * 2 ^ 22) e.2.1 [e.1] old c) c) new
  { c with calls := c.calls.map fun m => { m with touched := noteLines old id lines m.touched } }

/-- Another agent has written lines of a core's B-stack: the unjoined calls note them. -/
def Core.raceWriteB (old new : Core) (lines : List Nat) : Core :=
  { new with calls := new.calls.map fun m =>
      { m with touchedB := noteLines { old with sp := old.bst } id lines m.touchedB } }

/-! ### The row engine's lines (R267, R268) -/

/-- Chunks of 32 elements to a row. -/
def Tile.chunks (t : Tile) : Nat := (t.cols + 31) / 32

/-- The lines of chunk `s` of row `r`. -/
def Tile.chunkLines (t : Tile) (r s : Nat) : List Nat :=
  bitLines (t.rowAt r + 32 * s * t.ety.width) ((min (32 * (s + 1)) t.cols - 32 * s) * t.ety.width)

/-- Steps of a command on a tile of R rows of n chunks (R268). -/
def RowOp.steps (op : RowOp) (t : Tile) : Nat :=
  match op with
  | .resm | .renorm _ => (t.rows + 2) * t.chunks
  | .retab _ => t.rows * t.chunks + 2
  | .retload _ => 25

/-- The chunk that a step reads, and the chunk that it writes. -/
def RowOp.reads (_op : RowOp) (t : Tile) (i : Nat) : Option (Nat × Nat) :=
  if i < t.rows * t.chunks then some (i / t.chunks, i % t.chunks) else none
def RowOp.writes (op : RowOp) (t : Tile) (i : Nat) : Option (Nat × Nat) :=
  match op with
  | .resm | .renorm _ =>
    if 2 * t.chunks ≤ i ∧ i < (t.rows + 2) * t.chunks then some (i / t.chunks - 2, i % t.chunks) else none
  | .retab _ => if 2 ≤ i ∧ i - 2 < t.rows * t.chunks then some ((i - 2) / t.chunks, (i - 2) % t.chunks) else none
  | .retload _ => none

/-- The lines that a step of a command accesses. -/
def stepLines (c : RowCmd) (ha hd : Tile) : List Nat :=
  match c.op with
  | .retload _ => ha.denseLines (128 * c.step) (min 128 (3104 - 128 * c.step))
  | op =>
    (match op.reads ha c.step with
     | some (r, k) => ha.chunkLines r k
     | none => []) ++
    (match op.writes hd c.step with
     | some (r, k) => hd.chunkLines r k
     | none => [])

/-- The banks that the engine's step at the issuing bundle's count accesses, if the strand owns the engine and its
bundle is none of a handler (R265, R268). -/
def rowBanks (s : State) : List Nat :=
  let core := s.myCore
  if core.owner != some s.cur || s.me.hnd then [] else
  match core.rowq with
  | [] => []
  | c :: _ =>
    if s.me.sbc ≤ c.issued then [] else
    match SMap.find s.myCluster.tiles c.ha, SMap.find s.myCluster.tiles c.hd with
    | some ha, some hd => (stepLines c ha hd).map (· % 40)
    | some ha, none => (stepLines c ha ha).map (· % 40)
    | _, _ => []

/-! ### Tile access (R281 to R286) -/

/-- What a lanegroup of an access moves: a run of bits, how many of them are elements, the rest padding; and how many bits from the
run's start on it accounts for, the padding after the last block of a row among them; and the scale byte, by its bit, that an MX block
is tied to (R494). -/
structure Move where
  lg : Nat
  off : Nat
  len : Nat
  real : Nat
  span : Nat
  tie : Option Nat := none
  deriving DecidableEq, Repr

/-- TINFO of HANDLE and of ALIGN for a tile access (R70). -/
def handleInfo (h e : Nat) : Nat := (h + 2 ^ 8 * e) % 2 ^ 64
def alignInfo (h e : Nat) : Nat := 2 ^ 63 + (h + 2 ^ 8 * e) % 2 ^ 63

/-- The moves of an access by rows of a non-MX tile (R281). -/
def rowMoves (t : Tile) (a : TileArg) (e : Nat) : Except (Nat × Nat) (List Move) :=
  let w := a.ty.width
  let n := 512 / w
  let pe := t.pitch * 512 / w
  if w ≠ t.ety.width then .error (cHANDLE, handleInfo a.h e)
  else if e % n ≠ 0 then .error (cALIGN, alignInfo a.h e)
  else match (groups a.lgm).find? fun g => decide (t.rows ≤ (e + n * g) / pe) with
    | some g => .error (cHANDLE, handleInfo a.h (e + n * g))
    | none => .ok ((groups a.lgm).map fun g =>
        let l := (e + n * g) / n
        let row := l / t.pitch
        let at_ := 512 * (l % t.pitch)
        { lg := g, off := t.rowAt row + at_, len := 512, real := min 512 (t.rowBits - at_), span := 512 })

/-- The moves of an access by blocks, or by scale bytes, of an MX tile (R284); no block goes past the lines of its row. -/
def mxMoves (t : Tile) (a : TileArg) (e : Nat) : Except (Nat × Nat) (List Move) :=
  let w := t.ety.width
  if a.ty == t.ety then
    if e % 32 ≠ 0 then .error (cALIGN, alignInfo a.h e)
    else match (groups a.lgm).find? fun g => decide (t.rows * t.rowBlocks ≤ e / 32 + g) with
      | some g => .error (cHANDLE, handleInfo a.h (e + 32 * g))
      | none => .ok ((groups a.lgm).map fun g =>
          let j := e / 32 + g
          let at_ := 32 * w * (j % t.rowBlocks)
          { lg := g, tie := some (t.scaleAt + 8 * j), off := t.rowAt (j / t.rowBlocks) + at_, len := min (32 * w) (512 * t.pitch - at_), real := min (32 * w) (t.rowBits - at_),
            span := if j % t.rowBlocks + 1 = t.rowBlocks then 512 * t.pitch - at_ else 32 * w })
  else if a.ty == .n8 then
    if e % 64 ≠ 0 then .error (cALIGN, alignInfo a.h e)
    else match (groups a.lgm).find? fun g => decide (t.scaleBytes ≤ e + 64 * g) with
      | some g => .error (cHANDLE, handleInfo a.h (e + 64 * g))
      | none => .ok ((groups a.lgm).map fun g =>
          { lg := g, off := t.scaleAt + 8 * (e + 64 * g), len := 512, real := min 512 (8 * (t.scaleBytes - (e + 64 * g))),
            span := 512 })
  else .error (cHANDLE, handleInfo a.h e)

/-- The element index of a tile operand (R281). -/
def tileIndex (st : Strand) (a : TileArg) : Nat := a.off + if a.agv then st.genValue (st.agGet a.ag) else 0

/-- The moves of an access at an element index: by blocks of an MX tile, else by rows. -/
def tileMoves (t : Tile) (a : TileArg) (e : Nat) : Except (Nat × Nat) (List Move) :=
  if t.ety.isMx then mxMoves t a e else rowMoves t a e

/-- The moves of an `ld.sp` or `st.sp`, or the trap of its checks. -/
def spMoves (s : State) (a : TileArg) : Except (Nat × Nat) (List Move) :=
  match SMap.find s.myCluster.tiles a.h with
  | none => .error (cHANDLE, a.h)
  | some t =>
    if t.level != .loc || t.core != localCore s.cur then .error (cHANDLE, a.h)
    else tileMoves t a (tileIndex s.me a)

/-- The lines of an access, in lanegroup order. -/
def moveLines (ms : List Move) : List Nat := ms.flatMap fun m => bitLines m.off m.len

/-- The banks that the bundle's ST slot accesses at its own count: none where its checks fail, where it is off stage,
or where it enters a rollback loop's store buffer (R197, R285). -/
def stBanks (s : State) : List Nat :=
  s.iss.ops.flatMap fun o => match o.2 with
    | .stSp a => if offStage s o.2 || s.me.inRollback s.iss.idx then [] else
        (match spMoves s a with
         | .ok ms => (moveLines ms).map (· % 40)
         | .error _ => [])
    | _ => []

/-- TINFO of BANKCONF (R70). -/
def bankInfo (bank a b : Nat) : Nat := bank + 2 ^ 8 * a + 2 ^ 12 * b

/-- The conflict of an LD access with the ST slot, or of either with the row engine (R285). -/
def ldConflict (s : State) (ms : List Move) : Option Nat :=
  let banks := (moveLines ms).map (· % 40)
  match banks.find? fun b => (stBanks s).contains b with
  | some b => some (bankInfo b 5 6)
  | none => (banks.find? fun b => (rowBanks s).contains b).map fun b => bankInfo b 5 14
def stConflict (s : State) (ms : List Move) : Option Nat :=
  (((moveLines ms).map (· % 40)).find? fun b => (rowBanks s).contains b).map fun b => bankInfo b 6 14

/-- One pending v result, whole lanegroups, from an LD slot. -/
def postLoad (s : State) (lat r lgm : Nat) (f : Nat → Nat) : State :=
  s.post lat { kind := .v, reg := s.me.vIdx r, lgm := lgm, due := 0,
               mask := BitVec.ofNat 512 (ofElems 64 ((List.range 8).map fun g => if bit lgm g then ones 64 else 0)),
               value := BitVec.ofNat 4096 (ofElems 512 ((List.range 8).map fun g => if bit lgm g then f g else 0)),
               ld := true }

/-- The value that a lanegroup loads: the run's elements, padding as zero. -/
def moveValue (c : Core) (ms : List Move) (g : Nat) : Nat :=
  match ms.find? (·.lg == g) with
  | some m => c.spBits m.off m.len % 2 ^ m.real
  | none => 0

/-- Does a run of the scratchpad hold a scale byte with an uncorrectable error (R494)? -/
def Core.badScale (c : Core) (off len : Nat) : Bool := c.scaleBad.any fun b => decide (off ≤ b) && decide (b < off + len)

/-- Does a load consume poison: of a line, or of a block whose scale byte is bad (R286, R494)? -/
def Core.movesBad (c : Core) (ms : List Move) : Bool :=
  ((moveLines ms).any fun l => c.spPoison.contains l) || ms.any fun m => c.badScale m.off m.len || m.tie.any fun b => c.badScale b 8

def execLdSp (t : TileArg) (s : State) : Host.Outcome State Fault Refusal :=
  slotOp (.ldSp t) s fun s =>
    match spMoves s t with
    | .error (c, i) => .trap c i
    | .ok ms =>
      match ldConflict s ms with
      | some i => .trap cBANKCONF i
      | none =>
        match lgWait s (groups t.lgm) with
        | some r => r
        | none =>
          if s.myCore.movesBad ms then poisonRes s none (2 ^ 63 + t.h)
          else .ok (postLoad s 4 t.r t.lgm (moveValue (s.myCore.raceView s.tick) ms))

/-- Does a range of bytes of the B-stack meet a poisoned line, or a scale byte with an uncorrectable error (R493, R494)? -/
def Core.stackBad (c : Core) (at_ n : Nat) : Bool :=
  (c.bPoison.any fun l => decide (64 * l < at_ + n) && decide (at_ < 64 * l + 64)) ||
    c.bScaleBad.any fun b => decide (at_ ≤ b) && decide (b < at_ + n)

/-- `ld.b` reads the image of a BSTACK tile in bytes (R283). -/
def execLdB (t : TileArg) (s : State) : Host.Outcome State Fault Refusal :=
  slotOp (.ldB t) s fun s =>
    match SMap.find s.myCluster.tiles t.h with
    | none => .trap cHANDLE t.h
    | some x =>
      let e := tileIndex s.me t
      if x.level != .bstack || x.core != localCore s.cur then .trap cHANDLE t.h
      else if e % 64 ≠ 0 then .trap cALIGN (alignInfo t.h e)
      else match (groups t.lgm).find? fun g => decide (64 * x.lines ≤ e + 64 * g) with
        | some g => .trap cHANDLE (handleInfo t.h (e + 64 * g))
        | none =>
          match lgWait s (groups t.lgm) with
          | some r => r
          | none =>
            if x.poisoned || (groups t.lgm).any fun g => s.myCore.stackBad (64 * x.base + e + 64 * g) 64 then poisonRes s none (2 ^ 63 + t.h)
            else .ok (postLoad s 1 t.r t.lgm fun g => s.myCore.bLine (x.base + e / 64 + g))

/-- The runs of a store written into a core's scratchpad, padding as zero (R282). -/
def Core.setRuns (c : Core) (f : Nat → Nat) (ms : List Move) : Core :=
  ms.foldl (fun c m => c.setSpBits m.off m.len (f m.lg % 2 ^ m.real)) c

/-- Bits of a line that the moves of one operation account for. -/
def spanIn (ms : List Move) (l : Nat) : Nat :=
  (ms.map fun m => min (m.off + m.span) (512 * l + 512) - max m.off (512 * l)).sum

/-- A store of runs into a core's scratchpad; the lines that the operation writes whole lose their poison (R282, R286). -/
def storeMoves (c : Core) (f : Nat → Nat) (ms : List Move) : Core :=
  { c.setRuns f ms with spPoison := c.spPoison.filter fun l => decide (spanIn ms l < 512) }

/-- The source iteration of a buffered store (R195). -/
def Strand.storeIter (st : Strand) : Nat := (st.loop 3).iter - (st.loopStages - 1)

/-- A buffered tile store reaches its lines (R197); its data lie lanegroup after lanegroup. -/
def State.storeTile (s : State) (sid h : Nat) (ty : ElemType) (lgm e : Nat) (data : Vec) : State :=
  let n := coreOf sid
  match SMap.find (s.cluster (clusterOf sid)).tiles h with
  | none => s
  | some t =>
    match tileMoves t { r := 0, h := h, ag := 0, agv := false, off := 0, lgm := lgm, ty := ty } e with
    | .error _ => s
    | .ok ms =>
      s.setCore n ((s.core n).raceWrite (storeMoves (s.core n) (fun g => data.toNat / 2 ^ (512 * g) % 2 ^ 512) ms) s.tick (moveLines ms))

def execStSp (t : TileArg) (s : State) : Host.Outcome State Fault Refusal :=
  slotOp (.stSp t) s fun s =>
    match spMoves s t with
    | .error (c, i) => .trap c i
    | .ok ms =>
      let st := s.me
      let rb := st.inRollback s.iss.idx
      match (if rb then none else stConflict s ms) with
      | some i => .trap cBANKCONF i
      | none =>
        match lgWait s (groups t.lgm) with
        | some r => r
        | none =>
          let f := fun g => st.vGet t.r g
          if rb then .ok (s.setMe { st with stbuf := st.stbuf ++ [.tile st.storeIter t.h t.ty t.lgm (tileIndex st t) (st.vRaw t.r)] })
          else .ok (s.setMyCore (s.myCore.raceWrite (storeMoves s.myCore f ms) s.tick (moveLines ms)))

end Sys2Proof.Machine
end

