-- ==== Sys2Proof/Machine/Loops.lean ====
section
/-! DEFINITION. The AD slot: hardware loops, address generators, rotation (R185 to R195), the end of a loop body, the
rollback store buffer and the rollback (R196 to R198). -/

namespace Sys2Proof.Machine

/-- A word of the group's mailbox (R412). -/
def State.mailWord (s : State) (w : Nat) : Nat := (SMap.get s.myCluster.mailbox (64 * bankSetOf s.cur + w) 0).toNat

/-- A pending loop count. -/
def postLc (s : State) (l v : Nat) : State := s.post 1 { kind := .lc, reg := l, due := 0, value := BitVec.ofNat 4096 (v % 2 ^ 32) }

/-- All lanes of a p register in every lanegroup. -/
def pAll (v : Bool) : Vec := if v then BitVec.ofNat 4096 (ones 128) else 0
def pFull : BitVec 512 := BitVec.ofNat 512 (ones 128)

/-- The stage predicates that a modulo `lset` writes (R186). -/
def postStages (s : State) : Nat → State
  | 0 => s
  | n + 1 =>
    let t := postStages s n
    t.post 1 { kind := .p, reg := t.me.pIdx (t.me.pbase + n), lgm := 255, due := 0, mask := pFull, value := pAll (n == 0) }

/-- The state of the stream registers at the start of a kernel iteration (R197); kept until the loop ends, since after one rollback another
may go further back (R198). -/
def Strand.snapshot (st : Strand) (iter : Nat) : Strand :=
  let new : Snapshot := { iter := iter, rot := st.rot, seq := st.seq, qs := st.q }
  { st with snaps := (st.snaps.filter fun x => x.iter != iter) ++ [new] }

def execLset (lv : Nat) (cnt : LoopCount) (body : Nat) (mod rb : Bool) (s : State) : Host.Outcome State Fault Refusal :=
  slotOp (.lset lv cnt body mod rb) s fun s =>
    let st := s.me
    let k := s.iss.idx
    let n := match cnt with
      | .imm c => c
      | .reg x => st.xGet x % 2 ^ 32
      | .word w => s.mailWord w % 2 ^ 32
    if n = 0 then .ok { s with iss := { s.iss with next := some (k + body + 2) } }
    else
      let st := st.setLoop lv { active := true, first := k + 1, last := k + 1 + body, iter := 0 }
      let st := if lv = 3 then { st with md := mod, rb := rb, srcIters := n, stbuf := [], snaps := [], drain := none,
                                         rolledTo := [], rotLoop := 0 } else st
      let s := s.setMe st
      let s := if mod then postStages (postLc s 3 (n + st.stages - 1)) st.stages else postLc s lv n
      .ok { s with iss := { s.iss with next := some (k + 1) } }

/-! ### The store buffer (R197) -/

/-- Buffered stores leave in issue order (R197). -/
def State.releaseStores (s : State) (sid : Nat) : State :=
  let l := (s.strand sid).stbuf
  let s := s.setStrand sid { s.strand sid with stbuf := [] }
  l.foldl (fun s b => match b with
    | .tile _ h ty lgm e data => s.storeTile sid h ty lgm e data
    | .global _ a => s.setStrand sid { s.strand sid with sq := (s.strand sid).sq ++ [a] }) s

/-- Level 3 ends: its buffered stores leave, and nothing of a rollback remains. -/
def State.closeLoop3 (s : State) (sid : Nat) : State :=
  let s := s.releaseStores sid
  s.setStrand sid { s.strand sid with snaps := [], drain := none, rolledTo := [], md := false, rb := false }

/-- A level ends (R188, R189). -/
def State.endLevel (s : State) (sid l : Nat) : State :=
  if !((s.strand sid).loop l).active then s else
  let s := if l = 3 then s.closeLoop3 sid else s
  let st := s.strand sid
  s.setStrand sid (st.setLoop l { st.loop l with active := false, iter := 0 })

def execLbrk (lv cn : Nat) (neg : Bool) (s : State) : Host.Outcome State Fault Refusal :=
  slotOp (.lbrk lv cn neg) s fun s =>
    let st := s.me
    let lp := st.loop lv
    if xor (st.cGet cn) neg && lp.active then
      if lv = 3 && st.md then
        .ok (s.setMe { st.lcSet 3 st.stages with srcIters := lp.iter + 1 })
      else
        let s := (List.range 4).foldl (fun s l => if lv ≤ l then s.endLevel s.cur l else s) s
        .ok { s with iss := { s.iss with next := some (lp.last + 1) } }
    else .ok s

/-! ### Generators, rotation, stages (R191 to R193) -/

def execAgset (ag x : Nat) (s : State) : Host.Outcome State Fault Refusal :=
  slotOp (.agset ag x) s fun s =>
    .ok (s.post 1 { kind := .ag, reg := ag, due := 0,
                    value := BitVec.ofNat 4096 (agValue { base := BitVec.ofNat 64 (s.me.xGet x) }) })

/-- A generator with one stride replaced. -/
def AddrGen.setStride (a : AddrGen) (lv : Nat) (v : Word) : AddrGen :=
  match lv with
  | 0 => { a with s0 := v }
  | 1 => { a with s1 := v }
  | 2 => { a with s2 := v }
  | _ => { a with s3 := v }

def execAgstr (ag lv x : Nat) (s : State) : Host.Outcome State Fault Refusal :=
  slotOp (.agstr ag lv x) s fun s =>
    .ok (s.post 1 { kind := .ag, reg := ag, due := 0, value := BitVec.ofNat 4096
                      (agValue (AddrGen.setStride (s.me.agGet ag) lv (BitVec.ofNat 64 (s.me.xGet x)))) })

/-- The rotation takes place when the bundle commits (R192). -/
def execLrot (s : State) : Host.Outcome State Fault Refusal :=
  slotOp .lrot s fun s => .ok { s with iss := { s.iss with lrot := true } }

/-- One rotation; those since the level-3 `lset` are counted (R192, R314). -/
def Strand.rotate (st : Strand) : Strand := { st with rot := (st.rot + 1) % 16, rotLoop := (st.rotLoop + 1) % 16 }

def execSpred (p stg : Nat) (s : State) : Host.Outcome State Fault Refusal :=
  slotOp (.spred p stg) s fun s => .ok (s.setMe { s.me with stages := stg + 1, pbase := p })

/-! ### Rollback (R198) -/

/-- A stream register as a rollback restores it: a pattern's entries and the loads of an explicit one are fetched again from their
homes, translated anew (R198). The accesses that do so are the second result. -/
def refetchQ (st : Strand) (n : Nat) (q : QReg) : QReg × List Access × Nat :=
  if q.kind == .explicit then
    q.entries.foldl (fun r e =>
      if e.refetch.isEmpty then ({ r.1 with entries := r.1.entries ++ [e] }, r.2.1, r.2.2)
      else ({ r.1 with entries := r.1.entries ++ [{ tag := r.2.2, addr := e.addr, refetch := e.refetch }] },
            r.2.1 ++ [{ seq := st.seq, ctx := st.ctx, op := .gather, q := n, tag := r.2.2, addr := e.addr,
                        parts := e.refetch.map fun p => { p with pa := none } }], r.2.2 + 1))
      ({ q with entries := [] }, [], st.tagNext)
  else ({ q with entries := [] }, [], st.tagNext)

/-- The stream registers of a snapshot restored (R198). -/
def Strand.restoreQs (st : Strand) (sn : Snapshot) : Strand :=
  let st := { st with q := [], lq := st.lq.filter fun a => decide (a.seq < sn.seq),
                      dbuf := st.dbuf.filter fun p => !(p.ld && decide (sn.seq ≤ p.born)) }
  sn.qs.foldl (fun st e =>
    let (q, as, t) := refetchQ st e.1 e.2
    let st := st.setQ e.1 q
    { st with lq := st.lq.filter (fun a => a.q != e.1 || !(a.op == .load || a.op == .gather)) ++ as, tagNext := t }) st

/-- The iteration to re-enter begins again. -/
def State.reenter (s : State) (sid i : Nat) : State :=
  let st := s.strand sid
  let sn := (st.snaps.find? (·.iter == i)).getD { iter := i, rot := st.rot, seq := st.seq, qs := st.q }
  let st := st.restoreQs sn
  let st := { st with rot := sn.rot, rotLoop := (st.rotLoop + 32 - st.rot + sn.rot) % 16, drain := none, rolledTo := st.rolledTo ++ [i],
                      next := (st.loop 3).first, gpos := 0, gwritten := [],
                      snaps := st.snaps.filter fun x => decide (x.iter ≤ i),
                      stbuf := st.stbuf.filter fun b => match b with
                        | .tile k .. => decide (k < i)
                        | .global k _ => decide (k < i) }
  let st := (st.setLoop 3 { st.loop 3 with iter := i }).lcSet 3 (st.srcIters - i + st.loopStages - 1)
  let st := (List.range st.loopStages).foldl (fun st t =>
    st.pPut (st.pIdx (st.pbase + t)) 255 pFull (pAll (t == 0))) st
  s.setStrand sid st

/-- Poison was consumed in iteration `i`: the iterations before it are drained, or it begins again at once. The
consuming bundle has no effect and no count. -/
def State.startRollback (s : State) (sid i : Nat) : State :=
  let st := s.strand sid
  if (st.loop 3).iter + 2 ≤ i + st.loopStages then
    s.setStrand sid { st with drain := some { iter := i, upto := i + st.loopStages - 2 } }
  else s.reenter sid i

/-! ### The end of a body (R188, R194) -/

/-- The modulo step: a rotation, then p(P). -/
def Strand.moduloStep (st : Strand) : Strand :=
  let st := st.rotate
  st.pPut (st.pIdx st.pbase) 255 pFull (pAll (decide ((st.loop 3).iter < st.srcIters)))

/-- One level at the end of its body: the index to go on at if the level goes on. -/
def State.loopStep (s : State) (sid idx l : Nat) : State × Option Nat :=
  let st := s.strand sid
  let lp := st.loop l
  if !lp.active || lp.last != idx then (s, none)
  else
    let s := if l = 3 && st.rb then s.releaseStores sid else s
    if st.drain.any fun d => l == 3 && d.upto == lp.iter then
      let t := s.reenter sid ((st.drain.map (·.iter)).getD 0)
      (t, some ((t.strand sid).loop 3).first)
    else
      let st := s.strand sid
      let lc := (st.lcGet l + 2 ^ 32 - 1) % 2 ^ 32
      let st := (st.setLoop l { lp with iter := lp.iter + 1 }).lcSet l lc
      let st := if l = 3 && st.md then st.moduloStep else st
      if 0 < lc then
        let st := if l = 3 && st.rb then st.snapshot (lp.iter + 1) else st
        (s.setStrand sid st, some lp.first)
      else ((s.setStrand sid st).endLevel sid l, none)

/-- The loop unit at a bundle's commit, innermost level first; none in a handler (R188). -/
def State.loopEnd (s : State) (sid idx : Nat) : State × Option Nat :=
  if (s.strand sid).hnd then (s, none) else
  [3, 2, 1, 0].foldl (fun r l => match r.2 with
    | some _ => r
    | none => r.1.loopStep sid idx l) (s, none)

end Sys2Proof.Machine
end

