-- ==== Sys2Proof/Machine/Access.lean ====
section
/-! DEFINITION. Global access: the checks of an address, explicit and pattern stream registers, the LD- and ST-slot
global forms (R287 to R297), endpoint packets (R470 to R472), the service of an access at the home of its line
(R416, R419, R420, R442, R443), and the arrival of results and of stream data (R36, R38, R288, R290). -/

namespace Sys2Proof.Machine

/-! ### Addresses (R292) -/

/-- Signed offset of 10 bits in elements. -/
def globalAddr (x off w : Nat) : Nat := low ((x : Int) + sx 10 off * (w / 8 : Nat)) 64

/-- The checks of R292 on the addresses of a form, in their order: `heads` is what steps 1 and 2 judge, `addrs` the addresses that
it uses, each access `len` bytes; `named` are the lanegroups that it names, whose GATED has the higher code (R58, R206). `none`
lets the form go on. -/
def globalCheck (s : State) (heads addrs : List Nat) (len w : Nat) (write : Bool) (named : List Nat) : Option Res :=
  match heads.find? fun a => decide (2 ^ 52 ≤ a) with
  | some a => some (.trap cPERM a)
  | none =>
    match heads.find? fun a => a % (w / 8) != 0 with
    | some a => some (.trap cALIGN a)
    | none =>
      match addrs.findSome? fun a => s.waitAt s.cur a len with
      | some va => some (.stall (.translation va))
      | none => match addrs.findSome? fun a => s.deniedAt s.cur a len write with
        | some a => some (.trap cPERM a)
        | none => lgWait s named

/-- Parts of an access to a range, one for each location that it meets (R419), translated at issue; `pos` is where the range stands in the
entry or datum. -/
def State.partsOf (s : State) (a n pos : Nat) (write : Bool) (data : List Byte) : List Part :=
  (cutWords a n).map fun l =>
    let p : Part := { va := l.1, len := l.2.1, pos := pos + l.2.2, data := (data.drop l.2.2).take l.2.1 }
    match s.transFor s.cur l.1 write with
    | .ok pa bad track => { p with pa := some pa, bad := bad, track := track }
    | _ => p

/-! ### Explicit stream registers (R288) -/

/-- Does the bundle itself pop a stream register? A `qout` that is off stage does not (R195). -/
def bundlePops (s : State) (n : Nat) : Bool :=
  s.iss.pops.contains n || s.iss.ops.any fun o => !offStage s o.2 && match o.2 with
    | .qout a .. => a == n
    | _ => false

/-- May one more operation be issued toward a stream register? A pattern raises HANDLE; a fifth waits. -/
def qRoom (s : State) (n : Nat) : Option Res :=
  let q := s.me.qGet n
  if q.kind == .pattern then some (.trap cHANDLE (0xFF + 2 ^ 8 * n))
  else if 4 < q.entries.length + 1 - ofBit (bundlePops s n) then some (.stall .queueFull)
  else none

/-- A new entry at the end of an explicit stream register, at an address; its tag is the second result. -/
def State.newEntry (s : State) (n addr : Nat) (refetch : List Part) (eng : Option Nat := none) : State × Nat :=
  let st := s.me
  let q := st.qGet n
  let tag := st.tagNext
  let q := { q with kind := .explicit, entries := q.entries ++ [{ tag := tag, addr := addr, refetch := refetch, eng := eng }] }
  (s.setMe { st.setQ n q with tagNext := tag + 1 }, tag)

/-- An access of the issuing bundle joins a queue. -/
def State.queueLoad (s : State) (a : Access) : State :=
  s.setMe { s.me with lq := s.me.lq ++ [{ a with seq := s.me.seq, ctx := s.me.ctx, hnd := s.me.hnd }] }
def State.queueStore (s : State) (a : Access) : State :=
  s.setMe { s.me with sq := s.me.sq ++ [{ a with seq := s.me.seq, ctx := s.me.ctx, hnd := s.me.hnd }] }

/-- The entries that a store queue holds. Those of `ep.st` are not counted: their bytes stand in the endpoint buffer from their issue on, and
a packet may take more of them than the queue has entries (R293, R471, R472, log 19). -/
def Strand.storesHeld (st : Strand) : Nat := (st.sq.filter (·.op != .epstore)).length
def loadRoom (s : State) : Option Res := if queueSize ≤ s.me.lq.length then some (.stall .queueFull) else none
def storeRoom (s : State) : Option Res := if queueSize ≤ s.me.storesHeld then some (.stall .queueFull) else none

/-- The first of some checks that stops a form. -/
def firstStop : List (Option Res) → (Unit → Res) → Res
  | [], k => k ()
  | some r :: _, _ => r
  | none :: l, k => firstStop l k

/-! ### LD slot (R294 to R296, R289, R291) -/

def execLdG (d a : Nat) (ty : ElemType) (sc : Scope) (ord : Order) (off : Nat) (s : State) :
    Host.Outcome State Fault Refusal :=
  slotOp (.ldG d a ty sc ord off) s fun s =>
    let va := globalAddr (s.me.xGet a) off ty.width
    firstStop [qRoom s d, globalCheck s [va] [va] 512 ty.width false [], loadRoom s] fun _ =>
      let ps := s.partsOf va 512 0 false []
      let (s, tag) := s.newEntry d va ps
      .ok (s.queueLoad { seq := 0, op := .load, sc := sc, ord := ord, q := d, tag := tag, ety := ty, addr := va, parts := ps })

/-- The eight addresses in a lanegroup of a v register, with the place of each element (R294). -/
def pairAddrs (st : Strand) (v lgm : Nat) : List (Nat × Nat × Nat) :=
  (groups lgm).flatMap fun g => (List.range 8).map fun i => (g, i, elem 64 (st.vGet v g) i)

def execGath (d a : Nat) (ty : ElemType) (sc : Scope) (ord : Order) (lgm : Nat) (s : State) :
    Host.Outcome State Fault Refusal :=
  slotOp (.gath d a ty sc ord lgm) s fun s =>
    let n := ty.width / 8
    let ps := pairAddrs s.me a lgm
    let addrs := ps.map fun p => p.2.2
    firstStop [qRoom s d, globalCheck s addrs addrs n ty.width false (groups lgm), loadRoom s] fun _ =>
      let parts := ps.flatMap fun p => s.partsOf p.2.2 n (64 * p.1 + n * p.2.1) false []
      let (s, tag) := s.newEntry d (addrs.headD 0) parts
      .ok (s.queueLoad { seq := 0, op := .gather, sc := sc, ord := ord, q := d, tag := tag, ety := ty, lgm := lgm,
                         addr := addrs.headD 0, parts := parts })

/-- An atomic: checked as a read and as a write, it stands in the store queue (R293, R295, R296). -/
def atomicOp (i : Instr) (d a : Nat) (ty : ElemType) (sc : Scope) (ord : Order) (off : Nat) (op : AccOp)
    (data cmp : Strand → Nat) (s : State) : Host.Outcome State Fault Refusal :=
  slotOp i s fun s =>
    let n := ty.width / 8
    let va := globalAddr (s.me.xGet a) off ty.width
    firstStop [qRoom s d, globalCheck s [va] [va] n ty.width false [], globalCheck s [va] [va] n ty.width true [], storeRoom s]
      fun _ =>
      let ps := (s.partsOf va n 0 true (toBytes (data s.me) n)).map fun p => { p with cmp := toBytes (cmp s.me) n }
      let (s, tag) := s.newEntry d va []
      .ok (s.queueStore { seq := 0, op := op, sc := sc, ord := ord, q := d, tag := tag, ety := ty, addr := va,
                          dat := BitVec.ofNat 4096 (data s.me), parts := ps })

def execAmo (op : AmoOp) (d a b : Nat) (ty : ElemType) (sc : Scope) (ord : Order) (off : Nat) (s : State) :
    Host.Outcome State Fault Refusal :=
  atomicOp (.amo op d a b ty sc ord off) d a ty sc ord off (.amo op ty.isSigned) (·.xGet b) (fun _ => 0) s
def execCas (d a b c : Nat) (ty : ElemType) (sc : Scope) (ord : Order) (off : Nat) (s : State) :
    Host.Outcome State Fault Refusal :=
  atomicOp (.cas d a b c ty sc ord off) d a ty sc ord off (.cas ty.isSigned) (·.xGet b) (·.xGet c) s

/-- The register is bound when the bundle commits (R289). -/
def execQbind (d ag : Nat) (ty : ElemType) (s : State) : Host.Outcome State Fault Refusal :=
  slotOp (.qbind d ag ty) s fun s =>
    .ok { s with iss := { s.iss with binds := s.iss.binds ++ [(d, { kind := .pattern, ety := ty, gen := s.me.agGet ag })] } }
def execQfree (d : Nat) (s : State) : Host.Outcome State Fault Refusal :=
  slotOp (.qfree d) s fun s => .ok { s with iss := { s.iss with binds := s.iss.binds ++ [(d, {})] } }

/-! ### ST slot (R294, R197) -/

/-- A store joins the store queue, or the buffer of a rollback loop (R197). -/
def State.store (s : State) (a : Access) : State :=
  let st := s.me
  if st.inRollback s.iss.idx then
    s.setMe { st with stbuf := st.stbuf ++ [.global st.storeIter { a with seq := st.seq, ctx := st.ctx }] }
  else s.queueStore a

/-- Room for a store. -/
def stRoom (s : State) : Option Res := if s.me.inRollback s.iss.idx then none else storeRoom s

/-- The ranges and bytes that `st.g` stores: an x register's low bytes, or 64 bytes for each lanegroup. -/
def storeRanges (st : Strand) (vs : Bool) (a va w lgm : Nat) : List (Nat × List Byte) :=
  if vs then (groups lgm).map fun g => (va + 64 * g, toBytes (st.vGet a g) 64)
  else [(va, toBytes (st.xGet a) (w / 8))]

def execStG (vs : Bool) (a b : Nat) (ty : ElemType) (sc : Scope) (ord : Order) (off lgm : Nat) (s : State) :
    Host.Outcome State Fault Refusal :=
  slotOp (.stG vs a b ty sc ord off lgm) s fun s =>
    let va := globalAddr (s.me.xGet b) off ty.width
    let rs := storeRanges s.me vs a va ty.width lgm
    let n := if vs then 64 else ty.width / 8
    firstStop [globalCheck s [va] (rs.map (·.1)) n ty.width true (if vs then groups lgm else []), stRoom s] fun _ =>
      .ok (s.store { seq := 0, op := .store, sc := sc, ord := ord, ety := ty, lgm := lgm, addr := va,
                     dat := if vs then s.me.vRaw a else BitVec.ofNat 4096 (s.me.xGet a),
                     parts := rs.flatMap fun r => s.partsOf r.1 n 0 true r.2 })

def execScat (a b : Nat) (ty : ElemType) (sc : Scope) (ord : Order) (lgm : Nat) (s : State) :
    Host.Outcome State Fault Refusal :=
  slotOp (.scat a b ty sc ord lgm) s fun s =>
    let n := ty.width / 8
    let ps := pairAddrs s.me b lgm
    let addrs := ps.map fun p => p.2.2
    firstStop [globalCheck s addrs addrs n ty.width true (groups lgm), stRoom s] fun _ =>
      .ok (s.store { seq := 0, op := .scatter, sc := sc, ord := ord, ety := ty, lgm := lgm, addr := addrs.headD 0,
                     addrs := s.me.vRaw b, dat := s.me.vRaw a, parts := ps.flatMap fun p =>
                       s.partsOf p.2.2 n 0 true (toBytes (elem ty.width (s.me.vGet a p.1) p.2.1) n) })

def execQout (a b : Nat) (ty : ElemType) (sc : Scope) (ord : Order) (off : Nat) (s : State) :
    Host.Outcome State Fault Refusal :=
  slotOp (.qout a b ty sc ord off) s fun s =>
    let va := globalAddr (s.me.xGet b) off ty.width
    firstStop [lowestStop [popAddress s a, globalCheck s [va] [va] 512 ty.width true []], popWait s a, storeRoom s] fun _ =>
      let data := toBytes (headData s.me a).toNat 512
      let bad := match (s.me.qGet a).entries with
        | e :: _ => e.bad
        | [] => 0
      let ps := (s.partsOf va 512 0 true data).map fun p =>
        { p with poison := (List.range p.len).any fun i => bad.getLsbD (p.pos + i) }
      .ok ((s.popQ a).store { seq := 0, op := .qstore, sc := sc, ord := ord, ety := ty, addr := va, dat := headData s.me a, parts := ps })

/-! ### Endpoint windows (R470 to R472) -/

/-- The window that an endpoint page maps (R470). -/
def epWindow (e : Nat) : Nat := ptePa e / 2 ^ 16 % 256

/-- The window that a store to an address reaches: it lies in an endpoint page that permits writes (R439). -/
def State.windowOf (s : State) (ctx va : Nat) : Option Nat :=
  match (s.ctx ctx).leaf va with
  | some (_, e) => if pteEp e && pteW e then some (epWindow e) else none
  | none => none

/-- A sealed packet is padded to whole flits and sent to its ring; the packets sealed stand in the order of their sealing (R471). -/
def State.sealPacket (s : State) (p : EpPacket) : State :=
  let w := SMap.get s.link.windows p.window { ctx := 0, enabled := false, dest := 0, ring := 0 }
  let n := p.data.length
  let padded := p.data ++ List.replicate ((64 - n % 64) % 64) 0
  let p := { p with sealed := true, dest := w.dest }
  let s := { s with link := { s.link with packets := (s.link.packets.filter fun (x : EpPacket) => x.id != p.id) ++ [p] } }
  let head := recordBytes 64 [(0, 2, n), (2, 2, s.link.sysid), (4, 1, p.window)]
  s.sendPacket w.dest 2 (.endpoint w.ring (head ++ padded))

/-- The bytes of an append join the packet of their launch, task, strand and window, opening one if none is open;
`close` seals it. -/
def State.appendPacket (s : State) (launch task place window : Nat) (bytes : List Byte) (close : Bool) : State × Nat :=
  let l := s.link
  let mine := fun (p : EpPacket) => !p.sealed && p.launch == launch && p.task == task && p.place == place && p.window == window
  let (s, p) := match l.packets.find? mine with
    | some p =>
      let p := { p with data := p.data ++ bytes }
      ({ s with link := { l with packets := l.packets.map fun (x : EpPacket) => if x.id = p.id then p else x } }, p)
    | none =>
      let p : EpPacket := { id := l.epNext, launch := launch, task := task, place := place, window := window, data := bytes }
      ({ s with link := { l with packets := l.packets ++ [p], epNext := l.epNext + 1 } }, p)
  (if close then s.sealPacket p else s, p.id)

/-- Packets open, of 256 that the endpoint buffer holds (R472). -/
def State.openPackets (s : State) : Nat := (s.link.packets.filter fun p => !p.sealed).length

/-- The launch and place that stand for the host's own packets (R470). -/
def hostPacketLaunch : Nat := 2 ^ 64
def hostPacketPlace : Nat := 0

def execEpSt (vs : Bool) (a b : Nat) (ty : ElemType) (off lgm : Nat) (s : State) : Host.Outcome State Fault Refusal :=
  slotOp (.epSt vs a b ty off lgm) s fun s =>
    let st := s.me
    let va := globalAddr (st.xGet b) off ty.width
    let bytes := ((storeRanges st vs a va ty.width lgm).map (·.2)).flatten
    let named := if vs then groups lgm else []
    if 2 ^ 52 ≤ va then .trap cPERM va
    else if va % (ty.width / 8) ≠ 0 then .trap cALIGN va
    else if s.needsWalk s.cur st.ctx va then .stall (.translation va)
    else match s.windowOf st.ctx va with
      | none => .trap cPERM va
      | some w =>
        let g := s.group st.grp
        let place := s.placeOf s.cur
        let have_ := s.link.packets.find? fun p =>
          !p.sealed && p.launch == st.launch && p.task == g.task && p.place == place && p.window == w
        let len := (have_.map (·.data.length)).getD 0
        if 4096 < len + bytes.length then .trap cPERM va
        else if !(SMap.find s.link.windows w).any (·.enabled) then .trap cPERM va
        else firstStop [lgWait s named,
            if (have_.isNone && decide (256 ≤ s.openPackets)) || s.linkHeld (2 * dieOf s.cur + 1) then some (.stall .endpoint) else none,
            storeRoom s] fun _ =>
          let (s, id) := s.appendPacket st.launch g.task place w bytes (bit va 6)
          .ok (s.queueStore { seq := 0, op := .epstore, q := w, tag := id, ety := ty, lgm := lgm, addr := va,
                              dat := if vs then st.vRaw a else BitVec.ofNat 4096 (st.xGet a),
                              parts := [{ va := va, len := bytes.length, pa := some 0 }] })

/-! ### Service at the home of a line (R25, R416, R419, R420) -/

/-- Do two parts have a location in common, at one address, or in one frame by way of two mappings (R419, R420)? -/
def Part.meets (p q : Part) : Bool :=
  wordsMeet p.va p.len q.va q.len || (match p.pa, q.pa with
    | some a, some b => wordsMeet a p.len b q.len
    | _, _ => false)

/-- May a part of an access be served now: does every edge of R420 from an earlier access hold? -/
def mayServe (before : List Access) (a : Access) (p : Part) : Bool :=
  (before.all fun x => decide (a.seq ≤ x.seq) ||
    ((AccOp.isLoad x.op != AccOp.isLoad a.op || x.op == .epstore || x.parts.all fun y => !y.meets p || y.doneAt x.op 1) &&
     (!x.acquires || x.doneAt (Scope.level x.sc)) &&
     (!a.releases || x.doneAt (Scope.level a.sc)))) &&
  (AccOp.isLoad a.op || (a.parts.takeWhile fun y => y != p).all fun y => !y.meets p || y.doneAt a.op 1)

/-- The new value of an atomic (R295, R296); `none` where it writes nothing. -/
def atomicValue (op : AccOp) (w old b cmp : Nat) : Option Nat :=
  match op with
  | .amo o sg =>
    let x := inInt sg w old
    let y := inInt sg w b
    some (match o with
      | .add => (old + b) % 2 ^ w
      | .and => Nat.land old b
      | .or => Nat.lor old b
      | .xor => Nat.xor old b
      | .min => low (min x y) w
      | .max => low (max x y) w
      | .swap => b)
  | .cas _ => if old = cmp then some b else none
  | _ => none

/-- An access of a group that reaches the memory-side cache, LPDDR6, host or CXL memory, of this package or of a peer (R322). -/
def State.leavesFor (s : State) (gid pa : Nat) : State :=
  match SMap.find s.cmd.groups gid with
  | some g => if (mramSlice (if (peerOf pa).isSome then pa % 2 ^ 44 else pa)).isSome then s else s.setGroup gid { g with scratchOnly := false }
  | none => s
def State.leavesScratch (s : State) (sid pa : Nat) : State := s.leavesFor (s.strand sid).grp pa

/-- A peer's MRAM weight frame takes no write (R467). -/
def peerWeight (pa : Nat) : Bool := (peerOf pa).isSome && isWeight (pa % 2 ^ 44)

/-- What the service of a part comes to; `breaks` is a walk error (R436). -/
inductive Served where
  | no
  | part (s : State) (p : Part)
  | fails (s : State) (va : Nat)
  | parks (s : State) (p : Part)
  | breaks (s : State)

/-- Has another part of an access parked on the page of an address? The access then stands in the entry of its fault table (R441). -/
def State.joined (s : State) (a : Access) (va : Nat) : Bool :=
  let base := ((s.ctx a.ctx).leaf va).map (·.1)
  a.parts.any fun x => x.parked && ((s.ctx a.ctx).leaf x.va).map (·.1) == base

/-- A part not translated, or replayed, is translated (R442): served on, parked, or failed. -/
def State.retranslate (s : State) (sid : Nat) (a : Access) (p : Part) (write : Bool) : Served :=
  match p.pa with
  | some _ => .part s p
  | none =>
    if s.walkFails sid a.ctx p.va then .breaks (s.breakCtx a.ctx) else
    match s.transFor sid p.va write with
    | .denied => .fails s p.va
    | .ok pa bad track => .part s { p with pa := some pa, bad := bad, track := track, parked := false }
    | .park =>
      if p.parked then .no
      else if s.joined a p.va then .parks s { p with parked := true }
      else match s.park (dieOf sid) (s.strand sid).ctx p.va write (s.strand sid).launch with
        | some t => .parks t { p with parked := true }
        | none => .no

/-! ### What a peer answers (R467) -/

/-- What has become of the request of a part at its peer. -/
inductive PeerAnswer where
  | unasked
  | waits
  | answered (bs : List Byte)

/-- The answer to a part's request, empty where its line is poisoned. -/
def State.answerOf (s : State) (p : Part) : PeerAnswer :=
  match p.ask with
  | none => .unasked
  | some id => match (s.link.asks.find? fun (k : Ask) => k.id == id).bind (·.answer) with
    | some bs => .answered bs
    | none => .waits

/-- A part asks the home of its line in the peer, and waits for the answer. -/
def State.ask (s : State) (d pa : Nat) (op : RemoteOp) (p : Part) (tag : WriteTag := {}) : State × Part :=
  (s.askPeer d pa op (if p.data.isEmpty then List.replicate p.len 0 else p.data) true tag, { p with ask := some s.link.askNext })

/-- A request whose answer has been taken is gone. -/
def State.dropAsk (s : State) (p : Part) : State :=
  { s with link := { s.link with asks := s.link.asks.filter fun (k : Ask) => some k.id != p.ask } }

/-! ### Release and acquire sides (R420, R421, R424) -/

/-- The release sides whose sequence a write of a strand heads: its own order, and the release fences before it (R421). What happens before
the write happens before what such a side synchronises with. -/
def State.sidesOf (s : State) (sid : Nat) (a : Access) (wid : Nat) : List Release :=
  let m := s.mem
  (if a.releases then [{ agent := sid, sc := a.sc, seq := a.seq, writes := wid :: m.beforeOf sid a.seq a.seq }] else []) ++
    ((s.strand sid).fences.filter fun f => decide (f.seq < a.seq)).map fun f =>
      { f with writes := wid :: (f.writes ++ m.beforeOf sid a.seq 0) }

/-- Where a write of a strand comes from. -/
def State.tagOf (s : State) (sid : Nat) (a : Access) (heads : List Release) : WriteTag :=
  { launch := (s.strand sid).launch, grp := (s.strand sid).grp, place := s.placeOf sid, seq := a.seq, heads := heads }

/-- A strand has read from release sequences (R421): an acquire synchronises at once, another read with the fence that follows it, so they
are kept for it. -/
def State.readsFrom (s : State) (sid : Nat) (a : Access) (queue : Nat) (heads : List Release) : State :=
  let heads := heads.filter s.mem.matters
  if heads.isEmpty then s else
  let s := if a.acquires then { s with mem := s.mem.acquire heads sid a.sc (a.seq + 1) } else s
  let st := s.strand sid
  s.setStrand sid { st with reads := (st.reads.filter fun h => s.mem.matters h.head) ++ heads.map fun h => { queue := queue, seq := a.seq, head := h } }

/-- The strand of an access as a reader (R416, R420, R424). -/
def State.readerOf (s : State) (sid seq : Nat) : Reader := { place := sid, who := some sid, num := seq, pick := s.tick }

/-- The launch of an access: that of its strand, or, once that is gone, the one that it keeps (R309). -/
def State.launchOf (s : State) (sid : Nat) (own : Bool) (a : Access) : Nat := if own then (s.strand sid).launch else a.launch

/-- A load part reads its bytes, or asks the peer whose memory it reads and waits for the answer. -/
def State.serveLoad (s : State) (sid : Nat) (a : Access) (p : Part) (pa : Nat) : State × Part :=
  let key := (s.ctx a.ctx).keyId
  match peerOf pa with
  | some d => match s.answerOf p with
    | .unasked => (s.leavesScratch sid pa).ask d pa .read p
    | .waits => (s, p)
    | .answered bs =>
      let (bs, bad) := s.asCopied (s.strand sid).launch p.va (if bs.isEmpty then List.replicate p.len 0 else bs, bs.isEmpty || p.bad)
      (s.dropAsk p, { p with data := bs, poison := bad, returned := true, level := 7, ask := none })
  | none =>
    let r := s.readerOf sid a.seq
    let (bs, bad) := s.readLine r key pa p.len
    let heads := s.mem.headsRead r pa p.len
    let s := { s with mem := s.mem.noteRead (s.mem.idsRead r pa p.len) sid }
    let s := ((s.readsFrom sid a 0 heads).openLine a.ctx key pa).bump
    let (bs, bad) := s.asCopied (s.strand sid).launch p.va (bs, bad || p.bad)
    (s.leavesScratch sid pa, { p with data := bs, poison := bad, returned := true, level := 7 })

/-- Has the operation of a part, once the part is performed, written its whole line without poison (R297)? -/
def Access.wholeLine (a : Access) (p : Part) : Bool :=
  let mine := a.parts.filter fun x => x.va / 64 == p.va / 64
  mine.all (fun x => (x.va == p.va && x.len == p.len || decide (0 < x.level)) && !x.poison && !x.bad) &&
    (List.range 64).all fun i => mine.any fun x => decide (x.va ≤ p.va / 64 * 64 + i) && decide (p.va / 64 * 64 + i < x.va + x.len)

/-- A store part reaches its home, or becomes performed more widely; one at a peer is performed once its home there has answered. -/
def State.serveStore (s : State) (sid : Nat) (own : Bool) (a : Access) (p : Part) (pa level : Nat) : State × Part :=
  if 0 < p.level then ({ s with mem := s.mem.promote p.wid level }, { p with level := max p.level level })
  else
    let c := s.ctx a.ctx
    let bad := p.poison || p.bad
    let whole := a.wholeLine p
    match peerOf pa with
    | some d => match s.answerOf p with
      | .unasked =>
        let s := if p.track then s.setCtx a.ctx (c.mark p.va) else s
        ((s.leavesScratch sid pa).rewrites (s.launchOf sid own a) p.va p.len).ask d pa (.write bad whole) p
      | .waits => (s, p)
      | .answered _ => (s.dropAsk p, { p with level := max 6 level, ask := none })
    | none =>
      let s := if p.track then s.setCtx a.ctx (c.mark p.va) else s
      let s := (s.leavesScratch sid pa).rewrites (s.launchOf sid own a) p.va p.len
      let s := if whole || p.len = 64 then s else s.openLine a.ctx c.keyId pa
      let wid := s.mem.wnext
      let tag := if own then s.tagOf sid a (s.sidesOf sid a wid) else { launch := a.launch, seq := a.seq }
      ({ s with mem := s.mem.write sid level pa p.data bad c.keyId whole tag }, { p with level := level, wid := wid })

/-- What an atomic asks of the home of its location (R295, R296, R467). -/
def Access.remoteOp (a : Access) (p : Part) : RemoteOp :=
  match a.op with
  | .amo o sg => .amo o sg
  | .cas sg => .cas sg p.cmp
  | _ => .read

/-- A read and a write at once at the home of a location (R295, R296); a poisoned location stays as it is (R297). Its write goes on with the
release sequences of the one that it read; a `cas` that does not write counts as writing the value that it read (R419, R421). The results
are what was read, whether it is poisoned, and whether something was written. -/
def State.atomicAt (s : State) (agent key level pa : Nat) (op : AccOp) (data cmp : List Byte) (bad : Bool) (tag : WriteTag := {}) :
    State × List Byte × Bool × Bool :=
  let old := s.mem.bytesLast pa data.length
  if bad || s.mem.poisonLast (pa / 64) || !s.mem.opens key pa then (s, old, true, false)
  else
    let tag := { tag with heads := tag.heads ++ ((s.mem.lastWrite (pa / 8)).map fun w => w.tag.heads).getD [] }
    let new := atomicValue op (8 * data.length) (ofBytes old) (ofBytes data) (ofBytes cmp)
    let bs := match new with
      | some v => toBytes v data.length
      | none => old
    ({ s with mem := s.mem.write agent level pa bs false key false tag }, old, false, new.isSome)

/-- An atomic of a strand; one at a peer returns what its home there answers. -/
def State.serveAtomic (s : State) (sid : Nat) (own : Bool) (a : Access) (p : Part) (pa level : Nat) : State × Part :=
  if 0 < p.level then ({ s with mem := s.mem.promote p.wid level }, { p with level := max p.level level })
  else
    let c := s.ctx a.ctx
    match peerOf pa with
    | some d => match s.answerOf p with
      | .unasked => (s.leavesScratch sid pa).ask d pa (a.remoteOp p) p
      | .waits => (s, p)
      | .answered bs =>
        let wrote := !bs.isEmpty && (atomicValue a.op (8 * p.data.length) (ofBytes bs) (ofBytes p.data) (ofBytes p.cmp)).isSome
        let s := if wrote && p.track then s.setCtx a.ctx (c.mark p.va) else s
        let s := if wrote then s.rewrites (s.launchOf sid own a) p.va p.data.length else s
        (s.dropAsk p, { p with data := if bs.isEmpty then p.data else bs, poison := bs.isEmpty || p.bad, returned := true,
                               level := max 6 level, ask := none })
    | none =>
      let s := (s.leavesScratch sid pa).openLine a.ctx c.keyId pa
      let wid := s.mem.wnext
      let heads := ((s.mem.lastWrite (pa / 8)).map fun w => w.tag.heads).getD []
      let tag := if own then s.tagOf sid a (s.sidesOf sid a wid) else { launch := a.launch, seq := a.seq }
      let (t, old, bad, wrote) := s.atomicAt sid c.keyId level pa a.op p.data p.cmp p.bad tag
      let t := if own then t.readsFrom sid a 1 heads else t
      let t := if wrote && p.track then t.setCtx a.ctx (c.mark p.va) else t
      let t := if wrote then t.rewrites (s.launchOf sid own a) p.va p.data.length else t
      (t, { p with data := old, poison := bad, returned := true, level := level, wid := if bad then 0 else wid })

/-- A part of an access is served at a level, if its edges hold and its home can be reached; parts of a gather that read one address ask a
peer once (R294). -/
def State.servePart (s : State) (sid : Nat) (before : List Access) (a : Access) (p : Part) (level : Nat) : Served :=
  let twin := a.op == .gather && p.ask.isNone && a.parts.any fun x => x.va == p.va && x.ask.isSome
  if a.op == .epstore || p.doneAt a.op 7 || twin || !mayServe before a p then .no
  else match s.retranslate sid a p (!AccOp.isLoad a.op) with
    | .part s p =>
      let pa := p.pa.getD 0
      if s.lostHome pa then .fails s p.va
      else if !s.reachable sid pa then .no
      else if !AccOp.isLoad a.op && peerWeight pa then .fails s p.va
      else
        let r := if AccOp.isLoad a.op then s.serveLoad sid a p pa
          else if AccOp.isAtomic a.op then s.serveAtomic sid true a p pa level
          else s.serveStore sid true a p pa level
        .part r.1 r.2
    | r => r

/-- Accesses whose work is done leave the queues: loads that filled their entry or have none, stores performed at .sy
and their atomics' entries filled. -/
def Strand.sweep (st : Strand) : Strand :=
  let waits := fun (a : Access) => (st.qGet a.q).entries.any fun e => e.tag == a.tag && !e.arrived
  { st with lq := st.lq.filter fun a => !a.doneAt 7 || waits a,
            sq := st.sq.filter fun a => !a.doneAt 7 || (AccOp.isAtomic a.op && waits a) }

/-- An access with one part replaced. -/
def Access.setPart (a : Access) (i : Nat) (p : Part) : Access := { a with parts := a.parts.set i p }

/-- The entry that a load or an atomic fills (R295, R297). -/
def Access.entryData (a : Access) (e : QEntry) : QEntry :=
  let byte (m : Nat) (p : Part) : Nat := setField m (8 * p.pos) (8 * p.data.length) (ofBytes p.data)
  let data := match a.op with
    | .amo _ sg | .cas sg => (a.parts.head?.map fun p => low (inInt sg (8 * p.len) (ofBytes p.data)) 64).getD 0
    | _ => a.parts.foldl byte 0
  let bad := a.parts.foldl (fun m p => if p.poison then setField m p.pos p.len (ones p.len) else m) 0
  let bad := if AccOp.isAtomic a.op && bad != 0 then ones 512 else bad
  { e with data := BitVec.ofNat 4096 data, bad := BitVec.ofNat 512 bad, arrived := true,
           poison := (a.parts.find? (·.poison)).map fun p => p.va / 64 * 64 }

/-- After a service: an acquire that is now performed, and a load of words fetched ahead, discard entries (R290, R420). -/
def State.afterService (s : State) (sid : Nat) (a : Access) (p : Part) : State :=
  let st := s.strand sid
  let st := if a.acquires && a.doneAt (Scope.level a.sc) then st.dropFetched fun _ => true else st
  let st := if AccOp.isLoad a.op && p.returned then st.dropFetched fun x => s.locationsMeet sid p.va p.len x 512 else st
  let st := if AccOp.isAtomic a.op && a.parts.all (·.returned) then st.fillSnaps a.q a.tag a.entryData else st
  s.setStrand sid st.sweep

/-- Parts of a gather that read one address read one value (R294). -/
def Access.shareReads (a : Access) (p : Part) : Access :=
  if a.op == .gather && p.returned then { a with parts := a.parts.map fun x => if x.va = p.va && !x.returned
    then { x with data := p.data, poison := p.poison, returned := true, level := 7 } else x } else a

/-- Access `k` of the load queue and then of the store queue of a strand, replaced. -/
def Strand.setAccess (st : Strand) (k : Nat) (a : Access) : Strand :=
  if k < st.lq.length then { st with lq := st.lq.set k a } else { st with sq := st.sq.set (k - st.lq.length) a }

/-- The stores of strands that are gone, and the writes of engines on their way. -/
def orphanAgent : Nat := 4095

/-- The stores of strands that are gone with one of them changed; one that has nothing left to do goes. -/
def Mem.setOrphan (m : Mem) (k sid : Nat) (a : Access) : Mem :=
  { m with orphans := (m.orphans.set k (sid, a)).filter fun o => !o.2.parts.all fun p => decide (7 ≤ p.level) }

def State.serveOrphan (s : State) (k part level : Nat) : State :=
  match s.mem.orphans[k]? with
  | some (sid, a) =>
    match a.parts[part]? with
    | none => s
    | some p =>
      let before := (s.mem.orphans.filter fun o => o.1 == sid).map (·.2)
      let pa := p.pa.getD 0
      if p.doneAt a.op 7 || !mayServe before a p || (s.ctx a.ctx).parked then s
      else if p.pa.isNone || peerWeight pa || s.lostHome pa then
        { s with mem := s.mem.setOrphan k sid { a with parts := a.parts.eraseIdx part } }
      else if !s.reachable sid pa then s
      else
        let r := if AccOp.isAtomic a.op then s.serveAtomic sid false a p pa level else s.serveStore sid false a p pa level
        { r.1 with mem := r.1.mem.setOrphan k sid (a.setPart part r.2) }
  | none =>
    match s.mem.narrow[k - s.mem.orphans.length]? with
    | some w => if s.reachable w.sid w.addr then { s with mem := s.mem.promote w.wid level } else s
    | none => s

/-- Does an access wait for room in the fault table of its die? What stands behind it in its queue waits with it (R441). -/
def State.awaitsEntry (s : State) (sid : Nat) (a : Access) : Bool :=
  a.parts.any fun p => p.pa.isNone && !p.parked && s.transFor sid p.va (!AccOp.isLoad a.op) == .park && !s.joined a p.va &&
    (s.park (dieOf sid) (s.strand sid).ctx p.va (!AccOp.isLoad a.op) (s.strand sid).launch).isNone

/-- The accesses ahead of access `k` in its own queue. -/
def Strand.ahead (st : Strand) (k : Nat) : List Access := if k < st.lq.length then st.lq.take k else st.sq.take (k - st.lq.length)

/-- Access `k` of a strand (load queue first) reaches the home of its part, and is performed at a scope (R25, R416). -/
def execHomeAccess (sid k part : Nat) (scope : Scope) (s : State) : Host.Outcome State Fault Refusal :=
  let level := Scope.level scope
  if s.power.kiln == .held && !s.power.lost then .next s
  else if sid = orphanAgent then .next (s.serveOrphan k part level).settleAll
  else
    let st := s.strand sid
    match (st.lq ++ st.sq)[k]? with
    | none => .next s
    | some a =>
      match a.parts[part]? with
      | none => .next s
      | some p =>
        if (st.ahead k).any (s.awaitsEntry sid) then .next s else
        match s.servePart sid (st.lq ++ st.sq) a p level with
        | .no => .next s
        | .fails t va => .next (t.escalateOutside sid cPERM va 2)
        | .parks t p => .next (t.setStrand sid ((t.strand sid).setAccess k (a.setPart part p)))
        | .breaks t => .next t
        | .part t p =>
          let a := (a.setPart part p).shareReads p
          .next ((t.setStrand sid ((t.strand sid).setAccess k a)).afterService sid a p)

/-! ### Stream data (R288, R290, R297) -/

/-- Entry `k` of a stream register is filled, once every part of its operation has returned. -/
def execStreamFill (sid q k : Nat) (s : State) : Host.Outcome State Fault Refusal :=
  let st := s.strand sid
  let r := st.qGet q
  match r.entries[k]? with
  | none => .next s
  | some e =>
    if e.arrived || r.kind != .explicit then .next s
    else match (st.lq ++ st.sq).find? fun a => a.q == q && a.tag == e.tag && (AccOp.isLoad a.op || AccOp.isAtomic a.op) with
      | some a =>
        if a.parts.all (·.returned) then
          .next (s.setStrand sid (st.fillEntry q e.tag a.entryData).sweep)
        else .next s
      | none => .next s

/-- The address that the stream engine predicts for the pop after the entries that it holds: the innermost active loop
goes on by as many iterations (R290). -/
def Strand.predict (st : Strand) (g : AddrGen) (ahead : Nat) : Nat :=
  match [3, 2, 1, 0].find? fun l => (st.loop l).active with
  | some l => (st.setLoop l { st.loop l with iter := (st.loop l).iter + ahead }).genValue g
  | none => st.genValue g

/-- 512 bytes read at once for a pattern entry, as a load at the strand's next bundle reads them; `none` where a line is denied, parks or
cannot be reached. -/
def State.fetchEntry (s : State) (sid a : Nat) : Option QEntry :=
  let st := s.strand sid
  let r := s.readerOf sid st.seq
  match s.readRange r st.ctx (s.ctx st.ctx).world (s.boundOf sid) a 512 (lid := some st.launch) with
  | .bytes bs _ =>
    let badLine := fun (l : Nat × Nat × Nat) =>
      match s.readRange r st.ctx (s.ctx st.ctx).world (s.boundOf sid) l.1 l.2.1 (lid := some st.launch) with
      | .bytes _ p => p
      | _ => false
    let bads := (cutLines a 512).filter badLine
    let own := (s.frames sid a 512).filter fun f => (peerOf f.1).isNone
    some { tag := s.tick, addr := a, data := BitVec.ofNat 4096 (ofBytes bs), arrived := true,
           poison := bads.head?.map fun l => l.1 / 64 * 64,
           bad := BitVec.ofNat 512 (bads.foldl (fun m l => setField m l.2.2 l.2.1 (ones l.2.1)) 0),
           ids := own.flatMap fun f => s.mem.idsRead r f.1 f.2,
           heads := (own.flatMap fun f => s.mem.headsRead r f.1 f.2).filter s.mem.matters }
  | _ => none

/-- The lines of a fetched range leave scratchpad and MRAM (R322). -/
def State.leavesRange (s : State) (sid a n : Nat) : State :=
  (cutLines a n).foldl (fun s l => match s.transFor sid l.1 false with
    | .ok pa _ _ => s.leavesScratch sid pa
    | _ => s) s

/-- A pop that waits for an entry of a pattern at an address which cannot be fetched: its page parks, breaks its context, or its home is
lost (R436, R439, R443, R467). -/
def State.popFails (s : State) (sid a : Nat) : State :=
  let st := s.strand sid
  let lost := fun (va : Nat) => match s.transFor sid va false with
    | .ok pa _ _ => s.lostHome pa
    | _ => false
  match (cutLines a 512).find? fun l => s.walkFails sid st.ctx l.1 || s.transFor sid l.1 false == .park || lost l.1 with
  | some l =>
    if s.walkFails sid st.ctx l.1 then s.breakCtx st.ctx
    else if lost l.1 then s.escalateOutside sid cPERM l.1 2
    else (s.park (dieOf sid) st.ctx l.1 false st.launch).getD s
  | none => s

/-- A pattern entry is fetched ahead of its pop, or again for a pop that waits for it; a page that is not there is
dropped, and parks for a waiting pop (R290, R292, R439). A miss in the TLBs starts a walk (R437). -/
def execStreamPrefetch (sid q : Nat) (s : State) : Host.Outcome State Fault Refusal :=
  let st := s.strand sid
  let r := st.qGet q
  if r.kind != .pattern || st.life != .live || s.power.kiln != .running then .next s
  else
    let waiting := st.stall == some (.prefetch q)
    let a := st.genValue r.gen
    let ready := match r.entries with
      | e :: _ => e.addr == a
      | [] => false
    if waiting && (ready || s.popHeld sid a) then .next s
    else
      let kept := if waiting then [] else r.entries
      let a := if waiting then a else st.predict r.gen kept.length
      if 4 ≤ kept.length || decide (2 ^ 52 ≤ a) then .next s
      else match s.waitAt sid a 512 with
        | some va => .next (s.startWalk sid st.ctx va)
        | none => match s.fetchEntry sid a with
          | some e => .next (((s.setStrand sid (st.setQ q { r with entries := kept ++ [e] })).leavesRange sid a 512).openRange st.ctx
              (s.boundOf sid) a 512).bump
          | none => .next (if waiting then s.popFails sid a else s)

/-! ### Results (R36, R38) -/

/-- A pending result arrives in the delivery buffer ahead of its due count (R38). -/
def execResultArrive (sid k : Nat) (s : State) : Host.Outcome State Fault Refusal :=
  let st := s.strand sid
  .next (match st.dbuf[k]? with
    | some p => s.setStrand sid { st with dbuf := st.dbuf.set k { p with arrived := true } }
    | none => s)

/-- Results that are due, and have arrived, become visible (R36). -/
def execResultDeliver (sid : Nat) (s : State) : Host.Outcome State Fault Refusal :=
  .next (if (s.strand sid).lateResult then s else s.deliverDue sid)

end Sys2Proof.Machine
end

