-- ==== Sys2Proof/Machine/Pass.lean ====
section
/-! DEFINITION. The arithmetic of the matrix array: weights as planes (R93 to R96, R106, R119, R120), the bounded
contributions of undervolted bands (R107), block sums (R98 to R101) and drained elements (R258). -/

namespace Sys2Proof.Machine

/-! ### Planes and exposure (R106, R119, R120) -/

/-- Is read plane `j` of `k`, counted from the highest, exposed at a grade: do any of its cell slots lie in a band
that the grade undervolts (R108, R119)? -/
def exposedPlane (grade k j : Nat) : Bool := decide (0 < grade) && decide (k * (4 - grade) < 4 * (j + 1))

/-- The highest and the lowest band that carry read plane `j` of `k` (R119). -/
def planeBands (k j : Nat) : Nat × Nat := (3 - 4 * j / k, 3 - (4 * (j + 1) - 1) / k)

/-- Does a grade undervolt the band of the cell slot that carries read plane `j` of `k` of a row's element (R107, R119)? -/
def exposedSlot (grade k j row : Nat) : Bool :=
  let (hi, lo) := planeBands k j
  decide ((if hi = lo then hi else lo + Config.slotBand k j row % (hi - lo + 1)) < grade)

/-- Significand width of a floating weight: hidden bit and mantissa. -/
def sigBits (f : FFmt) : Nat := f.mbits + 1

/-- A plane that a pass reads: the planes of its run and its place from the top (R119), the bit of the stored value that it
carries, its weight in units of the lowest plane read, whether it is a sign plane. -/
structure Plane where
  run : Nat
  place : Nat
  bit : Nat
  unit : Nat
  sign : Bool := false
  deriving DecidableEq, Repr

/-- `k` planes of a stored value, its bit `lo + k - 1` first; `sign` marks the first as the sign plane. -/
def planeRun (k lo unit : Nat) (sign : Bool) : List Plane :=
  (List.range k).map fun j =>
    { run := k, place := j, bit := lo + (k - 1 - j), unit := unit * 2 ^ (k - 1 - j), sign := sign && j == 0 }

/-- The planes that a pass reads of a weight type: the eight of a byte, the first K of a bit-plane byte, the significand
of a floating weight, in two runs for .f16, and one limb of .f32 and .f64 (R93, R96, R106, R120). -/
def readPlanes (ty : ElemType) (pl lk : Nat) : List Plane :=
  match ty with
  | .s8 | .mxi8 => planeRun 8 0 1 true
  | .n8 => planeRun 8 0 1 false
  | .f16 => planeRun 8 3 8 false ++ planeRun 3 0 1 false
  | .f32 | .f64 => planeRun 8 (8 * lk) 1 false
  | t =>
    if t.isBp then planeRun pl (8 - pl) 1 true
    else match floatFmt t with
      | some f => planeRun (sigBits f) 0 1 false
      | none => []

/-- What one unit of the lowest plane read is in plane units (R106): 2^(8-K) for the first K planes of a byte, 2^(8·LK) for
limb LK of a significand, 1 otherwise. -/
def planeUnits (ty : ElemType) (pl lk : Nat) : Nat :=
  if ty.isBp then 2 ^ (8 - pl) else if ty == .f32 || ty == .f64 then 2 ^ (8 * lk) else 1

/-- W of a pass at a grade: the exposed planes that it reads, in plane units; σ for a floating weight (R119, R120). -/
def exposureOf (ty : ElemType) (pl lk grade : Nat) : Nat :=
  planeUnits ty pl lk * ((readPlanes ty pl lk).map fun p => if exposedPlane grade p.run p.place then p.unit else 0).sum

/-! ### Weights and activations (R93 to R96, R100) -/

/-- A weight as the array reads it: what it is as a value, its sign (floating types), the exponent of its lowest plane read,
the stored value whose bits are its planes, and whether the half-unit plane of R95 goes with it. -/
structure Weight where
  special : FVal
  neg : Bool := false
  exp : Int := 0
  bits : Nat := 0
  half : Bool := false
  deriving DecidableEq, Repr

/-- An MX value of a scale byte; 0xFF is a NaN that sets NV (R88, R92). -/
def scaled (v : FVal) (scale : Nat) : FVal :=
  if scale = 0xFF then .nan true
  else match v with
    | .fin s m e => .fin s m (e + scale - 127)
    | v => v

/-- A weight of a type: pattern, MX scale (127 for others), limb (R93 to R96, R120). -/
def weightOf (ty : ElemType) (lk scale p : Nat) : Weight :=
  match ty with
  | .s8 | .n8 => { special := .fin false 0 0, bits := p }
  | .mxi8 => { special := scaled (mxElem .mxi8 p) scale, exp := scale - 133, bits := p }
  | t =>
    if t.isBp then { special := .fin false 0 0, exp := 1, bits := p, half := true }
    else match floatFmt t with
      | some f =>
        match scaled (decodeF f p) scale with
        | .fin s m e => { special := .fin s m e, neg := s, exp := if t == .f32 || t == .f64 then e + 8 * lk else e, bits := m }
        | v => { special := v }
      | none => { special := .fin false 0 0 }

/-- What a plane of a weight is multiplied by: the sign of the weight or of its sign plane, and the plane's unit (R106). -/
def Weight.unit (w : Weight) (p : Plane) : Int := if w.neg != p.sign then -(p.unit : Int) else p.unit

/-- An activation of a type: its whole value, which decides what is special of a product (R100). -/
def activationOf (ty : ElemType) (scale p : Nat) : FVal :=
  match ty with
  | .s8 => .fin (decide (sx 8 p < 0)) (sx 8 p).natAbs 0
  | .n8 => .fin false (p % 256) 0
  | .f32 | .f64 => decodeF ((floatFmt ty).getD fmtF32) p
  | t => scaled (mxElem t p) scale

/-- The significand that a pass multiplies, with its sign: limb LJ in its place for .f32 and .f64 (R96), else the whole; and
its exponent. A value that is not finite brings none. -/
def actSig (ty : ElemType) (lj : Nat) : FVal → Int
  | .fin s m _ =>
    let l := if ty == .f32 || ty == .f64 then m / 2 ^ (8 * lj) % 256 * 2 ^ (8 * lj) else m
    if s then -(l : Int) else l
  | _ => 0
def actExp : FVal → Int
  | .fin _ _ e => e
  | _ => 0

/-! ### What planes contribute (R105, R107, R108) -/

/-- What a plane contributes with the activation of a row. Where the grade undervolts the band of the cell slot that carries it: anything in
the clamp interval, by the free value (R107). At VNOM: its exact term, and what a late transition of an event outside the range of R108
adds, which no clamp bounds. -/
def planeTerm (grade row : Nat) (a free late : Int) (w : Weight) (p : Plane) : Int :=
  let full := a * w.unit p
  if exposedSlot grade p.run p.place row then max (min full 0) (min (max full 0) free)
  else (if bit w.bits p.bit then full else 0) + late

/-- The plane sum of one product, in units of the lowest plane read; `free` and `late` by plane (log 11). -/
def planeSum (grade row : Nat) (a : Int) (w : Weight) (ps : List Plane) (free late : Nat → Int) : Int :=
  (ps.mapIdx fun j p => planeTerm grade row a (free j) (late j) w p).sum

/-- The exact plane sum. -/
def exactSum (a : Int) (w : Weight) (ps : List Plane) : Int := planeSum 0 0 a w ps (fun _ => 0) (fun _ => 0)

/-- The product that the array adds for a plane sum: aligned, with the half-unit plane of a bit-plane weight (R95, R98). -/
def alignedProduct (a e : Int) (w : Weight) (sum : Int) : Dy :=
  if w.half then Dy.add ⟨sum, e + w.exp⟩ ⟨a, e⟩ else ⟨sum, e + w.exp⟩

/-! ### Special values (R100) -/

/-- What a product of an activation and a weight is beside a finite number: invalid 0 x infinity or a NaN, or an
infinity of a sign. -/
inductive Special where
  | none | nan (nv : Bool) | inf (neg : Bool)
  deriving DecidableEq, Repr

def productSpecial (a w : FVal) : Special :=
  if badMul a w then .nan true
  else if a.isNaN || w.isNaN then .nan (a.isSig || w.isSig)
  else if a.isInf || w.isInf then .inf (a.neg != w.neg)
  else .none

/-! ### Block sums (R97 to R101) -/

/-- A dyadic rational as an integer, where it is one. -/
def Dy.toInt (x : Dy) : Int := if 0 ≤ x.e then x.m * (2 ^ x.e.toNat : Nat) else x.m / (2 ^ (-x.e).toNat : Nat)

/-- |x| truncated toward zero to a multiple of 2^lo, with its sign, and whether bits were lost. -/
def truncAt (x : Dy) (lo : Int) : Dy × Bool :=
  if lo ≤ x.e then (x, false)
  else
    let k := (lo - x.e).toNat
    let q := x.m.natAbs / 2 ^ k
    (⟨if x.m < 0 then -(q : Int) else q, lo⟩, x.m.natAbs % 2 ^ k != 0)

/-- The exact sum of a block of products inside its window of 192 bits, and sticky (R99). -/
def windowSum (ps : List Dy) : Dy × Bool :=
  match (ps.filter fun p => !p.isZero).map Dy.log2 with
  | [] => (dyZero, false)
  | e :: es =>
    let lo := es.foldl max e - 186
    ps.foldl (fun acc p => let t := truncAt p lo; (Dy.add acc.1 t.1, acc.2 || t.2)) (dyZero, false)

/-- `roundsticky` (R99). -/
def roundSticky (f : FFmt) (s : Dy) (sticky : Bool) : Nat × Nat :=
  if s.isZero then (0, if sticky then flNX else 0)
  else if sticky then roundDy f .rne false (stickyDy (decide (s.m < 0)) s.m.natAbs s.e true) (decide (s.m < 0))
  else roundDy f .rne false s (decide (s.m < 0))

/-- The special value of K-block `b` of an element: a NaN, an infinity, or none; with NV where both infinities meet. -/
def BetaElem.block (x : BetaElem) (b : Nat) : Option (FVal × Nat) :=
  if x.nan.contains b then some (.nan false, 0)
  else if x.pinf.contains b && x.ninf.contains b then some (.nan false, flNV)
  else if x.pinf.contains b then some (.inf false, 0)
  else if x.ninf.contains b then some (.inf true, 0)
  else none

/-- One K-block's sum, rounded, as an operand of the accumulation (R98 to R100). -/
def blockSum (f : FFmt) (mode : Nat) (x : BetaElem) (b : Nat) : FVal × Nat :=
  match x.block b with
  | some r => r
  | none =>
    let r := if mode = 1 then roundDy f .rne false (Dy.sum x.prods) false
      else let w := windowSum ((x.prods.drop (16 * b)).take 16); roundSticky f w.1 w.2
    (decodeF f r.1, r.2)

/-- An `acc` element merged with what beta holds for it (R257). -/
def mergeElem (mode : Nat) (fresh : Bool) (acc : Nat) (x : BetaElem) : Nat × Nat :=
  let old := if fresh then 0 else acc
  if mode = 0 then (low (sx 32 old + (Dy.sum x.prods).toInt) 32, 0)
  else
    let f := if mode = 3 then fmtF64 else fmtF32
    let blocks := if mode = 1 then [0] else [0, 1, 2, 3]
    blocks.foldl (fun r b =>
      let s := blockSum f mode x b
      let t := addF f .rne (mode != 3) (decodeF f r.1) s.1
      (t.1, flAll [r.2, s.2, t.2])) (old, 0)

/-! ### Drained elements (R258) -/

/-- A product of values, with NV for 0 x infinity and a signalling operand. -/
def mulValF (a b : FVal) : FVal × Nat :=
  if badMul a b then (.nan false, flNV)
  else if a.isNaN || b.isNaN then (.nan false, nanFlag [a, b])
  else (mulVal a b, 0)

/-- One drained element: source kind, factors, destination type. -/
def drainElem (src pl : Nat) (bpf : Bool) (factors : List Nat) (ty : ElemType) (v : Nat) : Nat × Nat :=
  let x0 := match src with
    | 0 => FVal.fin (decide (sx 32 v < 0)) (sx 32 v).natAbs 0
    | 1 => decodeF fmtF32 v
    | _ => decodeF fmtF64 v
  let x1 := match x0 with
    | .fin s m e => .fin s m (if bpf then e + 7 - pl else e)
    | x => x
  let r := factors.foldl (fun (r : FVal × Nat) k =>
    let t := mulValF r.1 (decodeF fmtF32 k)
    (t.1, flOr r.2 t.2)) (x1, if x0.isSig then flNV else 0)
  match floatFmt ty with
  | some f =>
    match r.1 with
    | .nan _ => (f.qnan, r.2)
    | .inf s => if f.hasInf then (infPat f s, r.2) else (withSign f s f.maxPat, flAll [r.2, flOF, flNX])
    | v =>
      let o := roundDy f .rne (f == fmtF32) v.toDy v.neg
      (o.1, flOr r.2 o.2)
  | none =>
    let lo := intMin ty.isSigned ty.width
    let hi := intMax ty.isSigned ty.width
    match r.1 with
    | .nan _ => (0, flOr r.2 flNV)
    | .inf s => (low (if s then lo else hi) ty.width, flOr r.2 flSA)
    | v =>
      let c := clampTo (roundInt .rne v.toDy).1 lo hi
      (low c.1 ty.width, if c.2 then flOr r.2 flSA else r.2)

/-! ### Strips of a BSTACK tile (R253) -/

/-- The pattern of an element from the bits of its strips, strip 0 first. -/
def stripPattern (ty : ElemType) (b : Nat → Bool) : Nat :=
  match ty with
  | .s8 | .n8 | .mxi8 => ofElems 1 ((List.range 8).map fun i => ofBit (b (7 - i)))
  | t =>
    if t.isBp then ofElems 1 ((List.range 8).map fun i => ofBit (decide (8 - t.width ≤ i) && b (7 - i)))
    else match floatFmt t with
      | some f =>
        ofElems 1 ((List.range f.mbits).map fun i => ofBit (b (1 + f.ebits + 1 + (f.mbits - 1 - i))))
          + 2 ^ f.mbits * ofElems 1 ((List.range f.ebits).map fun i => ofBit (b (1 + (f.ebits - 1 - i))))
          + 2 ^ (f.mbits + f.ebits) * ofBit (b 0)
      | none => 0

/-- The strip bits of an element's pattern, strip 0 first. -/
def stripBits (ty : ElemType) (p : Nat) : List Bool :=
  match ty with
  | .s8 | .n8 | .mxi8 => (List.range 8).map fun s => bit p (7 - s)
  | t =>
    if t.isBp then (List.range t.width).map fun s => bit p (7 - s)
    else match floatFmt t with
      | some f =>
        bit p (f.ebits + f.mbits)
          :: ((List.range f.ebits).map fun s => bit p (f.mbits + f.ebits - 1 - s))
          ++ (field p f.mbits f.ebits != 0) :: ((List.range f.mbits).map fun s => bit p (f.mbits - 1 - s))
      | none => []

/-- The strip that carries a bit of a stored value: the planes of a byte from plane 7, a significand from its hidden bit
(R253). A limb has bits above the significand that no strip carries. -/
def stripOfBit (ty : ElemType) (i : Nat) : Option Nat :=
  match ty with
  | .s8 | .n8 | .mxi8 => some (7 - i)
  | t =>
    if t.isBp then some (7 - i)
    else match floatFmt t with
      | some f => if f.mbits < i then none else some (1 + f.ebits + (f.mbits - i))
      | none => none

/-- The strips whose bits the checksum column counts: all of an integer or bit-plane type, the significand planes of
a floating one (R124). -/
def countedStrips (ty : ElemType) : List Nat :=
  match ty with
  | .s8 | .n8 | .mxi8 => List.range 8
  | t =>
    if t.isBp then List.range t.width
    else match floatFmt t with
      | some f => (List.range (f.mbits + 1)).map (1 + f.ebits + ·)
      | none => []

/-- The strips that a pass reads, with the plane units of each; the sign plane's weight carries its sign (R124, R125). -/
def readStrips (ty : ElemType) (pl lk : Nat) : List (Nat × Int) :=
  (readPlanes ty pl lk).filterMap fun p => (stripOfBit ty p.bit).map fun st =>
    (st, planeUnits ty pl lk * (if p.sign then -(p.unit : Int) else p.unit))

/-- Elements whose sign a count takes: floating types (R124). -/
def countSigned (ty : ElemType) : Bool := !(ty == .s8 || ty == .n8 || ty == .mxi8 || ty.isBp)

/-- The signed count of a strip over columns, by the strip bits of a row (R124). -/
def countOf (ty : ElemType) (cols : Nat) (strip : Nat → Nat → Bool) (st : Nat) : Int :=
  ((List.range cols).map fun n =>
    if strip n st then (if countSigned ty && strip n 0 then (-1 : Int) else 1) else 0).sum

end Sys2Proof.Machine
end

