-- ==== Sys2Proof/Machine/Scalar.lean ====
section
/-! DEFINITION. The S slot: integer arithmetic, branches, traps and state registers (R168 to R184). -/

namespace Sys2Proof.Machine

/-- in(A) of an x register at a type (R168). -/
def xIn (ty : IntTy) (s : State) (a : Nat) : Int := IntTy.read ty (s.me.xGet a)
/-- in(sext(IMM, 36)) (R168). -/
def immIn (ty : IntTy) (imm : Nat) : Int := IntTy.read ty (low (sx 36 imm) 64)

/-- The exact result of an S form reaches D under R168, after a latency. -/
def scalarTo (ty : IntTy) (lat d : Nat) (v : Int) (s : State) : Res := .ok (s.postX lat d (IntTy.result ty v))

/-- An S-R form: two registers. -/
def scalarR (i : Instr) (ty : IntTy) (lat d a b : Nat) (f : Int → Int → Int) (s : State) :
    Host.Outcome State Fault Refusal :=
  slotOp i s fun s => scalarTo ty lat d (f (xIn ty s a) (xIn ty s b)) s

/-- An S-I form: a register and an immediate. -/
def scalarI (i : Instr) (ty : IntTy) (lat d a imm : Nat) (f : Int → Int → Int) (s : State) :
    Host.Outcome State Fault Refusal :=
  slotOp i s fun s => scalarTo ty lat d (f (xIn ty s a) (immIn ty imm)) s

/-- An operation on the patterns of N bits (R169). -/
def onBits (ty : IntTy) (f : Nat → Nat → Nat) (a b : Int) : Int :=
  f (low a (IntTy.width ty)) (low b (IntTy.width ty))

/-- A AND NOT B on N bits (R169). -/
def andNot (n a b : Nat) : Nat := a &&& (ones n - b % 2 ^ n)

/-- Left rotation within N bits (R169). -/
def rotLeft (n a s : Nat) : Nat :=
  let k := s % n
  (a % 2 ^ n * 2 ^ k) % 2 ^ n + a % 2 ^ n / 2 ^ (n - k)

/-- An S form on one register. -/
def scalarU (i : Instr) (ty : IntTy) (d a : Nat) (f : Int → Int) (s : State) : Host.Outcome State Fault Refusal :=
  slotOp i s fun s => scalarTo ty 1 d (f (xIn ty s a)) s

/-- A shift or rotate by B[5:0] or IMM[5:0] (R169). -/
def shiftBy (i : Instr) (ty : IntTy) (d a amt : Nat) (f : Int → Nat → Int) (s : State) :
    Host.Outcome State Fault Refusal :=
  slotOp i s fun s => scalarTo ty 1 d (f (xIn ty s a) (amt % 64)) s

/-- floor(a / 2^s). -/
def shiftRight (a : Int) (k : Nat) : Int := a / (2 ^ k : Nat)

def execAdd (ty : IntTy) (d a b : Nat) (s : State) := scalarR (.add ty d a b) ty 1 d a b (· + ·) s
def execAddI (ty : IntTy) (d a imm : Nat) (s : State) := scalarI (.addI ty d a imm) ty 1 d a imm (· + ·) s
def execSub (ty : IntTy) (d a b : Nat) (s : State) := scalarR (.sub ty d a b) ty 1 d a b (· - ·) s
def execSubI (ty : IntTy) (d a imm : Nat) (s : State) := scalarI (.subI ty d a imm) ty 1 d a imm (· - ·) s
def execMul (ty : IntTy) (d a b : Nat) (s : State) := scalarR (.mul ty d a b) ty 3 d a b (· * ·) s
def execMulI (ty : IntTy) (d a imm : Nat) (s : State) := scalarI (.mulI ty d a imm) ty 3 d a imm (· * ·) s
def execMulh (ty : IntTy) (d a b : Nat) (s : State) :=
  scalarR (.mulh ty d a b) ty 3 d a b (fun x y => x * y / (2 ^ IntTy.width ty : Nat)) s
/-- `div` and `rem` raise IDIV on a zero divisor (R170). -/
def execDiv (ty : IntTy) (d a b : Nat) (s : State) : Host.Outcome State Fault Refusal :=
  slotOp (.div ty d a b) s fun s =>
    if xIn ty s b = 0 then .trap cIDIV 0 else scalarTo ty 16 d ((xIn ty s a).tdiv (xIn ty s b)) s
def execRem (ty : IntTy) (d a b : Nat) (s : State) : Host.Outcome State Fault Refusal :=
  slotOp (.rem ty d a b) s fun s =>
    if xIn ty s b = 0 then .trap cIDIV 0 else scalarTo ty 16 d ((xIn ty s a).tmod (xIn ty s b)) s
def execAnd (ty : IntTy) (d a b : Nat) (s : State) := scalarR (.and ty d a b) ty 1 d a b (onBits ty (· &&& ·)) s
def execAndI (ty : IntTy) (d a imm : Nat) (s : State) := scalarI (.andI ty d a imm) ty 1 d a imm (onBits ty (· &&& ·)) s
def execOr (ty : IntTy) (d a b : Nat) (s : State) := scalarR (.or ty d a b) ty 1 d a b (onBits ty (· ||| ·)) s
def execOrI (ty : IntTy) (d a imm : Nat) (s : State) := scalarI (.orI ty d a imm) ty 1 d a imm (onBits ty (· ||| ·)) s
def execXor (ty : IntTy) (d a b : Nat) (s : State) := scalarR (.xor ty d a b) ty 1 d a b (onBits ty (· ^^^ ·)) s
def execXorI (ty : IntTy) (d a imm : Nat) (s : State) := scalarI (.xorI ty d a imm) ty 1 d a imm (onBits ty (· ^^^ ·)) s
def execAndn (ty : IntTy) (d a b : Nat) (s : State) :=
  scalarR (.andn ty d a b) ty 1 d a b (onBits ty (andNot (IntTy.width ty))) s
def execAndnI (ty : IntTy) (d a imm : Nat) (s : State) :=
  scalarI (.andnI ty d a imm) ty 1 d a imm (onBits ty (andNot (IntTy.width ty))) s
def execShl (ty : IntTy) (d a b : Nat) (s : State) :=
  shiftBy (.shl ty d a b) ty d a (s.me.xGet b) (fun x k => x * (2 ^ k : Nat)) s
def execShlI (ty : IntTy) (d a imm : Nat) (s : State) :=
  shiftBy (.shlI ty d a imm) ty d a imm (fun x k => x * (2 ^ k : Nat)) s
def execShr (ty : IntTy) (d a b : Nat) (s : State) := shiftBy (.shr ty d a b) ty d a (s.me.xGet b) shiftRight s
def execShrI (ty : IntTy) (d a imm : Nat) (s : State) := shiftBy (.shrI ty d a imm) ty d a imm shiftRight s
def execRotl (ty : IntTy) (d a b : Nat) (s : State) :=
  shiftBy (.rotl ty d a b) ty d a (s.me.xGet b) (fun x k => rotLeft (IntTy.width ty) (low x (IntTy.width ty)) k) s
def execRotlI (ty : IntTy) (d a imm : Nat) (s : State) :=
  shiftBy (.rotlI ty d a imm) ty d a imm (fun x k => rotLeft (IntTy.width ty) (low x (IntTy.width ty)) k) s
def execClz (ty : IntTy) (d a : Nat) (s : State) :=
  scalarU (.clz ty d a) ty d a (fun x => leadingZeros (low x (IntTy.width ty)) (IntTy.width ty)) s
def execCtz (ty : IntTy) (d a : Nat) (s : State) :=
  scalarU (.ctz ty d a) ty d a (fun x => trailingZeros (low x (IntTy.width ty)) (IntTy.width ty)) s
def execPopc (ty : IntTy) (d a : Nat) (s : State) :=
  scalarU (.popc ty d a) ty d a (fun x => popCount (low x (IntTy.width ty)) (IntTy.width ty)) s
def execMin (ty : IntTy) (d a b : Nat) (s : State) := scalarR (.min ty d a b) ty 1 d a b min s
def execMinI (ty : IntTy) (d a imm : Nat) (s : State) := scalarI (.minI ty d a imm) ty 1 d a imm min s
def execMax (ty : IntTy) (d a b : Nat) (s : State) := scalarR (.max ty d a b) ty 1 d a b max s
def execMaxI (ty : IntTy) (d a imm : Nat) (s : State) := scalarI (.maxI ty d a imm) ty 1 d a imm max s
def execSel (ty : IntTy) (d a b cn : Nat) (s : State) : Host.Outcome State Fault Refusal :=
  slotOp (.sel ty d a b cn) s fun s => scalarTo ty 1 d (if s.me.cGet cn then xIn ty s a else xIn ty s b) s
def execExt (ty : IntTy) (d a : Nat) (s : State) := scalarU (.ext ty d a) ty d a (fun x => x) s

/-- The comparisons (R139). -/
def Cond.holds (cc : Cond) (a b : Int) : Bool :=
  match cc with
  | .eq => decide (a = b)
  | .ne => decide (a ≠ b)
  | .lt => decide (a < b)
  | .le => decide (a ≤ b)
  | .gt => decide (b < a)
  | .ge => decide (b ≤ a)

def execCmp (cc : Cond) (ty : IntTy) (d a b : Nat) (s : State) : Host.Outcome State Fault Refusal :=
  slotOp (.cmp cc ty d a b) s fun s => .ok (s.postC 1 d (Cond.holds cc (xIn ty s a) (xIn ty s b)))
def execCmpI (cc : Cond) (ty : IntTy) (d a imm : Nat) (s : State) : Host.Outcome State Fault Refusal :=
  slotOp (.cmpI cc ty d a imm) s fun s => .ok (s.postC 1 d (Cond.holds cc (xIn ty s a) (immIn ty imm)))

def execMovi (d imm : Nat) (s : State) : Host.Outcome State Fault Refusal :=
  slotOp (.movi d imm) s fun s => .ok (s.postX 1 d (low (sx 36 imm) 64))
/-- IMM[27:0] over A[35:0] (R171). -/
def execMovhi (d a imm : Nat) (s : State) : Host.Outcome State Fault Refusal :=
  slotOp (.movhi d a imm) s fun s => .ok (s.postX 1 d (setField (s.me.xGet a) 36 28 imm))
/-- Bit fields (R172). -/
def execBfx (ty : IntTy) (d a pos len : Nat) (s : State) : Host.Outcome State Fault Refusal :=
  slotOp (.bfx ty d a pos len) s fun s =>
    let f := field (s.me.xGet a) pos len
    scalarTo ty 1 d (if IntTy.signed ty then sx len f else (f : Int)) s
def execBfi (ty : IntTy) (d a pos len : Nat) (s : State) : Host.Outcome State Fault Refusal :=
  slotOp (.bfi ty d a pos len) s fun s => scalarTo ty 1 d (setField (s.me.xGet d) pos len (s.me.xGet a) : Nat) s

/-! ### Branches (R173 to R177) -/

def execPrep (bt : Nat) (src : PrepSrc) (s : State) : Host.Outcome State Fault Refusal :=
  slotOp (.prep bt src) s fun s =>
    let t := match src with
      | .index k => k
      | .reg a => s.me.xGet a % 2 ^ 11
    .ok (s.post 2 { kind := .b, reg := bt, due := 0, value := BitVec.ofNat 4096 t })

/-- The transfer that a branch starts: three delay bundles whatever it decides (R175). -/
def branchTo (s : State) (bt : Nat) (taken : Bool) : State :=
  { s with iss := { s.iss with branch := some { target := s.me.bGet bt, left := 3, taken := taken } } }

def execBr (bt cn : Nat) (neg : Bool) (s : State) : Host.Outcome State Fault Refusal :=
  slotOp (.br bt cn neg) s fun s => .ok (branchTo s bt (xor (s.me.cGet cn) neg))
/-- A taken `call` delivers the index after its delay window to b3 (R175). -/
def execCall (bt cn : Nat) (neg : Bool) (s : State) : Host.Outcome State Fault Refusal :=
  slotOp (.call bt cn neg) s fun s =>
    let taken := xor (s.me.cGet cn) neg
    let t := branchTo s bt taken
    .ok (if taken then t.post 4 { kind := .b, reg := 3, due := 0, value := BitVec.ofNat 4096 ((s.iss.idx + 4) % 4096) }
         else t)

/-! ### Traps and state registers (R178 to R184) -/

def execTrap (imm : Nat) (s : State) : Host.Outcome State Fault Refusal :=
  slotOp (.trap imm) s fun _ => .trap cTRAPI (imm % 2 ^ 16)

/-- Every result issued on the handler count is delivered, in due order (R306). -/
def State.deliverHandler (s : State) (sid : Nat) : State :=
  let st := s.strand sid
  let l := dueOrder (st.dbuf.filter (·.hnd))
  l.foldl (fun s p => s.apply sid p) (s.setStrand sid { st with dbuf := st.dbuf.filter fun p => !p.hnd })

/-- The handler ends: its results are delivered, and the strand goes on at TBUNDLE[10:0] at the frozen count; with
TBUNDLE[11] = 1 it escalates as ILLENC reason 3 (R179, R306). -/
def execRett (s : State) : Host.Outcome State Fault Refusal :=
  slotOp .rett s fun s =>
    let t := s.deliverHandler s.cur
    let tb := t.me.tbundle.toNat
    if bit tb 11 then .trap cILLENC 3
    else .ok { t.setMe (t.me.fromTrap (tb % 2 ^ 11)) with iss := { t.iss with rett := true } }

def execMfs (d sr : Nat) (s : State) : Host.Outcome State Fault Refusal :=
  slotOp (.mfs d sr) s fun s => .ok (s.postX 1 d (srRead s s.cur sr))

/-- A state register written: latency 4 for FMT and CARAT, 1 otherwise; a read-only one is left (R65, R180). -/
def postSr (s : State) (sr v : Nat) : State :=
  if srWritable sr then
    s.post (if sr ≤ 1 then 4 else 1) { kind := .sr, reg := sr, due := 0, value := BitVec.ofNat 4096 (v % 2 ^ 64) }
  else s

def execMts (a sr : Nat) (s : State) : Host.Outcome State Fault Refusal :=
  slotOp (.mts a sr) s fun s => .ok (postSr s sr (s.me.xGet a))
/-- The masked bits of FMT[15:0] are replaced (R182). -/
def execSetfmt (value mask : Nat) (s : State) : Host.Outcome State Fault Refusal :=
  slotOp (.setfmt value mask) s fun s =>
    .ok (postSr s 0 (andNot 16 (s.me.fmt.toNat % 2 ^ 16) mask ||| (value &&& mask)))
def execSetcar (g : GradeSrc) (s : State) : Host.Outcome State Fault Refusal :=
  slotOp (.setcar g) s fun s =>
    let v := match g with
      | .imm n => n
      | .reg a => s.me.xGet a % 4
    .ok (postSr s 1 v)

/-- Where DEADLINE of a work item lies (R350). -/
def noDeadline : Nat := 2 ^ 64 - 1
/-- The work item's bytes as a number (R350). -/
def Launch.fieldAt (l : Launch) (byte len : Nat) : Nat := field l.item (8 * byte) (8 * len)
def Launch.deadline (l : Launch) : Nat := l.fieldAt 32 8

/-- Nanoseconds to the deadline, saturated; the largest value where there is none (R184). -/
def timeLeft (deadline dtime : Nat) : Int :=
  if deadline = noDeadline then 2 ^ 63 - 1 else (clampTo ((deadline : Int) - dtime) (-(2 ^ 63)) (2 ^ 63 - 1)).1

def execTime (d : Nat) (s : State) : Host.Outcome State Fault Refusal :=
  slotOp (.time d) s fun s => .ok (s.postX 1 d (low (timeLeft s.myLaunch.deadline s.power.dtime) 64))

/-- A bundle with no operation has no effect of its own; it issues and counts (R35, R130). -/
def execEmptyBundle (_stop : Bool) (_gap : Nat) (_swa : Bool) (s : State) : Host.Outcome State Fault Refusal :=
  .next s

end Sys2Proof.Machine
end

