-- ==== Sys2Proof/Machine/Vector.lean ====
section
/-! DEFINITION. The V slots: floating-point, conversion, integer, move, ring, reduction, predicate and accumulator
forms (R200 to R239). -/

namespace Sys2Proof.Machine

/-! ### Activity, operands, results (R200 to R206) -/

/-- Is element `j` of width `w` active under the 16 predicate bits of a lanegroup (R200)? -/
def elemActive (w pm j : Nat) : Bool := bit pm (if w = 64 then 2 * j else w * j / 32)

/-- The bits of a vector source in a lanegroup: a v register, or the head entry of a q register (R204, R205). -/
def vsrc (st : Strand) (r g : Nat) : Nat :=
  if r < 32 then st.vGet r g else (headData st (r - 32)).toNat / 2 ^ (512 * g) % 2 ^ 512

/-- The checks that every V form meets before its effect: stream addresses, gated and drowsy lanegroups, missing and
poisoned entries; and the pops that it makes if an element is active (R205, R206). A stream register that no active element reads is not
waited for (log 35). `w` is the element width of the
activity, `extra` a source lanegroup outside the mask. -/
def vecPre (i : Instr) (w : Nat) (extra : List Nat) (s : State) : Res :=
  let st := s.me
  match Instr.vMask i with
  | none => .ok s
  | some (lgm, pr) =>
    let used := (groups lgm).any fun g => (List.range (512 / w)).any (elemActive w (st.pGet pr g))
    let qs := if used then Instr.qReads i else []
    let named := (List.range 8).filter fun g => bit lgm g || extra.contains g
    match lowestStop (qs.map (popAddress s)) with
    | some r => r
    | none =>
      match lgWait s named with
      | some r => r
      | none =>
        match qs.findSome? (popWait s) with
        | some r => r
        | none =>
          match qs.findSome? (popPoison s · pr) with
          | some r => r
          | none => .ok (qs.foldl State.popQ s)

/-- A V form: its checks, then its effect. -/
def vecOp (i : Instr) (w : Nat) (extra : List Nat) (s : State) (f : State → Res) : Host.Outcome State Fault Refusal :=
  slotOp i s fun s => (vecPre i w extra s).bind f

/-- What a form writes in one lanegroup: the bytes (or predicate bits) written, their value, the flags set. -/
structure LaneOut where
  mask : Nat := 0
  val : Nat := 0
  flags : Nat := 0
  deriving DecidableEq, Repr

/-- The active elements of a lanegroup, each with its result and flags (R200, R201). -/
def laneOut (w pm : Nat) (f : Nat → Nat × Nat) : LaneOut :=
  let js := List.range (512 / w)
  let rs := js.map fun j => if elemActive w pm j then f j else (0, 0)
  { mask := ofElems (w / 8) (js.map fun j => if elemActive w pm j then ones (w / 8) else 0),
    val := ofElems w (rs.map (·.1)), flags := flAll (rs.map (·.2)) }

/-- A whole lanegroup written. -/
def wholeOut (val flags : Nat) : LaneOut := { mask := ones 64, val := val, flags := flags }

/-- The active elements of a predicate result: one bit a lane, both bits of a pair for a 64-bit element (R212). -/
def predOut (w pm : Nat) (f : Nat → Bool × Nat) : LaneOut :=
  let js := List.range (512 / w)
  let k := if w = 64 then 2 else 1
  let rs := js.map fun j => if elemActive w pm j then f j else (false, 0)
  { mask := ofElems k (js.map fun j => if elemActive w pm j then ones k else 0),
    val := ofElems k (rs.map fun r => if r.1 then ones k else 0), flags := flAll (rs.map (·.2)) }

/-- The results of the lanegroups of a mask as one pending write; `unit` is 64 for v (bytes) and 16 for p (lanes),
`wid` the bits of a lanegroup. -/
def postLanes (s : State) (kind : PendKind) (lat reg lgm unit wid : Nat) (f : Nat → LaneOut) : State :=
  let gs := (List.range 8).map fun g => if bit lgm g then f g else {}
  s.post lat { kind := kind, reg := reg, lgm := lgm, due := 0,
               mask := BitVec.ofNat 512 (ofElems unit (gs.map (·.mask))),
               value := BitVec.ofNat 4096 (ofElems wid (gs.map (·.val))), flags := flAll (gs.map (·.flags)) }

/-- A pending v result and a pending p result, by name. -/
def postV (s : State) (lat d lgm : Nat) (f : Nat → LaneOut) : State := postLanes s .v lat (s.me.vIdx d) lgm 64 512 f
def postP (s : State) (lat d lgm : Nat) (f : Nat → LaneOut) : State := postLanes s .p lat (s.me.pIdx d) lgm 16 16 f

/-- A form that writes its active elements from the state at issue: `f st g j` gives element `j` of lanegroup `g`. -/
def vecElem (i : Instr) (h : VHead) (lat : Nat) (f : Strand → Nat → Nat → Nat × Nat) (s : State) :
    Host.Outcome State Fault Refusal :=
  vecOp i h.ty.width [] s fun s =>
    .ok (postV s lat h.d h.lgm fun g => laneOut h.ty.width (s.me.pGet h.pr g) (f s.me g))

/-- The same for a predicate result. -/
def vecPred (i : Instr) (h : VHead) (lat : Nat) (f : Strand → Nat → Nat → Bool × Nat) (s : State) :
    Host.Outcome State Fault Refusal :=
  vecOp i h.ty.width [] s fun s =>
    .ok (postP s lat h.d h.lgm fun g => predOut h.ty.width (s.me.pGet h.pr g) (f s.me g))

/-- Element `j` of a source in a lanegroup. -/
def srcElem (st : Strand) (ty : ElemType) (r g j : Nat) : Nat := elem ty.width (vsrc st r g) j

/-! ### Floating point (R209 to R217) -/

/-- The format of a type, .f32 for types that no floating form accepts. -/
def fmtOf (t : ElemType) : FFmt := (floatFmt t).getD fmtF32

/-- A source element as an operand value under FMT.FTZ (R81). -/
def opVal (st : Strand) (ty : ElemType) (r g j : Nat) : FVal := readF (fmtOf ty) st.ftz (srcElem st ty r g j)

/-- Two-operand arithmetic under `mode()` (R209). -/
def fBin (i : Instr) (h : VHead) (b : Nat) (f : FFmt → RMode → Bool → FVal → FVal → Nat × Nat) (s : State) :
    Host.Outcome State Fault Refusal :=
  vecElem i h 4 (fun st g j =>
    let m := fmtOf h.ty
    f m st.rm (ftzOf m st.ftz) (opVal st h.ty h.a g j) (opVal st h.ty b g j)) s

/-- Three-operand arithmetic under `mode()` (R209). -/
def fTer (i : Instr) (h : VHead) (b c : Nat) (f : FFmt → RMode → Bool → FVal → FVal → FVal → Nat × Nat) (s : State) :
    Host.Outcome State Fault Refusal :=
  vecElem i h 4 (fun st g j =>
    let m := fmtOf h.ty
    f m st.rm (ftzOf m st.ftz) (opVal st h.ty h.a g j) (opVal st h.ty b g j) (opVal st h.ty c g j)) s

/-- A form on the patterns of A (R210, R213 to R217). -/
def fUn (i : Instr) (h : VHead) (lat : Nat) (f : Strand → FFmt → Nat → Nat × Nat) (s : State) :
    Host.Outcome State Fault Refusal :=
  vecElem i h lat (fun st g j => f st (fmtOf h.ty) (srcElem st h.ty h.a g j)) s

/-- A form on the patterns of A and B. -/
def fPat (i : Instr) (h : VHead) (b : Nat) (f : Strand → FFmt → Nat → Nat → Nat × Nat) (s : State) :
    Host.Outcome State Fault Refusal :=
  vecElem i h 4 (fun st g j => f st (fmtOf h.ty) (srcElem st h.ty h.a g j) (srcElem st h.ty b g j)) s

def execFadd (h : VHead) (b : Nat) (s : State) := fBin (.fadd h b) h b addF s
def execFsub (h : VHead) (b : Nat) (s : State) := fBin (.fsub h b) h b (fun f m z x y => addF f m z x y.flip) s
def execFmul (h : VHead) (b : Nat) (s : State) := fBin (.fmul h b) h b mulF s
def execFma (h : VHead) (b c : Nat) (s : State) := fTer (.fma h b c) h b c fmaF s
def execFms (h : VHead) (b c : Nat) (s : State) :=
  fTer (.fms h b c) h b c (fun f m z x y v => fmaF f m z x y v.flip) s
def execFnma (h : VHead) (b c : Nat) (s : State) :=
  fTer (.fnma h b c) h b c (fun f m z x y v => fmaF f m z x.flip y v) s
def execFmin (h : VHead) (b : Nat) (s : State) := fPat (.fmin h b) h b (fun st f p q => minF f st.ftz p q) s
def execFmax (h : VHead) (b : Nat) (s : State) := fPat (.fmax h b) h b (fun st f p q => maxF f st.ftz p q) s

/-- The sign bit of a pattern cleared, inverted, or taken from another (R210). -/
def magOf (f : FFmt) (p : Nat) : Nat := p % 2 ^ (f.width - 1)
def signOf (f : FFmt) (p : Nat) : Bool := bit p (f.width - 1)

def execFabs (h : VHead) (s : State) := fUn (.fabs h) h 4 (fun _ f p => (magOf f p, 0)) s
def execFneg (h : VHead) (s : State) := fUn (.fneg h) h 4 (fun _ f p => (withSign f (!signOf f p) (magOf f p), 0)) s
def execFcpys (h : VHead) (b : Nat) (s : State) :=
  fPat (.fcpys h b) h b (fun _ f p q => (withSign f (signOf f q) (magOf f p), 0)) s

def execFcmp (cc : FCond) (h : VHead) (b : Nat) (s : State) : Host.Outcome State Fault Refusal :=
  vecPred (.fcmp cc h b) h 4
    (fun st g j => cmpF (fmtOf h.ty) st.ftz cc (srcElem st h.ty h.a g j) (srcElem st h.ty b g j)) s
def execFclass (h : VHead) (classes : Nat) (s : State) : Host.Outcome State Fault Refusal :=
  vecPred (.fclass h classes) h 4 (fun st g j => (bit classes (classF (fmtOf h.ty) (srcElem st h.ty h.a g j)), 0)) s

def execFrecpe (h : VHead) (s : State) := fUn (.frecpe h) h 6 (fun st f p => seedF f st.ftz false p) s
def execFrsqe (h : VHead) (s : State) := fUn (.frsqe h) h 6 (fun st f p => seedF f st.ftz true p) s
def execFscale (h : VHead) (b : Nat) (s : State) :=
  fPat (.fscale h b) h b (fun st f p q => scaleF f st.rm st.ftz p (sx f.width q)) s
def execFscaleI (h : VHead) (imm : Nat) (s : State) :=
  fUn (.fscaleI h imm) h 4 (fun st f p => scaleF f st.rm st.ftz p (sx 16 imm)) s

/-- The mode of `fround` (R143, R217). -/
def roundSel (st : Strand) : RoundSel → RMode
  | .rn => .rne
  | .rz => .rz
  | .rp => .rp
  | .rm => .rm
  | .ra => .ra
  | .dyn => st.rmCvt

def execFround (md : RoundSel) (h : VHead) (s : State) :=
  fUn (.fround md h) h 4 (fun st f p => roundF f (roundSel st md) st.ftz p) s

/-! ### Conversions and quantisation (R218 to R222) -/

def execCvt (h : VHead) (sty : ElemType) (sat : Bool) (s : State) : Host.Outcome State Fault Refusal :=
  vecElem (.cvt h sty sat) h 4 (fun st g j =>
    if j < 512 / max h.ty.width sty.width then
      cvtElem h.ty sty st.rmCvt st.ftz (sat || st.sat) (srcElem st sty h.a g j)
    else (0, 0)) s

/-- The 32 source values of a block: A then B for .f32, A for 16-bit types (R220). -/
def blockSource (st : Strand) (sty : ElemType) (a b g : Nat) : List Nat :=
  if sty == .f32 then elems 32 (vsrc st a g) 16 ++ elems 32 (vsrc st b g) 16 else elems 16 (vsrc st a g) 32

def execMxq (h : VHead) (b c : Nat) (sty : ElemType) (s : State) : Host.Outcome State Fault Refusal :=
  vecOp (.mxq h b c sty) 32 [] s fun s =>
    let st := s.me
    let q := fun g => mxQuantBlock h.ty (fmtOf sty) st.ftz (blockSource st sty h.a b g)
    let s := postV s 4 h.d h.lgm fun g => wholeOut (ofElems h.ty.width (q g).1) (q g).2.2
    .ok (postV s 4 c h.lgm fun g => wholeOut (q g).2.1 0)

/-- Element `i` of a dequantised block (R221). -/
def mxBlockElem (st : Strand) (h : VHead) (b : Nat) (sty : ElemType) (g i : Nat) : Nat × Nat :=
  mxDequant sty (fmtOf h.ty) st.rmCvt st.ftz (vsrc st b g % 256) (elem sty.width (vsrc st h.a g) i)

/-- Several elements as a whole lanegroup. -/
def blockOut (w : Nat) (rs : List (Nat × Nat)) : LaneOut := wholeOut (ofElems w (rs.map (·.1))) (flAll (rs.map (·.2)))

def execMxdq (h : VHead) (b : Nat) (sty : ElemType) (s : State) : Host.Outcome State Fault Refusal :=
  vecOp (.mxdq h b sty) 32 [] s fun s =>
    let st := s.me
    let e := mxBlockElem st h b sty
    if h.ty == .f32 then
      let s := postV s 4 h.d h.lgm fun g => blockOut 32 ((List.range 16).map (e g))
      .ok (postV s 4 (h.d + 1) h.lgm fun g => blockOut 32 ((List.range 16).map fun i => e g (16 + i)))
    else .ok (postV s 4 h.d h.lgm fun g => blockOut 16 ((List.range 32).map (e g)))

def execBpq (h : VHead) (sty : ElemType) (s : State) : Host.Outcome State Fault Refusal :=
  vecOp (.bpq h sty) 32 [] s fun s =>
    let st := s.me
    .ok (postV s 4 h.d h.lgm fun g =>
      blockOut 8 ((elems sty.width (vsrc st h.a g) (512 / sty.width)).map
        (bpQuant h.ty.width (fmtOf sty) st.ftz)))

/-! ### Integers (R223 to R225) -/

/-- Delivery of an exact result: the low bits, or saturated with SA (R82). -/
def deliverInt (ty : ElemType) (sat : Bool) (v : Int) : Nat × Nat :=
  if sat then
    let c := clampTo v (intMin ty.isSigned ty.width) (intMax ty.isSigned ty.width)
    (low c.1 ty.width, if c.2 then flSA else 0)
  else (low v ty.width, 0)

/-- in(v) of a source element (R223). -/
def intElem (st : Strand) (ty : ElemType) (r g j : Nat) : Int := inInt ty.isSigned ty.width (srcElem st ty r g j)

/-- A V-R integer form. -/
def iBin (i : Instr) (h : VHead) (b : Nat) (sat : Bool) (f : Int → Int → Int) (s : State) :
    Host.Outcome State Fault Refusal :=
  vecElem i h 2 (fun st g j => deliverInt h.ty sat (f (intElem st h.ty h.a g j) (intElem st h.ty b g j))) s

/-- A V-I integer form: b is the sign-extended immediate. -/
def iImm (i : Instr) (h : VHead) (imm : Nat) (f : Int → Int → Int) (s : State) : Host.Outcome State Fault Refusal :=
  vecElem i h 2 (fun st g j => deliverInt h.ty false (f (intElem st h.ty h.a g j) (sx 16 imm))) s

/-- A bitwise operation on the patterns of N bits. -/
def patOp (ty : ElemType) (f : Nat → Nat → Nat) (a b : Int) : Int := f (low a ty.width) (low b ty.width)

def execIadd (h : VHead) (b : Nat) (s : State) := iBin (.iadd h b) h b false (· + ·) s
def execIaddI (h : VHead) (imm : Nat) (s : State) := iImm (.iaddI h imm) h imm (· + ·) s
def execIsub (h : VHead) (b : Nat) (s : State) := iBin (.isub h b) h b false (· - ·) s
def execIsubI (h : VHead) (imm : Nat) (s : State) := iImm (.isubI h imm) h imm (· - ·) s
def execImul (h : VHead) (b : Nat) (sat : Bool) (s : State) := iBin (.imul h b sat) h b sat (· * ·) s
def execImad (h : VHead) (b c : Nat) (sat : Bool) (s : State) : Host.Outcome State Fault Refusal :=
  vecElem (.imad h b c sat) h 2 (fun st g j => deliverInt h.ty sat
    (intElem st h.ty h.a g j * intElem st h.ty b g j + intElem st h.ty c g j)) s
def execIadds (h : VHead) (b : Nat) (s : State) := iBin (.iadds h b) h b true (· + ·) s
def execIsubs (h : VHead) (b : Nat) (s : State) := iBin (.isubs h b) h b true (· - ·) s
def execIand (h : VHead) (b : Nat) (s : State) := iBin (.iand h b) h b false (patOp h.ty (· &&& ·)) s
def execIandI (h : VHead) (imm : Nat) (s : State) := iImm (.iandI h imm) h imm (patOp h.ty (· &&& ·)) s
def execIor (h : VHead) (b : Nat) (s : State) := iBin (.ior h b) h b false (patOp h.ty (· ||| ·)) s
def execIorI (h : VHead) (imm : Nat) (s : State) := iImm (.iorI h imm) h imm (patOp h.ty (· ||| ·)) s
def execIxor (h : VHead) (b : Nat) (s : State) := iBin (.ixor h b) h b false (patOp h.ty (· ^^^ ·)) s
def execIxorI (h : VHead) (imm : Nat) (s : State) := iImm (.ixorI h imm) h imm (patOp h.ty (· ^^^ ·)) s

/-- Shifts by bits [7:0] of the amount (R224). -/
def shlInt (a amt : Int) : Int := a * (2 ^ (low amt 8) : Nat)
def shrInt (a amt : Int) : Int := a / (2 ^ (low amt 8) : Nat)

def execIshl (h : VHead) (b : Nat) (sat : Bool) (s : State) := iBin (.ishl h b sat) h b sat shlInt s
def execIshlI (h : VHead) (imm : Nat) (s : State) := iImm (.ishlI h imm) h imm shlInt s
def execIshr (h : VHead) (b : Nat) (s : State) := iBin (.ishr h b) h b false shrInt s
def execIshrI (h : VHead) (imm : Nat) (s : State) := iImm (.ishrI h imm) h imm shrInt s
def execImin (h : VHead) (b : Nat) (s : State) := iBin (.imin h b) h b false min s
def execIminI (h : VHead) (imm : Nat) (s : State) := iImm (.iminI h imm) h imm min s
def execImax (h : VHead) (b : Nat) (s : State) := iBin (.imax h b) h b false max s
def execImaxI (h : VHead) (imm : Nat) (s : State) := iImm (.imaxI h imm) h imm max s
def execIabs (h : VHead) (sat : Bool) (s : State) : Host.Outcome State Fault Refusal :=
  vecElem (.iabs h sat) h 2 (fun st g j => deliverInt h.ty sat ((intElem st h.ty h.a g j).natAbs : Int)) s
def execIcmp (cc : Cond) (h : VHead) (b : Nat) (s : State) : Host.Outcome State Fault Refusal :=
  vecPred (.icmp cc h b) h 2 (fun st g j => (Cond.holds cc (intElem st h.ty h.a g j) (intElem st h.ty b g j), 0)) s
def execIcmpI (cc : Cond) (h : VHead) (imm : Nat) (s : State) : Host.Outcome State Fault Refusal :=
  vecPred (.icmpI cc h imm) h 2 (fun st g j => (Cond.holds cc (intElem st h.ty h.a g j) (sx 16 imm), 0)) s
def execIpopc (h : VHead) (s : State) : Host.Outcome State Fault Refusal :=
  vecElem (.ipopc h) h 2 (fun st g j => (popCount (srcElem st h.ty h.a g j) h.ty.width, 0)) s

/-! ### Moves, permutes, lanes (R226 to R228) -/

def execVmov (h : VHead) (s : State) : Host.Outcome State Fault Refusal :=
  vecElem (.vmov h) h 2 (fun st g j => (srcElem st h.ty h.a g j, 0)) s
def execVmovi (lgm pr d : Nat) (ty : ElemType) (imm : Nat) (s : State) : Host.Outcome State Fault Refusal :=
  vecOp (.vmovi lgm pr d ty imm) ty.width [] s fun s =>
    .ok (postV s 2 d lgm fun g => laneOut ty.width (s.me.pGet pr g) fun _ => (imm % 2 ^ ty.width, 0))
def execVbcast (h : VHead) (s : State) : Host.Outcome State Fault Refusal :=
  vecElem (.vbcast h) h 2 (fun st _ _ => (st.xGet h.a % 2 ^ h.ty.width, 0)) s
def execVsel (h : VHead) (b c : Nat) (s : State) : Host.Outcome State Fault Refusal :=
  vecElem (.vsel h b c) h 2 (fun st g j =>
    (if elemActive h.ty.width (st.pGet c g) j then srcElem st h.ty h.a g j else srcElem st h.ty b g j, 0)) s
def execVperm (h : VHead) (b : Nat) (s : State) : Host.Outcome State Fault Refusal :=
  vecElem (.vperm h b) h 3 (fun st g j => (srcElem st h.ty h.a g (srcElem st h.ty b g j % (512 / h.ty.width)), 0)) s

/-- The element that a pattern moves to element `j`, of `n`; none for a zero (R227). -/
def shufFrom (kind amt n j : Nat) : Option Nat :=
  match kind with
  | 0 => some ((j + amt) % n)
  | 1 => if j + amt < n then some (j + amt) else none
  | 2 => if amt ≤ j then some (j - amt) else none
  | 3 => some (j ^^^ amt)
  | 4 => some (n - 1 - j)
  | 5 => some amt
  | 6 => some (if j < n / 2 then 2 * j else 2 * (j - n / 2) + 1)
  | _ => some (if j % 2 = 0 then j / 2 else (j - 1) / 2 + n / 2)

def execVshuf (h : VHead) (imm : Nat) (s : State) : Host.Outcome State Fault Refusal :=
  vecElem (.vshuf h imm) h 3 (fun st g j =>
    match shufFrom (imm % 16) (imm / 16) (512 / h.ty.width) j with
    | some k => (srcElem st h.ty h.a g k, 0)
    | none => (0, 0)) s

/-- The element of a type that holds a lane, or its pair (R228). -/
def laneElem (ty : ElemType) (lane : Nat) : Nat := 32 * lane / ty.width

def execVext (h : VHead) (lane : Nat) (s : State) : Host.Outcome State Fault Refusal :=
  vecOp (.vext h lane) h.ty.width [] s fun s =>
    let g := lowGroup h.lgm
    let j := laneElem h.ty lane
    if elemActive h.ty.width (s.me.pGet h.pr g) j then
      .ok (s.postX 2 h.d (low (intElem s.me h.ty h.a g j) 64))
    else .ok s
def execVins (h : VHead) (lane : Nat) (s : State) : Host.Outcome State Fault Refusal :=
  vecOp (.vins h lane) h.ty.width [] s fun s =>
    let g := lowGroup h.lgm
    let j := laneElem h.ty lane
    if elemActive h.ty.width (s.me.pGet h.pr g) j then
      .ok (postV s 2 h.d h.lgm fun _ =>
        { mask := ones (h.ty.width / 8) * 2 ^ (h.ty.width / 8 * j),
          val := s.me.xGet h.a % 2 ^ h.ty.width * 2 ^ (h.ty.width * j) })
    else .ok s

/-! ### The ring (R229, R230) -/

/-- Hops between two lanegroups, the shorter way (R71). -/
def ringDist (a b : Nat) : Nat := min ((a + 8 - b) % 8) ((b + 8 - a) % 8)

/-- A copy of A of one lanegroup to the lanegroups of the mask; a fifth copy in flight raises SCHEDVIOL, path 3. -/
def ringCopy (i : Instr) (h : VHead) (src : Nat) (s : State) : Host.Outcome State Fault Refusal :=
  vecOp i h.ty.width [src] s fun s =>
    let st := s.me
    if 4 ≤ (st.dbuf.filter (·.ring)).length then .trap cSCHEDVIOL 3
    else
      let far := ((groups h.lgm).map (ringDist src)).foldl max 0
      let t := postV s (2 + far) h.d h.lgm fun g =>
        laneOut h.ty.width (st.pGet h.pr g) fun j => (elem h.ty.width (st.vGet h.a src) j, 0)
      .ok (t.setMe { t.me with dbuf := t.me.dbuf.dropLast ++ (t.me.dbuf.getLast?.map fun p => { p with ring := true }).toList })

def execXcopy (h : VHead) (src : Nat) (s : State) := ringCopy (.xcopy h src) h src s
def execXbcast (h : VHead) (src : Nat) (s : State) := ringCopy (.xbcast h src) h src s

/-! ### Reductions (R102, R231) -/

/-- One level of the tree: neighbours combine. -/
def pairUp (f : Nat × Nat → Nat × Nat → Nat × Nat) : List (Nat × Nat) → List (Nat × Nat)
  | a :: b :: l => f a b :: pairUp f l
  | l => l

/-- The tree over 16 or 8 elements. -/
def treeReduce (f : Nat × Nat → Nat × Nat → Nat × Nat) (l : List (Nat × Nat)) : Nat × Nat :=
  ((pairUp f (pairUp f (pairUp f (pairUp f l)))).head?).getD (0, 0)

/-- A node: the result of two, with the flags of both. -/
def redNode (st : Strand) (op : RedOp) (ty : ElemType) (a b : Nat × Nat) : Nat × Nat :=
  let r := match floatFmt ty with
    | some f => (match op with
      | .sum => addF f st.rm (ftzOf f st.ftz) (readF f st.ftz a.1) (readF f st.ftz b.1)
      | .min => minF f st.ftz a.1 b.1
      | .max => maxF f st.ftz a.1 b.1)
    | none =>
      let x := inInt ty.isSigned ty.width a.1
      let y := inInt ty.isSigned ty.width b.1
      (match op with
      | .sum => (low (x + y) ty.width, 0)
      | .min => (low (min x y) ty.width, 0)
      | .max => (low (max x y) ty.width, 0))
  (r.1, flAll [a.2, b.2, r.2])

/-- What an inactive element contributes (R231). -/
def redNeutral (op : RedOp) (ty : ElemType) : Nat :=
  match floatFmt ty, op with
  | some f, .sum => withSign f true 0
  | some f, _ => f.qnan
  | none, .sum => 0
  | none, .min => low (intMax ty.isSigned ty.width) ty.width
  | none, .max => low (intMin ty.isSigned ty.width) ty.width

def execVred (op : RedOp) (h : VHead) (s : State) : Host.Outcome State Fault Refusal :=
  vecOp (.vred op h) h.ty.width [] s fun s =>
    let st := s.me
    let n := 512 / h.ty.width
    .ok (postV s 5 h.d h.lgm fun g =>
      let r := treeReduce (redNode st op h.ty) ((List.range n).map fun j =>
        (if elemActive h.ty.width (st.pGet h.pr g) j then srcElem st h.ty h.a g j else redNeutral op h.ty, 0))
      wholeOut (ofElems h.ty.width (List.replicate n r.1)) r.2)

/-! ### Predicates and votes (R232, R233) -/

/-- A lane-by-lane predicate form. -/
def predForm (i : Instr) (lgm pr d : Nat) (f : Strand → Nat → Nat) (s : State) : Host.Outcome State Fault Refusal :=
  vecOp i 32 [] s fun s => .ok (postP s 1 d lgm fun g => { mask := s.me.pGet pr g, val := f s.me g % 2 ^ 16 })

def execPand (lgm pr d a b : Nat) (s : State) :=
  predForm (.pand lgm pr d a b) lgm pr d (fun st g => st.pGet a g &&& st.pGet b g) s
def execPor (lgm pr d a b : Nat) (s : State) :=
  predForm (.por lgm pr d a b) lgm pr d (fun st g => st.pGet a g ||| st.pGet b g) s
def execPxor (lgm pr d a b : Nat) (s : State) :=
  predForm (.pxor lgm pr d a b) lgm pr d (fun st g => st.pGet a g ^^^ st.pGet b g) s
def execPnot (lgm pr d a : Nat) (s : State) :=
  predForm (.pnot lgm pr d a) lgm pr d (fun st g => ones 16 - st.pGet a g) s
def execPmov (lgm pr d a : Nat) (s : State) := predForm (.pmov lgm pr d a) lgm pr d (fun st g => st.pGet a g) s

/-- Lanes of a mask in which PR and A are true, and in which PR alone is. -/
def voteCount (st : Strand) (lgm pr a : Nat) : Nat :=
  ((groups lgm).map fun g => popCount (st.pGet pr g &&& st.pGet a g) 16).sum
def voteLanes (st : Strand) (lgm pr : Nat) : Nat := ((groups lgm).map fun g => popCount (st.pGet pr g) 16).sum

def execVany (lgm pr d a : Nat) (s : State) : Host.Outcome State Fault Refusal :=
  vecOp (.vany lgm pr d a) 32 [] s fun s => .ok (s.postC 2 d (decide (0 < voteCount s.me lgm pr a)))
def execVall (lgm pr d a : Nat) (s : State) : Host.Outcome State Fault Refusal :=
  vecOp (.vall lgm pr d a) 32 [] s fun s => .ok (s.postC 2 d (voteCount s.me lgm pr a == voteLanes s.me lgm pr))
def execPcnt (lgm pr d a : Nat) (s : State) : Host.Outcome State Fault Refusal :=
  vecOp (.pcnt lgm pr d a) 32 [] s fun s => .ok (s.postX 1 d (voteCount s.me lgm pr a))

/-! ### Accumulator lines (R234 to R239) -/

/-- Rows of `acc` that an issued call not yet joined reads or writes (R239, R244). -/
def Core.busyRow (c : Core) (r : Nat) : Bool := c.calls.any fun m => m.busy.contains r

/-- An `acc` form on a line: a busy row raises SCHEDVIOL, path 0 (R239). -/
def accOp (i : Instr) (w : Nat) (dir : AccDir) (idx lgm : Nat) (s : State) (f : State → Res) :
    Host.Outcome State Fault Refusal :=
  vecOp i w [] s fun s =>
    if (accRows dir idx lgm).any s.myCore.busyRow then .trap cSCHEDVIOL 0 else f s

/-- The pattern of element `e` of a line. -/
def lineElem (c : Core) (dir : AccDir) (idx e : Nat) : Nat := c.accGet (accPlace dir idx e).1 (accPlace dir idx e).2

/-- A pending write of an `acc` line. -/
def postLine (s : State) (lat lgm : Nat) (dir : AccDir) (idx : Nat) (f : Nat → LaneOut) : State :=
  let t := postLanes s .acc lat 0 lgm 64 512 f
  t.setMe { t.me with dbuf := t.me.dbuf.dropLast ++
    (t.me.dbuf.getLast?.map fun p => { p with dir := dir, idx := idx }).toList }

def execAccrd (lgm pr v : Nat) (dir : AccDir) (idx : Nat) (ty : ElemType) (s : State) :
    Host.Outcome State Fault Refusal :=
  accOp (.accrd lgm pr v dir idx ty) ty.width dir idx lgm s fun s =>
    .ok (postV s 3 v lgm fun g =>
      let bits := ofElems 32 ((List.range 16).map fun l => lineElem s.myCore dir idx (16 * g + l))
      laneOut ty.width (s.me.pGet pr g) fun j => (elem ty.width bits j, 0))
def execAccwr (lgm pr v : Nat) (dir : AccDir) (idx : Nat) (ty : ElemType) (s : State) :
    Host.Outcome State Fault Refusal :=
  accOp (.accwr lgm pr v dir idx ty) ty.width dir idx lgm s fun s =>
    .ok (postLine s 2 lgm dir idx fun g =>
      laneOut ty.width (s.me.pGet pr g) fun j => (elem ty.width (s.me.vGet v g) j, 0))
def execAccclr (lgm pr : Nat) (dir : AccDir) (idx : Nat) (all : Bool) (s : State) :
    Host.Outcome State Fault Refusal :=
  if all then
    vecOp (.accclr lgm pr dir idx all) 32 [] s fun s =>
      if (List.range 128).any s.myCore.busyRow then .trap cSCHEDVIOL 0
      else .ok (s.post 2 { kind := .accAll, reg := 0, lgm := 255, due := 0 })
  else
    accOp (.accclr lgm pr dir idx all) 32 dir idx lgm s fun s =>
      .ok (postLine s 2 lgm dir idx fun g => laneOut 32 (s.me.pGet pr g) fun _ => (0, 0))
def execAcccvt (lgm pr : Nat) (dir : AccDir) (idx : Nat) (ty sty : ElemType) (s : State) :
    Host.Outcome State Fault Refusal :=
  accOp (.acccvt lgm pr dir idx ty sty) 32 dir idx lgm s fun s =>
    .ok (postLine s 4 lgm dir idx fun g => laneOut 32 (s.me.pGet pr g) fun l =>
      cvtElem ty sty s.me.rmCvt s.me.ftz s.me.sat (lineElem s.myCore dir idx (16 * g + l)))

end Sys2Proof.Machine
end

