-- ==== Sys2Proof/Machine/Matrix.lean ====
section
/-! DEFINITION. Matrix calls (R240 to R249), the sequencer's micro-operations (R250 to R260), the grade of a pass and
its detections, clamps and checksum (R104 to R127), and the join of calls (R243, R247). -/

namespace Sys2Proof.Machine

/-! ### Call parameters and calls (R240 to R245) -/

def execMset (mp x : Nat) (s : State) : Host.Outcome State Fault Refusal :=
  slotOp (.mset mp x) s fun s =>
    .ok (s.post 1 { kind := .mp, reg := mp, due := 0, value := BitVec.ofNat 4096 (s.me.xGet x) })
def execMseti (mp imm : Nat) (s : State) : Host.Outcome State Fault Refusal :=
  slotOp (.mseti mp imm) s fun s =>
    .ok (s.post 1 { kind := .mp, reg := mp, due := 0, value := BitVec.ofNat 4096 (low (sx 32 imm) 64) })

/-- Fields of a descriptor (R250). -/
def dH (d : Nat) : Nat := d % 256
def dRow (d : Nat) : Nat := field d 8 12
def dCol (d : Nat) : Nat := field d 20 12
def dTy (d : Nat) : Option ElemType := ElemType.ofCode (field d 32 5)
def dAr (d : Nat) : Nat := field d 37 7
def dMram (d : Nat) : Bool := bit d 63
def dMramTy (d : Nat) : Option ElemType := ElemType.ofCode (field d 0 5)
def dMramAddr (d : Nat) : Nat := field d 6 46 * 64

/-- Rows from `a` up, `n` of them, below 128; with `wide` those 64 further too. -/
def rowRun (a n : Nat) (wide : Bool) : List Nat :=
  let l := (List.range n).map (a + ·)
  (l ++ if wide then l.map (· + 64) else []).filter fun r => decide (r < 128)

/-- The busy set of a routine with captured parameters (R245); an `accz` with no `aload` before it counts from row 0 (log 15). -/
def busySet (ops : List Instr) (mp : List Nat) : List Nat :=
  let v := fun r => (mp[r]?).getD 0
  let big := ops.foldl (fun m i => match i with
    | .aload _ n => max m n
    | _ => m) 0
  (ops.foldl (fun (acc : List Nat × Nat) i => match i with
    | .aload ma n => (acc.1 ++ rowRun (dAr (v ma)) n (dTy (v ma) == some .f64), dAr (v ma))
    | .accz n => (acc.1 ++ rowRun acc.2 n false, acc.2)
    | .drain ma n8 => (acc.1 ++ rowRun (dAr (v ma)) big (n8 % 4 == 2), acc.2)
    | _ => acc) ([], 0)).1

/-- Rows of `acc` that a pending V-slot write of the strand covers (R242). -/
def Pending.accRows (p : Pending) : List Nat :=
  match p.kind with
  | .acc => Machine.accRows p.dir p.idx p.lgm
  | .accAll => List.range 128
  | _ => []

def execMcall (idx : Nat) (s : State) : Host.Outcome State Fault Refusal :=
  slotOp (.mcall idx) s fun s =>
    let st := s.me
    let core := s.myCore
    let mp := (List.range 8).map fun r => if st.mpOk r then st.mpGet r else 0
    let ctl := st.mpGet 7
    let busy := busySet (core.routineOps idx) mp
    if 4 ≤ core.calls.length || st.dbuf.any fun p => p.accRows.any busy.contains then .trap cSCHEDVIOL 0
    else
      let m : MCall := { sid := s.cur, idx := idx, mp := mp, fmt := st.fmt.toNat,
                         grade := min (field st.carat.toNat 0 2) (field ctl 0 2), rpl := bit ctl 2, busy := busy,
                         seq := st.seq }
      .ok (s.setMyCore { core with calls := core.calls ++ [m] })

/-- The call that the sequencer runs. -/
def Core.running (c : Core) : Option MCall := if c.seqr.running then c.calls.find? fun m => m.started && !m.ended else none

/-- Batches of the transpose unit that are closed and not retired (R248). -/
def Core.closedBatches (c : Core) : Nat := c.trClosed.length

def execMstat (x : Nat) (s : State) : Host.Outcome State Fault Refusal :=
  slotOp (.mstat x) s fun s =>
    let c := s.myCore
    let run := match c.running with
      | some m => 2 ^ 3 + 2 ^ 4 * m.idx + 2 ^ 10 * (c.seqr.upc % 512) + 2 ^ 19 * ofBit c.seqr.railWait
      | none => 0
    .ok (s.postX 1 x (min c.calls.length 4 + run + 2 ^ 20 * min c.rowq.length 4 + 2 ^ 23 * min c.closedBatches 2))
def execMchk (c : Nat) (s : State) : Host.Outcome State Fault Refusal :=
  slotOp (.mchk c) s fun s => .ok (s.postC 1 c (s.myCore.calls.all (·.ended)))

/-! ### Joins (R118, R126, R243, R247) -/

/-- The record that a join raises: the lowest cause; for CHECKSUM the largest residual, else the earliest call's. Among equal
residuals the earliest record is named, which the manual leaves open (log 31). -/
def joinRecord (calls : List MCall) : Option Deferred :=
  let recs := calls.flatMap (·.faults)
  match recs with
  | [] => none
  | r :: rs =>
    let cause := rs.foldl (fun c f => min c f.cause) r.cause
    let same := recs.filter (·.cause == cause)
    if cause = cCHECKSUM then
      same.foldl (fun best f => match best with
        | some b => if b.rho < f.rho then some f else some b
        | none => some f) none
    else same.head?

/-- Calls issued up to a bundle are joined: a deferred fault, or their credits and flags (R243). -/
def joinCalls (s : State) (upto : Nat) : Res :=
  let core := s.myCore
  let joined := core.calls.filter fun m => m.sid == s.cur && decide (m.seq ≤ upto)
  match joinRecord joined with
  | some f => .deferred f.cause f.info upto
  | none =>
    let cr := joined.foldl (fun c m => c.add m.credits) {}
    let fl := flAll (joined.map (·.flags))
    let s := s.setMyCore { core with calls := core.calls.filter fun m => !(m.sid == s.cur && decide (m.seq ≤ upto)) }
    let s := s.setMe (s.me.credit cr)
    .ok (if fl = 0 then s else s.post 1 { kind := .flags, reg := 0, due := 0, flags := fl, arrived := true })

/-! ### The sequencer's frame (R254) -/

/-- What a micro-operation comes to: the next word, another word, a deferred fault that ends the call, a wait. -/
inductive MicroRes where
  | next (s : State)
  | jump (s : State) (upc : Nat)
  | fault (s : State) (cause info : Nat)
  | stay (s : State)
  deriving DecidableEq, Repr

def State.seqr (s : State) : Sequencer := s.myCore.seqr
def State.setSeqr (s : State) (q : Sequencer) : State := s.setMyCore { s.myCore with seqr := q }
/-- The running call changed. -/
def State.onCall (s : State) (f : MCall → MCall) : State :=
  let c := s.myCore
  s.setMyCore { c with calls := c.calls.map fun m => if m.started && !m.ended then f m else m }

/-- TINFO of a descriptor fault, and of a configuration fault (R247). -/
def descInfo (h : Nat) : Nat := 2 ^ 64 - 256 + h % 256
def configInfo : Nat := 2 ^ 64 - 256

/-- A micro-operation of the call that runs on the core of `cur`; with no call running, or one that waits for its
rails, nothing happens. -/
def microOp (s : State) (f : MCall → State → MicroRes) : Host.Outcome State Fault Refusal :=
  match s.myCore.running with
  | none => .next s
  | some m =>
    if s.seqr.railWait then .next s else
    match f m s with
    | .next t => .next (t.setSeqr { t.seqr with upc := s.seqr.upc + 1 })
    | .jump t u => .next (t.setSeqr { t.seqr with upc := u })
    | .fault t c i =>
      let t := t.onCall fun m => { m with faults := m.faults ++ [{ cause := c, info := i }] }
      .next (t.setSeqr { t.seqr with running := false })
    | .stay t => .next t

/-- A captured parameter. -/
def MCall.param (m : MCall) (r : Nat) : Nat := (m.mp[r]?).getD 0

/-- The tile of a descriptor at a level on the owner's core, with the type that the descriptor names. -/
def descTile (s : State) (d : Nat) (level : TileLevel) : Option Tile :=
  match SMap.find s.myCluster.tiles (dH d) with
  | some t => if t.level == level && t.core == localCore s.cur && dTy d == some t.ety then some t else none
  | none => none

def execAload (ma n16 : Nat) (s : State) : Host.Outcome State Fault Refusal :=
  microOp s fun m s =>
    let d := m.param ma
    match descTile s d .loc with
    | some t =>
      if dMram d || t.rows ≤ dRow d || (if t.ety == .f64 then 64 else 128) < dAr d + n16 then
        .fault s cHANDLE (descInfo (dH d))
      else .next (s.setSeqr { s.seqr with a := some d, m := n16 })
    | none => .fault s cHANDLE (descInfo (dH d))

/-- Types that an MRAM descriptor takes (R250). -/
def mramType (t : ElemType) : Bool := t == .s8 || t == .n8 || t.isBp

def execBsel (ma : Nat) (s : State) : Host.Outcome State Fault Refusal :=
  microOp s fun m s =>
    let d := m.param ma
    let take := MicroRes.next (s.setSeqr { s.seqr with b := some d, kappa := 0 })
    if dMram d then
      if (dMramTy d).any mramType then take else .fault s cHANDLE (descInfo (dH d))
    else match descTile s d .bstack with
      | some t =>
        if t.cols ≤ dCol d then .fault s cHANDLE (descInfo (dH d))
        else if t.poisoned then .fault s cPOISON (2 ^ 63 + dH d)
        else take
      | none => .fault s cHANDLE (descInfo (dH d))

def execPlanes (n8 : Nat) (s : State) : Host.Outcome State Fault Refusal :=
  microOp s fun _ s => .next (s.setSeqr { s.seqr with pl := n8 })
def execLimb (n8 : Nat) (s : State) : Host.Outcome State Fault Refusal :=
  microOp s fun _ s => .next (s.setSeqr { s.seqr with lj := field n8 0 3, lk := field n8 3 3 })

/-! ### Operands of a pass -/

/-- An operand type of a matrix pass, by its code: what pairings there are (R252). -/
def passMode (a b : ElemType) : Option Nat :=
  let int := fun t : ElemType => t == .s8 || t == .n8
  let small := fun t : ElemType => t == .bf16 || t == .f16 || t == .e4m3 || t == .e5m2 || t.isMx
  if int a && (int b || b.isBp) then some 0
  else if small a && small b then some 1
  else if a == .f32 && b == .f32 then some 2
  else if a == .f64 && b == .f64 then some 3
  else none

/-- Limbs of a pass type (R96). -/
def limbCount (mode : Nat) : Nat := if mode = 2 then 3 else if mode = 3 then 7 else 1

/-- A bit of a core's B-stack. -/
def Core.bBit (c : Core) (byte k : Nat) : Bool := bit (c.bLine (byte / 64)) (8 * (byte % 64) + k)

/-- The strip bits of element (k, n) of a BSTACK tile (R253). -/
def Core.bStrip (c : Core) (t : Tile) (k n s : Nat) : Bool :=
  c.bBit (64 * t.base + t.pitch * k + 16 * s + n / 8) (n % 8)

/-- Element (k, n) of a BSTACK tile, 0 outside its shape, and its MX scale. -/
def Core.bElem (c : Core) (t : Tile) (k n : Nat) : Nat :=
  if t.rows ≤ k || t.cols ≤ n then 0 else stripPattern t.ety (c.bStrip t k n)
def Core.bScale (c : Core) (t : Tile) (k n : Nat) : Nat :=
  if !t.ety.isMx || t.rows ≤ k || t.cols ≤ n then 127 else
    let a := 64 * t.base + t.pitch * t.rows + 128 * (k / 32) + n
    field (c.bLine (a / 64)) (8 * (a % 64)) 8

/-- The MX scale of element (r, j) of a LOCAL tile. -/
def Core.tileScale (c : Core) (t : Tile) (r j : Nat) : Nat :=
  if !t.ety.isMx || t.rows ≤ r || t.cols ≤ j then 127 else c.spBits (t.scaleAt + 8 * (r * t.rowBlocks + j / 32)) 8

/-- What a weight block of MRAM comes to: its bytes, a fault, or a wait for its page (R250). -/
inductive BlockRead where
  | bytes (bs : List Byte)
  | fault (cause info : Nat)
  | wait (s : State)
  deriving DecidableEq, Repr

/-- Bytes of a block of 64 rows (R253). -/
def blockBytes (ty : ElemType) : Nat := 64 * stripBytes ty

/-- Does a range lie in one weight page, copied or not (R250, R447)? -/
def Ctx.inWeightPage (c : Ctx) (va len : Nat) : Bool :=
  match c.leaf va, c.leaf (va + len - 1) with
  | some (p, e), some (q, _) => p == q && (pteState e == pgWeight || pteState e == pgPoisoned || pteState e == pgNonres || pteState e == pgMigrating)
  | _, _ => false

/-- A weight block read at the launch's bound version; it lies wholly in one weight page of the owner's own slice (R250). -/
def readBlock (s : State) (ty : ElemType) (va : Nat) : BlockRead :=
  let st := s.me
  let c := s.ctx st.ctx
  let own := fun pa => match mramSlice pa with
    | some (k, off) => k == coreOf s.cur && decide (off < 0xF800000)
    | none => false
  if !c.inWeightPage va (blockBytes ty) then .fault cPERM va else
  (cutLines va (blockBytes ty)).foldl (fun r l => match r with
    | .bytes bs =>
      match s.transFor s.cur l.1 false with
      | .denied => .fault cPERM va
      | .park => .wait ((s.park (dieOf s.cur) st.ctx l.1 false st.launch).getD s)
      | .ok pa bad _ =>
        if !own pa then .fault cPERM va
        else
          let (b, q) := s.readLine (Reader.of s.cur s.tick) c.keyId pa l.2.1
          if bad || q then .fault cPOISON (l.1 / 64 * 64) else .bytes (bs ++ b)
    | r => r) (.bytes [])

/-- A bit of a block's bytes. -/
def blockBit (ty : ElemType) (bs : List Byte) (kk n st : Nat) : Bool :=
  bit ((bs[stripBytes ty * kk + 16 * st + n / 8]?).getD 0).toNat (n % 8)

/-! ### Checksum counts (R124) -/

/-- The signed plane count of a strip of a tile row, over the tile's columns. -/
def Core.planeCount (c : Core) (t : Tile) (k st : Nat) : Int := countOf t.ety t.cols (c.bStrip t k) st

/-- Key of a strip's count: its place in the B-stack in strips of 16 bytes. -/
def stripKey (t : Tile) (k st : Nat) : Nat := 4 * t.base + t.pitch / 16 * k + st

/-- The counts of some rows formed and held with the tile. -/
def Core.formCounts (c : Core) (t : Tile) (r0 n : Nat) : Core :=
  let keys := (List.range n).flatMap fun i => (countedStrips t.ety).map fun st => (r0 + i, st)
  { c with counts := keys.foldl (fun m e =>
      if e.1 < t.rows then SMap.put m (stripKey t e.1 e.2) (c.planeCount t e.1 e.2) 0 else m) c.counts }

/-- What a call may read of its core (R246, R255): as the lines now stand, and as they stood before other agents wrote them, and before its
own drains since the last `msync` (R246, R255). -/
def MCall.views (m : MCall) (c : Core) : Core × Core := (c, (c.withLines (m.touched ++ m.unsynced)).withBLines m.touchedB)

/-- The weight source of a pass: its type, the pattern of element (kk, n) of its K-block, the scale, the count held for a strip
of row kk, and the count of the bits as they stand. -/
structure BSource where
  ty : ElemType
  elem : Nat → Nat → Nat
  scale : Nat → Nat → Nat
  held : Nat → Nat → Int
  now : Nat → Nat → Int

/-- A weight block as it streams in: its counts are formed as it arrives, and held for its passes (R124, R256). -/
def streamedSource (ty : ElemType) (bs : List Byte) : BSource :=
  let count := fun kk st => countOf ty 128 (blockBit ty bs kk) st
  { ty := ty, elem := fun kk n => stripPattern ty (blockBit ty bs kk n), scale := fun _ _ => 127, held := count, now := count }

/-- The rows of a tile from row `r0` and its columns from `c0`, with the counts held with the tile. -/
def tileSource (views : Core × Core) (key : Nat) (t : Tile) (r0 c0 : Nat) : BSource :=
  { ty := t.ety
    elem := fun kk n => raced (key + 128 * kk + n) (views.2.bElem t (r0 + kk) (c0 + n)) (views.1.bElem t (r0 + kk) (c0 + n))
    scale := fun kk n => raced (key + 128 * kk + n) (views.2.bScale t (r0 + kk) (c0 + n)) (views.1.bScale t (r0 + kk) (c0 + n))
    held := fun kk st => if r0 + kk < t.rows then SMap.get views.1.counts (stripKey t (r0 + kk) st) 0 else 0
    now := fun kk st => if r0 + kk < t.rows then views.1.planeCount t (r0 + kk) st else 0 }

/-- The activation of row `i` and depth `kk` of a pass (R256); one that another agent touched is old or new (R246). -/
def passAct (views : Core × Core) (tick : Nat) (t : Tile) (d kappa i kk : Nat) : FVal :=
  let r := dRow d + i
  let j := dCol d + 64 * kappa + kk
  let act := fun (c : Core) =>
    if t.rows ≤ r || t.cols ≤ j then FVal.fin false 0 0 else activationOf t.ety (c.tileScale t r j) (c.tileElem t r j)
  raced ((tick * 128 + i) * 64 + kk) (act views.2) (act views.1)

/-- The operands of a pass, or why it cannot run (R251, R252, R256). -/
inductive Operands where
  | ok (ta : Tile) (da : Nat) (b : BSource) (mode : Nat)
  | fault (cause info : Nat)
  | wait (s : State)

/-- Is any line of a tile's rows that the pass reads poisoned, or a scale byte of its blocks bad (R247, R286, R494)? -/
def actPoison (c : Core) (t : Tile) (d kappa m : Nat) : Bool :=
  (List.range m).any fun i =>
    let r := dRow d + i
    let lo := dCol d + 64 * kappa
    decide (r < t.rows) && decide (lo < t.cols) &&
      let hi := min (lo + 64) t.cols
      (((bitLines (t.rowAt r + lo * t.ety.width) ((hi - lo) * t.ety.width)).any fun l => c.spPoison.contains l) ||
        (t.ety.isMx && (List.range 3).any fun i =>
          decide (32 * (lo / 32 + i) < hi) && c.badScale (t.scaleAt + 8 * (r * t.rowBlocks + lo / 32 + i)) 8))

/-- Does the K-block of a BSTACK tile that the pass reads hold a poisoned line or a bad scale byte (R247, R493, R494)? -/
def weightPoison (c : Core) (t : Tile) (r0 c0 : Nat) : Bool :=
  (List.range 64).any fun i =>
    let r := r0 + i
    decide (r < t.rows) && (c.stackBad (64 * t.base + t.pitch * r) t.pitch ||
      (t.ety.isMx && decide (r % 32 = 0 || i = 0) && c.stackBad (64 * t.base + t.pitch * t.rows + 128 * (r / 32) + c0) (t.cols - c0)))

def passOperands (s : State) (m : MCall) (q : Sequencer) : Operands :=
  let c := s.myCore
  match q.a, q.b with
  | some da, some db =>
    match SMap.find s.myCluster.tiles (dH da) with
    | none => .fault cHANDLE (descInfo (dH da))
    | some ta =>
      let tyB := if dMram db then dMramTy db else dTy db
      match tyB with
      | none => .fault cHANDLE configInfo
      | some tb =>
        match passMode ta.ety tb with
        | none => .fault cHANDLE configInfo
        | some mode =>
          if (tb.isBp && decide (tb.width < q.pl)) || decide (limbCount mode ≤ q.lj && mode ≥ 2)
              || decide (limbCount mode ≤ q.lk && mode ≥ 2) then .fault cHANDLE configInfo
          else if ta.cols ≤ dCol da + 64 * q.kappa then
            let pe := ta.pitch * 512 / ta.ety.width
            .fault cHANDLE (handleInfo (dH da) (dRow da * pe + dCol da + 64 * q.kappa))
          else if actPoison c ta da q.kappa q.m then .fault cPOISON (2 ^ 63 + dH da)
          else if dMram db then
            match readBlock s tb (dMramAddr db + q.kappa * blockBytes tb) with
            | .bytes bs => .ok ta da (streamedSource tb bs) mode
            | .fault x i => .fault x i
            | .wait t => .wait t
          else match SMap.find s.myCluster.tiles (dH db) with
            | none => .fault cHANDLE (descInfo (dH db))
            | some t =>
              let r0 := dRow db + 64 * q.kappa
              if t.rows ≤ r0 then .fault cHANDLE (handleInfo (dH db) (r0 * t.cols + dCol db))
              else if weightPoison c t r0 (dCol db) then .fault cPOISON (2 ^ 63 + dH db)
              else .ok ta da (tileSource (m.views c) (s.tick * 8192) t r0 (dCol db)) mode
  | _, _ => .fault cHANDLE configInfo

/-! ### One output element of a pass (R107, R256) -/

/-- What a product of a pass is: the exact and the delivered plane sum, the product as it is added to β, and what is special
of it. -/
structure PassTerm where
  exact : Int
  sum : Int
  value : Dy
  special : Special
  deriving DecidableEq, Repr

/-- What a late transition of an event outside the range of R108 adds in a band at VNOM: nothing, unless a free value says that
this run meets such an event (log 11). -/
def lateTerm (tick key : Nat) : Int := if Config.outsideRange tick then Config.lateValue key else 0

/-- The 64 products of an element. -/
def passProducts (s : State) (views : Core × Core) (q : Sequencer) (grade : Nat) (ta : Tile) (da : Nat) (b : BSource) (i n : Nat) :
    List PassTerm :=
  (List.range 64).map fun kk =>
    let v := passAct views s.tick ta da q.kappa i kk
    let a := actSig ta.ety q.lj v
    let w := weightOf b.ty q.lk (b.scale kk n) (b.elem kk n)
    let ps := readPlanes b.ty q.pl q.lk
    let key := ((s.tick * 128 + i) * 128 + n) * 1024 + 16 * kk
    let sum := planeSum grade kk a w ps (fun j => Config.bandValue (key + j)) (fun j => lateTerm s.tick (key + j))
    { exact := exactSum a w ps, sum := sum, value := alignedProduct a (actExp v) w sum, special := productSpecial v w.special }

/-- What an element holds after a pass: its products added, its special values noted. -/
def betaAdd (mode : Nat) (old : BetaElem) (ps : List (Dy × Special)) : BetaElem :=
  let block := fun kk : Nat => if 2 ≤ mode then kk / 16 else 0
  let marks := fun (p : Special → Bool) => ((ps.mapIdx fun kk x => (block kk, x.2)).filter fun x => p x.2).map (·.1)
  let fins := ps.map fun x => if x.2 == .none then x.1 else dyZero
  { prods := if 2 ≤ mode then (if old.prods.isEmpty then fins else List.zipWith Dy.add old.prods fins)
      else [Dy.sum (old.prods ++ fins)],
    nan := old.nan ++ marks (fun x => x == .nan true || x == .nan false),
    pinf := old.pinf ++ marks (· == .inf false), ninf := old.ninf ++ marks (· == .inf true) }

/-- A pass's result for all elements: beta, the flags of invalid products, and for each vector the residual and the
tolerance in plane units (R125). -/
structure PassResult where
  beta : SMap BetaElem
  flags : Nat
  rho : List Nat
  tol : List Nat
  deriving DecidableEq, Repr

/-- What the checksum column forms for a vector above the sum of its columns' exact plane sums: the counts held less those of
the bits as they stand (R125). It compares the columns that the counts cover (log 31). -/
def countMiss (b : BSource) (pl lk : Nat) (acts : List Int) : Int :=
  ((acts.mapIdx fun kk a => (readStrips b.ty pl lk).map fun x => a * (x.2 * (b.held kk x.1 - b.now kk x.1))).flatten).sum

/-- The residual of a vector: the checksum column against the merged plane sums of the columns, in plane units (R125). -/
def residual (b : BSource) (pl lk : Nat) (acts : List Int) (row : List (List PassTerm)) : Nat :=
  (countMiss b pl lk acts -
    planeUnits b.ty pl lk * (row.map fun x => (x.map fun y => y.sum - y.exact).sum).sum).natAbs

def runPass (s : State) (views : Core × Core) (q : Sequencer) (first : Bool) (grade : Nat) (ta : Tile) (da : Nat) (b : BSource)
    (mode : Nat) : PassResult :=
  (List.range q.m).foldl (fun r i =>
    let row := (List.range 128).map fun n => passProducts s views q grade ta da b i n
    let beta := (row.mapIdx fun n x => (n, x)).foldl (fun m x =>
      let old := if first then {} else SMap.get q.beta (128 * i + x.1) {}
      SMap.put m (128 * i + x.1) (betaAdd mode old (x.2.map fun y => (y.value, y.special))) {}) r.beta
    let nv := row.any fun x => x.any fun y => y.special == .nan true
    let acts := (List.range 64).map fun kk => actSig ta.ety q.lj (passAct views s.tick ta da q.kappa i kk)
    { beta := beta, flags := if nv then flOr r.flags flNV else r.flags, rho := r.rho ++ [residual b q.pl q.lk acts row],
      tol := r.tol ++ [exposureOf b.ty q.pl q.lk grade * (acts.map Int.natAbs).sum] })
    { beta := if first then [] else q.beta, flags := 0, rho := [], tol := [] }

/-! ### Detections and credits (R115 to R118, R490) -/

/-- Detections of a run, by band (log 11). -/
def runDetections (s : State) : List Nat := (List.range 4).map fun b => Config.detections (4 * s.tick + b)

/-- The bands at VNOM with detections, at a grade (R108, R115). -/
def nominalHits (det : List Nat) (grade : Nat) : List Nat :=
  (List.range 4).filter fun b => decide (grade ≤ b) && decide (0 < (det[b]?).getD 0)

/-- Detections counted over a second; above DETLIM thousands in a band, 24k is forced on the core for 1 s (R490). -/
def State.countDetections (s : State) (det : List Nat) : State :=
  let c := s.myCore
  let sec := s.power.dtime / 1000000000
  let old := if c.detSecond = sec then c.detCounts else []
  let new := (List.range 4).foldl (fun m b => SMap.put m b (SMap.get m b 0 + (det[b]?).getD 0) 0) old
  let hot := decide (0 < s.power.detLim) && new.any fun e => decide (1000 * s.power.detLim < e.2)
  let lid := (s.strand (c.owner.getD 0)).launch
  let s := if hot then s.setLaunch lid { s.launch lid with forced24 := true } else s
  s.setMyCore { c with detSecond := sec, detCounts := new,
                       forceUntil := if hot then some (s.power.dtime + 1000000000) else c.forceUntil }

/-- What a run adds to the credits that its pass makes when it ends (R115, R117, R118). -/
def runCredits (det hits : List Nat) (grade : Nat) : Credits :=
  { det := det, rpl := (List.range 4).map fun b => if hits.contains b then 1 else 0, grades := 2 ^ grade }

/-- The pass under way is abandoned: it starts afresh, with no credits of the runs before (R118, R249). -/
def Sequencer.cut (q : Sequencer) : Sequencer :=
  { q with repeats := 0, force24 := false, passGrade := none, railWait := false, credits := {} }

/-- The grades that a pass uses are noted for the launch, when a run of it is made, so that a pass that is cut short counts (R127, R337). -/
def State.noteGrades (s : State) (grades : Nat) : State :=
  let l := s.launch s.me.launch
  s.setLaunch s.me.launch { l with credits := l.credits.add { grades := grades } }

/-- The TINFO of a checksum failure (R126). -/
def checksumInfo (rho row pass grade : Nat) : Nat :=
  min rho (2 ^ 32 - 1) + 2 ^ 32 * (row % 128) + 2 ^ 39 * (pass % 256) + 2 ^ 47 * grade

/-- The vector with the largest residual among those beyond their tolerance. -/
def worstVector (r : PassResult) : Option (Nat × Nat) :=
  ((r.rho.zip r.tol).mapIdx fun i x => (i, x)).foldl (fun best e =>
    if e.2.2 < e.2.1 then
      (match best with
       | some (k, v) => if v < e.2.1 then some (e.1, e.2.1) else some (k, v)
       | none => some (e.1, e.2.1))
    else best) none

/-- The run ends with what it made: beta, kappa and the pass's credits; or a repeat at 24k, the call's RPL set and no such
repeat made yet; or a checksum record (R118, R125, R126). -/
def endRun (s : State) (q : Sequencer) (n8 grade : Nat) (da : Nat) (mode : Nat) (r : PassResult) (m : MCall) : MicroRes :=
  let credits := q.credits.add { resmax := r.rho.foldl max 0 }
  let keep := fun (s : State) (faults : List Deferred) =>
    let s := (s.noteGrades credits.grades).onCall fun m =>
      { m with flags := flOr m.flags r.flags, passes := m.passes + 1, faults := m.faults ++ faults, credits := m.credits.add credits }
    MicroRes.next (s.setSeqr { q.cut with beta := r.beta, mode := some mode,
                                          kappa := if bit n8 1 then q.kappa + 1 else q.kappa })
  match worstVector r with
  | none => keep s []
  | some (i, rho) =>
    if m.rpl && !q.force24 then
      .stay (s.setSeqr { q with force24 := true, passGrade := none, repeats := 0, credits := credits.add { ckr := 1 } })
    else keep s [{ cause := cCHECKSUM, info := checksumInfo rho (dAr da + i) m.passes grade, rho := rho }]

/-- The grade of the pass under way, fixed when it starts (R111, R113, R126). -/
def Sequencer.grade (q : Sequencer) (forced : Bool) (m : MCall) : Nat :=
  match q.passGrade with
  | some g => g
  | none => if forced || q.force24 then 0 else m.grade

def execPass (n8 : Nat) (s : State) : Host.Outcome State Fault Refusal :=
  microOp s fun m s =>
    let q := s.seqr
    let grade := q.grade s.myCore.forced m
    match passOperands s m q with
    | .fault c i => .fault s c i
    | .wait t => .stay t
    | .ok ta da b mode =>
      if grade < s.myCore.rails then .stay (s.setSeqr { q with railWait := true })
      else
        let s := (s.setMyCore { s.myCore with rails := grade }).noteGrades (2 ^ grade)
        let det := runDetections s
        let hits := nominalHits det grade
        let r := runPass s (m.views s.myCore) q (bit n8 0) grade ta da b mode
        let t := (s.countDetections det).bump
        let q := { q with passGrade := some grade, credits := q.credits.add (runCredits det hits grade) }
        match hits with
        | [] => endRun t q n8 grade da mode r m
        | b :: _ =>
          -- R116: the record names the lowest of several such bands (log 31)
          if q.repeats < 3 then .stay (t.setSeqr { q with repeats := q.repeats + 1 })
          else
            let t := (t.noteGrades q.credits.grades).machineCheck 3 (coreOf s.cur) s.me.ctx 0 b
            .stay (t.faultLaunch s.me.launch {})

/-! ### Merging, scaling, draining (R255, R257, R258) -/

/-- Rows of `acc` zeroed and valid. -/
def Core.zeroRows (c : Core) (rows : List Nat) : Core :=
  rows.foldl (fun c r => { c with acc := SMap.erase c.acc r, accv := setOne c.accv r }) c

def execAccz (n16 : Nat) (s : State) : Host.Outcome State Fault Refusal :=
  microOp s fun _ s =>
    match s.seqr.a with
    | none => .fault s cHANDLE configInfo
    | some d => .next (s.setMyCore (s.myCore.zeroRows (rowRun (dAr d) n16 false)))

/-- A 64-bit `acc` value (R234), and it written. -/
def Core.accGet64 (c : Core) (r m : Nat) : Nat := c.accGet r (2 * m) + 2 ^ 32 * c.accGet r (2 * m + 1)
def Core.accSet64 (c : Core) (r m v : Nat) : Core := (c.accSet r (2 * m) (v % 2 ^ 32)).accSet r (2 * m + 1) (v / 2 ^ 32)

/-- Element (i, n) of a merge: its place read, merged, written. -/
def mergeOne (c : Core) (ar mode : Nat) (fresh : Bool) (beta : SMap BetaElem) (i n : Nat) : Core × Nat :=
  let x := SMap.get beta (128 * i + n) {}
  if mode = 3 then
    let r := ar + i + 64 * (n / 64)
    if 128 ≤ r then (c, 0) else
    let old := if c.accv.getLsbD r then c.accGet64 r (n % 64) else 0
    let v := mergeElem 3 fresh old x
    (c.accSet64 r (n % 64) v.1, v.2)
  else
    let r := ar + i
    if 128 ≤ r then (c, 0) else
    let old := if c.accv.getLsbD r then c.accGet r n else 0
    let v := mergeElem mode fresh old x
    (c.accSet r n v.1, v.2)

def execAccm (n8 : Nat) (s : State) : Host.Outcome State Fault Refusal :=
  microOp s fun _ s =>
    let q := s.seqr
    let mode := n8 % 4
    let have_ := match q.mode with
      | some k => some k
      | none =>
        (match q.a, q.b with
         | some da, some db =>
           (match dTy da, (if dMram db then dMramTy db else dTy db) with
            | some ta, some tb => passMode ta tb
            | _, _ => none)
         | _, _ => none)
    match q.a with
    | none => .fault s cHANDLE configInfo
    | some d =>
      if have_ != some mode then .fault s cHANDLE configInfo
      else
        let r := (List.range q.m).foldl (fun r i => (List.range 128).foldl (fun (r : Core × Nat) n =>
          let t := mergeOne r.1 (dAr d) mode (bit n8 2) q.beta i n
          (t.1, flOr r.2 t.2)) r) (s.myCore, 0)
        let s := (s.setMyCore r.1).onCall fun m => { m with flags := flOr m.flags r.2 }
        .next (s.setSeqr { q with beta := [], mode := none })

def execScale (ma mb : Nat) (s : State) : Host.Outcome State Fault Refusal :=
  microOp s fun m s =>
    let v := m.param mb
    let q := { s.seqr with sc := m.param ma % 2 ^ 32 }
    if v = 2 ^ 63 then .next (s.setSeqr { q with cv := none })
    else match descTile s v .loc with
      | some t =>
        if dMram v || t.ety != .f32 || t.cols < dCol v + 128 then .fault s cHANDLE (descInfo (dH v))
        else .next (s.setSeqr { q with cv := some v })
      | none => .fault s cHANDLE (descInfo (dH v))

/-- The factors of column `n` of a drain (R258). -/
def drainFactors (s : State) (m : MCall) (q : Sequencer) (scl : Bool) (n : Nat) : List Nat :=
  if !scl then [] else
  match q.cv with
  | none => [q.sc]
  | some d =>
    match SMap.find s.myCluster.tiles (dH d) with
    | some t =>
      let v := m.views s.myCore
      [q.sc, raced (s.tick * 128 + n) (v.2.tileElem t (dRow d) (dCol d + n)) (v.1.tileElem t (dRow d) (dCol d + n))]
    | none => [q.sc]

/-- The `acc` element of a drain, and it cleared. -/
def drainSource (c : Core) (src ar i n : Nat) : Nat :=
  if src = 2 then c.accGet64 (ar + i + 64 * (n / 64)) (n % 64) else c.accGet (ar + i) n
def drainClear (c : Core) (src ar i n : Nat) : Core :=
  if src = 2 then c.accSet64 (ar + i + 64 * (n / 64)) (n % 64) 0 else c.accSet (ar + i) n 0

def execDrain (ma n8 : Nat) (s : State) : Host.Outcome State Fault Refusal :=
  microOp s fun m s =>
    let q := s.seqr
    let d := m.param ma
    let src := n8 % 4
    match q.a, descTile s d .loc with
    | none, _ => .fault s cHANDLE configInfo
    | _, none => .fault s cHANDLE (descInfo (dH d))
    | some _, some t =>
      if dMram d || !t.ety.isPlain || t.rows ≤ dRow d || t.cols ≤ dCol d
          || (if src = 2 then 64 else 128) < dAr d + q.m then .fault s cHANDLE (descInfo (dH d))
      else
        let r := (List.range q.m).foldl (fun r i => (List.range 128).foldl (fun (r : Core × Nat) n =>
          let v := drainElem src q.pl (bit n8 3) (drainFactors s m q (bit n8 2) n) t.ety (drainSource r.1 src (dAr d) i n)
          let c := r.1.setTileElem t (dRow d + i) (dCol d + n) v.1
          (if bit n8 4 then drainClear c src (dAr d) i n else c, flOr r.2 v.2)) r) (s.myCore, 0)
        let lines := (List.range q.m).flatMap fun i => t.elemLines (dRow d + i) (dCol d) 128
        let c := raceLines (s.tick * 2 ^ 20) t.ety.width (SMap.keys m.touched) s.myCore r.1
        .next ((s.setMyCore c).onCall fun m =>
          { m with flags := flOr m.flags r.2, wrote := noteLines s.myCore (fun v => (t.ety.width, v)) lines m.wrote,
                   unsynced := noteLines s.myCore id lines m.unsynced })

/-! ### `chk` and control (R259, R260) -/

def execChk (s : State) : Host.Outcome State Fault Refusal :=
  microOp s fun _ s =>
    let q := s.seqr
    match q.b with
    | none => .fault s cHANDLE configInfo
    | some d =>
      if dMram d then
        -- the block is translated and read; its counts are formed as it arrives, so nothing can differ (R124, R250, R255)
        match dMramTy d with
        | none => .fault s cHANDLE (descInfo (dH d))
        | some ty =>
          (match readBlock s ty (dMramAddr d + q.kappa * blockBytes ty) with
           | .bytes _ => .next s
           | .fault x i => .fault s x i
           | .wait t => .stay t)
      else
      match SMap.find s.myCluster.tiles (dH d) with
      | none => .fault s cHANDLE (descInfo (dH d))
      | some t =>
        let c := s.myCore
        let bad := (List.range 64).any fun i =>
          let k := dRow d + 64 * q.kappa + i
          decide (k < t.rows) && (readStrips t.ety q.pl q.lk).any fun st =>
            c.planeCount t k st.1 != SMap.get c.counts (stripKey t k st.1) 0
        if bad then
          let cl := s.myCluster
          .fault (s.setMyCluster { cl with tiles := SMap.insert cl.tiles (dH d) { t with poisoned := true } })
            cPOISON (2 ^ 63 + dH d)
        else .next s

/-- The word after the `mend` that closes the loop opened before word `u`, `depth` loops deep. -/
def afterMend (c : Core) : Nat → Nat → Nat → Nat
  | 0, u, _ => u
  | fuel + 1, u, depth =>
    match decodeMicro (c.microAt u) with
    | some (.mloop _) => afterMend c fuel (u + 1) (depth + 1)
    | some (.mend _) => if depth = 0 then u + 1 else afterMend c fuel (u + 1) (depth - 1)
    | _ => afterMend c fuel (u + 1) depth

def execMloop (cnt : MicroCount) (s : State) : Host.Outcome State Fault Refusal :=
  microOp s fun m s =>
    let q := s.seqr
    let n := match cnt with
      | .mp a => m.param a % 2 ^ 32
      | .imm k => k
    if n = 0 then .jump s (afterMend s.myCore 512 (q.upc + 1) 0)
    else .next (s.setSeqr { q with loops := (n, q.upc + 1) :: q.loops })
def execMend (tgt : Nat) (s : State) : Host.Outcome State Fault Refusal :=
  microOp s fun _ s =>
    let q := s.seqr
    match q.loops with
    | [] => .next s
    | (n, b) :: ls =>
      if 1 < n then .jump (s.setSeqr { q with loops := (n - 1, b) :: ls }) tgt
      else .next (s.setSeqr { q with loops := ls })

/-- Waiting takes cycles only (R255). -/
def execMwait (_n16 : Nat) (s : State) : Host.Outcome State Fault Refusal := microOp s fun _ s => .next s
/-- Every earlier write of the call is complete: its later reads find what its drains wrote (R255). -/
def execMsync (s : State) : Host.Outcome State Fault Refusal :=
  microOp s fun _ s => .next (s.onCall fun m => { m with unsynced := [] })
/-- The routine ends; the call ends by `mcallEnd` (R243). -/
def execMret (s : State) : Host.Outcome State Fault Refusal :=
  microOp s fun _ s => .next (s.setSeqr { s.seqr with running := false })

/-! ### The sequencer's events (R110, R243, R250) -/

/-- Are the owner's units in the foreground and running (R249)? -/
def State.unitsOn (s : State) (n : Nat) : Bool :=
  let c := s.core n
  c.on && !c.saved && s.power.kiln == .running &&
    match c.owner with
    | some sid => bankSetOf sid == c.fgSet && (s.strand sid).life == .live
    | none => false

/-- The MRAM descriptors that a call's `bsel` micro-operations name. -/
def mramDescs (c : Core) (m : MCall) : List Nat :=
  (c.routineOps m.idx).filterMap fun i => match i with
    | .bsel ma => if dMram (m.param ma) then some (m.param ma) else none
    | _ => none

/-- What the first blocks of a call's MRAM descriptors come to at its start: nothing, a fault, a wait. -/
def startBlocks (s : State) (m : MCall) : Option BlockRead :=
  (mramDescs s.myCore m).findSome? fun d =>
    match dMramTy d with
    | some ty => if mramType ty then
        (match readBlock s ty (dMramAddr d) with
         | .bytes _ => none
         | .fault c i => if c = cPOISON then none else some (.fault c i)
         | r => some r)
        else none
    | none => none

/-- The next queued call starts, with the registers of R254. -/
def execMcallStart (core : Nat) (s : State) : Host.Outcome State Fault Refusal :=
  let c := s.core core
  match c.owner, c.calls.find? fun m => !m.ended with
  | some sid, some m =>
    if m.started || !s.unitsOn core then .next s else
    let t := { s with cur := sid }
    let start := ((c.routine m.idx).map (·.1)).getD 0
    let go := fun (t : State) (q : Sequencer) (f : MCall → MCall) =>
      let c := t.core core
      t.setCore core { c with seqr := q, calls := c.calls.map fun x => if x.seq = m.seq then f { x with started := true } else x }
    match startBlocks t m with
    | none => .next { go t { running := true, upc := start } id with cur := s.cur }
    | some (.fault x i) =>
      .next { go t {} (fun m => { m with faults := m.faults ++ [{ cause := x, info := i }] }) with cur := s.cur }
    | some (.wait u) => .next { u with cur := s.cur }
    | some (.bytes _) => .next s
  | _, _ => .next s

/-- A call whose routine has stopped ends. -/
def execMcallEnd (core : Nat) (s : State) : Host.Outcome State Fault Refusal :=
  let c := s.core core
  if c.seqr.running then .next s
  else .next (s.setCore core { c with calls := c.calls.map fun m => if m.started then { m with ended := true } else m })

/-- The rails reach a stricter grade, and the waiting pass may start; during a kiln hold they keep their setting (R110). -/
def execRailSettled (core : Nat) (s : State) : Host.Outcome State Fault Refusal :=
  let c := s.core core
  if c.seqr.railWait && s.power.kiln == .running then
    let g := match c.running with
      | some m => c.seqr.grade c.forced m
      | none => c.rails
    .next (s.setCore core { c with rails := g, seqr := { c.seqr with railWait := false } })
  else .next s

end Sys2Proof.Machine
end

