-- ==== Sys2Proof/Machine/Signature.lean ====
section
/-! DEFINITION. ML-DSA-44 (R338, R340), as FIPS 204 lays it down: the names of its parts are that standard's. -/

namespace Sys2Proof.Machine

/-! ### Polynomials of 256 coefficients modulo q -/

def dsaQ : Nat := 8380417

/-- A polynomial is the list of its coefficients, each below q, the constant one first. -/
abbrev Poly : Type := List Nat
abbrev PolyVec : Type := List Poly

def Poly.zip (f : Nat → Nat → Nat) (a b : Poly) : Poly := (List.zipWith f a b).map (· % dsaQ)
def Poly.add (a b : Poly) : Poly := Poly.zip (· + ·) a b
def Poly.sub (a b : Poly) : Poly := Poly.zip (fun x y => x + (dsaQ - y)) a b
def Poly.times (a b : Poly) : Poly := Poly.zip (· * ·) a b
def Poly.zero : Poly := List.replicate 256 0
def PolyVec.add (a b : PolyVec) : PolyVec := List.zipWith Poly.add a b
def PolyVec.sub (a b : PolyVec) : PolyVec := List.zipWith Poly.sub a b

/-- The integer below q that stands for `v` modulo q. -/
def residue (v : Int) : Nat := (v % (dsaQ : Int)).toNat

/-- A value modulo `m` as the integer nearest 0: the mod± of the standard. -/
def centred (v m : Nat) : Int := if 2 * (v % m) ≤ m then (v % m : Nat) else (v % m : Nat) - (m : Int)

/-- Powers of ζ = 1753, a 512th root of 1 modulo q. -/
def zetaPow : Nat → Nat
  | 0 => 1
  | n + 1 => 1753 * zetaPow n % dsaQ

/-- The bits of a byte the other way round: BitRev8. -/
def bitRev8 (i : Nat) : Nat := (List.range 8).foldl (fun a k => a + i / 2 ^ k % 2 * 2 ^ (7 - k)) 0

/-- The exponents of ζ of the 256 points, in the standard's order. -/
def nttExponents : List Nat := (List.range 256).map fun i => 2 * bitRev8 i + 1

/-- The value of a polynomial at a point. -/
def Poly.at (w : Poly) (x : Nat) : Nat := w.foldr (fun c v => (c + x * v) % dsaQ) 0

/-- NTT: the values of a polynomial at the 256 points. -/
def ntt (w : Poly) : Poly := nttExponents.map fun e => w.at (zetaPow e)

/-- The coefficients, one after another, from the products of values and powers of the points' inverses. -/
def nttBackFrom (inv : List Nat) : Nat → Poly → Poly
  | 0, _ => []
  | n + 1, v => 8347681 * v.foldl (· + ·) 0 % dsaQ :: nttBackFrom inv n (v.times inv)

/-- The inverse of `ntt`; 8347681 is the inverse of 256 modulo q. -/
def nttBack (v : Poly) : Poly := nttBackFrom (nttExponents.map fun e => zetaPow (512 - e)) 256 v

/-- The product of a polynomial in the values of `ntt` with each of a vector. -/
def PolyVec.scale (c : Poly) (v : PolyVec) : PolyVec := v.map fun p => nttBack (c.times (ntt p))

/-- A matrix in the values of `ntt` times a vector in the same. -/
def matTimes (a : List PolyVec) (v : PolyVec) : PolyVec :=
  a.map fun row => (List.zipWith Poly.times row v).foldl Poly.add Poly.zero

/-- Is every coefficient nearer to 0 than a bound? -/
def PolyVec.within (v : PolyVec) (bound : Nat) : Bool := v.all fun p => p.all fun c => decide ((centred c dsaQ).natAbs < bound)

/-! ### Bits and bytes -/

/-- Numbers of `w` bits, the lowest first, as bytes: SimpleBitPack. -/
def packBits (w : Nat) (l : List Nat) : List Byte := toBytes (l.foldr (fun v r => v + 2 ^ w * r) 0) (w * l.length / 8)
/-- 256 numbers of `w` bits from their bytes. -/
def unpackBits (w : Nat) (bs : List Byte) : List Nat :=
  let v := ofBytes bs
  (List.range 256).map fun i => v / 2 ^ (w * i) % 2 ^ w
/-- BitPack and BitUnpack of coefficients that are at most `b` when centred. -/
def packFrom (b w : Nat) (p : Poly) : List Byte := packBits w (p.map fun c => residue ((b : Int) - centred c dsaQ))
def unpackFrom (b w : Nat) (bs : List Byte) : Poly := (unpackBits w bs).map fun c => residue ((b : Int) - (c : Nat))
/-- A list of bytes cut into pieces of one length. -/
def pieces (n len : Nat) (bs : List Byte) : List (List Byte) := (List.range n).map fun i => (bs.drop (len * i)).take len

/-! ### Sampling. The rejection loops draw on ten blocks, which the standard's own bounds on them allow (log 12). -/

/-- RejNTTPoly: of the 23-bit numbers in the stream those below q. -/
def rejNtt (seed : List Byte) : Poly :=
  (((pieces 560 3 (shake128 1680 seed)).map fun b => ofBytes b % 2 ^ 23).filter fun v => decide (v < dsaQ)).take 256
/-- RejBoundedPoly with η = 2: of the half bytes those below 15. -/
def rejBounded (seed : List Byte) : Poly :=
  ((((shake256 1360 seed).flatMap fun b => [b.toNat % 16, b.toNat / 16]).filter fun z => decide (z < 15)).take 256).map
    fun z => residue (2 - (z % 5 : Nat))
/-- ExpandA, in the values of `ntt`. -/
def expandA (rho : List Byte) : List PolyVec :=
  (List.range 4).map fun r => (List.range 4).map fun s => rejNtt (rho ++ toBytes s 1 ++ toBytes r 1)
/-- ExpandMask: coefficients from 1 - 2^17 to 2^17. -/
def expandMask (seed : List Byte) (kappa : Nat) : PolyVec :=
  (List.range 4).map fun r => unpackFrom (2 ^ 17) 18 (shake256 576 (seed ++ toBytes (kappa + r) 2))
/-- The steps of SampleInBall from a place on: the stream's next byte that is not above the place says which coefficient moves there, and a
bit which sign takes its place. -/
def ballFrom (signs : Nat) : Nat → List Nat → Poly → Poly
  | 0, _, c => c
  | n + 1, bs, c =>
    let i := 255 - n
    let bs := bs.dropWhile fun j => decide (i < j)
    let j := bs.headD 0
    let sign := if bit signs (i - 217) then dsaQ - 1 else 1
    ballFrom signs n (bs.drop 1) ((c.set i (c.getD j 0)).set j sign)
/-- SampleInBall: 39 coefficients of 1 or -1. -/
def sampleInBall (seed : List Byte) : Poly :=
  let s := shake256 1360 seed
  ballFrom (ofBytes (s.take 8)) 39 ((s.drop 8).map (·.toNat)) Poly.zero

/-! ### High and low parts -/

/-- Power2Round with d = 13. -/
def power2Round (r : Nat) : Nat × Int := ((((r : Int) - centred r 8192) / 8192).toNat, centred r 8192)
/-- Decompose with 2 γ2 = 190464. -/
def decompose (r : Nat) : Nat × Int :=
  let r0 := centred r 190464
  if (r : Int) - r0 = dsaQ - 1 then (0, r0 - 1) else ((((r : Int) - r0) / 190464).toNat, r0)
def highBits (r : Nat) : Nat := (decompose r).1
/-- UseHint, of 44 high parts. -/
def useHint (h r : Nat) : Nat :=
  let d := decompose r
  if h = 0 then d.1 else if 0 < d.2 then (d.1 + 1) % 44 else (d.1 + 43) % 44
/-- w1Encode. -/
def packHigh (w : PolyVec) : List Byte := w.flatMap (packBits 6)

/-! ### Hints -/

/-- HintBitPack: the places of each polynomial's ones, then how many there are up to and with it. -/
def packHints (h : PolyVec) : List Byte :=
  let ones := h.map fun p => (List.range 256).filter fun j => p[j]?.getD 0 != 0
  let ends := (List.range 4).map fun i => ((ones.take (i + 1)).map List.length).sum
  let flat := ones.flatten
  ((flat ++ List.replicate (80 - flat.length) 0) ++ ends).map (BitVec.ofNat 8)
/-- HintBitUnpack of 84 bytes: places that rise, ends that do not fall, zeros after the last. -/
def unpackHints (bs : List Byte) : Option PolyVec :=
  let v := bs.map (·.toNat)
  let ends := v.drop 80
  let starts := 0 :: ends
  let spans := List.zipWith (fun a b => (v.take b).drop a) starts ends
  let rising := fun (l : List Nat) => (List.zipWith (fun a b => decide (a < b)) l (l.drop 1)).all id
  if (List.zipWith (fun a b => decide (a ≤ b)) starts ends).all id && ends.all (fun e => decide (e ≤ 80)) && spans.all rising
      && ((v.take 80).drop (ends.getLastD 0)).all (· == 0) then
    some (spans.map fun l => (List.range 256).map fun j => ofBit (l.contains j))
  else none

/-! ### Keys, signing and verifying -/

/-- A private key: ρ, K, tr and the vectors s1, s2 and t0; and its public key's bytes. -/
structure DsaKey where
  rho : List Byte
  secret : List Byte
  s1 : PolyVec
  s2 : PolyVec
  t0 : PolyVec
  publicKey : List Byte
  deriving DecidableEq, Repr

/-- Key generation from a seed of 32 bytes. -/
def dsaKey (seed : List Byte) : DsaKey :=
  let h := shake256 128 (seed ++ [4, 4])
  let rho := h.take 32
  let bounded := fun (r : Nat) => rejBounded ((h.drop 32).take 64 ++ toBytes r 2)
  let s1 := [0, 1, 2, 3].map bounded
  let s2 := [4, 5, 6, 7].map bounded
  let t := PolyVec.add ((matTimes (expandA rho) (s1.map ntt)).map nttBack) s2
  { rho := rho, secret := h.drop 96, s1 := s1, s2 := s2,
    t0 := t.map fun p => p.map fun r => residue (power2Round r).2,
    publicKey := rho ++ t.flatMap fun p => packBits 10 (p.map fun r => (power2Round r).1) }

/-- μ: the hash of a public key's hash and of a message in its pure form, with a context string. -/
def dsaMessage (publicKey ctx msg : List Byte) : List Byte :=
  shake256 64 (shake256 64 publicKey ++ [0] ++ toBytes ctx.length 1 ++ ctx ++ msg)

/-- One try at a signature, with a counter. -/
def dsaTry (k : DsaKey) (mu seed : List Byte) (kappa : Nat) : Option (List Byte) :=
  let y := expandMask seed kappa
  let w := (matTimes (expandA k.rho) (y.map ntt)).map nttBack
  let digest := shake256 32 (mu ++ packHigh (w.map fun p => p.map highBits))
  let c := ntt (sampleInBall digest)
  let z := PolyVec.add y (PolyVec.scale c k.s1)
  let low := PolyVec.sub w (PolyVec.scale c k.s2)
  let ct0 := PolyVec.scale c k.t0
  let h := List.zipWith (List.zipWith fun a b => ofBit (highBits a != highBits b)) low (PolyVec.add low ct0)
  if PolyVec.within z (2 ^ 17 - 78) && (low.all fun p => p.all fun r => decide ((decompose r).2.natAbs < 95232 - 78)) && ct0.within 95232
      && decide ((h.map fun p => p.sum).sum ≤ 80) then
    some (digest ++ z.flatMap (packFrom (2 ^ 17) 18) ++ packHints h)
  else none

/-- Tries one after another. -/
def dsaTries (k : DsaKey) (mu seed : List Byte) : Nat → Nat → Option (List Byte)
  | 0, _ => none
  | n + 1, kappa =>
    match dsaTry k mu seed kappa with
    | some s => some s
    | none => dsaTries k mu seed n (kappa + 4)

/-- The hedged signature of a message with a context string; none after the 814 tries that the standard bounds the loop at. -/
def dsaSign (k : DsaKey) (ctx msg hedge : List Byte) : Option (List Byte) :=
  let mu := dsaMessage k.publicKey ctx msg
  dsaTries k mu (shake256 64 (k.secret ++ hedge ++ mu)) 814 0

/-- Does a signature of 2420 bytes of a message with a context string verify under a public key of 1312 bytes? -/
def dsaVerify (publicKey ctx msg sig : List Byte) : Bool :=
  let t1 := (pieces 4 320 (publicKey.drop 32)).map (unpackBits 10)
  let z := (pieces 4 576 (sig.drop 32)).map (unpackFrom (2 ^ 17) 18)
  match unpackHints (sig.drop 2336) with
  | none => false
  | some h =>
    let mu := dsaMessage publicKey ctx msg
    let c := ntt (sampleInBall (sig.take 32))
    let az := matTimes (expandA (publicKey.take 32)) (z.map ntt)
    let ct := t1.map fun p => c.times (ntt (p.map (8192 * · % dsaQ)))
    let w := (PolyVec.sub az ct).map nttBack
    let high := List.zipWith (List.zipWith useHint) h w
    sig.length == 2420 && PolyVec.within z (2 ^ 17 - 78) && sig.take 32 == shake256 32 (mu ++ packHigh high)

/-- The identity key, which never leaves the security controller (R28): its seed is a free value (log 12). -/
def identityKey : DsaKey := dsaKey Config.identitySeed
/-- DEVID: SHA3-256 of the 1312 bytes of the identity public key (R337). -/
def deviceId : List Byte := sha3 identityKey.publicKey

end Sys2Proof.Machine
end

