-- ==== Sys2Proof/Machine/Engines.lean ====
section
/-! DEFINITION. The copy engines and the hint unit: `cp`, `cpg`, `cps`, `stage` (R365 to R372), `seal` and `open`
(R345, R373), `meas` (R336), `ckpt` with its snapshot and its stream (R453 to R455), `pf` and `res` (R456, R457). -/

namespace Sys2Proof.Machine

/-- Code of a status (R324). -/
def Status.code : Status → Nat
  | .ok => 0 | .late => 1 | .latePartial => 2 | .budget => 3 | .fault => 4 | .abort => 5 | .lost => 6 | .tagfail => 7
  | .replay => 8 | .peerlost => 9 | .keyslots => 10 | .debugActive => 11

/-! ### Issue (R366, R367) -/

/-- Fields of a tile reference. -/
def refH (v : Nat) : Nat := v % 256
def refRow (v : Nat) : Nat := field v 8 12
def refCol (v : Nat) : Nat := field v 20 12

/-- Index of an element as TINFO names it (R367). -/
def refIndex (t : Tile) (r c : Nat) : Nat :=
  if t.level == .bstack then r * t.cols + c else r * (t.pitch * 512 / t.ety.width) + c

/-- The first element of a block outside a tile's shape. -/
def firstOutside (t : Tile) (row col r c : Nat) : Option Nat :=
  if t.rows ≤ row || t.cols ≤ col then some (refIndex t row col)
  else if t.cols < col + c then some (refIndex t row t.cols)
  else if t.rows < row + r then some (refIndex t t.rows col)
  else none

/-- A tile reference at issue: its tile, or the TINFO of HANDLE; `ok` are the level and type that the form takes. A LOCAL
tile may be of any core of the cluster: R371 has it so of the engines, where R23 speaks of SHARED handles (log 18). -/
def refCheck (s : State) (v r c : Nat) (ok : Tile → Bool) : Except Nat Tile :=
  if 2 ^ 32 ≤ v then .error (2 ^ 64 - 256 + refH v)
  else match SMap.find s.myCluster.tiles (refH v) with
    | none => .error (refH v)
    | some t =>
      if !ok t then .error (refH v)
      else match firstOutside t (refRow v) (refCol v) r c with
        | some i => .error (handleInfo (refH v) i)
        | none => if t.ety.isMx && (refCol v % 32 != 0 || c % 32 != 0) then .error (refH v) else .ok t

/-- First and last byte of a range at issue (R367). -/
def rangeCheck (a n align : Nat) : Option Res :=
  if n = 0 then none
  else if 2 ^ 52 ≤ a then some (.trap cPERM a)
  else if 2 ^ 52 ≤ a + n - 1 then some (.trap cPERM (a + n - 1))
  else if a % align ≠ 0 then some (.trap cALIGN a)
  else none

/-- TINFO of an xC value outside its limits. -/
def limitRes (bad : Bool) : Option Res := if bad then some (.trap cHANDLE 0xFF) else none

/-- A tile is LOCAL or SHARED. -/
def Tile.inScratch (t : Tile) : Bool := t.level != .bstack

/-- The tiles of a table that a command names by the references in its operands (R371, R372). -/
def tilesOf (ts : SMap Tile) (op : CeOp) (a b : Nat) : Option Tile × Option Tile :=
  let t := fun (v : Nat) => SMap.find ts (refH v)
  match op with
  | .cp => (t a, t b)
  | .cps | .stage => (t a, none)
  | _ => (none, none)

/-- The word of the copy-engine slot of the bundle being issued (R128, R499). -/
def State.ceWord (s : State) : Nat :=
  match s.iss.ops.find? fun o => o.1 == .ce with
  | some o => ((encode o.2).map fun w => field w.2 Slot.ce.base Slot.ce.width).getD 0
  | none => 0

/-- A command joins the queue of the issuing strand's cluster; with QE it targets a stream register (R288, R365). -/
def State.queueCe (s : State) (op : CeOp) (a b c : Nat) (arg : CeArg) : Res :=
  firstStop [if arg.qe then qRoom s arg.q else none,
             if 8 ≤ (s.commandsOf s.cur).length then some (.stall .engineQueue) else none] fun _ =>
    let tiles := tilesOf s.myCluster.tiles op a b
    let (s, tag) := if arg.qe then s.newEntry arg.q 0 [] (if arg.rel then some s.me.seq else none) else (s, 0)
    let st := s.me
    let cl := s.myCluster
    let cmd : CeCmd := { id := cl.ceId, sid := s.cur, grp := st.grp, place := s.placeOf s.cur, launch := st.launch, ctx := st.ctx,
                         seq := st.seq, op := op, a := a, b := b, c := c, sc := arg.sc, acq := arg.acq, rel := arg.rel, q := arg.q,
                         tag := tag, qe := arg.qe, dst := tiles.1, src := tiles.2, word := s.ceWord }
    .ok (s.setMyCluster { cl with ceq := cl.ceq ++ [cmd], ceId := cl.ceId + 1 })

/-- An argument record for the forms without scope and flags. -/
def plainArg (q : Nat) (qe : Bool) : CeArg := { a := 0, b := 0, c := 0, sc := .st, acq := false, rel := false, q := q, qe := qe }

def execCp (c : CeArg) (s : State) : Host.Outcome State Fault Refusal :=
  slotOp (.cp c) s fun s =>
    let (a, b, v) := (s.me.xGet c.a, s.me.xGet c.b, s.me.xGet c.c)
    let (r, n) := (field v 0 13, field v 13 13)
    match refCheck s a r n Tile.inScratch with
    | .error i => .trap cHANDLE i
    | .ok d =>
      let pairs := fun (t : Tile) => t.inScratch && t.ety.width == d.ety.width && (if t.ety.isMx || d.ety.isMx then t.ety == d.ety else true)
      match refCheck s b r n pairs with
      | .error i => .trap cHANDLE i
      | .ok _ =>
        firstStop [limitRes (r = 0 || 4096 < r || n = 0 || 4096 < n || decide (2 ^ 26 ≤ v))] fun _ => s.queueCe .cp a b v c

def execCpg (c : CeArg) (s : State) : Host.Outcome State Fault Refusal :=
  slotOp (.cpg c) s fun s =>
    let (a, b, v) := (s.me.xGet c.a, s.me.xGet c.b, s.me.xGet c.c)
    firstStop [limitRes (decide (2 ^ 32 ≤ v)), rangeCheck a v 1, rangeCheck b v 1] fun _ => s.queueCe .cpg a b v c

/-- Bytes of a global row of a `cps` (R371). -/
def cpsRow (t : Tile) (c : Nat) : Nat := c * t.ety.width / 8 + (if t.ety.isMx then c / 32 else 0)

def execCps (c : CeArg) (s : State) : Host.Outcome State Fault Refusal :=
  slotOp (.cps c) s fun s =>
    let (a, b, v) := (s.me.xGet c.a, s.me.xGet c.b, s.me.xGet c.c)
    let (r, n, pitch) := (field v 0 13, field v 13 13, field v 32 32)
    match refCheck s a r n Tile.inScratch with
    | .error i => .trap cHANDLE i
    | .ok t =>
      let w := t.ety.width
      let unit := max 1 (w / 8)
      let bad := r = 0 || 4096 < r || n = 0 || 4096 < n || field v 27 5 != 0 || n * w % 8 != 0
        || decide (pitch < cpsRow t n) || pitch % unit != 0
      firstStop [limitRes bad, rangeCheck b ((r - 1) * pitch + cpsRow t n) unit] fun _ => s.queueCe .cps a b v c

/-- Bytes of the source of a `stage`: of a row, and in all (R372). -/
def stageRow (t : Tile) (sf : Bool) : Nat :=
  if sf then (t.cols * (if t.ety.isBp then 8 else t.ety.width) + 7) / 8 else t.pitch
def stageBytes (t : Tile) (sf : Bool) (r : Nat) : Nat := r * stageRow t sf + (if t.ety.isMx then 128 * (r / 32) else 0)

def execStage (c : CeArg) (s : State) : Host.Outcome State Fault Refusal :=
  slotOp (.stage c) s fun s =>
    let (a, b, v) := (s.me.xGet c.a, s.me.xGet c.b, s.me.xGet c.c)
    let (r, sf) := (field v 0 13, bit v 13)
    let ok := fun (t : Tile) => t.level == .bstack && refCol a == 0
    match refCheck s a r 0 ok with
    | .error i => .trap cHANDLE i
    | .ok t =>
      let bad := decide (2 ^ 14 ≤ v) || (t.ety.isMx && (sf || r % 32 != 0 || refRow a % 32 != 0))
      firstStop [limitRes bad, rangeCheck b (stageBytes t sf r) 1] fun _ => s.queueCe .stage a b v c

def execSealRec (c : CeArg) (s : State) : Host.Outcome State Fault Refusal :=
  slotOp (.sealRec c) s fun s =>
    let (a, b, v) := (s.me.xGet c.a, s.me.xGet c.b, s.me.xGet c.c)
    let len := field v 32 17
    firstStop [limitRes (decide (2 ^ 49 ≤ v)), rangeCheck a (80 + len) 64, rangeCheck b (max len 1) 64] fun _ =>
      s.queueCe .sealRec a b v c

def execOpenRec (c : CeArg) (s : State) : Host.Outcome State Fault Refusal :=
  slotOp (.openRec c) s fun s =>
    let (a, b, v) := (s.me.xGet c.a, s.me.xGet c.b, s.me.xGet c.c)
    firstStop [limitRes (decide (2 ^ 32 ≤ v)), rangeCheck a 64 64, rangeCheck b 1 64] fun _ => s.queueCe .openRec a b v c

def execMeas (a b q : Nat) (qe : Bool) (s : State) : Host.Outcome State Fault Refusal :=
  slotOp (.meas a b q qe) s fun s =>
    let va := s.me.xGet a
    firstStop [if qe then qRoom s q else none, rangeCheck va 1 64] fun _ => s.queueCe .meas va (s.me.xGet b % 2 ^ 32) 0 (plainArg q qe)

/-- The generation at which the issuing strand next arrives (R454). -/
def State.nextArrival (s : State) : Nat :=
  match s.myLaunch.barrier with
  | .open_ h => if s.me.arrival.any fun g => decide (h ≤ g) then h + 1 else h
  | _ => 0

def execCkpt (a q : Nat) (qe : Bool) (s : State) : Host.Outcome State Fault Refusal :=
  slotOp (.ckpt a q qe) s fun s =>
    let va := s.me.xGet a
    firstStop [if qe then qRoom s q else none, rangeCheck va 1 64] fun _ => s.queueCe .ckpt va 0 s.nextArrival (plainArg q qe)

/-! ### Hints (R456, R457) -/

/-- An entry put into a TLB of a capacity; the oldest gives way (R437). -/
def tlbPut (l : List TlbEntry) (cap : Nat) (e : TlbEntry) : List TlbEntry :=
  let l := (l.filter fun x => !(x.ctx == e.ctx && x.page == e.page)) ++ [e]
  l.drop (l.length - cap)

/-- A translation put into the TLB of a die, and of a cluster. -/
def State.tlbFill (s : State) (die : Nat) (cluster : Option Nat) (e : TlbEntry) : State :=
  let s := s.setDie die { s.die die with tlb := tlbPut (s.die die).tlb 4096 e }
  match cluster with
  | some k => s.setCluster k { s.cluster k with tlb := tlbPut (s.cluster k).tlb 128 e }
  | none => s

/-- The pages of a range: base granule, and the leaf entry where there is one. -/
def Ctx.pagesOf (c : Ctx) (va n : Nat) : List (Nat × Option Nat) :=
  let gs := (List.range ((va + n + 65535) / 65536 - va / 65536)).map (va / 65536 + ·)
  let ps := gs.map fun g => match c.leaf (65536 * g) with
    | some (b, e) => (b, some e)
    | none => (g, none)
  ps.foldl (fun l p => if l.contains p then l else l ++ [p]) []

/-- Is a page one that a hint acts on? -/
def Ctx.hintable (c : Ctx) (p : Nat × Option Nat) : Bool :=
  match p.2 with
  | none => false
  | some e => decide (65536 * p.1 < 2 ^ 52) && pteR e && !pteEp e && (pteState e == pgResident || pteState e == pgWeight) &&
      c.pending.all fun g => decide (g < p.1) || decide (p.1 + pageGranules (pteSize e) ≤ g)

/-- The lines of a range that lie in a page, as virtual line numbers. -/
def pageLines (p : Nat × Nat) (va n : Nat) : List Nat :=
  let lo := max va (65536 * p.1)
  let hi := min (va + n) (65536 * (p.1 + pageGranules (pteSize p.2)))
  if hi ≤ lo then [] else (List.range ((hi + 63) / 64 - lo / 64)).map (lo / 64 + ·)

/-- Entries of a hint unit (R457). -/
def hintRoom : Nat := 64

/-- A hint that has issued stands in the hint unit of its die, page by page; a page that finds the unit full is dropped and counted
(R457). -/
def State.hint (s : State) (op lv va n : Nat) : State :=
  let ctx := s.me.ctx
  let n := min n (2 ^ 26)
  let ps := if n = 0 then [] else (s.ctx ctx).pagesOf va n
  let d := s.die (dieOf s.cur)
  let room := hintRoom - d.hints.length
  let one := fun (p : Nat × Option Nat) =>
    let lo := max va (65536 * p.1)
    let hi := min (va + n) (65536 * (p.1 + ((p.2.map fun e => pageGranules (pteSize e)).getD 1)))
    ({ ctx := ctx, cluster := clusterOf s.cur, sid := s.cur, op := op, lv := lv, va := lo, len := hi - lo } : Hint)
  s.setDie (dieOf s.cur) { d with hints := d.hints ++ (ps.take room).map one, hintDrops := (d.hintDrops + (ps.length - room)) % 2 ^ 64 }

def execPf (a b level : Nat) (s : State) : Host.Outcome State Fault Refusal :=
  slotOp (.pf a b level) s fun s => .ok (s.hint 0 level (s.me.xGet a) (s.me.xGet b % 2 ^ 32))

def execRes (a b level : Nat) (s : State) : Host.Outcome State Fault Refusal :=
  slotOp (.res a b level) s fun s => .ok (s.hint 1 level (s.me.xGet a) (s.me.xGet b % 2 ^ 32))

/-- A line is put into the memory-side cache at a priority, or pinned there; what it held under the same key stays as it was (R456). -/
def Mem.prefetch (m : Mem) (key line prio : Nat) (pin : Bool := false) : Mem :=
  let old := (SMap.find m.cache line).filter fun l => l.slot == key
  m.intoCache line { slot := key, dirty := old.any (·.dirty), prio := prio, pinned := pin || old.any (·.pinned) }

/-- A line that the memory-side cache holds has a priority. -/
def Mem.prioritise (m : Mem) (line prio : Nat) : Mem :=
  { m with cache := m.cache.map fun e => if e.1 = line then (line, { e.2 with prio := prio }) else e }

/-- Lines that a context may have pinned: 64 MiB (R456). -/
def pinLimit : Nat := 2 ^ 20

/-- What `pf` does with a page (R456); only lines of LPDDR6, host and CXL memory enter the memory-side cache, and the group that asked for
them is then not confined to scratchpad and MRAM (R322). -/
def State.runPf (s : State) (h : Hint) (base e : Nat) (ls : List Nat) : State :=
  let s := s.tlbFill (h.cluster / 6) (if h.lv = 0 then none else some h.cluster) { ctx := h.ctx, page := base, size := pteSize e, leaf := e }
  if h.lv < 2 || pteState e = pgWeight then s else
  ls.foldl (fun s l =>
    let pa := frameOf base e (64 * l)
    if s.isLpddr pa || isHost pa then
      { s with mem := s.mem.prefetch (s.ctx h.ctx).keyId (pa / 64) (if h.lv = 2 then 1 else 3) }.leavesFor (s.strand h.sid).grp pa
    else s) s

/-- What `res` does with a page (R456). -/
def State.runRes (s : State) (h : Hint) (base e : Nat) (ls : List Nat) : State :=
  ls.foldl (fun s l =>
    let c := s.ctx h.ctx
    let pa := frameOf base e (64 * l)
    let rank := fun (prio : Nat) => { s with mem := s.mem.prioritise (pa / 64) prio }
    match h.lv with
    | 1 =>
      if c.pins.contains l || decide (c.pins.length < pinLimit) then
        let s := s.setCtx h.ctx { c with pins := insertNat c.pins l }
        if s.isLpddr pa || isHost pa then { s with mem := s.mem.prefetch c.keyId (pa / 64) 1 true }.leavesFor (s.strand h.sid).grp pa else s
      else rank 1
    | 2 => rank 0
    | 3 => { s.setCtx h.ctx { c with pins := c.pins.filter (· != l) } with mem := s.mem.unpin [pa / 64] }
    | _ => rank 1) s

/-- A hint unit judges its oldest page: it acts on it, or drops it and counts it (R457). -/
def State.runHint (s : State) (die : Nat) : State :=
  let d := s.die die
  match d.hints with
  | [] => s
  | h :: rest =>
    let c := s.ctx h.ctx
    let s := s.setDie die { d with hints := rest }
    let p : Nat × Option Nat := match c.leaf h.va with
      | some (b, e) => (b, some e)
      | none => (h.va / 65536, none)
    match p.2 with
    | some e =>
      if c.hintable p then
        let ls := pageLines (p.1, e) h.va h.len
        if h.op = 0 then s.runPf h p.1 e ls else s.runRes h p.1 e ls
      else s.setDie die { s.die die with hintDrops := (d.hintDrops + 1) % 2 ^ 64 }
    | none => s.setDie die { s.die die with hintDrops := (d.hintDrops + 1) % 2 ^ 64 }

/-- The hint units work on what they hold as time passes (R457). -/
def State.runHints (s : State) : State :=
  (List.range 8).foldl (fun s d => (s.die d).hints.foldl (fun s _ => s.runHint d) s) s

/-! ### Lines (R370)

A command moves runs of bits. Its destination is cut into lines of 512 bits, the lines of scratchpad, of the B-stack and of global
memory alike, and moves line by line. -/

/-- What a run of a command comes to: it waits for a page; it ends with a status, poison and a byte count. -/
inductive Run where
  | wait (s : State)
  | done (s : State) (status : Status) (p : Bool) (n : Nat)

/-- A run of bits that a command moves: from bit `src` of its source to bit `dst` of its destination, and the bits of the destination
that it accounts for, those past `len` padding that holds zero (R274); `tie` is the source bit of the scale byte of its block. -/
structure Seg where
  dst : Nat
  src : Nat
  len : Nat
  span : Nat
  tie : Option Nat := none
  deriving DecidableEq, Repr

/-- A run cut at the lines of its destination. -/
def Seg.cut (g : Seg) : List Seg :=
  (List.range ((g.dst + g.span + 511) / 512 - g.dst / 512)).map fun i =>
    let lo := max g.dst (512 * (g.dst / 512 + i))
    let hi := 512 * (g.dst / 512 + i) + 512
    { g with dst := lo, src := g.src + (lo - g.dst), len := min (g.dst + g.len) hi - lo, span := min (g.dst + g.span) hi - lo }

/-- The destination lines of some runs, each with the parts that fall in it. -/
def lineUnits (l : List Seg) : List (Nat × List Seg) :=
  let ps := l.flatMap Seg.cut
  (ps.map fun g => g.dst / 512).eraseDups.map fun n => (n, ps.filter fun g => g.dst / 512 == n)

/-- A command as it goes: the state, poison and bits written, whether it is denied or waits, the lines moved. -/
structure RunSt where
  s : State
  p : Bool := false
  n : Nat := 0
  denied : Bool := false
  waits : Bool := false
  moved : List Nat := []

/-- Has a command met an access that stops it? -/
def RunSt.stopped (x : RunSt) : Bool := x.denied || x.waits

/-- The bound version that a command reads. -/
def State.cmdBound (s : State) (cmd : CeCmd) (region : Nat) : Nat := SMap.get (s.launch cmd.launch).versions region 0

/-- The agent that a strand is which issued a command: the bank where it now runs, or what stands for it while its group is imaged. -/
def State.issuer (s : State) (grp place sid : Nat) : Nat :=
  (s.bankAt grp place).getD (if (s.group grp).state == .imaged then savedAgent grp place else sid)

/-- The agent that a command reads and writes as. -/
def State.cmdAgent (s : State) (cmd : CeCmd) : Nat := s.issuer cmd.grp cmd.place cmd.sid

/-- How a command reads: its engine is the agent; with ACQ what happens before the command, and the strand's own earlier writes, happen before
its reads (R414, R423). -/
def State.cmdReader (s : State) (k : Nat) (cmd : CeCmd) : Reader :=
  let acq := cmd.acq || cmd.op == .meas
  { place := engineOf k, who := if acq then some (s.cmdAgent cmd) else none, num := cmd.seq, own := acq, pick := s.tick }

/-- Where a command's writes come from. -/
def CeCmd.tag_ (cmd : CeCmd) : WriteTag :=
  { launch := cmd.launch, grp := cmd.grp, place := cmd.place, seq := cmd.seq, eng := true, rel := cmd.rel }

/-- An engine has read or written a range for a group: the group is no longer confined to MRAM where a line lies elsewhere (R322). -/
def State.groupTouches (s : State) (grp ctx : Nat) (bound : Nat → Nat) (va n : Nat) (write : Bool) : State :=
  (cutLines va n).foldl (fun s l => match s.transIn (s.ctx ctx) l.1 write false bound with
    | .ok pa _ _ => s.leavesFor grp pa
    | _ => s) s
def State.cmdTouches (s : State) (cmd : CeCmd) (va n : Nat) (write : Bool) : State :=
  s.groupTouches cmd.grp cmd.ctx (s.cmdBound cmd) va n write

/-- The level at which a command writes: with REL its scope, else on the way to the home (R368). -/
def CeCmd.level (c : CeCmd) : Nat := if c.rel then Scope.level c.sc else 0

/-- A command of a queue changed. -/
def State.onCe (s : State) (k id : Nat) (f : CeCmd → CeCmd) : State :=
  let cl := s.cluster k
  s.setCluster k { cl with ceq := cl.ceq.map fun c => if c.id = id then f c else c }

/-- An access of an engine waits: for its home, or in the fault table on a page that is faulting (R441), which it enters once; a walk error
breaks its context (R436). -/
def State.engineWaits (s : State) (agent k ctx launch va : Nat) (write again : Bool) : State :=
  if s.walkFails agent ctx va then s.breakCtx ctx
  else
    let here := (s.die (k / 6)).faults.any fun f => f.ctx == ctx && some f.page == ((s.ctx ctx).leaf va).map (·.1)
    if s.transIn (s.ctx ctx) va write false (fun _ => 0) != .park || (again && here) then s
    else (s.park (k / 6) ctx va write launch).getD s

/-- An access parks on behalf of a command. -/
def State.parkFor (s : State) (k : Nat) (cmd : CeCmd) (va : Nat) (write : Bool) : State :=
  let page := fun (a : Nat) => ((s.ctx cmd.ctx).leaf a).map (·.1)
  (s.engineWaits (engineOf k) k cmd.ctx cmd.launch va write (cmd.parked.any fun p => page p.1 == page va)).onCe k cmd.id
    fun c => { c with parked := some (va, write) }

/-- The first address of a range that lies in a weight frame of a peer, which refuses writes (R467). -/
def State.peerRefuses (s : State) (ctx va n : Nat) : Option Nat :=
  (cutLines va n).findSome? fun l => match s.transIn (s.ctx ctx) l.1 true false (fun _ => 0) with
    | .ok pa _ _ => if peerWeight pa then some l.1 else none
    | _ => none

/-- An access of an engine that fails after its command issued: the group is aborted, and the work item completes FAULT with the address
(R443, R462, R467). -/
def State.failAtPeer (s : State) (grp place sid launch va : Nat) : State :=
  match s.bankAt grp place with
  | some n => s.escalateOutside n cPERM va 2
  | none => s.faultLaunch launch { sid := sid, cause := cPERM, kind := 2, info := va, time := s.power.dtime }

/-- Is the home of an address lost for good: the host link stayed away, or the peer is silent (R462, R467)? -/
def State.lostAt (s : State) (ctx va : Nat) (write : Bool) (bound : Nat → Nat) : Bool :=
  match s.transIn (s.ctx ctx) va write false bound with
  | .ok pa _ _ => s.lostHome pa
  | _ => false

/-- A denied access of a command: one whose home is lost fails its group as well. -/
def State.deniedFor (s : State) (cmd : CeCmd) (va : Nat) (write : Bool) : State :=
  if s.lostAt cmd.ctx va write (s.cmdBound cmd) then s.failAtPeer cmd.grp cmd.place cmd.sid cmd.launch va else s

/-- A read of a range for a command: what it reads, with its poison. -/
def RunSt.read (x : RunSt) (k : Nat) (cmd : CeCmd) (va n : Nat) : RunSt × List Byte × Bool :=
  if x.stopped then (x, [], false) else
  match x.s.readRange (x.s.cmdReader k cmd) cmd.ctx false (x.s.cmdBound cmd) va n (lid := some cmd.launch) with
  | .denied a => ({ x with s := x.s.deniedFor cmd a false, denied := true }, [], false)
  | .park a => ({ x with s := x.s.parkFor k cmd a false, waits := true }, [], false)
  | .bytes bs p => ({ x with s := (x.s.cmdTouches cmd va n false).openRange cmd.ctx (x.s.cmdBound cmd) va n }, bs, p)

/-- Bits of global memory from a bit address, with the poison of their lines. -/
def RunSt.memBits (x : RunSt) (k : Nat) (cmd : CeCmd) (at_ len : Nat) : RunSt × Nat × Bool :=
  let n := (at_ + len + 7) / 8 - at_ / 8
  let (x, bs, p) := x.read k cmd (at_ / 8) n
  (x, ofBytes bs / 2 ^ (at_ % 8) % 2 ^ len, p)

/-- Bits of a core's scratchpad as an engine reads them (R246), with the poison of their lines. -/
def RunSt.padBits (x : RunSt) (core at_ len : Nat) : RunSt × Nat × Bool :=
  let c := x.s.core core
  (x, (c.raceView x.s.tick).spBits at_ len, c.badScale at_ len || (bitLines at_ len).any fun l => c.spPoison.contains l)

/-- The parts of a line read, each with its bits, and the poison of any of them and of the scales that they are tied to (R370, R494). -/
def RunSt.gather (x : RunSt) (get : RunSt → Nat → Nat → RunSt × Nat × Bool) (l : List Seg) : RunSt × List (Seg × Nat) × Bool :=
  l.foldl (fun r g =>
    let (x, v, p) := get r.1 g.src g.len
    let (x, q) := match g.tie with
      | some b => let z := get x b 8; (z.1, z.2.2)
      | none => (x, false)
    (x, r.2.1 ++ [(g, v)], r.2.2 || p || q)) (x, [], false)

/-- Bits that some parts account for in their line. -/
def lineSpan (l : List (Seg × Nat)) : Nat := (l.map fun e => e.1.span).sum

/-- A run has moved a line. -/
def RunSt.counts (x : RunSt) (l : List (Seg × Nat)) (p : Bool) : RunSt :=
  { x with p := x.p || p, n := x.n + (l.map fun e => e.1.len).sum }

/-- A line of a scratchpad written by an engine: a poisoned source poisons it, a whole line of clean data clears it (R370). -/
def Core.engineLine (c : Core) (line : Nat) (l : List (Seg × Nat)) (p : Bool) : Core :=
  let d := l.foldl (fun c e => c.setSpBits e.1.dst e.1.span e.2) c
  if p then { d with spPoison := insertNat d.spPoison line }
  else if 512 ≤ lineSpan l then { d with spPoison := d.spPoison.filter (· != line) } else d

/-- A line of a scratchpad takes its parts. -/
def RunSt.putPad (x : RunSt) (core line : Nat) (l : List (Seg × Nat)) (p : Bool) : RunSt :=
  let c := x.s.core core
  { x with s := x.s.setCore core (c.raceWrite (c.engineLine line l p) x.s.tick [line]) }.counts l p

/-- The 64 bytes of a line of global memory that some parts write, with gaps. -/
def lineBytes (line : Nat) (l : List (Seg × Nat)) : List (Option Byte) :=
  (List.range 64).map fun i =>
    let b := 512 * line + 8 * i
    (l.find? fun e => decide (e.1.dst ≤ b) && decide (b < e.1.dst + e.1.len)).map fun e => BitVec.ofNat 8 (e.2 / 2 ^ (b - e.1.dst))

/-- A line of global memory takes its parts, in one write (R297, R370). -/
def RunSt.putMem (x : RunSt) (k : Nat) (cmd : CeCmd) (line : Nat) (l : List (Seg × Nat)) (p : Bool) : RunSt :=
  match l.findSome? fun e => x.s.peerRefuses cmd.ctx (e.1.dst / 8) (e.1.len / 8) with
  | some a => { x with s := x.s.failAtPeer cmd.grp cmd.place cmd.sid cmd.launch a, denied := true }
  | none =>
  match l.findSome? fun e => x.s.probeWrite (engineOf k) cmd.ctx false (e.1.dst / 8) (e.1.len / 8) with
  | some (true, a) => { x with s := x.s.deniedFor cmd a true, denied := true }
  | some (false, a) => { x with s := x.s.parkFor k cmd a true, waits := true }
  | none =>
    let clears := !p && decide (512 ≤ lineSpan l)
    let s := x.s.writeSome (x.s.cmdAgent cmd) cmd.level cmd.ctx (64 * line) (lineBytes line l) p clears cmd.tag_
    { x with s := s.cmdTouches cmd (64 * line) 64 true }.counts l p

/-- The lines of a command that `sel` chooses and that it has not moved yet, one by one until an access stops it. -/
def RunSt.lines (x : RunSt) (sel : Nat → Bool) (move : RunSt → Nat × List Seg → RunSt) (us : List (Nat × List Seg)) : RunSt :=
  us.zipIdx.foldl (fun x u =>
    if x.stopped || x.moved.contains u.2 || !sel u.2 then x else
    let y := move x u.1
    if y.stopped then y else { y with moved := u.2 :: y.moved }) x

/-! ### The copy forms (R371) -/

/-- A place of bits: where they lie, how many, how much padding stands after them, and where the scale byte of their block lies. -/
structure Extent where
  off : Nat
  len : Nat
  pad : Nat := 0
  tie : Option Nat := none
  deriving DecidableEq, Repr

/-- Bit offset of an element of a LOCAL or SHARED tile, and of its scale byte. -/
def Tile.elemAt (t : Tile) (r c : Nat) : Nat := t.rowAt r + c * t.ety.width
def Tile.scaleByteAt (t : Tile) (r c : Nat) : Nat := t.scaleAt + 8 * (r * t.rowBlocks + c / 32)

/-- A row of a block of a LOCAL or SHARED tile: its elements, by blocks of 32 where the type has scales, and then its scale bytes. -/
def Tile.rowExtents (t : Tile) (r c n : Nat) : List Extent :=
  let w := t.ety.width
  let pad := fun (e : Nat) => if c + n = t.cols && e = n then 512 * t.pitch - t.rowBits else 0
  if t.ety.isMx then
    ((List.range (n / 32)).map fun j =>
      ({ off := t.elemAt r (c + 32 * j), len := 32 * w, pad := pad (32 * j + 32), tie := some (t.scaleByteAt r (c + 32 * j)) } : Extent)) ++
    [{ off := t.scaleByteAt r c, len := 8 * (n / 32),
       pad := if r + 1 = t.rows && c / 32 + n / 32 = t.rowBlocks then (512 - 8 * t.scaleBytes % 512) % 512 else 0 }]
  else [{ off := t.elemAt r c, len := n * w, pad := pad n }]

/-- The same row in global memory from an address on (R371). -/
def memExtents (ty : ElemType) (va n : Nat) : List Extent :=
  let w := ty.width
  let scales := va + n * w / 8
  if ty.isMx then
    ((List.range (n / 32)).map fun j => ({ off := 8 * va + 32 * w * j, len := 32 * w, tie := some (8 * (scales + j)) } : Extent)) ++
    [{ off := 8 * scales, len := 8 * (n / 32) }]
  else [{ off := 8 * va, len := n * w }]

/-- Runs from places to places; with `ties` a block goes with the poison of its scale (R494). -/
def segsOf (ties : Bool) (from_ to_ : List Extent) : List Seg :=
  List.zipWith (fun s d => { dst := d.off, src := s.off, len := s.len, span := s.len + d.pad, tie := if ties then s.tie else none }) from_ to_

/-- The lines of a `cp`. -/
def cpLines (cmd : CeCmd) (d t : Tile) : List (Nat × List Seg) :=
  let (r, n) := (field cmd.c 0 13, field cmd.c 13 13)
  lineUnits ((List.range r).flatMap fun i =>
    segsOf true (t.rowExtents (refRow cmd.b + i) (refCol cmd.b) n) (d.rowExtents (refRow cmd.a + i) (refCol cmd.a) n))

/-- `cp` (R371). -/
def runCp (x : RunSt) (k : Nat) (cmd : CeCmd) (sel : Nat → Bool) : RunSt :=
  match cmd.dst, cmd.src with
  | some d, some t =>
    x.lines sel (fun x u =>
      let (x, l, p) := x.gather (fun x => x.padBits (coreAt k t.core)) u.2
      x.putPad (coreAt k d.core) u.1 l p) (cpLines cmd d t)
  | _, _ => { x with denied := true }

/-- The lines of a `cpg`. -/
def cpgLines (cmd : CeCmd) : List (Nat × List Seg) :=
  if cmd.c = 0 then [] else lineUnits [{ dst := 8 * cmd.a, src := 8 * cmd.b, len := 8 * cmd.c, span := 8 * cmd.c }]

/-- The byte that a command has written at an address, if it has and the write is not at .sy. -/
def State.wrote? (s : State) (cmd : CeCmd) (va : Nat) : Option Byte :=
  match s.transIn (s.ctx cmd.ctx) va true false (fun _ => 0) with
  | .ok pa _ _ => (s.mem.narrow.filter fun w => w.tag.eng && w.tag.grp == cmd.grp && w.tag.place == cmd.place && w.tag.seq == cmd.seq).foldl
      (fun b w => (w.at? pa).orElse fun _ => b) none
  | _ => none

/-- The bytes that a `cpg` moves from a range of its source. One that it has written itself already comes as it was or as it was written, a
free choice (R370, R371, log 12). -/
def overlapBits (s : State) (cmd : CeCmd) (at_ len v : Nat) : Nat :=
  if cmd.b < cmd.a ∧ cmd.a < cmd.b + cmd.c then
    let d0 := cmd.a + (at_ / 8 - cmd.b)
    let step := fun (bs : List Nat) (i : Nat) =>
      let sa := at_ / 8 + i
      let old := elem 8 v i
      let new := if d0 ≤ sa then (bs[sa - d0]?).getD old else ((s.wrote? cmd sa).map BitVec.toNat).getD old
      bs ++ [if cmd.a ≤ sa && Config.freeNat (s.tick + at_ + i) % 2 == 1 then new else old]
    ofElems 8 ((List.range (len / 8)).foldl step [])
  else v

/-- `cpg`: lines of the destination in ascending order; the early ones are the first `sel` lines. -/
def runCpg (x : RunSt) (k : Nat) (cmd : CeCmd) (sel : Nat → Bool) : RunSt :=
  let us := cpgLines cmd
  x.lines (fun i => (List.range (i + 1)).all sel) (fun x u =>
    let (x, l, p) := x.gather (fun x at_ len =>
      let (y, v, p) := x.memBits k cmd at_ len
      (y, overlapBits x.s cmd at_ len v, p)) u.2
    if x.stopped then x else x.putMem k cmd u.1 l p) us

/-- The lines of a `cps`. -/
def cpsLines (cmd : CeCmd) (t : Tile) : List (Nat × List Seg) :=
  let (r, n, pitch) := (field cmd.c 0 13, field cmd.c 13 13, field cmd.c 32 32)
  lineUnits ((List.range r).flatMap fun i =>
    let inTile := t.rowExtents (refRow cmd.a + i) (refCol cmd.a) n
    let inMem := memExtents t.ety (cmd.b + i * pitch) n
    if bit cmd.c 26 then segsOf true inTile (inMem.map fun e => { e with pad := 0 }) else segsOf true inMem inTile)

/-- `cps`: rows between a tile and global memory; a poisoned scale line poisons the blocks that it scales (R371, R494). -/
def runCps (x : RunSt) (k : Nat) (cmd : CeCmd) (sel : Nat → Bool) : RunSt :=
  match cmd.dst with
  | none => { x with denied := true }
  | some t =>
    let core := coreAt k t.core
    x.lines sel (fun x u =>
      let (x, l, p) := x.gather (if bit cmd.c 26 then fun x => x.padBits core else fun x => x.memBits k cmd) u.2
      if x.stopped then x
      else if bit cmd.c 26 then x.putMem k cmd u.1 l p
      else x.putPad core u.1 l p) (cpsLines cmd t)

/-! ### `stage` (R372) -/

/-- A dense row as strips (R253, R372). -/
def stripRow (t : Tile) (bs : List Byte) : List Byte :=
  let w := if t.ety.isBp then 8 else t.ety.width
  let v := ofBytes bs
  let es := (List.range t.cols).map fun n => stripBits t.ety (elem w v n)
  (List.range (t.pitch / 16)).flatMap fun st =>
    toBytes (ofElems 1 ((List.range 128).map fun n => ofBit ((((es[n]?).getD [])[st]?).getD false))) 16

/-- Do all pages of a range hold weights? -/
def Ctx.allWeight (c : Ctx) (va n : Nat) : Bool :=
  (c.pagesOf va n).all fun p => match p.2 with
    | some e => pteState e == pgWeight
    | none => false

/-- What a `stage` takes: the rows and then the blocks of scales, each with its number in the tile, its place in the B-stack in bytes,
its source and its bytes there. -/
structure StageRow where
  num : Nat
  at_ : Nat
  va : Nat
  bytes : Nat
  deriving DecidableEq, Repr

def stageRows (cmd : CeCmd) (t : Tile) : List StageRow :=
  let (r, sf, row) := (field cmd.c 0 13, bit cmd.c 13, refRow cmd.a)
  let n := stageRow t sf
  ((List.range r).map fun i =>
    ({ num := row + i, at_ := 64 * t.base + (row + i) * t.pitch, va := cmd.b + i * n, bytes := n } : StageRow)) ++
  if t.ety.isMx then (List.range (r / 32)).map fun i =>
    { num := t.rows + row / 32 + i, at_ := 64 * t.base + t.rows * t.pitch + 128 * (row / 32 + i), va := cmd.b + r * n + 128 * i, bytes := 128 }
  else []

/-- The lines of a `stage`; the runs of a row that comes as dense elements are read from the strips that it is converted to. -/
def stageLines (cmd : CeCmd) (t : Tile) : List (Nat × List Seg) :=
  lineUnits ((stageRows cmd t).map fun r =>
    let len := if r.num < t.rows then 8 * t.pitch else 8 * r.bytes
    { dst := 8 * r.at_, src := if bit cmd.c 13 then 8 * r.at_ else 8 * r.va, len := len, span := len })

/-- The strips of the rows that hold a bit of the B-stack, from dense elements. -/
def RunSt.denseBits (x : RunSt) (k : Nat) (cmd : CeCmd) (t : Tile) (at_ len : Nat) : RunSt × Nat × Bool :=
  match (stageRows cmd t).find? fun r => decide (8 * r.at_ ≤ at_) && decide (at_ < 8 * (r.at_ + t.pitch)) with
  | none => (x, 0, false)
  | some r =>
    let (x, bs, p) := x.read k cmd r.va r.bytes
    (x, field (ofBytes (stripRow t bs)) (at_ - 8 * r.at_) len, p)

/-- The same tile of the tables of a cluster changed: the foreground's or the shadow's. -/
def State.onTile (s : State) (k h : Nat) (t : Tile) (f : Tile → Tile) : State :=
  let cl := s.cluster k
  let same := fun (m : SMap Tile) => (SMap.find m h).any fun x => x.level == t.level && x.core == t.core && x.base == t.base
  if same cl.tiles then s.setCluster k { cl with tiles := cl.tiles.map fun e => if e.1 = h then (h, f e.2) else e }
  else if same cl.shadow then s.setCluster k { cl with shadow := cl.shadow.map fun e => if e.1 = h then (h, f e.2) else e }
  else s

/-- A line of a B-stack takes its parts; the counts of the rows that it holds are formed, and poison marks the whole tile (R124,
R372). -/
def RunSt.putStack (x : RunSt) (k h : Nat) (t : Tile) (line : Nat) (l : List (Seg × Nat)) (p : Bool) : RunSt :=
  let n := coreAt k t.core
  let old := x.s.core n
  let c := l.foldl (fun (c : Core) e => c.setB line (setField (c.bLine line) (e.1.dst % 512) e.1.span e.2)) old
  let c := if 512 ≤ lineSpan l then { c with bPoison := dropNats c.bPoison line 1, bScaleBad := dropNats c.bScaleBad (64 * line) 64 } else c
  let row := (64 * line - 64 * t.base) / t.pitch
  let c := (old.raceWriteB c [line]).formCounts t row ((64 + t.pitch - 1) / t.pitch + 1)
  let s := x.s.setCore n c
  { x with s := if p then s.onTile k h t fun t => { t with poisoned := true } else s }.counts l p

/-- The rows of a tile after a `stage` of it: which of them weight pages filled, and the mark of poison (R317, R372). -/
def Tile.stagedBy (t : Tile) (c : Ctx) (cmd : CeCmd) (p : Bool) : Tile :=
  let rs := stageRows cmd t
  let whole := (List.range t.rows).all fun i => rs.any fun r => r.num == i
  { t with poisoned := p || (t.poisoned && !whole),
           staged := rs.foldl (fun m r =>
             if c.allWeight r.va r.bytes then SMap.insert m r.num (r.va, bit cmd.c 13 && decide (r.num < t.rows)) else SMap.erase m r.num) t.staged }

/-- `stage` (R372). What a denied access leaves are the lines before it, with their counts and the mark of poison in them (R367). -/
def runStage (x : RunSt) (k : Nat) (cmd : CeCmd) (sel : Nat → Bool) : RunSt :=
  match cmd.dst with
  | none => { x with denied := true }
  | some t =>
    let us := stageLines cmd t
    let x := x.lines sel (fun x u =>
      let (x, l, p) := x.gather (if bit cmd.c 13 then fun x => x.denseBits k cmd t else fun x => x.memBits k cmd) u.2
      if x.stopped then x else x.putStack k (refH cmd.a) t u.1 l p) us
    if x.stopped || x.moved.length < us.length then x
    else { x with s := x.s.onTile k (refH cmd.a) t fun t => t.stagedBy (x.s.ctx cmd.ctx) cmd x.p }

/-! ### Sealed records (R344, R345, R373) -/

/-- A channel of a context. -/
def Ctx.channel (c : Ctx) (id : Nat) : Option Channel := c.channels.find? (·.id == id)
def Ctx.setChannel (c : Ctx) (ch : Channel) : Ctx := { c with channels := c.channels.map fun x => if x.id = ch.id then ch else x }

/-- The IV of a record (R345). -/
def recordIv (chan ctr : Nat) : List Byte := beBytes chan 4 ++ beBytes ctr 8

/-- LEN is valid: a multiple of 64 from 64 to 65 536. -/
def recordLen (n : Nat) : Bool := n % 64 == 0 && decide (64 ≤ n) && decide (n ≤ 65536)

/-- Is every page of a range of a state? -/
def Ctx.allState (c : Ctx) (va n st : Nat) : Bool :=
  (c.pagesOf va n).all fun p => match p.2 with
    | some e => pteState e == st
    | none => false

/-- Is every line of a destination a page of the context under its key slot: mapped, writable, in keyed memory? -/
def Ctx.underKey (c : Ctx) (va n : Nat) : Bool :=
  (c.pagesOf va n).all fun p => match p.2 with
    | some e => pteW e && !pteEp e && keyed (ptePa e)
    | none => false

/-- A range that a sealed form or a `meas` reads: denied, held, or open (R345, R373). -/
def State.readFor (s : State) (k : Nat) (cmd : CeCmd) (va n : Nat) : RangeRead :=
  s.readRange (s.cmdReader k cmd) cmd.ctx false (s.cmdBound cmd) va n (lid := some cmd.launch)

/-- Which lines of a range are poisoned. -/
def State.badLines (s : State) (k : Nat) (cmd : CeCmd) (va n : Nat) : List Bool :=
  (cutLines va n).map fun l => match s.readFor k cmd l.1 l.2.1 with
    | .bytes _ p => p
    | _ => false

/-- What a sealed form reads has been read. -/
def State.haveRead (s : State) (cmd : CeCmd) (va n : Nat) : State :=
  (s.cmdTouches cmd va n false).openRange cmd.ctx (s.cmdBound cmd) va n

/-- Where a sealed form writes, and which channel it moves on when it is done. -/
def CeCmd.target (cmd : CeCmd) : Nat := if cmd.op == .openRec then cmd.b else cmd.a

/-- A sealed form that has passed its checks writes its lines one by one, those that `sel` chooses (R370); once all are written its
channel's E goes on (R345, R373). -/
def State.runLines (s : State) (k : Nat) (cmd : CeCmd) (bs : List Byte) (bad : List Bool) (sel : Nat → Bool) : RunSt :=
  let x : RunSt := { s := s, p := cmd.p, n := cmd.n, moved := cmd.moved }
  (cutLines cmd.target bs.length).zipIdx.foldl (fun x l =>
    if x.stopped || x.moved.contains l.2 || !sel l.2 then x else
    match x.s.probeWrite (engineOf k) cmd.ctx false l.1.1 l.1.2.1 with
    | some (true, a) => { x with s := x.s.deniedFor cmd a true, denied := true }
    | some (false, a) => { x with s := x.s.parkFor k cmd a true, waits := true }
    | none =>
      let q := (bad[l.2]?).getD false
      let s := x.s.writeLine (x.s.cmdAgent cmd) cmd.level cmd.ctx l.1.1 ((bs.drop l.1.2.2).take l.1.2.1) q false cmd.tag_
      { x with s := s.cmdTouches cmd l.1.1 l.1.2.1 true, p := x.p || q, n := x.n + 8 * l.1.2.1, moved := l.2 :: x.moved }) x

/-- What the checks of a sealed form come to: it waits; it ends with a status, its channel changed or not; it writes bytes. -/
inductive Checked where
  | wait (s : State)
  | stop (s : State) (status : Status)
  | pass (s : State) (bs : List Byte) (bad : List Bool)

/-- `open` up to its first write (R345): a line of the plaintext is as poisoned as its ciphertext. -/
def checkOpen (s : State) (k : Nat) (cmd : CeCmd) : Checked :=
  let c := s.ctx cmd.ctx
  let fault := Checked.stop s .fault
  if !c.world || !c.allState cmd.a 64 pgSealed then fault else
  match s.readFor k cmd cmd.a 64 with
  | .denied a => .stop (s.deniedFor cmd a false) .fault
  | .park a => .wait (s.parkFor k cmd a false)
  | .bytes h hp =>
    let chan := ofBytes (h.take 4)
    let ctr := ofBytes ((h.drop 4).take 8)
    let len := ofBytes ((h.drop 12).take 4)
    match c.channel chan with
    | none => fault
    | some ch =>
      if hp || chan != cmd.c || bit chan 31 || !recordLen len || (h.drop 16).any (· != 0) then fault
      else if ch.failures = 16 then .stop s .tagfail
      else if ctr ≠ ch.e || 2 ^ 64 - 1 ≤ ch.e then .stop s .replay
      else if 2 ^ 52 < cmd.a + 80 + len then fault
      else match s.readFor k cmd (cmd.a + 64) (len + 16) with
        | .denied a => .stop (s.deniedFor cmd a false) .fault
        | .park a => .wait (s.parkFor k cmd a false)
        | .bytes bs _ =>
          let bad := s.badLines k cmd (cmd.a + 64) len
          let s := s.haveRead cmd cmd.a (80 + len)
          match gcmOpen (keyBytes ch.key) (recordIv chan ctr) h (bs.take len) (bs.drop len) with
          | none => .stop (s.setCtx cmd.ctx ((s.ctx cmd.ctx).setChannel { ch with failures := ch.failures + 1 })) .tagfail
          | some p =>
            if !c.underKey cmd.b len then .stop s .fault
            else match s.probeWrite (engineOf k) cmd.ctx false cmd.b len with
              | some (true, a) => .stop (s.deniedFor cmd a true) .fault
              | some (false, a) => .wait (s.parkFor k cmd a true)
              | none => .pass s p bad

/-- `seal` up to its first write (R373): a line of the ciphertext is as poisoned as its plaintext. -/
def checkSeal (s : State) (k : Nat) (cmd : CeCmd) : Checked :=
  let c := s.ctx cmd.ctx
  let fault := Checked.stop s .fault
  let chan := cmd.c % 2 ^ 32
  let len := field cmd.c 32 17
  match c.channel chan with
  | none => fault
  | some ch =>
    if !c.world || !bit chan 31 || !recordLen len || 2 ^ 64 - 1 ≤ ch.e || !c.allState cmd.a (80 + len) pgSealed then fault
    else match s.readFor k cmd cmd.b len with
      | .denied a => .stop (s.deniedFor cmd a false) .fault
      | .park a => .wait (s.parkFor k cmd a false)
      | .bytes p _ =>
        match s.probeWrite (engineOf k) cmd.ctx false cmd.a (80 + len) with
        | some (true, a) => .stop (s.deniedFor cmd a true) .fault
        | some (false, a) => .wait (s.parkFor k cmd a true)
        | none =>
          let bad := s.badLines k cmd cmd.b len
          let h := recordBytes 64 [(0, 4, chan), (4, 8, ch.e), (12, 4, len)]
          let r := gcmSeal (keyBytes ch.key) (recordIv chan ch.e) h p
          .pass (s.haveRead cmd cmd.b len) (h ++ r.1 ++ r.2) (false :: bad)

/-! ### Begin and completion (R365, R368, R369) -/

/-- A copy or a `stage` goes on from what it has moved: the lines that `sel` chooses. -/
def runCopy (s : State) (k : Nat) (cmd : CeCmd) (sel : Nat → Bool) : RunSt :=
  let x : RunSt := { s := s, p := cmd.p, n := cmd.n, moved := cmd.moved }
  match cmd.op with
  | .cp => runCp x k cmd sel
  | .cpg => runCpg x k cmd sel
  | .cps => runCps x k cmd sel
  | .stage => runStage x k cmd sel
  | _ => x

/-- A command of the queue replaced. -/
def State.setCe (s : State) (k : Nat) (cmd : CeCmd) : State := s.onCe k cmd.id fun _ => cmd

/-- A run as far as it has come: the command keeps what it has moved. -/
def RunSt.kept (x : RunSt) (k : Nat) (cmd : CeCmd) : State :=
  x.s.onCe k cmd.id fun c => { c with moved := x.moved, p := x.p, n := x.n }

/-- A run as its end: the bytes that it wrote count, also those before a denied access (R367, R369). -/
def RunSt.toRun (x : RunSt) (k : Nat) (cmd : CeCmd) : Run :=
  if x.waits then .wait (x.kept k cmd) else .done x.s (if x.denied then .fault else .ok) x.p ((x.n + 7) / 8)

/-- The scope up to which a command waits for the strand's accesses before its first read (R336, R368). -/
def CeCmd.acquire (c : CeCmd) : Option Nat :=
  match c.op with
  | .meas => some 5
  | _ => if c.acq then some (Scope.level c.sc) else none

/-- Does a copy stand still, since its group is imaged and its tiles with it (R316)? -/
def CeCmd.paused (c : CeCmd) : Bool := (c.op == .cp || c.op == .cps || c.op == .stage) && c.dst.isNone

/-- Does a command stand still: with its group imaged, or with a core that its tiles lie in saved (R316, R319)? -/
def State.stands (s : State) (k : Nat) (c : CeCmd) : Bool :=
  c.paused || (c.dst.toList ++ c.src.toList).any fun t => (s.core (coreAt k t.core)).saved

/-- May a command begin: the strand's order, also among commands that it left at another cluster, two engines, and its acquire (R365,
R368)? -/
def State.mayBegin (s : State) (k : Nat) (cmd : CeCmd) : Bool :=
  let q := (s.cluster k).ceq
  let earlier := s.clusters.flatMap fun e => e.2.ceq.filter fun c =>
    c.grp == cmd.grp && c.place == cmd.place && (decide (c.seq < cmd.seq) || (e.1 == k && c.seq == cmd.seq && decide (c.id < cmd.id)))
  !cmd.begun && !s.stands k cmd && earlier.all (·.begun) && decide ((q.filter fun c => c.begun && !s.stands k c && c.op != .ckpt).length < 2) &&
    (match cmd.acquire with
     | none => true
     | some level => earlier.isEmpty && (s.memberAt cmd.grp cmd.place).any fun st => (st.lq ++ st.sq).all fun a =>
         decide (cmd.seq ≤ a.seq) || a.doneAt level)

/-- How far a strand of a cluster stands behind the one that its engines served last. -/
def Cluster.turnOf (c : Cluster) (sid : Nat) : Nat := (sid % 64 + 63 - c.rr % 64) % 64

/-- Is it a command's turn: does no strand between the one served last and its own have one that may begin (R365)? -/
def State.engineTurn (s : State) (k : Nat) (cmd : CeCmd) : Bool :=
  let cl := s.cluster k
  cmd.op == .ckpt || cl.ceq.all fun c => c.op == .ckpt || decide (cl.turnOf cmd.sid ≤ cl.turnOf c.sid) || !s.mayBegin k c

/-- A checkpoint descriptor (R453): its area and capacity. -/
def readDescriptor (s : State) (k : Nat) (cmd : CeCmd) : Except Bool (Nat × Nat) :=
  match s.readFor k cmd cmd.a 64 with
  | .denied _ => .error false
  | .park _ => .error true
  | .bytes bs p => if p || (bs.drop 16).any (· != 0) then .error false else .ok (ofBytes (bs.take 8), ofBytes ((bs.drop 8).take 8))

/-- Is the superstep generation that a checkpoint awaits still to complete? -/
def State.ckptOpen (s : State) (p : Ckpt) : Bool :=
  match (s.launch p.launch).barrier with
  | .open_ h => decide (h ≤ p.gen)
  | _ => false

/-- A `ckpt` begins: it joins the checkpoint of its launch and generation, one that has failed as well, or becomes its first; none where it
has to wait (R453, R454). A refused one is a checkpoint that has failed. -/
def State.beginCkpt (s : State) (k : Nat) (cmd : CeCmd) : State :=
  let c := s.ctx cmd.ctx
  let first := fun (s : State) =>
    match readDescriptor s k cmd with
    | .error true => s.parkFor k cmd cmd.a false
    | r =>
      let (area, cap, bad) := match r with
        | .ok (x, y) => (x, y, c.window.isNone)
        | .error _ => (0, 0, true)
      (s.setCtx cmd.ctx { c with ckpt := some { launch := cmd.launch, gen := cmd.c, area := area, capacity := cap,
                                                number := c.ckptGen, cmds := [(k, cmd.id)], failed := bad } }).onCe k cmd.id
        fun x => { x with begun := true }
  match c.ckpt with
  | some p =>
    if p.launch = cmd.launch && p.gen = cmd.c && !p.taken then
      (s.setCtx cmd.ctx { c with ckpt := some { p with cmds := p.cmds ++ [(k, cmd.id)] } }).onCe k cmd.id fun x => { x with begun := true }
    else if p.cmds.isEmpty && !s.ckptOpen p then first s
    else s
  | none => first s

/-- A command begins where its strand's turn has come; some of its lines move at once, which ones is free (R370). -/
def execCeCommandBegin (cluster k : Nat) (s : State) : Host.Outcome State Fault Refusal :=
  match (s.cluster cluster).ceq[k]? with
  | none => .next s
  | some cmd =>
    if !s.mayBegin cluster cmd || !s.engineTurn cluster cmd || s.power.kiln != .running then .next s
    else if cmd.op == .ckpt then .next (s.beginCkpt cluster cmd)
    else
      let cmd := { cmd with begun := true, beganAt := s.tick }
      let s := s.setCe cluster cmd
      let s := s.setCluster cluster { s.cluster cluster with rr := cmd.sid % 64 }
      .next ((runCopy s cluster cmd fun i => Config.movedEarly (s.tick + i)).kept cluster cmd).bump

/-- The entry of a strand that a command posts to takes its data (R369, R390). -/
def Strand.posted (st : Strand) (q tag data : Nat) : Strand :=
  let r := st.qGet q
  st.setQ q { r with entries := r.entries.map fun e =>
    if e.tag = tag && !e.arrived && r.kind == .explicit then { e with data := BitVec.ofNat 4096 data, arrived := true } else e }

/-- Does a strand still hold the entry that a command posts to? -/
def Strand.awaits (st : Strand) (q tag : Nat) : Bool :=
  (st.qGet q).kind == .explicit && (st.qGet q).entries.any fun e => e.tag == tag && !e.arrived

/-- A completion is posted to a strand; while its group is imaged it is held until the group is back (R316, R369). -/
def State.postTo (s : State) (grp place q tag data : Nat) : State :=
  match s.bankAt grp place with
  | some sid => s.setStrand sid ((s.strand sid).posted q tag data)
  | none =>
    let g := s.group grp
    if g.state == .imaged then s.setGroup grp { g with held := g.held ++ [(place, q, tag, data)] } else s

/-- What becomes of a completion: it goes to its entry, or, where there is none, a status other than OK is counted; that of a command of
a group that has ended is discarded (R309, R369, R390). -/
def State.postOrCount (s : State) (grp place launch : Nat) (qe : Bool) (q tag status data : Nat) : State :=
  match s.memberAt grp place with
  | none => s
  | some st =>
    if qe && st.awaits q tag then s.postTo grp place q tag data
    else if (qe && !st.halting) || status = 0 then s
    else s.setLaunch launch { s.launch launch with engerr := (s.launch launch).engerr + 1 }

/-- The lines of a tile that no handle of a cluster names any more are zeroed (R277, R309). -/
def State.zeroFreed (s : State) (k : Nat) (t : Tile) : State :=
  let cl := s.cluster k
  if (cl.tiles.map (·.2) ++ cl.shadow.map (·.2)).any fun x => sameStore x t.level t.core && x.base == t.base then s else s.zeroTile k t

/-- A completed command leaves the queue; its status goes to its entry, or is counted (R369, R390). -/
def State.finishCe (s : State) (k : Nat) (cmd : CeCmd) (status data : Nat) : State :=
  let cl := s.cluster k
  let s := s.setCluster k { cl with ceq := cl.ceq.filter fun c => c.id != cmd.id }
  let s := (cmd.dst.toList ++ cmd.src.toList).foldl (fun s t => s.zeroFreed k t) s
  s.postOrCount cmd.grp cmd.place cmd.launch cmd.qe cmd.q cmd.tag status data

/-- The end of a copy, a `stage`, a `seal` or an `open` (R369). -/
def State.endCopy (s : State) (k : Nat) (cmd : CeCmd) : Run → State
  | .wait t => t
  | .done t status p n =>
    let _ := s
    t.finishCe k cmd status.code (status.code + 2 ^ 8 * ofBit p + 2 ^ 32 * min n (2 ^ 32 - 1))

/-- A `seal` or an `open` goes on: its checks, after which some of its lines may be written at once (R370), or the lines that are left and
its end. -/
def State.endSealed (s : State) (k : Nat) (cmd : CeCmd) : State :=
  match cmd.out with
  | none =>
    match if cmd.op == .openRec then checkOpen s k cmd else checkSeal s k cmd with
    | .wait t => t
    | .stop t status => s.endCopy k cmd (.done t status false 0)
    | .pass t bs bad =>
      ((t.runLines k cmd bs bad fun i => Config.movedEarly (t.tick + i)).kept k cmd).bump.onCe k cmd.id fun c => { c with out := some (bs, bad) }
  | some (bs, bad) =>
    let x := s.runLines k cmd bs bad fun _ => true
    let c := x.s.ctx cmd.ctx
    let chan := cmd.c % 2 ^ 32
    let t := if x.stopped then x.s else match c.channel chan with
      | some ch => x.s.setCtx cmd.ctx (c.setChannel { ch with e := ch.e + 1 })
      | none => x.s
    s.endCopy k cmd ({ x with s := t }.toRun k cmd)

/-- The end of a `meas` (R336). -/
def State.endMeas (s : State) (k : Nat) (cmd : CeCmd) : State :=
  let l := s.launch cmd.launch
  let fin := fun (s : State) (st : Nat) (digest : List Byte) =>
    let s := if st = 0 then s else s.setLaunch cmd.launch { s.launch cmd.launch with measLost := true }
    s.finishCe k cmd st (st + 2 ^ 64 * ofBytes digest)
  let read := if cmd.b = 0 then RangeRead.bytes [] false else s.readFor k cmd cmd.a cmd.b
  match read with
  | .denied a => fin (s.deniedFor cmd a false) 3 []
  | .park a => s.parkFor k cmd a false
  | .bytes bs p =>
    let s := s.haveRead cmd cmd.a cmd.b
    if p then fin s 2 []
    else if 64 ≤ l.measured.length then fin s 1 []
    else
      let d := sha3 bs
      let r : MeasRec := { task := (s.group cmd.grp).task, sid := cmd.sid, seq := cmd.seq, len := bs.length, digest := d }
      fin (s.setLaunch cmd.launch { l with measured := l.measured ++ [r] }) 0 d

/-- Bytes in the stream before its granules (R455). -/
def ckptHead (n : Nat) : Nat := 65536 * ((64 + 8 * n + 65535) / 65536)

/-- Header and manifest of a stream (R455). -/
def Ckpt.headBytes (p : Ckpt) (ctx : Nat) : List Byte :=
  recordBytes 64 [(0, 4, 0x434B5047), (4, 2, 1), (6, 2, ctx), (8, 8, p.number), (16, 8, p.manifest.length), (24, 8, p.time),
    (32, 8, p.launch)] ++ p.manifest.flatMap fun g => le (65536 * g) 8

/-- A `ckpt` leaves its checkpoint and completes; a checkpoint that failed before its snapshot stays for those that still await its
generation (R454). -/
def State.leaveCkpt (s : State) (k : Nat) (cmd : CeCmd) (p : Ckpt) (status : Status) : State :=
  let cmds := p.cmds.filter (· != (k, cmd.id))
  let stays := p.failed && !p.taken && s.ckptOpen p
  let s := s.setCtx cmd.ctx { s.ctx cmd.ctx with ckpt := if cmds.isEmpty && !stays then none else some { p with cmds := cmds } }
  s.finishCe k cmd status.code (status.code + 2 ^ 32 * p.manifest.length + 2 ^ 64 * p.number)

/-- The end of a `ckpt`: once its granules are streamed, or it has failed (R453 to R455). -/
def State.endCkpt (s : State) (k : Nat) (cmd : CeCmd) : State :=
  let c := s.ctx cmd.ctx
  match c.ckpt with
  | none => s
  | some p =>
    if p.failed then s.leaveCkpt k cmd p .fault
    else if p.taken && c.pending.all (fun g => !p.manifest.contains g) then
      let bs := p.headBytes cmd.ctx
      match s.peerRefuses cmd.ctx p.area bs.length with
      | some a => (s.failAtPeer cmd.grp cmd.place cmd.sid cmd.launch a).leaveCkpt k cmd { p with failed := true } .fault
      | none =>
      match s.probeWrite (engineOf k) cmd.ctx false p.area bs.length with
      | some (true, a) => (s.deniedFor cmd a true).leaveCkpt k cmd { p with failed := true } .fault
      | some (false, a) => s.parkFor k cmd a true
      | none => ((s.writeRange (s.cmdAgent cmd) 7 cmd.ctx p.area bs false).cmdTouches cmd p.area bs.length true).leaveCkpt k cmd p .ok
    else s

/-- A strand's `halt` issues: its `ckpt` commands whose snapshot has not been taken complete FAULT with nothing written (R453). -/
def State.haltCkpts (s : State) (sid : Nat) : State :=
  (List.range 48).foldl (fun s k =>
    ((s.cluster k).ceq.filter fun c => c.op == .ckpt && s.issued sid c.grp c.place).foldl (fun s cmd =>
      match (s.ctx cmd.ctx).ckpt with
      | some p =>
        if p.cmds.contains (k, cmd.id) then (if p.taken then s else s.leaveCkpt k cmd p .fault)
        else s.finishCe k cmd Status.fault.code (Status.fault.code + 2 ^ 64 * (s.ctx cmd.ctx).ckptGen)
      | none => s.finishCe k cmd Status.fault.code (Status.fault.code + 2 ^ 64 * (s.ctx cmd.ctx).ckptGen)) s) s

/-- Does a `seal` or an `open` of the same channel that reached its engine earlier still run (R345)? -/
def State.sealedBefore (s : State) (cmd : CeCmd) : Bool :=
  let sealed := fun (c : CeCmd) => c.op == .sealRec || c.op == .openRec
  sealed cmd && s.clusters.any fun e => e.2.ceq.any fun c =>
    sealed c && c.begun && c.ctx == cmd.ctx && c.c % 2 ^ 32 == cmd.c % 2 ^ 32 && decide (c.beganAt < cmd.beganAt)

def execCeCommandComplete (cluster k : Nat) (s : State) : Host.Outcome State Fault Refusal :=
  match (s.cluster cluster).ceq[k]? with
  | none => .next s
  | some cmd =>
    if !cmd.begun || s.stands cluster cmd || s.power.kiln != .running || s.sealedBefore cmd then .next s
    else
      let t := match cmd.op with
        | .sealRec | .openRec => s.endSealed cluster cmd
        | .meas => s.endMeas cluster cmd
        | .ckpt => s.endCkpt cluster cmd
        | _ => s.endCopy cluster cmd ((runCopy s cluster cmd fun _ => true).toRun cluster cmd)
      .next (t.settleClosing cmd.ctx)

end Sys2Proof.Machine
end

