-- ==== Sys2Proof/Machine/Collective.lean ====
section
/-! DEFINITION. The collective engine: `col` (R474), descriptors and communicators (R475), the ring operations and
messages (R476), completion (R477), the domain barrier (R425, R429, R430), and the link status block (R468, R469). -/

namespace Sys2Proof.Machine

/-! ### The link status block (R469) -/

def PortState.code : PortState → Nat
  | .down => 0 | .training => 1 | .up => 2 | .degraded => 3 | .failed => 4
def CommState.code : CommState → Nat
  | .empty => 0 | .opened => 1 | .aborted => 2

/-- Does a route to a package exist? -/
def LinkState.routed (l : LinkState) (pkg : Nat) : Bool := !(l.portsTo pkg).isEmpty

/-- The bytes of the link status block. -/
def State.statusBlock (s : State) : List Byte :=
  let l := s.link
  let port := fun (n : Nat) =>
    let p := SMap.get l.ports n {}
    [(64 + 8 * n, 1, PortState.code p.state), (65 + 8 * n, 1, ofBit p.lane0 + ofBit p.lane1), (66 + 8 * n, 2, p.nbr),
     (68 + 8 * n, 1, p.trn)]
  let comm := fun (i : Nat) =>
    let c := SMap.get l.comms i {}
    let at_ := 128 + 32 * i
    [(at_, 8, c.epoch), (at_ + 8, 1, CommState.code c.state), (at_ + 10, 2, c.ctx), (at_ + 12, 2, c.silent.getD 0xFFFF),
     (at_ + 16, 4, c.gen)]
  let head := recordBytes 1024 ([(0, 4, 0x4C53424B), (4, 2, 1), (8, 8, l.lsbTime), (16, 8, l.lsbUpdates),
      (640, 8, l.lsbDiscarded), (648, 8, l.lsbRetrans), (656, 8, l.lsbDrops)]
    ++ (List.range 8).flatMap port ++ (List.range 16).flatMap comm)
  let pkg := fun (i : Nat) => BitVec.ofNat 8 (ofBit (l.routed i) + 2 * ofBit (SMap.get l.peers i {}).silent)
  head ++ (List.range 4096).map pkg ++ List.replicate 3072 0

/-- The block updated, performed at .sy (R468). -/
def State.postStatus (s : State) : State :=
  let s := { s with link := { s.link with lsbUpdates := s.link.lsbUpdates + 1, lsbTime := s.power.dtime } }
  { s with mem := s.mem.write agentCol 7 s.boot.lsBase s.statusBlock false 0 }

/-! ### `col` (R474) -/

def execCol (op : ColOp) (c : CeArg) (s : State) : Host.Outcome State Fault Refusal :=
  slotOp (.col op c) s fun s =>
    let (a, b, v) := (s.me.xGet c.a, s.me.xGet c.b, s.me.xGet c.c)
    let wide := fun (x : Nat) => if 2 ^ 52 ≤ x then some (Res.trap cPERM x) else none
    firstStop [wide v, if op == .barrier then none else wide b, if op == .barrier then none else wide a,
               if v % 64 ≠ 0 then some (.trap cALIGN v) else none,
               if c.qe then qRoom s c.q else none,
               if 4 ≤ (s.colsOf s.cur).length then some (.stall .engineQueue) else none]
      fun _ =>
      let (s, tag) := if c.qe then s.newEntry c.q 0 [] (if c.rel then some s.me.seq else none) else (s, 0)
      let st := s.me
      let cmd : ColCmd := { id := s.link.colNext, sid := s.cur, grp := st.grp, place := s.placeOf s.cur, launch := st.launch, ctx := st.ctx,
                            seq := st.seq, op := op, a := a, b := b, c := v, sc := c.sc, acq := c.acq, rel := c.rel, q := c.q, tag := tag, qe := c.qe }
      .ok { s with link := { s.link with cols := s.link.cols ++ [cmd], colNext := s.link.colNext + 1 } }

/-! ### Commands and communicators -/

def State.comm (s : State) (i : Nat) : Comm := SMap.get s.link.comms i {}
def State.setComm (s : State) (i : Nat) (c : Comm) : State :=
  { s with link := { s.link with comms := SMap.insert s.link.comms i c } }
def State.setCol (s : State) (c : ColCmd) : State :=
  { s with link := { s.link with cols := s.link.cols.map fun (x : ColCmd) => if x.id = c.id then c else x } }

/-- The communicator of a command, and this member's position in it. -/
def State.commOf (s : State) (c : ColCmd) : Comm := s.comm (c.comm.getD 0)

/-- `.send` and `.recv` match by peer and TAG (R475). -/
def ColOp.isPair : ColOp → Bool
  | .send | .receive => true
  | _ => false
def ColOp.reduces : ColOp → Bool
  | .allReduce | .reduceScatter => true
  | _ => false
def ColOp.num : ColOp → Nat
  | .allReduce => 0 | .allGather => 1 | .reduceScatter => 2 | .send => 3 | .receive => 4 | .barrier => 5

/-- What a message of the engine says: data of a step, a partner's failure, a peer's writes done. -/
def msgData : Nat := 0
def msgFault : Nat := 1
def msgDone : Nat := 2

/-- The head of a message (model's own form, log 10): operation, type, reduction, kind, poison, count, TAG, index. -/
def ColCmd.head (c : ColCmd) (kind : Nat) (bad : Bool) : List Byte :=
  recordBytes 24 [(0, 1, ColOp.num c.op), (1, 1, c.ety), (2, 1, c.rop), (3, 1, kind), (4, 1, ofBit bad), (8, 4, c.count),
    (12, 4, c.mtag), (16, 8, c.index)]

/-- Fields of a received message. -/
def ColData.op (d : ColData) : Nat := ofBytes (d.data.take 1)
def ColData.shape (d : ColData) : List Byte := (d.data.drop 1).take 2 ++ (d.data.drop 8).take 4
def ColData.kind (d : ColData) : Nat := ofBytes ((d.data.drop 3).take 1)
def ColData.poison (d : ColData) : Bool := ofBytes ((d.data.drop 4).take 1) != 0
def ColData.tag (d : ColData) : Nat := ofBytes ((d.data.drop 12).take 4)
def ColData.index (d : ColData) : Nat := ofBytes ((d.data.drop 16).take 8)
def ColData.body (d : ColData) : List Byte := d.data.drop 24

/-- A message to a member's package; one to this package itself is at once here. -/
def State.colSend (s : State) (c : ColCmd) (pkg kind step : Nat) (bs : List Byte) (bad : Bool) : State :=
  let id := c.comm.getD 0
  let data := c.head kind bad ++ bs
  if pkg = s.link.sysid then
    { s with link := { s.link with colData := s.link.colData ++ [{ comm := id, epoch := c.epoch, step := step, src := pkg, data := data }] } }
  else s.sendPacket pkg 3 (.collective id c.epoch step data)

/-- The package at a position. -/
def Comm.pkg (m : Comm) (i : Nat) : Nat := (m.members[i]?).getD 0

/-- Is a message for a command: by index, or by peer and TAG (R475)? -/
def State.colMatches (s : State) (c : ColCmd) (d : ColData) : Bool :=
  c.comm == some d.comm && c.epoch == d.epoch &&
  (if ColOp.isPair c.op then
     d.src == (s.commOf c).pkg c.peer && d.tag == c.mtag &&
       (if c.op == .send then d.op == 4 && (d.kind == msgFault || d.kind == msgDone) else d.op == 3 && (d.kind == msgFault || d.kind == msgData))
   else d.op != 3 && d.op != 4 && d.index == c.index)

/-- The partners of a matched command. -/
def State.partners (s : State) (c : ColCmd) : List Nat :=
  let m := s.commOf c
  if ColOp.isPair c.op then [m.pkg c.peer] else m.members.filter (· != s.link.sysid)

/-- A member's failure is told to its matched partners (R476). -/
def State.tellPartners (s : State) (c : ColCmd) : State :=
  (s.partners c).foldl (fun s p => if p = s.link.sysid then s else s.colSend c p msgFault 0 [] false) s

/-- The end of a command: status block, entry, and the messages that were for it (R430, R468, R477); after the `halt` of its strand a
status that would have gone to an entry is counted (R390). -/
def State.finishCol (s : State) (c : ColCmd) (status : Status) (outcome silent high : Nat) : State :=
  let keep := fun (d : ColData) => ColOp.isPair c.op || !s.colMatches c d
  let s := { s with link := { s.link with cols := s.link.cols.filter fun (x : ColCmd) => x.id != c.id,
                                          colData := s.link.colData.filter keep } }
  let s := s.postStatus
  if c.qe then s.postOrCount c.grp c.place c.launch true c.q c.tag status.code (status.code + 2 ^ 8 * outcome + 2 ^ 16 * silent + 2 ^ 32 * (high % 2 ^ 32))
  else s

/-- STEP of a command, or GEN of a barrier command: the barrier's generation and the commands before it (R430). -/
def State.colHigh (s : State) (c : ColCmd) : Nat :=
  if c.op == .barrier then
    ((s.commOf c).gen + (s.link.cols.filter fun (x : ColCmd) =>
      x.op == .barrier && x.begun && x.comm == c.comm && x.epoch == c.epoch && decide (x.index < c.index)).length) % 2 ^ 32
  else c.step

def State.failCol (s : State) (c : ColCmd) : State := s.finishCol c .fault 0 0xFFFF (s.colHigh c)
def State.loseCol (s : State) (c : ColCmd) : State :=
  s.finishCol c .peerlost 1 ((s.commOf c).silent.getD 0xFFFF) (s.colHigh c)

/-! ### Reading and writing (R476, R477) -/

/-- Bytes of an element. -/
def ColCmd.width (c : ColCmd) : Nat := ((ElemType.ofCode c.ety).map (·.width)).getD 8 / 8

/-- Elements of the source and of the result. -/
def ColCmd.sourceLen (c : ColCmd) (n : Nat) : Nat := if c.op == .reduceScatter then n * c.count else if c.op == .receive || c.op == .barrier then 0 else c.count
def ColCmd.resultLen (c : ColCmd) (n : Nat) : Nat := if c.op == .allGather then n * c.count else if c.op == .send || c.op == .barrier then 0 else c.count

/-- First element and length of a chunk of an `.allred`, or of a block (R476). -/
def ColCmd.chunk (c : ColCmd) (n k : Nat) : Nat × Nat :=
  if c.op == .allReduce then
    let len := (c.count + n - 1) / n
    (min c.count (k * len), min c.count ((k + 1) * len) - min c.count (k * len))
  else (k * c.count, c.count)

/-- The bound version of a region for a command. -/
def State.colBound (s : State) (c : ColCmd) (region : Nat) : Nat := SMap.get (s.launch c.launch).versions region 0

/-- The agent that a command reads and writes as: the strand that issued it, where it now runs. -/
def State.colAgent (s : State) (c : ColCmd) : Nat := s.issuer c.grp c.place c.sid

/-- How a command reads: the collective engine is the agent, and with ACQ what happens before the command, and the strand's own earlier
writes, happen before its reads (R414, R423). -/
def State.colReader (s : State) (c : ColCmd) : Reader :=
  { place := agentCol, who := if c.acq then some (s.colAgent c) else none, num := c.seq, own := c.acq, pick := s.tick }

/-- Where a command's writes come from. -/
def ColCmd.tag_ (c : ColCmd) : WriteTag :=
  { launch := c.launch, grp := c.grp, place := c.place, seq := c.seq, eng := true, col := true, rel := c.rel }

/-- A range as the collective engine reads it for a command, on the routes of its own die (R16, R423). -/
def State.colFetch (s : State) (c : ColCmd) (va n : Nat) : RangeRead := s.readRange (s.colReader c) c.ctx false (s.colBound c) va n (lid := some c.launch)

/-- A command has read or written a range (R322, R332). -/
def State.colTouches (s : State) (c : ColCmd) (va n : Nat) (write : Bool) : State :=
  let s := s.groupTouches c.grp c.ctx (s.colBound c) va n write
  if write then s else s.openRange c.ctx (s.colBound c) va n

/-- A denied access of a command: one whose home is lost fails its group as well (R462, R467). -/
def State.colDenied (s : State) (c : ColCmd) (va : Nat) (write : Bool) : State :=
  if s.lostAt c.ctx va write (s.colBound c) then s.failAtPeer c.grp c.place c.sid c.launch va else s

/-- Source elements from `first`. -/
def State.colRead (s : State) (c : ColCmd) (first len : Nat) : RangeRead := s.colFetch c (c.b + first * c.width) (len * c.width)

/-- An access of a command parks. -/
def State.colPark (s : State) (c : ColCmd) (va : Nat) (write : Bool) : State :=
  let page := fun (a : Nat) => ((s.ctx c.ctx).leaf a).map (·.1)
  let s := s.engineWaits agentCol (clusterOf c.sid) c.ctx c.launch va write (c.parked.any fun p => page p.1 == page va)
  { s with link := { s.link with cols := s.link.cols.map fun (x : ColCmd) => if x.id = c.id then { x with parked := some (va, write) } else x } }

/-- The level at which a command writes (R368, R477). -/
def ColCmd.level (c : ColCmd) : Nat := if c.rel then Scope.level c.sc else 0

/-- Where chunk `k` goes in the result: `.redsc` and `.recv` have one block. -/
def ColCmd.target (c : ColCmd) (n p k : Nat) : Option Nat :=
  if c.op == .reduceScatter then (if k = p then some 0 else none)
  else if c.op == .receive then some 0
  else some (c.chunk n k).1

/-- Elements of chunks held are written to the result early, those that `sel` chooses; the end of the command writes them again, so
they take their place in the order of their lines at once (R478). -/
def State.colEarly (s : State) (c : ColCmd) (n p : Nat) (sel : Nat → Bool) : State :=
  c.data.foldl (fun s e => match c.target n p e.1 with
    | none => s
    | some first => (List.range (e.2.length / c.width)).foldl (fun s i =>
        if sel (first + i) && (s.peerRefuses c.ctx (c.a + (first + i) * c.width) c.width).isNone then
          (s.writeRange (s.colAgent c) (max 1 c.level) c.ctx (c.a + (first + i) * c.width) ((e.2.drop (i * c.width)).take c.width)
            (c.bad.contains e.1) c.tag_).colTouches c (c.a + (first + i) * c.width) c.width true
        else s) s) s

/-- The result of a command, its chunks in ascending order: each byte with its chunk's poison. -/
def ColCmd.result (c : ColCmd) (n p : Nat) : List (Byte × Bool) :=
  c.data.flatMap fun e => if (c.target n p e.1).isSome then e.2.map fun b => (b, c.bad.contains e.1) else []

/-- The result written line by line, a line as poisoned as any of its chunks (R370, R477). -/
def State.colWrite (s : State) (c : ColCmd) (n p : Nat) : State :=
  let r := c.result n p
  ((cutLines c.a r.length).foldl (fun s l =>
    let part := (r.drop l.2.2).take l.2.1
    s.writeLine (s.colAgent c) c.level c.ctx l.1 (part.map (·.1)) (part.any (·.2)) false c.tag_) s).colTouches c c.a r.length true

/-- One fold step of a reduction: v ⊕ x in ETY (R476). -/
def colFold (ety rop v x : Nat) : Nat :=
  match ElemType.ofCode ety with
  | none => v
  | some t =>
    match floatFmt t with
    | some f => (match rop with
      | 0 => (addF f .rne false (decodeF f v) (decodeF f x)).1
      | 1 => (minF f false v x).1
      | _ => (maxF f false v x).1)
    | none =>
      let (a, b) := (inInt t.isSigned t.width v, inInt t.isSigned t.width x)
      match rop with
      | 0 => low (a + b) t.width
      | 1 => low (min a b) t.width
      | _ => low (max a b) t.width

/-- Elements folded one by one. -/
def foldBytes (ety rop w : Nat) (v x : List Byte) : List Byte :=
  (List.range (v.length / w)).flatMap fun i =>
    toBytes (colFold ety rop (ofBytes ((v.drop (i * w)).take w)) (ofBytes ((x.drop (i * w)).take w))) w

/-- Types of a reduction, and of the other operations (R476). -/
def reduceTypes : List Nat := [ElemType.f64, .f32, .bf16, .f16, .s32, .n32, .s64, .n64].map ElemType.code

/-! ### Begin (R475) -/

/-- May a command begin: the engine runs, earlier commands of the strand have begun, and its acquire is met (R368,
R488)? -/
def State.colMayBegin (s : State) (c : ColCmd) : Bool :=
  let mine := fun (grp place : Nat) => grp == c.grp && place == c.place
  s.power.kiln == .running && (s.link.cols.all fun (x : ColCmd) => x.begun || !mine x.grp x.place || decide (c.id ≤ x.id)) &&
  (!c.acq || ((s.clusters.all fun e => e.2.ceq.all fun (x : CeCmd) => !mine x.grp x.place || decide (c.seq ≤ x.seq)) &&
    (s.memberAt c.grp c.place).any fun st =>
      (st.lq ++ st.sq).all fun (a : Access) => decide (c.seq ≤ a.seq) || a.doneAt (Scope.level c.sc)))

/-- A communicator record as read (R475). -/
structure CommRecord where
  n : Nat
  pos : Nat
  epoch : Nat
  gen : Nat
  id : Nat
  members : List Nat
  zero : Bool

/-- The record at an address; `none` where it cannot be read, and `false` where its read waits. -/
def State.readRecord (s : State) (c : ColCmd) (va : Nat) : Except Nat (Option CommRecord) :=
  if va % 64 ≠ 0 || 2 ^ 52 ≤ va then .ok none else
  match s.colFetch c va 64 with
  | .park a => .error a
  | .bytes h false =>
    let n := ofBytes (h.take 2)
    match s.colFetch c (va + 64) (2 * n) with
    | .park a => .error a
    | .bytes l false =>
      .ok (some { n := n, pos := ofBytes ((h.drop 2).take 2), epoch := ofBytes ((h.drop 8).take 8), gen := ofBytes ((h.drop 16).take 4),
                  id := ofBytes ((h.drop 20).take 1), members := (List.range n).map fun i => ofBytes ((l.drop (2 * i)).take 2) % 4096,
                  zero := (h.drop 4).take 4 == List.replicate 4 0 && (h.drop 21).all (· == 0) })
    | _ => .ok none
  | _ => .ok none

/-- A communicator adopted from a record: the re-forming of R429. Data for an earlier epoch goes (R522). -/
def State.adopt (s : State) (ctx : Nat) (r : CommRecord) : State :=
  let s := { s with link := { s.link with colData := s.link.colData.filter fun (d : ColData) => d.comm != r.id || decide (r.epoch ≤ d.epoch) } }
  let early := match (s.comm r.id).ahead with
    | some (e, n) => if e = r.epoch then n else 0
    | none => 0
  s.setComm r.id { state := .opened, epoch := r.epoch, ctx := ctx, members := r.members, mypos := r.pos, gen := r.gen, count := early }

/-- A command whose descriptor or record is malformed, for an ID that does not hold its EPOCH: it counts as the next command there, its
partners learn of it, and nothing else changes (R475). -/
def State.colIll (s : State) (c : ColCmd) (r : CommRecord) : State :=
  let m := s.comm r.id
  let k := match m.ahead with
    | some (e, n) => if e = r.epoch then n else 0
    | none => 0
  let c := { c with begun := true, comm := some r.id, epoch := r.epoch, index := k }
  let s := if ColOp.isPair c.op then s else s.setComm r.id { m with ahead := some (r.epoch, k + 1) }
  let others := if ColOp.isPair c.op then (r.members[c.peer]?).toList else r.members
  let s := others.foldl (fun s p => if p = s.link.sysid then s else s.colSend c p msgFault 0 [] false) (s.setCol c)
  s.finishCol c .fault 0 0xFFFF (if c.op == .barrier then r.gen else 0)

/-- A domain barrier command that has arrived: what its strand released to it happens before what the other packages do after the barrier
(R428). -/
def State.colReleases (s : State) (c : ColCmd) : State :=
  let m := s.mem
  let own := (m.narrow.filter fun w => w.tag.grp == c.grp && w.tag.place == c.place && decide (w.tag.seq < c.seq)).map (·.wid)
  if c.rel || c.acq then { s with mem := m.order (m.beforeOf c.sid c.seq 0 ++ own) agentPeer 0 } else s

/-- A command that has its communicator begins: it takes its index, and fails, is lost, or goes on (R475, R476). -/
def State.colEnter (s : State) (c : ColCmd) (id : Nat) (ok : Bool) : State :=
  let m := s.comm id
  let c := { c with begun := true, comm := some id, epoch := m.epoch, index := m.count }
  let s := s.colTouches c c.c 64 false
  let s := m.members.foldl (fun s p => if p = s.link.sysid then s else s.watch p) s
  let s := if ColOp.isPair c.op then s else s.setComm id { m with count := m.count + 1 }
  let s := s.setCol c
  if m.state == .aborted then s.loseCol c
  else if !ok then (s.tellPartners c).failCol c
  else if c.op == .barrier then (s.partners c).foldl (fun s p => s.colSend c p msgData 1 [] false) (s.colReleases c)
  else s

/-- A command begins: descriptor, record, communicator (R475). -/
def State.colBegin (s : State) (c : ColCmd) : State :=
  let fault := fun (s : State) => s.finishCol { c with begun := true } .fault 0 0xFFFF 0
  if (s.ctx c.ctx).world then fault s else
  match s.colFetch c c.c 64 with
  | .denied _ => fault s
  | .park a => s.colPark c a false
  | .bytes _ true => fault s
  | .bytes d false =>
    let f := fun (lo n : Nat) => ofBytes ((d.drop lo).take n)
    match s.readRecord c (f 0 8) with
    | .error a => s.colPark c a false
    | .ok none => fault s
    | .ok (some r) =>
      let m := s.comm r.id
      let c := { c with count := f 8 4, ety := f 12 1, rop := f 13 1, peer := f 14 2, mtag := f 16 4 }
      if 16 ≤ r.id || (m.state != .empty && (m.ctx != c.ctx || decide (r.epoch < m.epoch))) then fault s
      else
        let well := r.zero && (d.drop 20).all (· == 0) && decide (0 < r.n) && decide (r.n ≤ 4096) && decide (r.pos < r.n)
        if !well then (if m.state == .empty || m.epoch != r.epoch then s.colIll c r else s.colEnter c r.id false)
        else
          let s := if m.state == .empty || decide (m.epoch < r.epoch) then s.adopt c.ctx r else s
          let n := r.n
          let types := decide (c.rop < 3) && if ColOp.reduces c.op then reduceTypes.contains c.ety else decide (c.ety < 14)
          let ok := types && (!ColOp.isPair c.op || decide (c.peer < n))
          let src := s.colRead c 0 (c.sourceLen n)
          let dst := s.probeWrite agentCol c.ctx false c.a (c.resultLen n * c.width)
          match src, dst with
          | .denied a, _ => (s.colDenied c a false).colEnter c r.id false
          | _, some (true, a) => (s.colDenied c a true).colEnter c r.id false
          | _, _ => s.colEnter c r.id ok

/-! ### Steps (R476) -/

/-- Steps of an operation over n members. -/
def ColCmd.steps (c : ColCmd) (n : Nat) : Nat :=
  match c.op with
  | .allReduce => 2 * (n - 1)
  | .send | .receive | .barrier => 1
  | _ => n - 1

/-- The chunk that position `p` sends in a step, counted from 1, and the one that it receives (R476): reduction round
the ring ends with chunk k at position k, and the gathering goes on from there. -/
def ColCmd.sends (c : ColCmd) (n p step : Nat) : Nat :=
  let back := fun (d : Nat) => (p + 2 * n - d) % n
  if ColOp.reduces c.op then (if step < n then back step else back (step - n)) else back (step - 1)
def ColCmd.receives (c : ColCmd) (n p step : Nat) : Nat := c.sends n ((p + n - 1) % n) step

/-- The first message for a command that a condition holds of. -/
def State.colFind (s : State) (c : ColCmd) (f : ColData → Bool) : Option ColData :=
  s.link.colData.find? fun d => s.colMatches c d && f d
/-- A message is consumed. -/
def State.colTake (s : State) (d : ColData) : State :=
  { s with link := { s.link with colData := s.link.colData.erase d } }

/-- The end of a command whose steps are done: its result is written (R477). -/
def State.colEnd (s : State) (c : ColCmd) (n p : Nat) : State :=
  match s.peerRefuses c.ctx c.a (c.resultLen n * c.width) with
  | some a => ((s.failAtPeer c.grp c.place c.sid c.launch a).tellPartners c).failCol c
  | none =>
  match s.probeWrite agentCol c.ctx false c.a (c.resultLen n * c.width) with
  | some (true, a) => ((s.colDenied c a true).tellPartners c).failCol c
  | some (false, a) => s.colPark c a true
  | none =>
    let s := s.colWrite c n p
    let s := if c.op == .receive then s.colSend c ((s.commOf c).pkg c.peer) msgDone 1 [] false else s
    s.finishCol c .ok 0 0xFFFF (s.colHigh c)

/-- The engine sends what the next step of a command needs. -/
def State.colPush (s : State) (c : ColCmd) (n p : Nat) : State :=
  let k := if c.op == .send then 0 else c.sends n p (c.step + 1)
  let dest := if c.op == .send then c.peer else (p + 1) % n
  let go := fun (s : State) (bs : List Byte) (bad : Bool) =>
    let c := { c with sent := c.step + 1, bad := if bad then insertNat c.bad k else c.bad,
                      data := if c.op == .allGather then SMap.insert c.data k bs else c.data }
    (s.setCol c).colSend c ((s.commOf c).pkg dest) msgData (c.step + 1) bs bad
  match SMap.find c.data k with
  | some bs => go s bs (c.bad.contains k)
  | none =>
    let (first, len) := if c.op == .send || c.op == .allGather then (0, c.count) else c.chunk n k
    match s.colRead c first len with
    | .denied a => ((s.colDenied c a false).tellPartners c).failCol c
    | .park a => s.colPark c a false
    | .bytes bs bad => go (s.colTouches c (c.b + first * c.width) (len * c.width) false) bs bad

/-- The engine takes the data of the next step: it folds in the member's own chunk while the reduction runs. -/
def State.colPull (s : State) (c : ColCmd) (n p : Nat) (d : ColData) : State :=
  let k := if c.op == .receive then 0 else c.receives n p (c.step + 1)
  let put := fun (s : State) (bs : List Byte) (bad : Bool) =>
    let c := { c with step := c.step + 1, data := SMap.insert c.data k bs,
                      bad := if bad then insertNat c.bad k else c.bad.filter (· != k) }
    let s := ((s.colTake d).setCol c)
    let seed := s.tick
    (s.colEarly c n p fun i => Config.movedEarly (seed + i)).bump
  if ColOp.reduces c.op && decide (c.step + 1 < n) then
    let (first, len) := c.chunk n k
    match s.colRead c first len with
    | .denied a => ((s.colDenied c a false).tellPartners c).failCol c
    | .park a => s.colPark c a false
    | .bytes x bad => put (s.colTouches c (c.b + first * c.width) (len * c.width) false) (foldBytes c.ety c.rop c.width d.body x) (bad || d.poison)
  else put s d.body d.poison

/-- One turn of the engine on a command (R475 to R477). -/
def State.colTurn (s : State) (c : ColCmd) : State :=
  if s.power.kiln != .running then s
  else if !c.begun then (if s.colMayBegin c then s.colBegin c else s)
  else
    let m := s.commOf c
    let n := m.members.length
    let p := m.mypos
    let shape := (c.head 0 false)
    let differs := fun (d : ColData) => d.kind == msgData &&
      ((!ColOp.isPair c.op && d.op != ColOp.num c.op) || (c.op != .send && d.shape != (shape.drop 1).take 2 ++ (shape.drop 8).take 4))
    let clash := s.link.cols.any fun (x : ColCmd) => decide (x.id < c.id) && x.begun && x.op == c.op && x.comm == c.comm &&
      x.epoch == c.epoch && x.peer == c.peer && x.mtag == c.mtag
    if ColOp.isPair c.op && clash then s
    else match s.colFind c fun d => d.kind == msgFault || differs d with
      | some d =>
        let t := s.colTake d
        (if d.kind == msgFault then t else t.tellPartners c).failCol c
      | none =>
        if c.op == .barrier then s
        else if n = 1 && ColOp.isPair c.op then s.finishCol { c with step := 1 } .ok 0 0xFFFF 1
        else if c.op == .receive && c.step = 0 then
          (match s.colFind c fun _ => true with
           | some d => s.colPull c n p d
           | none => s)
        else if c.op == .send then
          (if c.sent = 0 then s.colPush c n p
           else match s.colFind c fun d => d.kind == msgDone with
             | some d => let c := { c with step := 1 }
                         ((s.colTake d).setCol c).finishCol c .ok 0 0xFFFF 1
             | none => s)
        else if c.step < c.steps n && c.op != .receive then
          (if c.sent ≤ c.step then s.colPush c n p
           else match s.colFind c fun d => d.step == c.step + 1 && d.src == m.pkg ((p + n - 1) % n) with
             | some d => s.colPull c n p d
             | none => s)
        else if n = 1 && c.op != .receive && c.data.isEmpty then
          (match s.colRead c 0 c.count with
           | .denied a => (s.colDenied c a false).failCol c
           | .park a => s.colPark c a false
           | .bytes bs bad => (s.colTouches c c.b (c.count * c.width) false).setCol { c with data := [(0, bs)], bad := if bad then [0] else [] })
        else s.colEnd c n p

/-- The collective engine takes a turn on its command `k`: it begins, goes on by a step, or completes. -/
def execColCommandComplete (k : Nat) (s : State) : Host.Outcome State Fault Refusal :=
  .next (match s.link.cols[k]? with
    | some c => (s.colTurn c).settleClosing c.ctx
    | none => s)

/-- The barrier commands of a communicator that have begun, the earliest first. -/
def State.barrierCmd (s : State) (i : Nat) : Option ColCmd :=
  let m := s.comm i
  let cs := s.link.cols.filter fun (c : ColCmd) => c.op == .barrier && c.begun && c.comm == some i && c.epoch == m.epoch
  cs.find? fun (c : ColCmd) => cs.all fun (x : ColCmd) => decide (c.index ≤ x.index)

/-- Has every other member arrived at the barrier of a command? -/
def State.allHere (s : State) (c : ColCmd) : Bool :=
  (s.partners c).all fun p => s.link.colData.any fun d => s.colMatches c d && d.kind == msgData && d.op == 5 && d.src == p

/-- Every member package has arrived: the waiting command completes OK, and the next generation opens (R429). -/
def execDomainBarrierComplete (comm : Nat) (s : State) : Host.Outcome State Fault Refusal :=
  .next (match s.barrierCmd comm with
    | none => s
    | some c =>
      let m := s.comm comm
      if m.state == .opened && s.power.kiln == .running && s.allHere c then
        (s.setComm comm { m with gen := (m.gen + 1) % 2 ^ 32 }).finishCol c .ok 0 0xFFFF m.gen
      else s)

end Sys2Proof.Machine
end

