-- ==== Sys2Proof/Machine/Link.lean ====
section
/-! DEFINITION. Links: UCIe links (R459), the host port (R462), Ibilman ports and routes (R463, R464), the transport with
its flows and silence (R465, R466, R478), remote requests (R467), endpoint rings and the host's window (R470 to R473),
host access to device memory (R488). -/

namespace Sys2Proof.Machine

/-! ### UCIe links (R459)

Links 2 d and 2 d + 1 join compute die d to IO0 and IO1; link 16 joins IO0 and IO1. -/

def State.ucie (s : State) (n : Nat) : Ucie := SMap.get s.link.ucie n {}
def State.setUcie (s : State) (n : Nat) (v : Ucie) : State := { s with link := { s.link with ucie := SMap.insert s.link.ucie n v } }

def execUcieRetrain (link : Nat) (s : State) : Host.Outcome State Fault Refusal :=
  let u := s.ucie link
  .next (if u.state == .active then s.setUcie link { u with state := .retrain } else s)

/-- The launches with a group on a die. -/
def State.launchesOn (s : State) (f : Nat → Bool) : List Nat :=
  (s.cmd.groups.filter fun e => f e.2.cluster && e.2.state != .halted && e.2.state != .faulted).foldl
    (fun l e => insertNat l e.2.launch) []

/-- A compute die goes out of service: its groups complete FAULT, a D2D record goes out (R459). -/
def State.failDie (s : State) (d : Nat) : State :=
  let s := s.setDie d { s.die d with failed := true }
  let s := (s.launchesOn fun k => k / 6 == d).foldl (fun s l => s.faultLaunch l {}) s
  s.machineCheck 4 d 0xFFFF 0 0

/-! ### Host port (R462) -/

def execHostLinkDown (s : State) : Host.Outcome State Fault Refusal :=
  .next (if s.link.hostUp then
    { s with link := { s.link with hostUp := false, hostDownSince := s.power.dtime, hostFailed := false } } else s)

/-- Does a strand hold an access, not performed, to a frame that a condition names? -/
def Strand.awaitsFrame (st : Strand) (f : Nat → Bool) : Option Part :=
  (st.lq ++ st.sq).findSome? fun a => a.parts.find? fun p => !p.doneAt a.op 7 && p.pa.any f

/-- Accesses to frames that are lost fail: their groups are aborted and their launches complete FAULT (R443). -/
def State.failFrames (s : State) (f : Nat → Bool) : State :=
  (SMap.keys s.strands).foldl (fun s sid =>
    match (s.strand sid).awaitsFrame f with
    | some p => s.escalateOutside sid cPERM p.va 2
    | none => s) s

/-- 50 ms after the link left L0 and L0p, parked host accesses fail. -/
def execHostLinkTimeout (s : State) : Host.Outcome State Fault Refusal :=
  let l := s.link
  if !l.hostUp && !l.hostFailed && decide (l.hostDownSince + 50000000 ≤ s.power.dtime) then
    .next ({ s with link := { l with hostFailed := true } }.failFrames isHost)
  else .next s

/-- The link returns: completion records that waited for it are written. -/
def execHostLinkReturn (s : State) : Host.Outcome State Fault Refusal :=
  .next ((SMap.keys s.cmd.cqs).foldl State.flushCq { s with link := { s.link with hostUp := true, hostFailed := false } })

/-! ### Ibilman ports (R463, R464) -/

def State.port (s : State) (n : Nat) : Port := SMap.get s.link.ports n {}

/-- A flow sends some packets again: its port and the status block count them (R469, R499). Those that a kiln hold keeps back are sent
once a timer expires after it (R488). -/
def State.resend (s : State) (k : Nat) (f : Flow) (count : Nat) : State :=
  let count := if s.holdsClass (k % 4) then 0 else count
  let onPort := fun (m : SMap Port) => match f.port with
    | some n => let p := SMap.get m n {}; SMap.insert m n { p with retrans := p.retrans + count }
    | none => m
  { s with link := { s.link with flows := SMap.insert s.link.flows k f, ports := onPort s.link.ports, lsbRetrans := s.link.lsbRetrans + count } }

/-- A port changes: the status block is updated first, and the change is a wake event (R29, R463, R468). Packets that
are not acknowledged on a port that leaves the routes are sent again on the remaining ones. -/
def State.setPort (s : State) (n : Nat) (v : Port) : State :=
  let gone := PortState.live (s.port n).state && !PortState.live v.state
  let s := { s with link := { s.link with ports := SMap.insert s.link.ports n v }, power := { s.power with wakes := s.power.wakes + 1 } }
  let moved := if gone then s.link.flows.filter fun (e : Nat × Flow) => e.2.port == some n else []
  (moved.foldl (fun s e => s.resend e.1 (s.route (e.1 / 4) e.2) e.2.unacked.length) s).postStatus

def execPortEnable (port v : Nat) (s : State) : Host.Outcome State Fault Refusal :=
  let p := s.port port
  .next (if 8 ≤ port || !bit v 3 then s
    else if p.state == .down || p.state == .failed then
      s.setPort port { p with state := .training, en := true, trn := 0, lane0 := false, lane1 := false, since := s.power.dtime }
    else { s with link := { s.link with ports := SMap.insert s.link.ports port { p with en := true } } })

def execPortDisable (port v : Nat) (s : State) : Host.Outcome State Fault Refusal :=
  let p := s.port port
  .next (if 8 ≤ port || bit v 3 then s
    else s.setPort port { p with state := .down, en := false, nbr := 0, lane0 := false, lane1 := false })

/-- A port with both lanes locked is UP; its neighbour is whoever the training met (log 12). -/
def execPortLaneLock (port lane : Nat) (s : State) : Host.Outcome State Fault Refusal :=
  let p := s.port port
  let p := if lane = 0 then { p with lane0 := true } else { p with lane1 := true }
  .next (match p.state with
    | .training =>
      if p.lane0 && p.lane1 then (s.setPort port { p with state := .up, nbr := Config.freeNat s.tick % 4096 }).bump
      else { s with link := { s.link with ports := SMap.insert s.link.ports port p } }
    | .degraded => if p.lane0 && p.lane1 then s.setPort port { p with state := .up } else s
    | _ => s)

def execPortLaneLoss (port lane : Nat) (s : State) : Host.Outcome State Fault Refusal :=
  let p := s.port port
  let p := if lane = 0 then { p with lane0 := false } else { p with lane1 := false }
  .next (match p.state with
    | .training => { s with link := { s.link with ports := SMap.insert s.link.ports port p } }
    | .up => if p.lane0 && p.lane1 then s else s.setPort port { p with state := .degraded }
    | .degraded => if p.lane0 || p.lane1 then s else s.setPort port { p with state := .training, nbr := 0, since := s.power.dtime }
    | _ => s)

/-- Training ends at half rate with one lane after 100 ms; without a lane for 500 ms it starts again, and fails the third
time. -/
def execPortTrainTimeout (port : Nat) (s : State) : Host.Outcome State Fault Refusal :=
  let p := s.port port
  let now := s.power.dtime
  .next (if p.state != .training then s
    else if p.lane0 || p.lane1 then
      (if p.since + 100000000 ≤ now then
        (s.setPort port { p with state := .degraded, nbr := Config.freeNat s.tick % 4096 }).bump else s)
    else if p.since + 500000000 ≤ now then
      s.setPort port { p with trn := min 255 (p.trn + 1), since := now,
                              state := if 3 ≤ p.trn + 1 then .failed else .training }
    else s)

/-- SYSID is written only while every port is DOWN, and the interface is not locked (R461, log 30). -/
def execSysidWrite (v : Nat) (s : State) : Host.Outcome State Fault Refusal :=
  .next (if s.sec.tdi != .locked && s.sec.tdi != .run && (List.range 8).all fun n => (s.port n).state == .down then
    { s with link := { s.link with sysid := v % 4096 } } else s)

/-- A route table entry is written; table 0 holds a mask of ports for each package (log 10), and the status block follows (R469). -/
def execRouteTableUpdate (table index v : Nat) (s : State) : Host.Outcome State Fault Refusal :=
  .next { s with link := { s.link with routes := SMap.insert s.link.routes (4096 * table + index) v } }.postStatus

/-! ### Remote access (R467) -/

/-- What a peer reaches: LPDDR6, and to read MRAM weight frames. -/
def State.remoteReach (s : State) (write : Bool) (pa : Nat) : Bool := s.isLpddr pa || (!write && isWeight pa)

/-- Does a request write? -/
def remoteWrites : RemoteOp → Bool
  | .read => false
  | _ => true

/-- A peer's request served at its home, with its response: the bytes that were there for a read and for an atomic, none where they are
poisoned. A refused request is answered with none (log 19). -/
def State.serveRemote (s : State) (src : Nat) (op : RemoteOp) (addr : Nat) (data : List Byte) : State :=
  let ok := data.length ≤ 64 - addr % 64 && s.remoteReach (remoteWrites op) addr
  let answer := fun (s : State) (bs : List Byte) => s.sendPacket src 1 (.request op addr bs)
  if !ok then answer s [] else
  match op with
  | .read =>
    let r := s.readLine (Reader.of agentPeer s.tick) 0 addr data.length
    answer (s.openLine 0xFFFF 0 addr) (if r.2 then [] else r.1)
  | .write poison whole => answer { s with mem := s.mem.write agentPeer 7 addr data poison 0 whole } data
  | .amo o sg =>
    let (t, old, bad, _) := (s.openLine 0xFFFF 0 addr).atomicAt agentPeer 0 7 addr (.amo o sg) data [] false
    answer t (if bad then [] else old)
  | .cas sg cmp =>
    let (t, old, bad, _) := (s.openLine 0xFFFF 0 addr).atomicAt agentPeer 0 7 addr (.cas sg) data cmp false
    answer t (if bad then [] else old)

/-- A peer's request is served once the links of its route carry it (R15, R459). -/
def execRemoteRequest (src : Nat) (op : RemoteOp) (addr : Nat) (data : List Byte) (s : State) : Host.Outcome State Fault Refusal :=
  .next (if s.routeOpen agentPeer addr then s.serveRemote src op addr data else s)

/-! ### Endpoint rings (R470, R473) -/

/-- TAIL and HEAD of a ring as the engine reads them (R473). -/
def State.ringEnds (s : State) (r : EpRing) : RangeRead :=
  s.readRange (Reader.of agentPeer s.tick) r.ctx false (fun _ => 0) r.base 16

/-- The slot at a TAIL. -/
def EpRing.slot (r : EpRing) (tail : Nat) : Nat := r.base + 64 + 4160 * (tail % 2 ^ r.log2s)

/-- Does a packet for a ring wait, since a page of the ring is not there or its home is not reached (R15, R440, R459)? -/
def State.ringWaits (s : State) (ring len : Nat) : Bool :=
  match SMap.find s.link.rings ring with
  | none => false
  | some r => match s.ringEnds r with
    | .park _ => true
    | .denied _ => false
    | .bytes bs _ =>
      let held := fun (x : Option (Bool × Nat)) => x.any fun e => !e.1
      held (s.probeWrite agentPeer r.ctx false r.base 8) || held (s.probeWrite agentPeer r.ctx false (r.slot (ofBytes (bs.take 8))) len)

/-- An endpoint packet at its ring: written into the slot at TAIL, with TAIL released at .dm; `none` where the ring is
full, or its pages refuse the writes, and the packet is dropped. A ring that is not configured discards it. -/
def State.ringWrite (s : State) (ring : Nat) (data : List Byte) : Option State :=
  match SMap.find s.link.rings ring with
  | none => some ({ s with link := { s.link with lsbDiscarded := s.link.lsbDiscarded + 1 } }.postStatus)
  | some r =>
    match s.ringEnds r, s.probeWrite agentPeer r.ctx false r.base 8 with
    | .bytes bs _, none =>
      let tail := ofBytes (bs.take 8)
      let head := ofBytes (bs.drop 8)
      if 2 ^ r.log2s ≤ (tail + 2 ^ 64 - head) % 2 ^ 64 then none
      else if (s.probeWrite agentPeer r.ctx false (r.slot tail) data.length).isSome then none
      else
        let s := s.writeRange agentCp 6 r.ctx (r.slot tail) data false
        some (s.writeRange agentCp 6 r.ctx r.base (toBytes (tail + 1) 8) false)
    | _, _ => none

/-- With its ring's wake bit set, the arrival of an endpoint packet is a wake event (R473). -/
def State.ringWake (s : State) (ring : Nat) : State :=
  if (SMap.find s.link.rings ring).any (·.wake) then { s with power := { s.power with wakes := s.power.wakes + 1 } } else s

/-- A packet from a package came in at one of the ports to it, which counts it. -/
def State.atPort (s : State) (src : Nat) (f : Port → Port) : State :=
  match s.anyPort src with
  | some n => { s with link := { s.link with ports := SMap.insert s.link.ports n (f (s.port n)) } }
  | none => s

/-- A packet that finds its ring full is dropped (R465, R469, R499). -/
def State.countDrop (s : State) (src : Nat) : State :=
  let s := s.atPort src fun p => { p with drops := p.drops + 1 }
  { s with link := { s.link with lsbDrops := s.link.lsbDrops + 1 } }

/-- An endpoint packet arrives; one that finds its ring full is counted and dropped. -/
def State.epArrive (s : State) (src ring : Nat) (data : List Byte) : State × Bool :=
  match s.ringWrite ring data with
  | some t => (t, true)
  | none => (s.countDrop src, false)

def execEpPacketArrive (src ring : Nat) (data : List Byte) (s : State) : Host.Outcome State Fault Refusal :=
  .next (if s.ringWaits ring data.length then s else ((s.ringWake ring).epArrive src ring data).1)

/-- A host write to a window joins the host's own packet, under the rules of `ep.st` (R470, R471). -/
def execHostEndpointWrite (window off : Nat) (data : List Byte) (s : State) : Host.Outcome State Fault Refusal :=
  let have_ := s.link.packets.find? fun (p : EpPacket) =>
    !p.sealed && p.launch == hostPacketLaunch && p.window == window
  let len := (have_.map fun (p : EpPacket) => p.data.length).getD 0
  if 4096 < len + data.length || !(SMap.find s.link.windows window).any (·.enabled) then .next s
  else if have_.isNone && decide (256 ≤ s.openPackets) then .next s
  else .next (s.appendPacket hostPacketLaunch 0 hostPacketPlace window data (bit off 6)).1

/-! ### Transport (R465, R466) -/

def State.flow (s : State) (k : Nat) : Flow := SMap.get s.link.flows k {}
def State.setFlow (s : State) (k : Nat) (f : Flow) : State := { s with link := { s.link with flows := SMap.insert s.link.flows k f } }

/-- The distance of a sequence number from another, modulo 2^32. -/
def seqAfter (a b : Nat) : Nat := (a + 2 ^ 32 - b % 2 ^ 32) % 2 ^ 32

/-- A packet passed to its consumer; `none` where it is dropped. The number of an endpoint packet goes into its header
(R473). Data for an epoch below the one held is discarded (R522). -/
def State.consume (s : State) (src seq : Nat) : PacketBody → Option State
  | .keepalive => some s
  | .request op addr data => some (s.serveRemote src op addr data)
  | .endpoint ring data =>
    match s.epArrive src ring (data.take 8 ++ toBytes seq 8 ++ data.drop 16) with
    | (t, true) => some t
    | (_, false) => none
  | .collective comm epoch step data =>
    let m := s.comm comm
    if m.state != .empty && decide (epoch < m.epoch) then some s
    else
      let d : ColData := { comm := comm, epoch := epoch, step := step, src := src, data := data }
      let s := { s with link := { s.link with colData := s.link.colData ++ [d] } }
      let turn := fun (s : State) (id : Nat) => match s.link.cols.find? fun (c : ColCmd) => c.id == id with
        | some c => if c.begun then s.colTurn c else s
        | none => s
      let ids := (s.link.cols.filter fun (c : ColCmd) => c.comm == some comm).map fun (c : ColCmd) => c.id
      some (ids.foldl turn (ids.foldl turn s))

/-- A peer answers the oldest request to it that is not answered: requests and responses each keep their order in their flow (R465, R467).
An access that waits for the answer takes it at its next service. -/
def State.takeAnswer (s : State) (src : Nat) (bs : List Byte) : State :=
  match s.link.asks.find? fun (k : Ask) => k.peer == src && k.answer.isNone with
  | none => s
  | some k =>
    let asks := if k.own then s.link.asks.map fun (x : Ask) => if x.id = k.id then { x with answer := some bs } else x
      else s.link.asks.filter fun (x : Ask) => x.id != k.id
    { s with link := { s.link with asks := asks } }

/-- A packet of a class passed on; a response answers a request. -/
def State.consumeClass (s : State) (src cls seq : Nat) (body : PacketBody) : Option State :=
  if cls = 1 then (match body with
    | .request _ _ bs => some (s.takeAnswer src bs)
    | _ => some s)
  else s.consume src seq body

/-- Does a packet wait for the links of its route, or for the pages of its ring (R15, R440, R459)? -/
def State.bodyWaits (s : State) (cls : Nat) : PacketBody → Bool
  | .request _ addr _ => cls != 1 && !s.routeOpen agentPeer addr
  | .endpoint ring data => s.ringWaits ring data.length
  | _ => false

/-- Held packets passed on in sequence, at most `n` of them; one whose request waits for its route stays, with those behind it. -/
def State.deliverFlow (s : State) (src cls : Nat) : Nat → State
  | 0 => s
  | n + 1 =>
    let k := 4 * src + cls
    let f := s.flow k
    match f.held.find? fun (p : Sent) => p.seq == f.expect with
    | none => s
    | some p =>
      if s.bodyWaits cls p.body then s else
      let rest := f.held.filter fun (x : Sent) => x.seq != p.seq
      match s.consumeClass src cls p.seq p.body with
      | none => (s.countDrop src).setFlow k { f with held := rest }
      | some t => (t.setFlow k { t.flow k with held := rest, expect := (f.expect + 1) % 2 ^ 32 }).deliverFlow src cls n

/-- What waits in the flows goes on as far as it can. -/
def State.deliverHeld (s : State) : State :=
  (SMap.keys s.link.flows).foldl (fun s k => if (s.flow k).held.isEmpty then s else s.deliverFlow (k / 4) (k % 4) 256) s

/-- A retrain ends: what it held goes on; the third failure within a second takes the die out of service (R459). -/
def execUcieRetrainComplete (link : Nat) (ok : Bool) (s : State) : Host.Outcome State Fault Refusal :=
  let u := s.ucie link
  if u.state != .retrain then .next s
  else if ok then .next (s.setUcie link { u with state := .active }).deliverHeld
  else
    let now := s.power.dtime
    let fails := now :: u.fails.filter fun t => decide (now < t + 1000000000)
    if fails.length < 3 then .next (s.setUcie link { u with fails := fails })
    else
      let s := s.setUcie link { state := .failed, fails := fails }
      .next (if link < 16 then s.failDie (link / 2) else s.machineCheck 4 8 0xFFFF 0 0)

/-- Anything that arrives from a package ends its silence (R466). -/
def State.hear (s : State) (src : Nat) : State :=
  let p := SMap.get s.link.peers src {}
  let t := { s with link := { s.link with peers := SMap.insert s.link.peers src { p with silent := false, heard := s.power.dtime } } }
  if p.silent then t.postStatus else t

/-- The acknowledgement that a receiver forms of a flow: the number that it expects, a map of the 256 packets after it, and the echo of a mark
(R465, R466). -/
def Flow.ackOf (f : Flow) (mark : Bool) : Ack :=
  let later := f.held.filterMap fun (p : Sent) =>
    let d := seqAfter p.seq f.expect
    if 0 < d ∧ d ≤ 256 then some (d - 1) else none
  { cum := f.expect, map := (List.range 256).foldl (fun m i => m + if later.contains i then 2 ^ i else 0) 0, mark := mark }

/-- The wake event of an arrival: an endpoint packet is one where its ring says so; of the other packets each is (R29, R473). -/
def State.arrivalWake (s : State) : PacketBody → State
  | .endpoint ring _ => s.ringWake ring
  | _ => { s with power := { s.power with wakes := s.power.wakes + 1 } }

/-- A packet arrives: within 256 of the number expected it is accepted, what is in sequence goes on, and an acknowledgement is formed, with
the echo of its mark (R465, R466). -/
def execPacketArrive (src flow seq : Nat) (mark : Bool) (body : PacketBody) (s : State) : Host.Outcome State Fault Refusal :=
  let s := (s.arrivalWake body).hear src
  let s := if mark then s.atPort src fun p => { p with marked := p.marked + 1 } else s
  let cls := flow % 4
  let k := 4 * src + cls
  let f := s.flow k
  let answer := fun (s : State) => s.setFlow k { s.flow k with ack := some ((s.flow k).ackOf mark) }
  if body == .keepalive then .next s
  else if 256 ≤ seqAfter seq f.expect || f.held.any (fun (p : Sent) => p.seq == seq) then .next (answer s)
  else .next (answer ((s.setFlow k { f with held := f.held ++ [{ seq := seq, body := body }] }).deliverFlow src cls 256))

/-- An endpoint packet is in its ring: the `ep.st` that formed it are performed (R471). -/
def State.performEp (s : State) (dest : Nat) : State :=
  match s.link.packets.find? fun (p : EpPacket) => p.sealed && p.dest == dest with
  | none => s
  | some p =>
    let done := fun (a : Access) =>
      if a.op == .epstore && a.tag == p.id then { a with parts := a.parts.map fun (x : Part) => { x with level := 7 } } else a
    { s with strands := s.strands.map fun e => (e.1, if e.2.sq.any fun (a : Access) => a.op == .epstore && a.tag == p.id
                then { e.2 with sq := e.2.sq.map done }.sweep else e.2),
             link := { s.link with packets := s.link.packets.filter fun (x : EpPacket) => x.id != p.id } }

/-- Waiting packets of a flow are sent while it has room. -/
def State.drainOutbox (s : State) (dest cls : Nat) : State :=
  let mine := fun (o : Nat × Nat × PacketBody) => o.1 == dest && o.2.1 == cls
  let box := s.link.outbox.filter mine
  let s := { s with link := { s.link with outbox := s.link.outbox.filter fun o => !mine o } }
  box.foldl (fun s o => s.sendPacket o.1 o.2.1 o.2.2) s

/-- Every waiting packet is sent that can be, in its order. -/
def State.flushOutbox (s : State) : State :=
  s.link.outbox.foldl (fun s o => s.sendPacket o.1 o.2.1 o.2.2) { s with link := { s.link with outbox := [] } }

/-- The floor of a rate in Mb/s (R466). -/
def minRate : Nat := 500

/-- The packets of a flow that an acknowledgement shows missing: the map, whose bit `i` is the packet `i + 1` after the number, has three
later packets and not it (R465). -/
def missingPackets (ack map : Nat) (ps : List Sent) : List Sent :=
  ps.filter fun p =>
    let d := seqAfter p.seq ack
    !(decide (0 < d) && bit map (d - 1)) && decide (3 ≤ ((List.range 256).filter fun j => decide (d ≤ j) && bit map j).length)

/-- Some packets of a flow are sent again now. -/
def Flow.again (f : Flow) (ps : List Sent) (now : Nat) : Flow :=
  { f with unacked := f.unacked.map fun (x : Sent) => if ps.any fun (p : Sent) => p.seq == x.seq then { x with time := now, again := true } else x }

/-- The smoothed round-trip time after the acknowledgement of packets: of those sent once, the last counts for an eighth (log 19). -/
def Flow.measure (f : Flow) (released : List Sent) (now : Nat) : Nat :=
  match (released.filter fun (p : Sent) => !p.again).getLast? with
  | none => f.srtt
  | some p => if f.srtt = 0 then now - p.time else (7 * f.srtt + (now - p.time)) / 8

/-- The rate of a flow follows the marks that it has seen, once in a round-trip time (R466). -/
def Flow.turn (f : Flow) (port now : Nat) : Flow :=
  if now < f.turnAt + f.srtt || f.acked = 0 then f else
  let alpha := if f.marks = 0 then f.alpha else (15 * f.alpha + 65536 * f.marks / f.acked) / 16
  let rate := if f.marks = 0 then min port (f.rate + 2000) else max minRate (f.rate - f.rate * alpha / 131072)
  { f with alpha := alpha, rate := rate, turnAt := now, marks := 0, acked := 0 }

/-- An acknowledgement, its number in bits [31:0] and its map above them: packets up to its number are released, those that its map shows
missing are sent again, and the rate follows its marks (R465, R466). -/
def execAckArrive (dest flow ack : Nat) (mark : Bool) (s : State) : Host.Outcome State Fault Refusal :=
  let (num, map) := (ack % 2 ^ 32, ack / 2 ^ 32)
  let cls := flow % 4
  let k := 4 * dest + cls
  let s := s.hear dest
  let now := s.power.dtime
  let f := s.flow k
  let released := f.unacked.takeWhile fun (p : Sent) => decide (seqAfter num p.seq ≤ 256) && decide (0 < seqAfter num p.seq)
  let f := { f with unacked := f.unacked.drop released.length, srtt := f.measure released now,
                    acked := f.acked + released.length, marks := f.marks + if mark then released.length else 0 }
  let f := f.turn (s.portRate f.port) now
  let again := missingPackets num map f.unacked
  let s := if again.isEmpty then s.setFlow k f else s.resend k (s.route dest (f.again again now)) again.length
  let s := if cls = 2 then released.foldl (fun s _ => s.performEp dest) s else s
  .next (s.drainOutbox dest cls)

/-- The timer of a packet: four smoothed round-trip times, at least 8 µs and at most 1 ms, from when it was last sent (R465). -/
def Flow.expired (f : Flow) (now : Nat) : List Sent :=
  f.unacked.filter fun (p : Sent) => decide (p.time + max 8000 (min 1000000 (4 * f.srtt)) ≤ now)

/-- The timers of packets expire: they are sent again, and the rate of their flow is halved (R465, R466). -/
def execRetransmitTimeout (dest flow : Nat) (s : State) : Host.Outcome State Fault Refusal :=
  let k := 4 * dest + flow % 4
  let f := s.flow k
  let again := f.expired s.power.dtime
  .next (if again.isEmpty then s else
    s.resend k { s.route dest (f.again again s.power.dtime) with rate := max minRate (f.rate / 2) } again.length)

/-- After KAI microseconds of quiet a keepalive goes to a package toward which something is outstanding (R466, R488). -/
def execKeepalive (dest : Nat) (s : State) : Host.Outcome State Fault Refusal :=
  let p := SMap.get s.link.peers dest {}
  .next (if s.outstanding dest && s.power.kiln == .running && decide (p.sentAt + 1000 * s.link.kai ≤ s.power.dtime) then
    { s with link := { s.link with peers := SMap.insert s.link.peers dest { p with sentAt := s.power.dtime } } } else s)

/-- A communicator with a silent member: ABORTED, its pending commands PEERLOST (R429, R478). -/
def State.loseMember (s : State) (i dest : Nat) : State :=
  let m := s.comm i
  if m.state != .opened || !m.members.contains dest then s else
  let pos := m.members.idxOf dest
  let s := s.setComm i { m with state := .aborted, silent := some pos }
  let mine := s.link.cols.filter fun (c : ColCmd) => c.begun && c.comm == some i && c.epoch == m.epoch
  let highs := mine.map fun c => (c, s.colHigh c)
  highs.foldl (fun s e => s.finishCol e.1 .peerlost 1 pos e.2) s

/-- Nothing has come from a package for PTO microseconds while something is outstanding toward it: it is declared silent,
its communicators are aborted, and the accesses to it fail (R466, R467, R478). -/
def execPeerSilent (dest : Nat) (s : State) : Host.Outcome State Fault Refusal :=
  let p := SMap.get s.link.peers dest {}
  if p.silent || !s.outstanding dest || decide (s.power.dtime < p.heard + 1000 * s.link.pto) then .next s
  else
    let s := { s with link := { s.link with peers := SMap.insert s.link.peers dest { p with silent := true } } }
    let s := (List.range 16).foldl (fun s i => s.loseMember i dest) s
    let near := s.link.sysid / 64 == dest / 64
    let lost := fun (k : Ask) => if k.peer = dest then { k with own := false } else k
    let s := { s with link := { s.link with asks := s.link.asks.map lost } }
    .next ((if near then s.failFrames fun pa => peerOf pa == some (dest % 64) else s).postStatus)

/-! ### Host access to device memory (R488) -/

/-- A host or CXL agent reads or writes LPDDR6 through the host port, under key slot 0 (R332, log 19). -/
def execHostMemoryAccess (write : Bool) (addr : Nat) (data : List Byte) (s : State) : Host.Outcome State Fault Refusal :=
  .next (if s.link.hostUp && s.routeOpen agentHost addr && s.isLpddr addr && decide (data.length ≤ 64 - addr % 64) then
    let s := if write && data.length == 64 then s else s.openLine 0xFFFF 0 addr
    if write then { s with mem := s.mem.write agentHost 7 addr data false 0 } else s
  else s)

end Sys2Proof.Machine
end

