-- ==== Sys2Proof/Machine/Security.lean ====
section
/-! DEFINITION. The security controller: SPDM sessions (R333, R460), the TDI (R461), channels (R344), debug challenge,
unlock and expiry (R340 to R342), the debugger's commands (R501), and snapshots (R497). -/

namespace Sys2Proof.Machine

/-! ### SPDM and channels -/

/-- A KEY_EXCHANGE opens a session: its transport key is a free value, its envelope count is fresh (R333, log 12). -/
def execSpdmKeyExchange (s : State) : Host.Outcome State Fault Refusal :=
  .next ({ s with sec := { s.sec with spdm := some (Config.randomBits s.tick).toNat, lastN := none } }.bump)

/-- A channel is installed over the session: in a protected context, 16 at most, its identifier unique in the package. -/
def execChannelInstall (ctx chan key : Nat) (s : State) : Host.Outcome State Fault Refusal :=
  let c := s.ctx ctx
  let used := s.ctxs.any fun e => e.2.channels.any fun (x : Channel) => x.id == chan
  .next (if c.world && s.sec.spdm.isSome && !used && decide (c.channels.length < 16) && decide (chan < 2 ^ 32) then
    s.setCtx ctx { c with channels := c.channels ++ [{ id := chan, key := key }] } else s)

/-! ### The TDI (R461) -/

def State.setTdi (s : State) (t : Tdi) : State := { s with sec := { s.sec with tdi := t } }

/-- Every protected context is destroyed. -/
def State.closeWorlds (s : State) : State :=
  ((s.ctxs.filter fun e => e.2.world && e.2.state != .closing).map (·.1)).foldl (fun s n => (s.closeCtx n).settleClosing n) s

def execLockInterface (s : State) : Host.Outcome State Fault Refusal :=
  .next (if s.sec.tdi == .unlocked then s.setTdi .locked else s)
def execStartInterface (s : State) : Host.Outcome State Fault Refusal :=
  .next (if s.sec.tdi == .locked then s.setTdi .run else s)
def execStopInterface (s : State) : Host.Outcome State Fault Refusal :=
  .next (match s.sec.tdi with
    | .locked | .run => (s.setTdi .unlocked).closeWorlds
    | .error => s.setTdi .unlocked
    | .unlocked => s)
def execTdiError (s : State) : Host.Outcome State Fault Refusal :=
  .next (match s.sec.tdi with
    | .locked | .run => (s.setTdi .error).closeWorlds
    | _ => s)

/-! ### Debug state (R340 to R342) -/

/-- A fresh challenge of 32 bytes; the one before lapses. -/
def execDebugChallenge (s : State) : Host.Outcome State Fault Refusal :=
  .next ({ s with sec := { s.sec with challenge := some (Config.randomBits s.tick).toNat } }.bump)

/-- The debug state locked: every strand that the debugger halted goes on (R341, R501). -/
def State.lockDebug (s : State) : State :=
  { s with sec := { s.sec with debug := 0, expiry := 0 },
           strands := s.strands.map fun e => (e.1, { e.2 with debugHalt := false, debugSteps := 0 }) }

/-- Is a debug unlock token good: its form, its device, its challenge, its expiry and its signature, with the empty context string, over
bytes 0 to 79 (R340, log 12)? -/
def State.tokenGood (s : State) (t : List Byte) : Bool :=
  let f := fun (lo n : Nat) => ofBytes ((t.drop lo).take n)
  t.length == 2500 && f 0 4 == 0x44424755 && f 4 2 == 1 && (f 6 1 == 1 || f 6 1 == 2) && f 7 1 == 0 &&
    ((t.drop 8).take 32 == deviceId) && (s.sec.challenge == some (f 40 32)) && decide (s.power.dtime < f 72 8) &&
    dsaVerify Config.debugRootKey [] (t.take 80) (t.drop 80)

/-- The debug state raised to a level; launches that run record it (R337, R341). -/
def State.unlock (s : State) (level expiry : Nat) : State :=
  { s with sec := { s.sec with debug := max s.sec.debug level, expiry := expiry },
           cmd := { s.cmd with launches := s.cmd.launches.map fun e =>
             (e.1, if e.2.bound && e.2.status == none then { e.2 with debugMax := max e.2.debugMax level } else e.2) } }

/-- A token is checked, after the requests that reached the security controller before it (R28); each challenge serves one check. -/
def execDebugUnlock (token : List Byte) (s : State) : Host.Outcome State Fault Refusal :=
  if !s.sec.signQ.isEmpty then .next s else
  let good := s.tokenGood token
  let s := { s with sec := { s.sec with challenge := none } }
  .next (if good then s.unlock (ofBytes ((token.drop 6).take 1)) (ofBytes ((token.drop 72).take 8)) else s)

def execDebugExpiry (s : State) : Host.Outcome State Fault Refusal :=
  .next (if s.sec.debug != 0 && decide (s.sec.expiry ≤ s.power.dtime) then s.lockDebug else s)

/-! ### The debugger (R501) -/

/-- A command of the debugger at level 2: refused for a strand of an OWNED core or an unallocated one. -/
def State.debugCommand (s : State) (f : Strand → Strand) (steps : Nat → Nat) : State :=
  let sid := s.power.dbgSid
  if s.sec.debug != 2 then s
  else if (s.core (coreOf sid)).isOwned || (s.strand sid).life == .unalloc then { s with power := { s.power with dbgRefused := true } }
  else
    let t := s.setStrand sid (f (s.strand sid))
    { t with power := { t.power with dbgRefused := false, dbgSteps := steps t.power.dbgSteps } }

/-- HALT: the target stops at its next group boundary or waiting bundle, which `State.canIssue` heeds. -/
def execDebugHalt (s : State) : Host.Outcome State Fault Refusal :=
  .next (s.debugCommand (fun st => { st with debugHalt := true, debugSteps := 0 }) fun _ => 0)
/-- STEP: a halted target issues one issue group. -/
def execDebugStep (s : State) : Host.Outcome State Fault Refusal :=
  .next (s.debugCommand (fun st => if st.debugHalt then { st with debugSteps := 1 } else st) id)
def execDebugResume (s : State) : Host.Outcome State Fault Refusal :=
  .next (s.debugCommand (fun st => { st with debugHalt := false, debugSteps := 0 }) id)

/-- Why a memory access of the debugger does not run: `true` refused, `false` failed. -/
def State.debugDenied (s : State) (ctx va : Nat) (write : Bool) : Option Bool :=
  let c := s.ctx ctx
  if c.world then some true else
  match c.leaf va with
  | none => some false
  | some (_, e) =>
    if pteState e = pgSealed then some true
    else if va % 8 ≠ 0 || !(pteState e == pgResident || (pteState e == pgWeight && !write)) then some false
    else match s.transIn c va write false (fun r => (SMap.get c.regions r {}).current) with
      | .ok pa _ _ => if s.reachable agentHost pa then none else some false
      | _ => some false

/-- A debugger access: its flags, and what it does where it runs. -/
def State.debugAccess (s : State) (write : Bool) (f : State → Nat → Nat → State) : State :=
  let ctx := field s.power.dbgVa 52 10
  let va := s.power.dbgVa % 2 ^ 52
  if s.sec.debug != 2 then s else
  match s.debugDenied ctx va write with
  | some r => { s with power := { s.power with dbgRefused := r, dbgErr := !r } }
  | none => f { s with power := { s.power with dbgRefused := false, dbgErr := false } } ctx va

/-- A read of DATA loads the 8 bytes at VA, as an agent of scope .sy. -/
def execDebugMemRead (s : State) : Host.Outcome State Fault Refusal :=
  .next (s.debugAccess false fun s ctx va =>
    let c := s.ctx ctx
    match s.transIn c va false false (fun r => (SMap.get c.regions r {}).current) with
    | .ok pa _ _ => { s with power := { s.power with dbgData := ofBytes (s.readLine (Reader.of agentHost s.tick) c.keyId pa 8).1 } }
    | _ => s)
/-- A write of DATA stores 8 bytes at VA. -/
def execDebugMemWrite (v : Nat) (s : State) : Host.Outcome State Fault Refusal :=
  .next (s.debugAccess true fun s ctx va =>
    { s with power := { s.power with dbgData := v % 2 ^ 64 } }.writeLine agentCp 7 ctx va (toBytes v 8) false)

/-! ### Snapshots (R497) -/

/-- A write of SNAPCTL with ARM: what was latched before is given up. -/
def execSnapArm (v : Nat) (s : State) : Host.Outcome State Fault Refusal :=
  let p := { s.power with snapSrc := field v 2 2, snapCode := field v 8 8 }
  .next { s with power := if bit v 0 then { p with snapArm := true, snapDone := false, snap := none } else { p with snapArm := false } }
def execSnapTrigger (s : State) : Host.Outcome State Fault Refusal := .next (if s.armed then s.latch else s)
def execSnapcmpMatch (s : State) : Host.Outcome State Fault Refusal :=
  .next (if s.armed && s.power.snapSrc == 3 && decide (s.power.snapCmp ≤ s.power.dtime) then s.latch else s)

end Sys2Proof.Machine
end

