-- ==== Sys2Proof/Machine/Sync.lean ====
section
/-! DEFINITION. The SY slot and `mbox`: markers and joins (R415 to R418), the superstep and the cluster barrier (R410,
R411, R425 to R429), `halt` (R389, R390), lanegroup states (R407 to R409), the mailbox (R412, R413). -/

namespace Sys2Proof.Machine

/-! ### Markers (R415 to R418) -/

/-- Queues named by a mask. -/
def markQueues (qm : Nat) : List Nat := (List.range 6).filter fun n => bit qm n

def execMark (qm : Nat) (sc : Scope) (s : State) : Host.Outcome State Fault Refusal :=
  slotOp (.mark qm sc) s fun s =>
    let st := s.me
    let full := fun (n : Nat) => decide (4 ≤ (st.markers.filter (·.queue == n)).length)
    if (markQueues qm).any full then .stall .markerFull
    else
      let new := (markQueues qm).map fun n => ({ queue := n, sc := sc, seq := st.seq, hnd := st.hnd } : Marker)
      .ok (s.setMe { st with markers := st.markers ++ new })

/-- Does a copy-engine marker, or a barrier, wait for a command of its strand (R416, R454)? -/
def CeCmd.marked (c : CeCmd) : Bool := c.op != .ckpt

/-- The owned units of a strand's core, which its group holds while it is swapped out (R311). -/
def State.unitsOf (s : State) (sid : Nat) : Core :=
  match SMap.find (s.group (s.strand sid).grp).units (coreOf sid) with
  | some u => u
  | none => s.core (coreOf sid)

/-- Has every entry ahead of a marker met its condition (R416)? The calls and commands of a swapped-out owner are paused, not done. -/
def State.markerMet (s : State) (sid : Nat) (m : Marker) : Bool :=
  let st := s.strand sid
  let u := s.unitsOf sid
  match m.queue with
  | 0 => st.lq.all fun a => decide (m.seq < a.seq) || a.doneAt 7
  | 1 => st.sq.all fun a => decide (m.seq < a.seq) || a.doneAt (Scope.level m.sc)
  | 2 => u.calls.all fun c => c.sid != sid || decide (m.seq < c.seq) || c.ended
  | 3 => u.owner != some sid || u.rowq.all fun c => decide (m.seq < c.seq)
  | 4 => (s.commandsOf sid).all fun c => !c.marked || decide (m.seq < c.seq)
  | _ => (s.colsOf sid).all fun c => decide (m.seq < c.seq)

def execMarkerReachHead (sid k : Nat) (s : State) : Host.Outcome State Fault Refusal :=
  let st := s.strand sid
  .next (match st.markers[k]? with
    | some m => if s.markerMet sid m then s.setStrand sid { st with markers := st.markers.set k { m with reached := true } } else s
    | none => s)

/-- The widest scope of some markers of a queue. -/
def widest (ms : List Marker) (queue : Nat) : Option Scope :=
  (ms.filter (·.queue == queue)).foldl (fun a m => match a with
    | some sc => some (if Scope.level sc < Scope.level m.sc then m.sc else sc)
    | none => some m.sc) none

/-- The acquire side of a fence (R421): each read that one of its markers of the read's queue stands behind. -/
def State.fenceAcquire (s : State) (ms : List Marker) : State :=
  let st := s.me
  { s with mem := st.reads.foldl (fun m h =>
      (ms.filter fun k => k.queue == h.queue && decide (h.seq ≤ k.seq)).foldl (fun m k => m.acquire [h.head] s.cur k.sc (st.seq + 1)) m) s.mem }

/-- The writes of commands with REL that a fence observes complete, by a marker of their engine behind them (R423). -/
def State.fenceEngines (s : State) (ms : List Marker) : State :=
  let place := s.placeOf s.cur
  let seen := fun (w : NarrowWrite) => w.tag.eng && w.tag.rel && w.tag.grp == s.me.grp && w.tag.place == place &&
    ms.any fun m => m.queue == (if w.tag.col then 5 else 4) && decide (w.tag.seq ≤ m.seq)
  { s with mem := s.mem.order ((s.mem.narrow.filter seen).map (·.wid)) s.cur (s.me.seq + 1) }

/-- The full fences of the device stand in the order in which their joins issue: each synchronises with those after it that are mutually
in scope (R422). -/
def State.fenceFull (s : State) (ms : List Marker) : State :=
  match widest ms 0, widest ms 1 with
  | some a, some b =>
    let sc := if Scope.level a ≤ Scope.level b then a else b
    let upto := (ms.filter (·.queue == 1)).foldl (fun n m => max n (m.seq + 1)) 0
    let m := s.mem.acquire s.mem.fences s.cur sc (s.me.seq + 1)
    let own : Release := { agent := s.cur, sc := sc, seq := s.me.seq, writes := m.beforeOf s.cur (s.me.seq + 1) upto }
    { s with mem := { m with fences := m.fences.filter m.matters ++ [own] } }
  | _, _ => s

/-- The release side of a fence (R421): one for each marker of the store queue, which the writes that follow it head. One that no write can
follow any more is forgotten: a later one of its scope covers it. -/
def State.fenceRelease (s : State) (ms : List Marker) : State :=
  let st := s.me
  let new := (ms.filter (·.queue == 1)).map fun m =>
    ({ agent := s.cur, sc := m.sc, seq := st.seq, writes := s.mem.beforeOf s.cur (st.seq + 1) (m.seq + 1) } : Release)
  let busy := !st.stbuf.isEmpty || st.sq.any fun a => a.parts.any fun p => p.level == 0
  let old := st.fences.filter fun f => busy || !(new.any fun g => g.sc == f.sc)
  let merged := new.map fun g => { g with writes := g.writes ++ (st.fences.filter fun f => f.sc == g.sc).flatMap (·.writes) }
  s.setMe { st with fences := old ++ merged }

/-- What a `join` does once its calls are joined: what it acquires, observes and releases (R421 to R423), then its markers go, and entries
fetched ahead go (R290). -/
def State.fence (s : State) (ms : List Marker) : State :=
  let s := (((s.fenceAcquire ms).fenceEngines ms).fenceFull ms).fenceRelease ms
  s.setMe ({ s.me with markers := s.me.markers.filter fun m => !ms.contains m }.dropFetched fun _ => true)

def execJoin (s : State) : Host.Outcome State Fault Refusal :=
  slotOp .join s fun s =>
    let ms := s.me.joinMarkers
    if ms.any fun m => !m.reached then .stall .markers
    else
      match ms.filter (·.queue == 2) with
      | [] => .ok (s.fence ms)
      | l => (joinCalls s (l.foldl (fun n m => max n m.seq) 0)).bind fun s => .ok (s.fence ms)

/-! ### The superstep barrier (R425 to R429) -/

/-- Is a generation of a launch's superstep barrier not yet complete? -/
def State.genOpen (s : State) (lid g : Nat) : Bool :=
  match (s.launch lid).barrier with
  | .open_ h => decide (h ≤ g)
  | _ => false

def execSsarr (s : State) : Host.Outcome State Fault Refusal :=
  slotOp .ssarr s fun s =>
    let st := s.me
    if st.arrival.any fun g => s.genOpen st.launch g then .stall .superstep
    else
      let g := match s.myLaunch.barrier with
        | .open_ h => h
        | _ => 0
      .ok (s.setMe { st with arrival := some g, arriving := some st.seq, arrivedAt := st.seq })

def execSswait (s : State) : Host.Outcome State Fault Refusal :=
  slotOp .sswait s fun s =>
    let st := s.me
    if st.arrival.any fun g => s.genOpen st.launch g then .stall .superstep
    else
      let s := if st.arrival.isSome then { s with mem := s.mem.order s.myLaunch.carried s.cur (st.seq + 1) } else s
      .ok (s.setMe ({ st with arrival := none }.dropFetched fun _ => true))

/-- Engine commands of a strand of the bundles below a number. -/
def State.enginesBusy (s : State) (sid upto : Nat) : Bool :=
  (s.commandsOf sid).any fun c => c.marked && decide (c.seq < upto)

/-- Does a write come from a strand, wherever it ran then, and from a bundle below a number? -/
def WriteTag.from_ (t : WriteTag) (grp place upto : Nat) : Bool := t.grp == grp && t.place == place && decide (t.seq < upto)

/-- Is a write of a strand's bundles below a number, or of an engine command of them, performed below a level? -/
def State.writesBelow (s : State) (sid upto level : Nat) : Bool :=
  s.mem.narrow.any fun w => w.tag.from_ (s.strand sid).grp (s.placeOf sid) upto && decide (w.level < level)

/-- A superstep arrival counts once the entries ahead of it are performed at .pk (R426). -/
def execSuperstepArrival (sid : Nat) (s : State) : Host.Outcome State Fault Refusal :=
  let st := s.strand sid
  match st.arriving with
  | none => .next s
  | some n =>
    if (st.sq.all fun a => decide (n < a.seq) || a.doneAt 5) && !s.enginesBusy sid (n + 1) && !s.writesBelow sid (n + 1) 5 &&
        (s.colsOf sid).all (fun c => decide (n < c.seq)) then
      .next (s.setStrand sid { st with arriving := none })
    else .next s

/-- Has a group started and not ended (R404, R425)? -/
def Group.member (g : Group) : Bool :=
  match g.state with
  | .waking | .preloaded | .halted | .faulted => false
  | .switching => !(g.entering && g.prior == .preloaded)
  | _ => true

/-- The strands of every started group of a launch, those of an IMAGED group as they were saved: group, placement, agent, strand. -/
def State.membersAt (s : State) (lid : Nat) : List (Nat × Nat × Nat × Strand) :=
  (s.cmd.groups.filter fun e => e.2.launch == lid && e.2.member).flatMap fun e =>
    if e.2.state == .imaged then e.2.saved.mapIdx fun i st => (e.1, i, savedAgent e.1 i, st)
    else e.2.strands.mapIdx fun i n => (e.1, i, n, s.strand n)
def State.members (s : State) (lid : Nat) : List Strand := (s.membersAt lid).map fun m => m.2.2.2

/-- What happens before the arrival of a strand at a barrier from a bundle: its writes of the bundles below a number, those of its engine
commands among them, and what happens before those (R428, log 17). -/
def Mem.arrivalWrites (m : Mem) (grp place agent upto : Nat) : List Nat :=
  m.beforeOf agent upto 0 ++ (m.narrow.filter fun w => w.tag.from_ grp place upto).map (·.wid)

/-- Has every member arrived at a generation, or halted? -/
def State.allArrived (s : State) (lid g : Nat) : Bool :=
  let here := fun (st : Strand) => st.arrival == some g && st.arriving.isNone
  (s.members lid).any here && (s.members lid).all fun st => here st || st.life == .halted

/-- Does a `ckpt` that awaits a generation of a launch still stand in its queue (R454)? -/
def State.ckptWaits (s : State) (lid g : Nat) : Bool :=
  s.clusters.any fun e => e.2.ceq.any fun c => c.op == .ckpt && c.launch == lid && c.c == g && !c.begun

/-- Does a checkpoint of a launch wait for the snapshot at a generation: one whose descriptor is read, or one that still stands in its
queue (R453, R454)? -/
def State.snapshotDue (s : State) (lid g : Nat) : Bool :=
  ((s.ctx (s.launch lid).ctx).ckpt.any fun c => c.launch == lid && c.gen == g && !c.taken && !c.failed) || s.ckptWaits lid g

/-- What happens before the release from a generation of a launch's superstep barrier (R428). -/
def State.arrivalsOf (s : State) (lid : Nat) : List Nat :=
  (s.membersAt lid).flatMap fun m =>
    s.mem.arrivalWrites m.1 m.2.1 m.2.2.1 (if m.2.2.2.life == .halted then m.2.2.2.seq else m.2.2.2.arrivedAt + 1)

/-- A generation completes when every member has arrived; a snapshot that awaits it comes first. -/
def execSuperstepGenerationComplete (launch : Nat) (s : State) : Host.Outcome State Fault Refusal :=
  let l := s.launch launch
  match l.barrier with
  | .open_ g =>
    if s.allArrived launch g && !s.snapshotDue launch g then
      .next (s.setLaunch launch { l with barrier := .open_ (g + 1), carried := (l.carried ++ s.arrivalsOf launch).filter s.mem.hidden })
    else .next s
  | _ => .next s

/-! ### The cluster barrier (R410, R411) -/

def execCbar (s : State) : Host.Outcome State Fault Refusal :=
  slotOp .cbar s fun s =>
    let st := s.me
    if (st.sq.any fun a => decide (a.seq < st.seq) && a.op != .epstore && !a.doneAt 3) || s.enginesBusy s.cur st.seq ||
        s.writesBelow s.cur st.seq 3 then .stall .barrier
    else .ok (s.setMe { st with cbarGen := some (s.group st.grp).gen })

/-- The members of a group's barrier: its strands that have begun and not halted, a swapped-out one among them, whose arrival stands
(R411). -/
def State.barrierMembers (s : State) (g : Group) : List Nat := g.strands.filter fun n => (s.strand n).begun && (s.strand n).life != .halted

/-- What happens before the release from a generation of a group's cluster barrier, and the members that are released (R428). -/
def State.releaseMembers (s : State) (grp : Nat) (live : List Nat) : State :=
  let g := s.group grp
  let ids := g.strands.flatMap fun n => s.mem.arrivalWrites grp (s.placeOf n) n (s.strand n).seq
  live.foldl (fun s n =>
    let st := s.strand n
    { s with mem := s.mem.order ids n st.seq }.setStrand n ({ st with cbarGen := none }.dropFetched fun _ => true)) s

def execCbarGenerationComplete (grp : Nat) (s : State) : Host.Outcome State Fault Refusal :=
  let g := s.group grp
  let live := s.barrierMembers g
  if !live.isEmpty && live.all fun n => (s.strand n).cbarGen == some g.gen then
    .next ((s.releaseMembers grp live).setGroup grp { g with gen := g.gen + 1 })
  else .next s

/-! ### `halt` (R389, R390) -/

/-- A `halt` joins the strand's calls; what it discards goes when the bundle commits. -/
def execHalt (s : State) : Host.Outcome State Fault Refusal :=
  slotOp .halt s fun s =>
    let c := s.myCore
    if (c.calls.any fun m => m.sid == s.cur && !m.ended) || (c.owner == some s.cur && !c.rowq.isEmpty) then .stall .halt
    else (joinCalls s s.me.seq).bind fun s => .ok (s.setMe { s.me with halting := true })

/-- What a halting strand discards at the commit of its `halt`: deliveries but their flags, batches, stream contents,
loops, loads, its open endpoint packet (R390, R471). -/
def State.discardAtHalt (s : State) (sid : Nat) : State :=
  let st := s.strand sid
  let fl := flAll (st.dbuf.map (·.flags))
  let place := s.placeOf sid
  let task := (s.group st.grp).task
  let unsealed := fun (p : EpPacket) => !p.sealed && p.launch == st.launch && p.task == task && p.place == place
  let ids := (s.link.packets.filter unsealed).map fun (p : EpPacket) => p.id
  let sq := st.sq.filter fun a => !(a.op == .epstore && ids.contains a.tag)
  let st := { st.orFlags fl with dbuf := [], q := [], loops := [], md := false, rb := false, lq := [], stbuf := [],
                                 snaps := [], drain := none, rolledTo := [], branch := none, sq := sq }
  let s := { s with link := { s.link with packets := s.link.packets.filter fun p => !unsealed p } }
  let n := coreOf sid
  let c := s.core n
  let s := if c.owner = some sid then s.setCore n { c with trOpen := none, trClosed := [] } else s
  s.setStrand sid st

/-- Has everything drained that a halting strand waits for (R390)? -/
def State.drained (s : State) (sid : Nat) : Bool :=
  let st := s.strand sid
  let g := s.group st.grp
  (st.sq.all (·.doneAt 7)) && !s.writesBelow sid st.seq 7 &&
    (g.strands.filter fun n => coreOf n == coreOf sid).all fun n => (s.commandsOf n).isEmpty && (s.colsOf n).isEmpty

def execHaltRetire (sid : Nat) (s : State) : Host.Outcome State Fault Refusal :=
  let st := s.strand sid
  if st.halting && st.life == .live && s.drained sid then
    .next { s.setStrand sid { st with life := .halted, halting := false, sq := [] } with halts := SMap.erase s.halts sid }
  else .next s

/-! ### Lanegroups (R407 to R409) -/

/-- The states of some lanegroups of the issuing strand's set changed. -/
def State.setLgs (s : State) (lgm : Nat) (f : LgPower → LgPower) : State :=
  let c := s.myCore
  s.setMyCore { c with lgs := (groups lgm).foldl (fun m g =>
    SMap.put m (8 * bankSetOf s.cur + g) (f (SMap.get m (8 * bankSetOf s.cur + g) .on)) .on) c.lgs }

/-- A lanegroup that is not on begins to turn on. -/
def LgPower.wake (p : LgPower) : LgPower := if p == .on then .on else .waking

def execLgate (lgm : Nat) (st : LgState) (s : State) : Host.Outcome State Fault Refusal :=
  slotOp (.lgate lgm st) s fun s =>
    .ok (s.setLgs lgm fun p => match st with
      | .on => LgPower.wake p
      | .drowsy => .drowsy
      | .gated => .gated)

def execWake (lgm : Nat) (s : State) : Host.Outcome State Fault Refusal :=
  slotOp (.wake lgm) s fun s =>
    let s := s.setLgs lgm LgPower.wake
    .ok (s.setMe { s.me with wakeWait := lgm })

/-- A lanegroup that wakes, or a drowsy one for which a bundle waits, becomes on; `lg` counts 8 to a set. -/
def execLanegroupTurnOn (core lg : Nat) (s : State) : Host.Outcome State Fault Refusal :=
  let c := s.core core
  let asked := (List.range 4).any fun k =>
    (s.strand (8 * core + 4 * (lg / 8) + k)).stall == some (.drowsy (lg % 8))
  match SMap.get c.lgs lg .on with
  | .waking => .next (s.setCore core { c with lgs := SMap.erase c.lgs lg })
  | .drowsy => if asked then .next (s.setCore core { c with lgs := SMap.erase c.lgs lg }) else .next s
  | _ => .next s

/-! ### The mailbox (R412, R413) -/

def execMbox (d word : Nat) (s : State) : Host.Outcome State Fault Refusal :=
  slotOp (.mbox d word) s fun s => .ok (s.postX 1 d (s.mailWord word))

end Sys2Proof.Machine
end

