-- ==== Sys2Proof/Machine/Page.lean ====
section
/-! DEFINITION. Administrative commands of pages and weight regions (R438, R440, R445 to R452), page walks (R436, R437),
and the snapshot and the stream of a checkpoint (R454, R455). -/

namespace Sys2Proof.Machine

/-! ### Administrative commands (R352) -/

/-- The last launch of queue 0 whose status is fixed and whose record is still to be written. -/
def State.beforeAdmin (s : State) : Option Nat := (s.cmd.statusOrder.filter fun l => (s.launch l).queue == 0).getLast?

/-- The command processor's current administrative command completes: its record goes to queue 0's completion queue, after those of
statuses that were fixed before it (R357). -/
def State.adminEnd (s : State) (status tag tasks : Nat) : State :=
  let id := (s.cmd.admin.head?.getD 0) / 2 ^ 1024
  let s := { s with cmd := { s.cmd with admin := s.cmd.admin.drop 1 } }
  let c : Completion := { status := status, cls := 0xFF, tasks := tasks, tag := tag, launch := id, tend := s.power.dtime }
  match s.beforeAdmin with
  | some l => { s with cmd := { s.cmd with adminDone := s.cmd.adminDone ++ [(l, c)] } }
  | none => s.postRecord (SMap.get s.cmd.queues 0 {}).cq c

/-- Ends with FAULT, nothing else changed. -/
def State.adminFault (s : State) (tag : Nat) : State := s.adminEnd Status.fault.code tag 0
/-- Ends with OK. -/
def State.adminOk (s : State) (tag : Nat) : State := s.adminEnd 0 tag 0

/-- Does a context take commands: it is OPEN or ACTIVE (R299)? -/
def State.usable (s : State) (ctx : Nat) : Bool :=
  match SMap.find s.ctxs ctx with
  | some c => c.state == .opened || c.state == .active
  | none => false

/-! ### Pages of a range -/

/-- Granules of a range of `count` pages. -/
def rangeGranules (size count : Nat) : Nat := count * pageGranules size

/-- The pages of a context that a granule range meets. -/
def Ctx.meeting (c : Ctx) (g n : Nat) : SMap Nat :=
  c.pages.filter fun e => decide (e.1 < g + n) && decide (g < e.1 + pageGranules (pteSize e.2))

/-- Does the range cover part of a larger page, or meet a MIGRATING one (R440, R446)? -/
def Ctx.blocksRange (c : Ctx) (g n : Nat) : Bool :=
  (c.meeting g n).any fun e => decide (e.1 < g) || decide (g + n < e.1 + pageGranules (pteSize e.2)) || pteState e.2 == pgMigrating

/-- Accesses of a context in a range that were translated and are not yet performed, writes of engines on their way among them (R438). -/
def State.inFlight (s : State) (ctx g n : Nat) : Bool :=
  let hits := fun (a : Access) => a.ctx == ctx && a.parts.any fun p =>
    p.pa.isSome && !p.parked && !p.doneAt a.op 1 && decide (65536 * g ≤ p.va) && decide (p.va < 65536 * (g + n))
  let inFrame := fun (w : NarrowWrite) => ((s.ctx ctx).meeting g n).any fun e =>
    let lo := s.foldPa (ptePa e.2)
    decide (w.addr < lo + 65536 * pageGranules (pteSize e.2)) && decide (lo < w.addr + w.data.length)
  (s.strands.any fun e => e.2.lq.any hits || e.2.sq.any hits) || (s.mem.orphans.any fun o => hits o.2) ||
    s.mem.narrow.any fun w => w.level == 0 && inFrame w

/-- Translations of a range leave every TLB (R438). -/
def State.tlbDrop (s : State) (ctx g n : Nat) : State :=
  let keep := fun (t : TlbEntry) => t.ctx != ctx || decide (g + n ≤ t.page) || decide (t.page + pageGranules t.size ≤ g)
  { s with clusters := s.clusters.map fun e => (e.1, { e.2 with tlb := e.2.tlb.filter keep }),
           dies := s.dies.map fun e => (e.1, { e.2 with tlb := e.2.tlb.filter keep }) }

/-- The faults of a range are resolved: fault-table entries and notices go (R441, R444). -/
def State.resolve (s : State) (ctx g n : Nat) : State :=
  let c := s.ctx ctx
  let out := fun (p : Nat) => decide (p < g) || decide (g + n ≤ p)
  let s := s.setCtx ctx { c with notices := c.notices.filter out }
  { s with dies := s.dies.map fun e => (e.1, { e.2 with faults := e.2.faults.filter fun f => f.ctx != ctx || out f.page }) }

/-- Parked accesses to a range are replayed: they are translated again (R442). -/
def State.replay (s : State) (ctx g n : Nat) : State :=
  let part := fun (p : Part) =>
    if p.parked && decide (65536 * g ≤ p.va) && decide (p.va < 65536 * (g + n)) then { p with parked := false, pa := none } else p
  let acc := fun (a : Access) => if a.ctx = ctx then { a with parts := a.parts.map part } else a
  { s with strands := s.strands.map fun e => (e.1, { e.2 with lq := e.2.lq.map acc, sq := e.2.sq.map acc }) }

/-- Parked accesses to a range fail (R443). -/
def State.failParked (s : State) (ctx g n : Nat) : State :=
  (SMap.keys s.strands).foldl (fun s sid =>
    let st := s.strand sid
    match (st.lq ++ st.sq).findSome? fun a => a.parts.find? fun p =>
        a.ctx == ctx && p.parked && decide (65536 * g ≤ p.va) && decide (p.va < 65536 * (g + n)) with
    | some p => s.escalateOutside sid cPERM p.va 2
    | none => s) s

/-! ### MAP (R433, R435, R446, R467 to R470) -/

/-- The index of a frame of MRAM, as wear counters and retirement name it (R449, R500). -/
def frameIndex (pa : Nat) : Nat :=
  match mramSlice pa with
  | some (c, off) => 3968 * c + off / 65536
  | none => 0

/-- Does a range lie in the weight frames of one slice, none of them retired? -/
def State.weightFrames (s : State) (pa len : Nat) : Bool :=
  isWeight pa && isWeight (pa + len - 1) && decide ((mramSlice pa).map (·.1) = (mramSlice (pa + len - 1)).map (·.1)) &&
    (List.range (len / 65536)).all fun i => !s.power.retired.contains (frameIndex (pa + 65536 * i))

/-- Does a range lie in installed LPDDR6, outside the table pool? -/
def State.lpddrFrames (s : State) (pa len : Nat) : Bool :=
  s.isLpddr pa && s.isLpddr (pa + len - 1) &&
    (decide (pa + len ≤ s.boot.poolBase) || decide (s.boot.poolBase + s.boot.poolBytes ≤ pa))

/-- Does a range lie in memory of a peer that is reached from here: LPDDR6, or weight frames of a slice (R467)? -/
def peerFrames (pa len : Nat) : Bool :=
  (peerOf pa).isSome && (peerOf pa == peerOf (pa + len - 1)) &&
    (let a := pa % 2 ^ 44
     (decide (a + len ≤ 0x10000000000)) || (isWeight a && isWeight (a + len - 1) && decide ((mramSlice a).map (·.1) = (mramSlice (a + len - 1)).map (·.1))))

/-- Frames that the pages of other contexts map, or are being copied to; an entry that reaches this package by its own index among the peers
names its own memory (R332, R433, R446). -/
def State.mappedElsewhere (s : State) (ctx pa len : Nat) : Bool :=
  let meets := fun (lo n : Nat) => decide (lo < pa + len) && decide (pa < lo + n)
  (s.ctxs.any fun e => e.1 != ctx && e.2.pages.any fun p =>
    let n := 65536 * pageGranules (pteSize p.2)
    let d := (SMap.get e.2.regions (pteWreg p.2) {}).delta
    let lo := s.foldPa (ptePa p.2)
    pteState p.2 != pgNonres && !pteEp p.2 && (meets lo n || (pteState p.2 == pgWeight && d != 0 && meets (lo + d) n))) ||
  s.migrations.any fun m => m.ctx != ctx && meets (s.foldPa m.pa) (65536 * pageGranules m.size)

/-- The 64 KiB frame of the link status block (R468). -/
def State.isStatusFrame (s : State) (pa : Nat) : Bool := pa / 65536 == s.boot.lsBase / 65536

/-- May a frame be mapped with these fields? -/
def State.frameOk (s : State) (ctx size state perm wreg addr : Nat) : Bool :=
  let pa := s.foldPa addr
  let c := s.ctx ctx
  let len := 65536 * pageGranules size
  let (r, w, ep, d) := (bit perm 0, bit perm 1, bit perm 2, bit perm 3)
  if ep then state == pgResident && decide (addr < 2 ^ 24) && !c.world
  else if state = pgNonres then pa == 0
  else if state = pgWeight then
    let x := SMap.find c.regions wreg
    r && !w && !d && decide (size < 3) && pa == addr && s.weightFrames pa len && !s.mappedElsewhere ctx pa len &&
      x.any fun x => x.delta == 0 || ((mramSlice pa).map (·.1) == (mramSlice (pa + x.delta)).map (·.1) && s.weightFrames (pa + x.delta) len &&
        !s.mappedElsewhere ctx (pa + x.delta) len)
  else if isHost pa then isHost (pa + len - 1) && (!c.world || state == pgSealed)
  else if (peerOf pa).isSome then state == pgResident && !c.world && peerFrames pa len
  else if s.isStatusFrame pa then size == 0 && state == pgResident && r && !w
  else (s.lpddrFrames pa len || s.weightFrames pa len) && !s.mappedElsewhere ctx pa len

/-- Do the operands of a MAP hold (R445, R446)? -/
def State.mapOk (s : State) (m : MapArg) : Bool :=
  let n := pageGranules m.size
  let len := 65536 * n
  let c := s.ctx m.ctx
  let res := m.state != pgNonres
  s.usable m.ctx && decide (m.size < 4) && [0, 1, 4, 5].contains m.state && decide (m.perm < 16) && decide (0 < m.count) &&
    decide (m.count ≤ 65536) && m.va % len == 0 && (!res || m.pa % len == 0) && m.pa % 65536 == 0 &&
    decide (m.va + m.count * len ≤ 2 ^ 52) && !c.blocksRange (m.va / 65536) (m.count * n) &&
    (List.range m.count).all fun i => s.frameOk m.ctx m.size m.state m.perm m.wreg (if res then m.pa + i * len else m.pa)

/-- The new entries of a MAP. -/
def Ctx.install (c : Ctx) (m : MapArg) : Ctx :=
  let n := pageGranules m.size
  let g := m.va / 65536
  let kept := c.pages.filter fun e => decide (e.1 < g) || decide (g + m.count * n ≤ e.1)
  let e := fun (i : Nat) => pteOf m.size m.state (bit m.perm 0) (bit m.perm 1) (bit m.perm 2) (bit m.perm 3)
    (if m.state = pgNonres then 0 else m.pa + 65536 * n * i) m.wreg
  { c with pages := (List.range m.count).foldl (fun p i => SMap.insert p (g + n * i) (e i)) kept }

/-- Some pages of a size, from an address on. -/
def pageRun (va size count : Nat) : List Nat := (List.range count).map fun i => va + 65536 * pageGranules size * i

/-- The tables for some pages, taken from the pool (R434). -/
def State.tablesFor (s : State) (ctx size : Nat) (vas : List Nat) : Option State :=
  vas.foldl (fun t va => t.bind fun t => t.takeTables ctx va size) (some s)

/-- The entries of some pages are written (R435). -/
def State.writeRun (s : State) (ctx : Nat) (vas : List Nat) : State := vas.foldl (fun s va => s.writeEntries ctx va) s

/-- MAP: once the accesses under the old entries are performed, the new entries stand, in tables that the pool has room for, and parked
accesses replay. A pool without room is a MAP that completes FAULT (log 13). -/
def execMap (m : MapArg) (s : State) : Host.Outcome State Fault Refusal :=
  let g := m.va / 65536
  let n := rangeGranules m.size m.count
  let vas := pageRun m.va m.size m.count
  .next (if !s.mapOk m then s.adminFault m.tag
    else if s.inFlight m.ctx g n then s
    else match s.tablesFor m.ctx m.size vas with
      | none => s.adminFault m.tag
      | some s =>
        let s := (s.setCtx m.ctx ((s.ctx m.ctx).install m)).writeRun m.ctx vas
        (((s.tlbDrop m.ctx g n).resolve m.ctx g n).replay m.ctx g n).adminOk m.tag)

/-- Do the operands of an UNMAP hold? -/
def State.unmapOk (s : State) (ctx size va count : Nat) : Bool :=
  let n := pageGranules size
  s.usable ctx && decide (size < 4) && decide (0 < count) && decide (count ≤ 65536) && va % (65536 * n) == 0 &&
    decide (va + count * n * 65536 ≤ 2 ^ 52) && !(s.ctx ctx).blocksRange (va / 65536) (count * n)

/-- Pages removed, with their cache pins. -/
def Ctx.uninstall (c : Ctx) (g n : Nat) : Ctx :=
  let out := fun (p : Nat) => decide (p < g) || decide (g + n ≤ p)
  { c with pages := c.pages.filter (fun e => out e.1), pins := c.pins.filter fun l => out (l / 1024) }

/-- The physical lines that a context has pinned in a range. -/
def State.pinnedIn (s : State) (ctx g n : Nat) : List Nat :=
  let c := s.ctx ctx
  (c.pins.filter fun l => decide (g ≤ l / 1024) && decide (l / 1024 < g + n)).filterMap fun l =>
    (c.leaf (64 * l)).map fun e => s.foldPa (frameOf e.1 e.2 (64 * l)) / 64

def execUnmap (ctx size va count tag : Nat) (s : State) : Host.Outcome State Fault Refusal :=
  let g := va / 65536
  let n := rangeGranules size count
  .next (if !s.unmapOk ctx size va count then s.adminFault tag
    else if s.inFlight ctx g n then s
    else
      let s := { s with mem := s.mem.unpin (s.pinnedIn ctx g n) }
      let s := (s.setCtx ctx ((s.ctx ctx).uninstall g n)).writeRun ctx (pageRun va size count)
      (((s.tlbDrop ctx g n).resolve ctx g n).failParked ctx g n).adminOk tag)

/-! ### MIGRATE (R440, R446) -/

/-- The entry of a page of a size at an address. -/
def Ctx.pageAt (c : Ctx) (size va : Nat) : Option Nat :=
  match SMap.find c.pages (va / 65536) with
  | some e => if pteSize e = size then some e else none
  | none => none

/-- An entry with another state, or frame. -/
def pteWithState (e st : Nat) : Nat := setField e 4 3 st
def pteWithPa (e pa : Nat) : Nat := setField e 16 36 (pa / 65536)

def State.migrateOk (s : State) (ctx size va pa : Nat) : Bool :=
  let len := 65536 * pageGranules size
  let c := s.ctx ctx
  s.usable ctx && decide (size < 4) && va % len == 0 && pa % len == 0 &&
    (match c.pageAt size va with
     | some e => pteState e == pgResident && !pteEp e &&
         s.frameOk ctx size pgResident (field e 7 4) (pteWreg e) pa
     | none => false) &&
    c.pending.all fun g => decide (g < va / 65536) || decide (va / 65536 + pageGranules size ≤ g)

/-- The page is MIGRATING from here on, and its copy goes on by itself. -/
def execMigrate (ctx size va pa tag : Nat) (s : State) : Host.Outcome State Fault Refusal :=
  let n := pageGranules size
  .next (if !s.migrateOk ctx size va pa then s.adminFault tag
    else if s.inFlight ctx (va / 65536) n then s
    else
      let c := s.ctx ctx
      let e := ((c.pageAt size va).getD 0)
      let s := s.setCtx ctx { c with pages := SMap.insert c.pages (va / 65536) (pteWithState e pgMigrating) }
      let m : Migration := { ctx := ctx, va := va, size := size, pa := pa }
      let s := { s with migrations := s.migrations ++ [m] }
      (s.tlbDrop ctx (va / 65536) n).adminOk tag)

/-- Bytes, poison and keys of a frame copied to another; writes on the way to the old frame land first, and the lines of both leave the
memory-side caches, their pins with them (log 28). -/
def Mem.copyFrame (m : Mem) (old new len : Nat) : Mem :=
  let m := (m.narrow.filter fun w => decide (w.addr < old + len) && decide (old < w.addr + w.data.length)).foldl
    (fun m w => m.promote w.wid 7) m
  let inR := fun (lo a : Nat) => decide (lo ≤ a) && decide (a < lo + len)
  let move := fun (a : Nat) => a - old + new
  let cells := (m.cells.filter fun e => inR old e.1).foldl (fun l e => cellPut l (move e.1) e.2) (m.cells.filter fun e => !inR new e.1)
  let keys := (m.keys.filter fun e => inR old (64 * e.1)).foldl (fun l e => SMap.put l (move (64 * e.1) / 64) e.2 0)
    (m.keys.filter fun e => !inR new (64 * e.1))
  let poison := (m.poison.filter fun l => inR old (64 * l)).foldl (fun l x => insertNat l (move (64 * x) / 64))
    (m.poison.filter fun l => !inR new (64 * l))
  { m with cells := cells, keys := keys, poison := poison, cache := m.cache.filter fun e => !inR old (64 * e.1) && !inR new (64 * e.1) }

/-- The bytes of a frame copied to another; one in a peer is read, or written, at its home there (R467). -/
def State.moveFrame (s : State) (key old new len : Nat) : State :=
  if (peerOf old).isNone && (peerOf new).isNone then { s with mem := s.mem.copyFrame old new len } else
  (cutLines old len).foldl (fun s l =>
    let (bs, bad) := s.readLine (Reader.of agentCp s.tick) key l.1 64
    let s := match peerOf old with
      | some d => s.askPeer d l.1 .read (List.replicate 64 0)
      | none => s
    match peerOf new with
    | some d => s.askPeer d (l.1 - old + new) (.write bad true) bs
    | none => { s with mem := s.mem.write agentCp 7 (l.1 - old + new) bs bad key }) s

/-- The copy of a migration finishes: the entry names the new frame, and parked accesses replay (R438, R440). -/
def execMigrateCopyDone (ctx va : Nat) (s : State) : Host.Outcome State Fault Refusal :=
  let g := va / 65536
  .next (match s.migrations.find? fun m => m.ctx == ctx && m.va == va with
    | none => s
    | some m =>
      let c := s.ctx ctx
      match c.pageAt m.size va with
      | none => s
      | some e =>
        let n := pageGranules m.size
        let s := s.moveFrame c.keyId (s.foldPa (ptePa e)) (s.foldPa m.pa) (65536 * n)
        let s := { s with migrations := s.migrations.filter fun x => !(x.ctx == ctx && x.va == va) }
        let s := (s.setCtx ctx { c with pages := SMap.insert c.pages g (pteWithPa (pteWithState e pgResident) m.pa) }).writeRun ctx [va]
        ((s.tlbDrop ctx g n).resolve ctx g n).replay ctx g n)

/-! ### Weight regions (R446 to R450) -/

/-- Launches of a context, status not fixed, bound to a version of a region that a condition names. -/
def State.boundLaunch (s : State) (ctx region : Nat) (f : Nat → Bool) : Bool :=
  s.cmd.launches.any fun e => e.2.ctx == ctx && e.2.status == none && e.2.bound && (SMap.find e.2.versions region).any f

def State.region (s : State) (ctx region : Nat) : Region := SMap.get (s.ctx ctx).regions region {}
def State.setRegion (s : State) (ctx region : Nat) (r : Region) : State :=
  let c := s.ctx ctx
  s.setCtx ctx { c with regions := SMap.insert c.regions region r }

/-- The WEIGHT pages of a region. -/
def Ctx.regionPages (c : Ctx) (region : Nat) : SMap Nat := c.pages.filter fun e => pteState e.2 == pgWeight && pteWreg e.2 == region

/-- May a region be defined, or defined anew? -/
def State.wregOk (s : State) (ctx region delta : Nat) : Bool :=
  let c := s.ctx ctx
  s.usable ctx && decide (region < 256) && delta % 65536 == 0 &&
    match SMap.find c.regions region with
    | none => true
    | some r => r.tx == .idle && !s.boundLaunch ctx region (fun _ => true) && (c.regionPages region).all fun e =>
        let len := 65536 * pageGranules (pteSize e.2)
        delta == 0 || ((mramSlice (ptePa e.2)).map (·.1) == (mramSlice (ptePa e.2 + delta)).map (·.1) && s.weightFrames (ptePa e.2 + delta) len &&
          !s.mappedElsewhere ctx (ptePa e.2 + delta) len)

def execWreg (ctx region delta tag : Nat) (s : State) : Host.Outcome State Fault Refusal :=
  .next (if s.wregOk ctx region delta then (s.setRegion ctx region { delta := delta }).adminOk tag else s.adminFault tag)

/-- Is a region defined, in a context that takes commands, with its transaction in a state? -/
def State.txIs (s : State) (ctx region : Nat) (f : TxState → Bool) : Bool :=
  s.usable ctx && (SMap.find (s.ctx ctx).regions region).any fun r => f r.tx

/-- WBEGIN: no launch is bound below the current version. -/
def execWbegin (ctx region tag : Nat) (s : State) : Host.Outcome State Fault Refusal :=
  let r := s.region ctx region
  .next (if s.txIs ctx region (· == .idle) && !s.boundLaunch ctx region (fun v => decide (v < r.current)) then
    (s.setRegion ctx region { r with tx := .opened, written := [] }).adminOk tag
  else s.adminFault tag)

/-- The copy of a granule that a transaction writes (R448). -/
def Region.writes (r : Region) (granule : Nat) : Nat :=
  match r.written.find? fun w => w.granule == granule with
  | some w => w.copy
  | none =>
    let (v0, v1) := SMap.get r.versions granule (0, 0)
    if r.delta = 0 then 0 else if v0 < v1 then 0 else 1

/-- A granule's copy takes the transaction's version; the journal keeps its version before, once. -/
def Region.record (r : Region) (granule : Nat) : Region :=
  let k := r.writes granule
  let (v0, v1) := SMap.get r.versions granule (0, 0)
  let known := r.written.any fun w => w.granule == granule
  { r with versions := SMap.insert r.versions granule (if k = 0 then (r.current + 1, v1) else (v0, r.current + 1)),
           written := if known then r.written else r.written ++ [{ granule := granule, copy := k, prev := if k = 0 then v0 else v1 }] }

/-- Mismatches that the read-back of a granule meets: a free value (R449, log 12). -/
def State.mismatches (s : State) (frame : Nat) : Nat := Config.freeNat (s.tick + frame) % 10

/-- A granule written into its copy: line by line with read-back; with nine mismatches its frame is retired and the
transaction has FAILED. The second result says so. -/
def State.writeGranule (s : State) (ctx region granule : Nat) (bs : List Byte) : State × Bool :=
  let c := s.ctx ctx
  let r := s.region ctx region
  match c.leaf (65536 * granule) with
  | none => (s, true)
  | some (base, e) =>
    let pa := frameOf base e (65536 * granule) + r.writes granule * r.delta
    let f := frameIndex pa
    let miss := s.mismatches f
    let p := s.power
    let s := { s with power := { p with wearWrites := SMap.insert p.wearWrites f (min (2 ^ 32 - 1) (SMap.get p.wearWrites f 0 + 1)),
                                        wearRewrites := SMap.insert p.wearRewrites f (min 65535 (SMap.get p.wearRewrites f 0 + min 8 miss)) } }
    let seed := s.tick
    let data := if miss ≤ 8 then bs else bs.mapIdx fun i b => if Config.movedEarly (seed + i) then BitVec.ofNat 8 (Config.freeNat (seed + i)) else b
    let s := { s with mem := s.mem.write agentCp 7 pa data false c.keyId }
    let s := (s.setRegion ctx region (r.record granule)).bump
    if miss ≤ 8 then (s, false)
    else
      let r := s.region ctx region
      (({ s with power := { s.power with retired := insertNat s.power.retired f } }).setRegion ctx region { r with tx := .failed }, true)

/-- The bytes of a source granule for the command processor (R525). -/
def State.cpRead (s : State) (ctx va n : Nat) : RangeRead :=
  s.readRange (Reader.of agentCp s.tick) ctx false (fun r => (s.region ctx r).current) va n

/-- What the granules of a WPAGE come to: all written, one that fails, or one whose source has to wait. -/
inductive WpageEnd where
  | ok | fault | park (at_ : Nat)
  deriving DecidableEq, Repr

/-- The granules of a WPAGE written in ascending order, each once its source is read in full, up to one that fails or waits; the third result
counts those written (R449). -/
def State.wpageRun (s : State) (ctx region src done : Nat) : List (Nat × Nat) → State × WpageEnd × Nat
  | [] => (s, .ok, done)
  | (i, g) :: rest =>
    match s.cpRead ctx (src + 65536 * i) 65536 with
    | .bytes bs false =>
      let s := s.openRange ctx (fun r => (s.region ctx r).current) (src + 65536 * i) 65536
      match s.writeGranule ctx region g bs with
      | (t, false) => t.wpageRun ctx region src (done + 1) rest
      | (t, true) => (t, .fault, done)
    | .park a => (s, .park a, done)
    | _ => (s, .fault, done)

/-- How far the WPAGE at the head of the administrative commands has come. -/
def State.setWpage (s : State) (n : Nat) : State := { s with cmd := { s.cmd with wpageDone := n } }

/-- WPAGE; where a source has to wait the granules before it are written, and the command goes on from there (R449, R525). -/
def execWpage (ctx region va src count tag : Nat) (s : State) : Host.Outcome State Fault Refusal :=
  let c := s.ctx ctx
  let g := va / 65536
  let inRegion := fun (i : Nat) => match c.leaf (va + 65536 * i) with
    | some (_, e) => pteState e == pgWeight && pteWreg e == region
    | none => false
  if s.power.kiln == .held then .next s
  else if !s.txIs ctx region (· == .opened) || (s.region ctx region).commit || va % 65536 != 0 || count = 0 || 65536 < count ||
    !(List.range count).all inRegion then .next ((s.setWpage 0).adminFault tag)
  else
    let n := s.cmd.wpageDone
    let r := s.wpageRun ctx region src n (((List.range count).drop n).map fun i => (i, g + i))
    .next (match r.2.1 with
      | .ok => (r.1.setWpage 0).adminOk tag
      | .fault => (r.1.setWpage 0).adminFault tag
      | .park a => (r.1.setWpage r.2.2).cpPark ctx a 0 false)

/-- The digest of a region at a version: SHA3-256 over those of its granules, by address (R450). -/
def State.regionDigest (s : State) (ctx region version : Nat) : List Byte :=
  let c := s.ctx ctx
  let r := s.region ctx region
  let one := fun (base e i : Nat) =>
    let g := base + i
    let pa := frameOf base e (65536 * g) + r.copyFor g version * r.delta
    sha3 (s.mem.bytesFor (Reader.of agentCp s.tick) pa 65536)
  sha3 ((c.regionPages region).flatMap fun e => (List.range (pageGranules (pteSize e.2))).flatMap fun i => one e.1 e.2 i)

/-- A transaction whose journal holds COMMIT is completed: the version is current, and its digest is recorded (R450, R451). -/
def State.commitRegion (s : State) (ctx region : Nat) : State :=
  let r := s.region ctx region
  let v := r.current + 1
  s.setRegion ctx region { r with current := v, tx := .idle, commit := false, written := [], digest := s.regionDigest ctx region v }

/-- WCOMMIT: the journal takes COMMIT first, and then the version changes (R450). -/
def execWcommit (ctx region tag : Nat) (s : State) : Host.Outcome State Fault Refusal :=
  let r := s.region ctx region
  .next (if !s.txIs ctx region (· == .opened) then s.adminFault tag
    else if r.commit then (s.commitRegion ctx region).adminOk tag
    else s.setRegion ctx region { r with commit := true })

/-- Every copy that a transaction wrote is returned to its version before (R448, R451). -/
def Region.rollBack (r : Region) : Region :=
  let back := fun (v : SMap (Nat × Nat)) (w : CopyWritten) =>
    let (v0, v1) := SMap.get v w.granule (0, 0)
    SMap.insert v w.granule (if w.copy = 0 then (w.prev, v1) else (v0, w.prev))
  { r with versions := r.written.foldl back r.versions, written := [], tx := .idle, commit := false }

def execWabort (ctx region tag : Nat) (s : State) : Host.Outcome State Fault Refusal :=
  .next (if s.txIs ctx region (· != .idle) then (s.setRegion ctx region (s.region ctx region).rollBack).adminOk tag else s.adminFault tag)

/-! ### The tracked window (R452) -/

def execCkcfg (ctx base len tag : Nat) (s : State) : Host.Outcome State Fault Refusal :=
  let c := s.ctx ctx
  let new := if len = 0 then none else some (base, len)
  .next (if s.usable ctx && base % 2 ^ 30 == 0 && decide (len ≤ 4096) && decide (base + len * 2 ^ 30 ≤ 2 ^ 52) then
    (s.setCtx ctx { c with window := new, dirty := if c.window = new then c.dirty else [] }).adminOk tag
  else s.adminFault tag)

/-! ### Page walks (R436, R437) -/

/-- A walk of a die for a page completes, once the links to the memory-side caches carry its reads: its translation enters the TLBs of the
die and of the clusters whose misses shared it, or the context is BROKEN (R15, R436, R437). The event names a walk by its page's first
address; which cluster it names plays no part. -/
def execPageWalkComplete (ctx va die cluster : Nat) (s : State) : Host.Outcome State Fault Refusal :=
  let _ := cluster
  let c := s.ctx ctx
  let d := s.die die
  .next (match d.walks.find? fun w => w.ctx == ctx && w.page == va / 65536 with
    | none => s
    | some w =>
      if !s.walkOpen die c va then s else
      let s := s.setDie die { d with walks := d.walks.filter fun x => !(x.ctx == ctx && x.page == w.page) }
      if s.walkBad c va then s.breakCtx ctx
      else match c.leaf va with
        | some (base, e) =>
          let t : TlbEntry := { ctx := ctx, page := base, size := pteSize e, leaf := e }
          w.clusters.foldl (fun s k => s.tlbFill die (some k) t) (s.tlbFill die none t)
        | none => s)

/-! ### Checkpoints (R454, R455) -/

/-- Entries of fault tables on pages of a context that are not faulting any more are freed (R441). -/
def State.freeEntries (s : State) (ctx : Nat) : State :=
  let c := s.ctx ctx
  let faulting := fun (p : Nat) => match c.leaf (65536 * p) with
    | some (base, e) => pteState e == pgNonres || pteState e == pgMigrating ||
        c.pending.any fun g => decide (base ≤ g) && decide (g < base + pageGranules (pteSize e))
    | none => false
  { s with dies := s.dies.map fun e => (e.1, { e.2 with faults := e.2.faults.filter fun f => f.ctx != ctx || faulting f.page }) }

/-- Granules are pending no longer: the writes parked on them replay (R440, R441). -/
def State.unprotect (s : State) (ctx : Nat) (gs : List Nat) : State := (gs.foldl (fun s g => s.replay ctx g 1) s).freeEntries ctx

/-- The pending bits go back to the dirty bits, and the checkpoint has failed. -/
def State.failCkpt (s : State) (ctx : Nat) (p : Ckpt) : State :=
  let c := s.ctx ctx
  (s.setCtx ctx { c with dirty := c.pending.foldl insertNat c.dirty, pending := [], ckpt := some { p with failed := true } }).unprotect ctx
    c.pending

/-- The snapshot, as the generation that a checkpoint awaits completes and every `ckpt` that awaits it has joined: dirty bits become pending
bits, GEN increments; a stream beyond CAPACITY fails. -/
def execCkptSnapshot (ctx : Nat) (s : State) : Host.Outcome State Fault Refusal :=
  let c := s.ctx ctx
  .next (match c.ckpt with
    | none => s
    | some p =>
      if p.taken || p.failed || p.cmds.isEmpty || s.ckptWaits p.launch p.gen || !s.allArrived p.launch p.gen || s.power.kiln != .running then s
      else
        let n := c.dirty.length
        let gen := c.ckptGen + 1
        let p := { p with taken := true, number := gen, manifest := c.dirty, time := s.power.dtime }
        let s := s.setCtx ctx { c with pending := c.dirty, dirty := [], ckptGen := gen, ckpt := some p }
        if p.capacity < ckptHead n + 65536 * n then s.failCkpt ctx p else s)

/-- Is a write parked on a granule: of a strand, of a copy engine, or of the collective engine (R455)? -/
def State.writeParked (s : State) (ctx granule : Nat) : Bool :=
  let here := fun (p : Option (Nat × Bool)) => p.any fun x => x.2 && x.1 / 65536 == granule
  (s.strands.any fun e => e.2.sq.any fun (a : Access) => a.ctx == ctx && a.parts.any fun p => p.parked && p.va / 65536 == granule) ||
  (s.clusters.any fun e => e.2.ceq.any fun (c : CeCmd) => c.ctx == ctx && here c.parked) ||
  s.link.cols.any fun (c : ColCmd) => c.ctx == ctx && here c.parked

/-- The issuing cluster's copy engines stream a granule; its last line is performed at .sy: its pending bit clears, and its parked writes replay. Granules on which a
write is parked go first. -/
def execCkptGranuleStreamed (ctx granule : Nat) (s : State) : Host.Outcome State Fault Refusal :=
  let c := s.ctx ctx
  match c.ckpt with
  | none => .next s
  | some p =>
    let urgent := p.manifest.any fun g => c.pending.contains g && s.writeParked ctx g
    if !p.taken || p.failed || !p.manifest.contains granule || !c.pending.contains granule || s.power.kiln != .running ||
        (urgent && !s.writeParked ctx granule) then .next s
    else
      let dst := p.area + ckptHead p.manifest.length + 65536 * p.manifest.idxOf granule
      let bound := fun (r : Nat) => SMap.get (s.launch p.launch).versions r 0
      let eng := engineOf ((p.cmds.head?.map (·.1)).getD 0)
      match s.readRange (Reader.of eng s.tick) ctx false bound (65536 * granule) 65536, s.probeWrite eng ctx false dst 65536 with
      | .denied _, _ => .next (s.failCkpt ctx p)
      | _, some (true, _) => .next (s.failCkpt ctx p)
      | .park a, _ => .next (s.cpPark ctx a p.launch false)
      | _, some (false, a) => .next (s.cpPark ctx a p.launch true)
      | .bytes bs bad, none =>
        let s := s.writeRange eng 7 ctx dst bs bad
        let c := s.ctx ctx
        .next ((s.setCtx ctx { c with pending := c.pending.filter (· != granule) }).unprotect ctx [granule])

end Sys2Proof.Machine
end

