-- ==== Sys2Proof/Machine/Admin.lean ====
section
/-! DEFINITION. The other administrative commands: CREATE, DESTROY, PARK, UNPARK, RELOCK, FORCE, CANCEL, EPWIN and EPRING
(R298 to R300, R113, R327, R341, R343, R352, R364, R470). -/

namespace Sys2Proof.Machine

/-! ### CREATE (R298, R299, R327, R335, R343, R434) -/

/-- The lowest EMPTY key slot. -/
def State.emptySlot (s : State) : Option Nat := ((List.range 63).map (· + 1)).find? fun n => (SMap.find s.sec.slots n).isNone

/-- The least length of a save area: a strand image for each of 32 strands does not fit below it (R298). -/
def minSave : Nat := 3574272

/-- Do the operands of a CREATE hold? -/
def State.createOk (s : State) (ctx : Nat) (world : Bool) (root save len : Nat) : Bool :=
  decide (0 < ctx) && decide (ctx < 1024) && (SMap.find s.ctxs ctx).isNone && root % 65536 == 0 &&
    decide (s.boot.poolBase ≤ root) && decide (root + 65536 ≤ s.boot.poolBase + s.boot.poolBytes) && !s.poolUsed.contains root &&
    decide (minSave ≤ len) && decide (save + len ≤ 2 ^ 52) && (!world || s.sec.tdi == .run)

/-- The context chain at CREATE (R335). -/
def chain0 (ctx : Nat) (world : Bool) (count : Nat) : List Byte :=
  sha3 (le 0x43 1 ++ le ctx 2 ++ le (ofBit world) 1 ++ deviceId ++ le count 8)

/-- A context opened, under a key slot. -/
def State.openCtx (s : State) (ctx : Nat) (world : Bool) (policy root save len slot key : Nat) : State :=
  s.setCtx ctx { state := .opened, root := root, world := world, slot := slot, keyId := key, saveBase := save, saveLen := len,
                 policy := policy, chain := chain0 ctx world s.sec.creations }

/-- A key slot filled with fresh keys, which the key number stands for (R326). -/
def State.fillSlot (s : State) (slot ctx key : Nat) : State :=
  { s with sec := { s.sec with slots := SMap.insert s.sec.slots slot { ctx := ctx, keyId := key } } }

/-- CREATE. A world's keys are asked of the security controller, after the requests before it (R28). -/
def execCreate (ctx : Nat) (world : Bool) (policy root save len tag : Nat) (s : State) : Host.Outcome State Fault Refusal :=
  if world && !s.sec.signQ.isEmpty then .next s else
  let s := { s with sec := { s.sec with creations := s.sec.creations + 1 } }
  .next (if !s.createOk ctx world root save len then s.adminFault tag
    else if !world then (s.openCtx ctx false policy root save len 0 0).adminOk tag
    else if s.sec.debug != 0 then s.adminEnd Status.debugActive.code tag 0
    else match s.emptySlot with
      | none => s.adminEnd Status.keyslots.code tag 0
      | some n =>
        let k := s.sec.keyNext
        let s := { s with sec := { s.sec with keyNext := k + 1 } }
        ((s.fillSlot n ctx k).openCtx ctx true policy root save len n k).adminOk tag)

/-! ### DESTROY (R299, R300) -/

/-- DESTROY closes a context; it is FREE once nothing of it is left at work. One of a context that is FREE fails; one
already CLOSING stays so. -/
def execDestroy (ctx tag : Nat) (s : State) : Host.Outcome State Fault Refusal :=
  .next (match SMap.find s.ctxs ctx with
    | none => s.adminFault tag
    | some c => if c.state == .closing then s.adminOk tag else ((s.closeCtx ctx).settleClosing ctx).adminOk tag)

/-! ### PARK and UNPARK (R326, R327) -/

/-- The device root key, and the 128 bytes of a slot's keys. -/
def rootKey : List Byte := secretKey (2 ^ 80)
def slotKeys (key : Nat) : List Byte := (List.range 4).flatMap fun i => secretKey (2 ^ 81 + 4 * key + i)

/-- A park blob (R327); the header in the wrapped part has the context in bytes 0 and 1, the slot in byte 2, the generation
in bytes 8 to 15 (log 10). -/
def parkBlob (ctx slot gen key : Nat) : List Byte :=
  le 0x50474C4200000001 8 ++ keyWrap rootKey (recordBytes 16 [(0, 2, ctx), (2, 1, slot), (8, 8, gen)] ++ slotKeys key) ++ List.replicate 96 0

/-- The bus address of a blob, as a physical address. -/
def blobAddr (blob : Nat) : Nat := 2 ^ 51 + blob

/-- May a world be parked: it owns no core and has no engine command? -/
def State.parkOk (s : State) (ctx : Nat) : Bool :=
  let c := s.ctx ctx
  s.usable ctx && c.world && !c.parked && (s.cores.all fun e => e.2.ownership != .owned ctx) &&
    (s.clusters.all fun e => e.2.ceq.all fun (x : CeCmd) => x.ctx != ctx) && s.link.cols.all fun (x : ColCmd) => x.ctx != ctx

/-- PARK: the cache lines of the slot are written back and invalidated, the keys wrapped, the slot emptied. -/
def execPark (ctx blob tag : Nat) (s : State) : Host.Outcome State Fault Refusal :=
  .next (if !s.parkOk ctx || 2 ^ 51 < blob + 256 then s.adminFault tag
    else if !s.link.hostUp || !s.sec.signQ.isEmpty then s
    else
      let c := s.ctx ctx
      let gen := SMap.get s.sec.gens ctx 0 + 1
      let s := { s with sec := { s.sec with gens := SMap.insert s.sec.gens ctx gen, slots := SMap.erase s.sec.slots c.slot },
                        mem := (s.mem.dropSlot c.keyId).write agentCp 7 (blobAddr blob) (parkBlob ctx c.slot gen c.keyId) false 0 }
      (s.setCtx ctx { c with parked := true }).adminOk tag)

def execUnpark (ctx blob tag : Nat) (s : State) : Host.Outcome State Fault Refusal :=
  let c := s.ctx ctx
  .next (if !s.usable ctx || !c.parked || 2 ^ 51 < blob + 256 then s.adminFault tag
    else if !s.link.hostUp || !s.sec.signQ.isEmpty then s
    else if s.mem.bytesFor (Reader.of agentCp s.tick) (blobAddr blob) 256 != parkBlob ctx c.slot (SMap.get s.sec.gens ctx 0) c.keyId then s.adminFault tag
    else match s.emptySlot with
      | none => s.adminEnd Status.keyslots.code tag 0
      | some n => ((s.fillSlot n ctx c.keyId).setCtx ctx { c with parked := false, slot := n }).adminOk tag)

/-! ### RELOCK and FORCE (R113, R341) -/

def execRelock (tag : Nat) (s : State) : Host.Outcome State Fault Refusal := .next (s.lockDebug.adminOk tag)

/-- FORCE: every core that runs the context's groups follows; a launch that runs under forced 24k records it (R113, R337). -/
def execForce (ctx : Nat) (on : Bool) (tag : Nat) (s : State) : Host.Outcome State Fault Refusal :=
  .next (if !s.usable ctx then s.adminFault tag else
    let gs := s.standing.filter fun g => g.ctx == ctx
    let s := s.setCtx ctx { s.ctx ctx with force := on }
    let s := s.forceCores (gs.flatMap Group.cores)
    let mark := fun (e : Nat × Launch) => (e.1, if on && gs.any (fun (g : Group) => g.launch == e.1) then { e.2 with forced24 := true } else e.2)
    { s with cmd := { s.cmd with launches := s.cmd.launches.map mark } }.adminOk tag)

/-! ### CANCEL (R364) -/

/-- The launches that a CANCEL acts on. -/
def State.cancelled (s : State) (ctx queue target : Nat) : List Nat :=
  (s.cmd.launches.filter fun e => e.2.ctx == ctx && e.2.queue == queue && e.2.status == none && itemBytes e.2.item 96 8 == target).map (·.1)

def execCancel (ctx queue target tag : Nat) (s : State) : Host.Outcome State Fault Refusal :=
  .next (if !s.usable ctx || queue = 0 || 64 ≤ queue then s.adminFault tag
    else
      let ids := s.cancelled ctx queue target
      (s.endLaunches ids .abort {}).adminEnd 0 tag ids.length)

/-! ### Endpoint windows and rings (R470) -/

def execEpwin (ctx window : Nat) (enable : Bool) (dest ring tag : Nat) (s : State) : Host.Outcome State Fault Refusal :=
  let other := (SMap.find s.link.windows window).any fun w => w.ctx != ctx
  .next (if !s.usable ctx || other || 256 ≤ window || 4096 ≤ dest || 64 ≤ ring then s.adminFault tag
    else
      let w : EpWin := { ctx := ctx, enabled := enable, dest := dest, ring := ring }
      { s with link := { s.link with windows := SMap.insert s.link.windows window w } }.adminOk tag)

def execEpring (ctx ring log2s : Nat) (wake : Bool) (base tag : Nat) (s : State) : Host.Outcome State Fault Refusal :=
  let other := (SMap.find s.link.rings ring).any fun r => r.ctx != ctx
  .next (if !s.usable ctx || other || 64 ≤ ring || 12 < log2s || base % 64 != 0 || 2 ^ 52 ≤ base then s.adminFault tag
    else
      let r : EpRing := { ctx := ctx, log2s := log2s, wake := wake, base := base }
      let rs := if log2s = 0 then SMap.erase s.link.rings ring else SMap.insert s.link.rings ring r
      { s with link := { s.link with rings := rs } }.adminOk tag)

end Sys2Proof.Machine
end

