-- ==== Sys2Proof/Machine/Queue.lean ====
section
/-! DEFINITION. Command and completion queues (R346 to R349, R357), the reading of work items (R349 to R351), aging,
deadlines and budgets (R359, R362, R363). -/

namespace Sys2Proof.Machine

/-! ### Command queues (R346, R347) -/

def State.queue (s : State) (n : Nat) : CmdQueue := SMap.get s.cmd.queues n {}
def State.setQueue (s : State) (n : Nat) (q : CmdQueue) : State := { s with cmd := { s.cmd with queues := SMap.insert s.cmd.queues n q } }

/-- Items written and not read. -/
def CmdQueue.waiting (q : CmdQueue) : Nat := (q.tail + 2 ^ 32 - q.head) % 2 ^ 32

/-- A queue that is ON with a tail beyond its length is in ERROR (R347). -/
def CmdQueue.checked (q : CmdQueue) : CmdQueue :=
  if q.state == .on && decide (2 ^ q.log2n < q.waiting) then { q with state := .error } else q

/-- A tail write is latched, and it is a wake event (R29, R31). -/
def execQtailWrite (q v : Nat) (s : State) : Host.Outcome State Fault Refusal :=
  .next (if 64 ≤ q then s else
    let s := s.setQueue q ({ s.queue q with tail := v % 2 ^ 32 }.checked)
    { s with power := { s.power with wakes := s.power.wakes + 1 } })

/-- The fields of QCFG but EN. -/
def CmdQueue.withCfg (q : CmdQueue) (v : Nat) : CmdQueue :=
  { q with loc := bit v 1, log2n := field v 4 4, ctx := field v 8 10, weight := field v 18 8, cq := field v 26 6 }

/-- The checks of an enable (R347). -/
def State.queueOk (s : State) (n : Nat) (q : CmdQueue) : Bool :=
  q.base.toNat % 128 == 0 && decide (4 ≤ q.log2n) && decide (q.weight ≠ 0) &&
    (if n = 0 then q.ctx == 0 else q.ctx != 0 && s.usable q.ctx) && (s.cq q.cq).on && ((s.cq q.cq).ctx == q.ctx)

/-- A write of QCFG with EN set: to a queue that is OFF it sets the fields and turns it ON, or sets CFGERR; to another it is
discarded. Queues may be enabled from bring-up stage 8 on (R502); before it the write sets the fields, and enables nothing
(DESIGN CHOICE, log 20). EN reads as it was last written (R4). -/
def execQueueEnable (q v : Nat) (s : State) : Host.Outcome State Fault Refusal :=
  let c := { s.queue q with en := true }
  .next (if 64 ≤ q then s
    else if c.state != .off then s.setQueue q c
    else
      let c := c.withCfg v
      if s.power.stage ≠ 8 then s.setQueue q c
      else if s.queueOk q c then s.setQueue q ({ c with state := .on, cqfull := (s.cq c.cq).full }.checked)
      else s.setQueue q { c with cfgerr := true })

/-- A write of QCFG with EN clear: to a queue that is ON or in ERROR it turns it OFF; to one that is OFF it sets the fields. -/
def execQueueDisable (q v : Nat) (s : State) : Host.Outcome State Fault Refusal :=
  let c := { s.queue q with en := false }
  .next (if 64 ≤ q then s else s.setQueue q (if c.state == .off then c.withCfg v else { c with state := .off }))

/-! ### Completion queues (R348, R357) -/

/-- The fields of CCFG but EN. -/
def CmplQueue.withCfg (q : CmplQueue) (v : Nat) : CmplQueue :=
  { q with loc := bit v 1, log2n := field v 4 4, ctx := field v 8 10, vec := field v 18 11, mask := bit v 29 }

/-- The checks of an enable. -/
def State.cqOk (s : State) (q : CmplQueue) : Bool :=
  q.base.toNat % 128 == 0 && decide (4 ≤ q.log2n) && (q.ctx == 0 || s.usable q.ctx)

/-- A write of CCFG with EN set: the queue turns ON and its held records are written, or every command queue that names it
has CFGERR. Before bring-up stage 8 the write sets the fields, and enables nothing (DESIGN CHOICE, log 20). -/
def execCqEnable (q v : Nat) (s : State) : Host.Outcome State Fault Refusal :=
  let c := { s.cq q with en := true }
  .next (if 64 ≤ q then s
    else if c.on then s.setCq q c
    else
      let c := c.withCfg v
      if s.power.stage ≠ 8 then s.setCq q c
      else if s.cqOk c then (s.setCq q { c with on := true }).flushCq q
      else (s.setCq q c).queuesNaming q fun n => { n with cfgerr := true })

/-- A write of CCFG with EN clear. -/
def execCqDisable (q v : Nat) (s : State) : Host.Outcome State Fault Refusal :=
  let c := { s.cq q with en := false }
  .next (if 64 ≤ q then s else if c.on then (s.setCq q { c with on := false }).flushCq q else s.setCq q (c.withCfg v))

/-- A write of CHEAD frees room, and waiting records are written. -/
def execCheadWrite (q v : Nat) (s : State) : Host.Outcome State Fault Refusal :=
  .next (if 64 ≤ q then s else (s.setCq q { s.cq q with head := v % 2 ^ 32 }).flushCq q)

/-! ### Fields of a work item (R350) -/

def Launch.it (l : Launch) (lo n : Nat) : Nat := itemBytes l.item lo n
def Launch.ntask (l : Launch) : Nat := l.it 4 2
def Launch.budget (l : Launch) : Nat := l.it 40 8
/-- Bit 0 of FLAGS: a hallmark is asked for. -/
def Launch.wantsHm (l : Launch) : Bool := bit (l.it 2 1) 0
/-- Bit 1 of FLAGS: scratch-resident. -/
def Launch.resident (l : Launch) : Bool := bit (l.it 2 1) 1

/-- Has a launch a task left to start, a first time or again (R406)? -/
def Launch.hasTask (l : Launch) : Bool := !l.again.isEmpty || decide (l.nextTask < l.ntask)

/-- Has the deadline passed (R362)? -/
def State.late (s : State) (l : Launch) : Bool := l.deadline != 2 ^ 64 - 1 && decide (l.deadline ≤ s.power.dtime)

/-- Is an item on a queue one that completes FAULT without running (R351)? -/
def itemBad (w q : Nat) : Bool :=
  let b := itemBytes w
  b 0 1 != 0 || q == 0 || decide (2 < b 1 1) || decide (3 < b 2 1) || decide (3 < b 3 1) || b 4 2 == 0 || decide (8 < b 6 1) ||
    b 7 1 != 0 || field (b 80 2) 8 6 != 0 || field (b 82 2) 8 6 != 0 || field (b 84 2) 8 7 != 0 || b 86 2 != 0 ||
    decide (65536 < b 104 4) || b 108 20 != 0

/-! ### Reading (R349) -/

/-- Items in the pending pool: commands, and launches that have tasks to start. -/
def State.pool (s : State) : Nat :=
  s.cmd.admin.length + (s.cmd.launches.filter fun e => e.2.status == none && e.2.hasTask).length

/-- Can a queue be read now? -/
def State.readableQueue (s : State) (n : Nat) : Bool :=
  let q := s.queue n
  q.state == .on && decide (0 < q.waiting) && !(s.cq q.cq).full && (q.loc || s.link.hostUp) && decide (s.pool < 4096)

/-- The queue that is read next: ascending, wrapping. -/
def State.nextQueue (s : State) : Option Nat := ((List.range 64).map fun i => (s.cmd.readPtr + i) % 64).find? s.readableQueue

/-- An item read from a queue becomes a launch, with its identity; one that is not valid, or that came of a poisoned line
(log 20), completes FAULT, and so does one of a BROKEN context (R299). -/
def State.newLaunch (s : State) (q w : Nat) (poison : Bool) : State :=
  let c := s.queue q
  let id := s.cmd.launchNext
  let l : Launch := { item := w, queue := q, ctx := c.ctx, cls := itemBytes w 1 1, readAt := s.power.dtime }
  let s := s.setLaunch id l
  if itemBad w q || poison || (s.ctx c.ctx).state == .broken then s.fixStatus id .fault {} else s

/-- The command processor reads the next item: an administrative command joins its list, a launch the pool. -/
def execWorkItemRead (q : Nat) (s : State) : Host.Outcome State Fault Refusal :=
  .next (if s.nextQueue != some q || s.power.lost then s else
    let c := s.queue q
    let pa := queueAddr c.loc c.base + 128 * (c.head % 2 ^ c.log2n)
    let w := ofBytes (s.mem.bytesFor (Reader.of agentCp s.tick) pa 128)
    let bad := s.mem.poisonIn (Reader.of agentCp s.tick) pa 128
    let s := if q = 0 && itemBytes w 0 1 = 1 then
        { s with cmd := { s.cmd with admin := s.cmd.admin ++ [if bad then 2 ^ 1024 * s.cmd.launchNext else w + 2 ^ 1024 * s.cmd.launchNext] } }
      else s.newLaunch q w bad
    let s := s.setQueue q { c with head := (c.head + 1) % 2 ^ 32 }
    { s with cmd := { s.cmd with launchNext := s.cmd.launchNext + 1, readPtr := (q + 1) % 64 } })

/-! ### The end of a launch (R362, R363, R392) -/

/-- With none of its groups left a launch ends, and its superstep barrier is CLOSED (R429): LATE_PARTIAL where its deadline was latched,
or has passed by now (R362), OK where every task halted. -/
def State.settleLaunch (s : State) (lid : Nat) : State :=
  let l := s.launch lid
  let ends := fun (st : Status) => (s.closeBarrier lid).fixStatus lid st {}
  if l.status != none || !(s.groupsOf lid).isEmpty then s
  else if l.deadlineHit then ends .latePartial
  else if l.bound && decide (l.ntask ≤ l.nextTask) && l.again.isEmpty then ends (if s.late l then .latePartial else .ok)
  else s

/-- The groups of a launch that have not started are discarded, its preloads and, where no further task may start, those that wait for
their set-up; a task that has work to do goes back to the pool (R362, R403, R406). -/
def State.discardPreloads (s : State) (lid : Nat) (back : Bool) : State :=
  (s.groupsOf lid).foldl (fun s g =>
    let x := s.group g
    if x.state == .preloaded || (x.state == .waking && !back) then
      s.dropPreload g back
    else s) s

/-- Has a batch item waited AGE microseconds since it was read (R359)? -/
def State.ages (s : State) (l : Launch) : Bool :=
  l.cls == 1 && l.status == none && s.cmd.age != 0 && decide (l.readAt + 1000 * s.cmd.age ≤ s.power.dtime)

/-- A launch's mark of age. -/
def execItemAged (launch : Nat) (s : State) : Host.Outcome State Fault Refusal :=
  .next (if (SMap.find s.cmd.launches launch).isNone then s else s.setLaunch launch { s.launch launch with aged := s.ages (s.launch launch) })

/-- The marks of age follow device time and AGE (R359). -/
def State.settleAged (s : State) : State :=
  { s with cmd := { s.cmd with launches := s.cmd.launches.map fun e => (e.1, { e.2 with aged := s.ages e.2 }) } }

/-- Does the command processor act on deadlines: no hold, and no power loss (R31, R362)? -/
def State.alarms (s : State) : Bool := s.power.kiln == .running && !s.power.lost && !s.power.off

/-- A passed deadline takes effect: an item that no task has started completes LATE; of another no further task starts (R362). -/
def State.passDeadline (s : State) (launch : Nat) : State :=
  let l := s.launch launch
  if l.started = 0 then s.endLaunches [launch] .late {}
  else ((s.setLaunch launch { l with deadlineHit := true }).discardPreloads launch false).settleLaunch launch

/-- A deadline passes, or the command processor acts again after a hold in which one passed: the device-time alarm is a wake event
(R29, R362). -/
def execDeadlinePass (launch : Nat) (s : State) : Host.Outcome State Fault Refusal :=
  let l := s.launch launch
  .next (if (SMap.find s.cmd.launches launch).isNone || l.status != none || !s.late l || !s.alarms then s
    else
      let t := s.passDeadline launch
      { t with power := { t.power with wakes := t.power.wakes + 1 } })

/-! ### Budgets (R363) -/

/-- Does a bundle wait on an elastic path (R53, R61): a stream register, a global access, an engine's queue, a tile in use, a marker, a
barrier, an endpoint window? The wait of a `halt` for the strand's calls is taken for one (DEDUCED, log 24). -/
def Stall.elastic : Stall → Bool
  | .emptyStream _ | .queueFull | .translation _ | .engineQueue | .prefetch _ | .endpoint | .tileBusy | .markers | .markerFull
  | .barrier | .superstep | .halt => true
  | .lateResult | .drowsy _ | .handlerDrain | .wake | .classMask | .rail => false

/-- Does a strand stand where it stops: at a group boundary, or inside a group at a bundle that waits on an elastic path (R61)? -/
def Strand.atBoundary (st : Strand) : Bool := (if st.hnd then st.hgpos else st.gpos) == 0 || st.stall.any Stall.elastic
/-- Does a strand stop for the debugger (R501)? -/
def Strand.debugStopped (st : Strand) : Bool := st.debugHalt && st.debugSteps == 0 && st.atBoundary

/-- Does a group occupy the foreground set of its cluster? -/
def Group.occupies (g : Group) : Bool := g.state == .running || g.state == .draining || (g.state == .switching && !g.entering)

/-- Is device time charged to a group now: it occupies the foreground set of its cluster, and no hold and no debugger stops
it? -/
def State.charges (s : State) (g : Group) : Bool :=
  g.occupies && s.power.kiln == .running && !s.power.lost &&
    !(g.strands.any fun n => (s.strand n).debugStopped)

/-- Device time passes, and is charged (R363, R479); the hint units work on meanwhile (R457). -/
def State.passTime (s : State) (ns : Nat) : State :=
  let s := if s.power.kiln == .held || s.power.off then s else s.runHints
  State.settleAged { s with power := { s.power with dtime := s.power.dtime + ns, expected := Config.freeNat s.tick },
                            cmd := { s.cmd with groups := s.cmd.groups.map fun e =>
                              (e.1, if s.charges e.2 then { e.2 with charged := e.2.charged + ns } else e.2) } }

/-- Has the charge of a task reached its launch's BUDGET, with BUDGET still to be raised, or did it end the item (R363)? -/
def State.spent (s : State) (g : Group) : Bool :=
  let l := s.launch g.launch
  l.status == none && (g.overrun || (l.budget != 0 && decide (l.budget ≤ g.charged)))

/-- Has a strand stopped: it does not run, it drains, it waits at a barrier, or it stands where it stops (R61)? -/
def Strand.stopped (st : Strand) : Bool := st.life != .live || !st.begun || st.halting || st.cbarGen.isSome || st.atBoundary

/-- Have the strands of a group stopped (R310)? -/
def State.groupStopped (s : State) (g : Group) : Bool := g.strands.all fun n => (s.strand n).stopped

/-- The record of a BUDGET: the lowest strand of the group, no slot (log 21). -/
def State.budgetEsc (s : State) (g : Group) : EscRecord := s.escOf (g.strands.foldl min 3072) 0x41 15 0 0 0

/-- A group that is to stop: pre-emption takes one from RUNNING only (R398). -/
def Group.requested (g : Group) : Group := { g with state := if g.state == .running then .switching else g.state }

/-- A task's charge reaches BUDGET. A batch or background task is saved, to run again with a fresh budget; an interactive
one, or one that overruns again, first stops at its group boundary and then ends the item with BUDGET. A batch task that only drains
is not saved, and drains on with the fresh budget (DEDUCED, log 21). -/
def execBudgetExpiry (grp : Nat) (s : State) : Host.Outcome State Fault Refusal :=
  let g := s.group grp
  let l := s.launch g.launch
  .next (if (SMap.find s.cmd.groups grp).isNone || !g.occupies || l.status != none then s
    else if g.overrun then (if s.groupStopped g then s.endLaunches [g.launch] .budget (s.budgetEsc g) else s)
    else if !s.spent g then s
    else if l.cls = 0 || g.rerun then
      let s := s.setGroup grp { g.requested with overrun := true }
      if s.groupStopped g then s.endLaunches [g.launch] .budget (s.budgetEsc g) else s
    else
      let s := s.setGroup grp { g.requested with rerun := true, charged := 0 }
      if g.state == .draining then s else s.setLaunch g.launch { l with reruns := l.reruns ++ [grp] })

end Sys2Proof.Machine
end

