-- ==== Sys2Proof/Machine/Kernel.lean ====
section
/-! DEFINITION. Code objects (R374 to R380), the checks of the measured loader (R153, R260, R333, R381), kernel records
(R382 to R384), and loads into instruction memory (R328, R331, R385). -/

namespace Sys2Proof.Machine

/-! ### The code object (R374 to R380) -/

/-- A little-endian field of a byte string. -/
def u (bs : List Byte) (off n : Nat) : Nat := ofBytes ((bs.drop off).take n)

/-- Are all bytes of a range zero? -/
def zeros (bs : List Byte) (off n : Nat) : Bool := u bs off n == 0

def kNplc (o : List Byte) : Nat := u o 6 1
def kNcore (o : List Byte) : Nat := u o 7 1
def kNhnd (o : List Byte) : Nat := u o 8 2
def kNrt (o : List Byte) : Nat := u o 10 1
def kLen (o : List Byte) : Nat := u o 12 4
def kOplc (o : List Byte) : Nat := u o 16 4
def kOhnd (o : List Byte) : Nat := u o 20 4
def kOshp (o : List Byte) : Nat := u o 24 4
def kOtrp (o : List Byte) : Nat := u o 28 4
def kObun (o : List Byte) (c : Nat) : Nat := u o (32 + 4 * c) 4
def kNbun (o : List Byte) (c : Nat) : Nat := u o (64 + 2 * c) 2
def kOmc (o : List Byte) : Nat := u o 80 4
def kNmw (o : List Byte) : Nat := u o 84 2
def kOrt (o : List Byte) : Nat := u o 88 4

/-- Greatest object (R374). -/
def maxObject : Nat := 4194304

/-- A header by itself: MAGIC, VER, counts, zero fields. -/
def headerOk (o : List Byte) : Bool :=
  u o 0 4 == 0x4A424F43 && u o 4 2 == 1 && decide (1 ≤ kNplc o) && decide (kNplc o ≤ 32) && decide (1 ≤ kNcore o) &&
    decide (kNcore o ≤ 8) && decide (kNhnd o ≤ 256) && zeros o 11 1 && kLen o % 64 == 0 && kLen o == o.length &&
    decide (kLen o ≤ maxObject) && decide (kNmw o ≤ 512) && zeros o 86 2 && zeros o 92 36 &&
    (List.range 8).all fun c =>
      if c < kNcore o then decide (1 ≤ kNbun o c) && decide (kNbun o c ≤ 2048) else kObun o c == 0 && kNbun o c == 0

/-- The sections in the order of R167: offset and length. -/
def sections (o : List Byte) : List (Nat × Nat) :=
  [(kOplc o, 8 * kNplc o), (kOhnd o, 8 * kNhnd o), (kOshp o, 64), (kOtrp o, 32 * kNcore o)] ++
    ((List.range (kNcore o)).map fun c => (kObun o c, 64 * kNbun o c)) ++
    [(kOmc o, if kNmw o = 0 then 0 else 128 + 16 * kNmw o), (kOrt o, 16 * kNrt o)]

/-- Do sections follow one another, from an offset on, each at a multiple of 64, inside the object? -/
def sectionsOk (len : Nat) : Nat → List (Nat × Nat) → Bool
  | _, [] => true
  | end_, (off, n) :: rest => off % 64 == 0 && decide (end_ ≤ off) && decide (off + n ≤ len) && sectionsOk len (off + n) rest

/-- Placement record `i` (R375). -/
def kPlace (o : List Byte) (i : Nat) : Placement :=
  let b := kOplc o + 8 * i
  let bits := u o (b + 2) 1
  { core := u o (b + 1) 1, set := field bits 0 1, strand := field bits 1 2, own := bit bits 3, second := bit bits 4,
    entry := u o (b + 4) 2 }
def kPlaces (o : List Byte) : List Placement := (List.range (kNplc o)).map (kPlace o)

def placesOk (o : List Byte) : Bool :=
  let ps := kPlaces o
  let once := fun (f : Placement → Bool) => decide ((ps.filter f).length ≤ 1)
  ((List.range (kNplc o)).all fun i =>
    let b := kOplc o + 8 * i
    u o b 1 == i && decide (u o (b + 2) 1 < 32) && zeros o (b + 3) 1 && zeros o (b + 6) 2) &&
  (ps.all fun p => decide (p.core < kNcore o) && decide (p.entry < kNbun o p.core) && !(p.second && p.strand == 0) &&
    once (fun q => q.core == p.core && q.set == p.set && q.strand == p.strand) && once (fun q => q.core == p.core && q.own) &&
    once (fun q => q.core == p.core && q.set == p.set && q.second)) &&
  (List.range (kNcore o)).all fun c => ps.any fun p => p.core == c

/-- A handle declaration (R376). -/
structure Decl where
  h : Nat
  level : Nat
  core : Nat
  ety : Nat
  rows : Nat
  cols : Nat
  deriving DecidableEq, Repr

def kDecls (o : List Byte) : List Decl :=
  (List.range (kNhnd o)).map fun i =>
    let b := kOhnd o + 8 * i
    { h := u o b 1, level := u o (b + 1) 1, core := u o (b + 2) 1, ety := u o (b + 3) 1, rows := u o (b + 4) 2, cols := u o (b + 6) 2 }

def levelOf (n : Nat) : TileLevel := if n = 0 then .loc else if n = 1 then .shared else .bstack

def declOk (o : List Byte) (d : Decl) : Bool :=
  decide (d.level < 3) && decide (d.core < kNcore o) && decide (1 ≤ d.rows) && decide (d.rows ≤ 4096) && decide (1 ≤ d.cols) &&
    decide (d.cols ≤ (if d.level = 2 then 128 else 4096)) &&
    (ElemType.ofCode d.ety).any fun t => d.level != 2 || bstackType t

def ascending : List Nat → Bool
  | a :: b :: l => decide (a < b) && ascending (b :: l)
  | _ => true

/-- The declared tiles placed first-fit, in order, among others (R277, R387). -/
def placeDecls (others : List Tile) : List Decl → Option (SMap Tile)
  | [] => some []
  | d :: ds =>
    match ElemType.ofCode d.ety with
    | none => none
    | some ty =>
      match placeTile others (levelOf d.level) d.core d.rows d.cols ty with
      | none => none
      | some t => (placeDecls (t :: others) ds).map fun m => SMap.insert m d.h t

/-- SHAPEMAX and CAP (R377). -/
def kShapeMax (o : List Byte) : Nat := u o (kOshp o) 2
def kCap (o : List Byte) : Nat := u o (kOshp o + 2) 1

/-- The handler entry of cause k, 1 to 11, of placement core c; 0xFFFF for none (R378). -/
def kTrap (o : List Byte) (c k : Nat) : Nat := u o (kOtrp o + 32 * c + 2 * (k - 1)) 2

def trapsOk (o : List Byte) : Bool :=
  (List.range (kNcore o)).all fun c => zeros o (kOtrp o + 32 * c + 22) 10 &&
    (List.range 11).all fun k => kTrap o c (k + 1) == 0xFFFF || decide (kTrap o c (k + 1) < kNbun o c)

/-- Start words of the declared routines, by routine index (R379). -/
def kRoutines (o : List Byte) : SMap Nat :=
  if kNmw o = 0 then [] else
    (List.range 64).filterMap fun i =>
      let w := u o (kOmc o + 2 * i) 2
      if w = 0xFFFF then none else some (i, w)
def kWord (o : List Byte) (i : Nat) : Nat := u o (kOmc o + 128 + 16 * i) 16

/-- The words of a routine from word `at_` on: loops nest and close, the last word is `mret` (R260). `opens` holds the body
starts of the open loops. -/
def routineOk (o : List Byte) : Nat → Nat → List Nat → Bool
  | 0, _, _ => false
  | n + 1, at_, opens =>
    match decodeMicro (kWord o at_) with
    | none => false
    | some (.mloop _) => decide (opens.length < 4) && routineOk o n (at_ + 1) ((at_ + 1) :: opens)
    | some (.mend t) =>
      (match opens with
       | b :: rest => b == t && routineOk o n (at_ + 1) rest
       | [] => false)
    | some .mret => opens.isEmpty && (n == 0 || routineOk o n (at_ + 1) opens)
    | some _ => routineOk o n (at_ + 1) opens

def microOk (o : List Byte) : Bool :=
  let starts := (kRoutines o).map (·.2)
  let n := kNmw o
  if n = 0 then true else
    ascending starts && starts.head? == some 0 && (starts.all fun w => decide (w < n)) &&
    (starts.zip (starts.drop 1 ++ [n])).all fun e => routineOk o (e.2 - e.1) e.1 []

/-- A row-table descriptor (R380): handle, length, offset of the image. -/
def kTable (o : List Byte) (i : Nat) : Nat × Nat × Nat :=
  let b := kOrt o + 16 * i
  (u o b 1, u o (b + 4) 4, u o (b + 8) 4)

def tablesOk (o : List Byte) : Bool :=
  (List.range (kNrt o)).all fun i =>
    let b := kOrt o + 16 * i
    let (h, n, off) := kTable o i
    zeros o (b + 1) 3 && zeros o (b + 12) 4 && off % 64 == 0 && decide (16 * kNrt o ≤ off) && decide (kOrt o + off + n ≤ kLen o) &&
    ((kDecls o).find? fun d => d.h == h).any fun d => d.level == 0 &&
      (ElemType.ofCode d.ety).any fun t => !t.isMx && decide (n ≤ d.rows * d.cols * t.width / 8)

/-- The checks of the measured loader (R381). -/
def objectOk (o : List Byte) : Bool :=
  headerOk o && sectionsOk (kLen o) 128 (sections o) && placesOk o && (kDecls o).all (declOk o) && ascending ((kDecls o).map (·.h)) &&
    decide (1 ≤ kShapeMax o) && decide (kShapeMax o ≤ 256) && decide (kCap o < 4) && zeros o (kOshp o + 3) 61 &&
    trapsOk o && microOk o && tablesOk o && (placeDecls [] (kDecls o)).isSome

/-! ### Kernel records (R382 to R384) -/

def State.kernel (s : State) (k : Nat) : KernelRec := SMap.get s.cmd.kernels k { ctx := 0, addr := 0 }
def State.setKernel (s : State) (k : Nat) (r : KernelRec) : State := { s with cmd := { s.cmd with kernels := SMap.insert s.cmd.kernels k r } }

/-- A record is RETIRED: it is released, and launches that name it read the object anew (R383). -/
def State.dropKernel (s : State) (k : Nat) : State :=
  let forget := fun (e : Nat × Launch) => (e.1, if e.2.kernel = some k && e.2.status == none then { e.2 with kernel := none } else e.2)
  { s with cmd := { s.cmd with kernels := SMap.erase s.cmd.kernels k, launches := s.cmd.launches.map forget } }

/-- The record of a context and an address. -/
def State.kernelAt (s : State) (ctx addr : Nat) : Option (Nat × KernelRec) :=
  s.cmd.kernels.find? fun e => e.2.ctx == ctx && e.2.addr == addr

/-- The record that makes room: MEASURED or RESIDENT, of an unprotected context, least recently dispatched (R384). -/
def State.evictable (s : State) : Option Nat :=
  let c := s.cmd.kernels.filter fun e => (e.2.state == .measured || e.2.state == .resident) && !(s.ctx e.2.ctx).world
  match c with
  | [] => none
  | e :: l => some (l.foldl (fun (b : Nat × KernelRec) x => if x.2.used < b.2.used then x else b) e).1

/-- A new record in STAGED for a launch that reads it, where there is room or room can be made. -/
def State.stageKernel (s : State) (ctx addr reader : Nat) : State :=
  let s := if s.cmd.kernels.length < 1024 then s else
    match s.evictable with
    | some k => s.dropKernel k
    | none => s
  if 1024 ≤ s.cmd.kernels.length then s else
    let r : KernelRec := { ctx := ctx, addr := addr, reader := reader }
    let s := s.setKernel s.cmd.kernelNext r
    { s with cmd := { s.cmd with kernelNext := s.cmd.kernelNext + 1 } }

/-! ### Tokens (R355) -/

/-- Is a wait field met, and is it a STRICT wait on a token that FAILED? -/
def State.waitMet (s : State) (l : Launch) (at_ val : Nat) : Bool :=
  let w := l.it at_ 2
  !bit w 15 || decide (((SMap.get (s.ctx l.ctx).tokens (w % 256) (0, false)).1 + 2 ^ 32 - l.it val 4) % 2 ^ 32 < 2 ^ 31)
def State.waitFailed (s : State) (l : Launch) (at_ : Nat) : Bool :=
  let w := l.it at_ 2
  bit w 15 && bit w 14 && (SMap.get (s.ctx l.ctx).tokens (w % 256) (0, false)).2

def State.waitsMet (s : State) (l : Launch) : Bool := s.waitMet l 80 88 && s.waitMet l 82 92
/-- A launch whose waits are met and one of whose STRICT tokens FAILED completes ABORT without running. -/
def State.mustAbort (s : State) (l : Launch) : Bool :=
  l.status == none && !l.bound && s.waitsMet l && (s.waitFailed l 80 || s.waitFailed l 82)

/-- Is a transaction of a single-copy region of a context OPEN? No launch of the context is dispatched then (R448). -/
def State.updating (s : State) (ctx : Nat) : Bool :=
  (s.ctx ctx).regions.any fun e => e.2.delta == 0 && e.2.tx == .opened

/-- May the command processor act for a launch: its context takes work and is not parked (R327, R358), its waits are met, its
deadline has not passed? -/
def State.eligible (s : State) (l : Launch) : Bool :=
  l.status == none && !l.deadlineHit && s.usable l.ctx && !(s.ctx l.ctx).parked && s.waitsMet l && !s.mustAbort l && !s.late l

/-- Does the command processor act on tasks: no hold, no power loss, bring-up done (R31, R488, R502)? -/
def State.acts (s : State) : Bool := s.power.kiln == .running && !s.power.lost && s.power.stage == 8

/-! ### Reading a code object (R333, R383, R525) -/

/-- What a read of an object comes to: held at an address, ended with a status, or its plaintext. -/
inductive ObjRead where
  | held (va : Nat)
  | ends (st : Status)
  | object (bs : List Byte)
  deriving DecidableEq, Repr

/-- Plain bytes of a context for the command processor; a failure is FAULT (R525). -/
def State.cpBytes (s : State) (ctx va n : Nat) : ObjRead :=
  if n = 0 then .object [] else
  match s.cpRead ctx va n with
  | .bytes bs false => .object bs
  | .park a => .held a
  | _ => .ends .fault

/-- A plain code object: its header gives LEN. -/
def State.readPlain (s : State) (ctx va : Nat) : ObjRead :=
  match s.cpBytes ctx va 128 with
  | .object h =>
    if kLen h % 64 != 0 || kLen h < 128 || maxObject < kLen h then .ends .fault else s.cpBytes ctx va (kLen h)
  | r => r

/-- A sealed envelope (R333), under the transport key of its context: REPLAY before the tag is looked at, then TAGFAIL. -/
def State.readEnvelope (s : State) (ctx va : Nat) : ObjRead :=
  match s.cpBytes ctx va 64 with
  | .object h =>
    let n := u h 4 4
    let ctr := u h 8 8
    if u h 0 4 != 0x5345_4F43 || n % 64 != 0 || maxObject < n || !zeros h 16 48 then .ends .fault
    else if s.sec.lastN.any fun m => decide (ctr ≤ m) then .ends .replay
    else match s.cpBytes ctx (va + 64) (n + 16) with
      | .object bs =>
        (match s.sec.spdm.bind fun key =>
            gcmOpen (keyBytes (Config.transportKey key ctx).toNat) (List.replicate 4 0xFF ++ beBytes ctr 8) h (bs.take n) (bs.drop n) with
         | some p => .object p
         | none => .ends .tagfail)
      | r => r
  | r => r

/-- The context chain is extended by the plaintext of an object that the loader accepts (R333). -/
def State.measureLoad (s : State) (ctx : Nat) (bs : List Byte) : State :=
  match SMap.find s.ctxs ctx with
  | some c => s.setCtx ctx { c with chain := extendChain c.chain 1 bs }
  | none => s

/-- A read completes: a good object is MEASURED, with its digest; otherwise the record is released and the launch that read
ends. An envelope that opens is the last accepted. -/
def State.finishRead (s : State) (lid k : Nat) (world : Bool) (va : Nat) : ObjRead → State
  | .held a => s.cpPark (s.launch lid).ctx a lid false
  | .ends st => (s.dropKernel k).endLaunches [lid] st {}
  | .object bs =>
    let s := if world then
        match s.cpBytes (s.launch lid).ctx va 64 with
        | .object h => { s with sec := { s.sec with lastN := some (u h 8 8) } }
        | _ => s
      else s
    if objectOk bs then
      let s := (s.setKernel k { s.kernel k with state := .measured, bytes := bs, digest := sha3 bs }).measureLoad (s.launch lid).ctx bs
      s.setLaunch lid { s.launch lid with kernel := some k }
    else (s.dropKernel k).endLaunches [lid] .fault {}

/-- Does a launch read the object of a STAGED record: the one that named it first, or the next once that has ended (R383)? -/
def State.reads (s : State) (launch : Nat) (r : KernelRec) : Bool :=
  r.reader == launch || (SMap.find s.cmd.launches r.reader).all fun l => l.status != none

/-- For a launch that may run: an address with no record gets one in STAGED; a STAGED record is read by the launch that named it first;
a record that stands is used as it is (R382, R383). -/
def execKernelRead (launch : Nat) (s : State) : Host.Outcome State Fault Refusal :=
  let l := s.launch launch
  let va := l.it 8 8
  .next (if (SMap.find s.cmd.launches launch).isNone || l.kernel.isSome || !s.acts then s
    else if s.mustAbort l then s.endLaunches [launch] .abort {}
    else if !s.eligible l then s
    else match s.kernelAt l.ctx va with
      | none => s.stageKernel l.ctx va launch
      | some (k, r) =>
        if r.state == .staged && !s.reads launch r then s
        else if r.state == .staged then
          let w := (s.ctx l.ctx).world
          s.finishRead launch k w va (if w then s.readEnvelope l.ctx va else s.readPlain l.ctx va)
        else s.setLaunch launch { l with kernel := some k })

/-! ### Loads (R328, R331, R385) -/

/-- Bundles of placement core `c`, by index, each as a data unit of its own under the instruction key (R331); every other place of the half
holds the guard bundle (R131), which an absent entry stands for. -/
def kBundles (o : List Byte) (c load key : Nat) : SMap BundleWord :=
  (List.range (kNbun o c)).map fun i => (i, BitVec.ofNat 512 (sealCode key (codeTweak load 0 i) 64 (u o (kObun o c + 64 * i) 64)))

/-- The trap table of placement core `c`. -/
def kTraps (o : List Byte) (c : Nat) : SMap Nat :=
  (List.range 11).filterMap fun k => if kTrap o c (k + 1) = 0xFFFF then none else some (k + 1, kTrap o c (k + 1))

/-- The half of instruction memory that holds code. -/
def Core.halfAt (c : Core) (h : Nat) : ImemHalf := if h = 0 then c.half0 else c.half1
def Core.setHalf (c : Core) (h : Nat) (v : ImemHalf) : Core := if h = 0 then { c with half0 := v } else { c with half1 := v }

/-- The microprogram store of a core is written, each word as a data unit of its own under the instruction key (R331, R385). -/
def Core.loadMicro (c : Core) (o : List Byte) (load key : Nat) : Core :=
  { c with mstore := (List.range (kNmw o)).map fun i => (i, BitVec.ofNat 128 (sealCode key (codeTweak load 1 i) 16 (kWord o i))),
           routines := kRoutines o, microLoad := load, microKey := key }

/-- Does a strand of a core run from a half? -/
def State.halfBusy (s : State) (core h : Nat) : Bool :=
  (List.range 8).any fun i =>
    let st := s.strand (8 * core + i)
    st.life != .unalloc && st.half == h

/-- Has a core no allocated strand? -/
def State.coreEmpty (s : State) (core : Nat) : Bool := (List.range 8).all fun i => (s.strand (8 * core + i)).life == .unalloc

/-- May code of a context go into a core now (R328)? -/
def State.mayLoad (s : State) (core ctx : Nat) : Bool :=
  match (s.core core).ownership with
  | .clean => true
  | .opened => !(s.ctx ctx).world
  | .owned w => w == ctx && (s.ctx ctx).world
  | .draining => false

/-- The half into which code goes: one that holds this kernel already, or the spare half where nothing runs from it. -/
def State.loadHalf (s : State) (core k ctx : Nat) : Option Nat :=
  let c := s.core core
  match [c.active, 1 - c.active].find? fun h => (c.halfAt h).kernel == some k && (c.halfAt h).ctx == ctx with
  | some h => some h
  | none =>
    let spare := 1 - c.active
    if s.halfBusy core spare then none else some spare

/-- The load of a group's code over the cores of its placement takes one load identifier, at its first write (R331, R385). -/
def State.takeLoadId (s : State) (gid : Nat) : State × Nat :=
  match (s.group gid).loadId with
  | some n => (s, n)
  | none =>
    let n := s.cmd.loadNext
    let s := s.setGroup gid { s.group gid with loadId := some n }
    ({ s with cmd := { s.cmd with loadNext := n + 1 } }, n)

/-- The key under which a context's code lies: the instruction key of its world, 0 for none (R326, R331, log 12). -/
def State.codeKey (s : State) (ctx : Nat) : Nat := if (s.ctx ctx).world then (s.ctx ctx).keyId else 0

/-- A group's kernel is written into a half of a core, under the load identifier of its load, unless it is there (R331, R333, R385). -/
def State.writeHalf (s : State) (gid core h pc : Nat) : State :=
  let g := s.group gid
  let c := s.core core
  let own : Ownership := if (s.ctx g.ctx).world then .owned g.ctx else .opened
  let s := if (c.halfAt h).kernel == some g.kernel && (c.halfAt h).ctx == g.ctx then s else
    let o := (s.kernel g.kernel).bytes
    let (s, n) := s.takeLoadId gid
    let key := s.codeKey g.ctx
    s.setCore core (c.setHalf h { kernel := some g.kernel, ctx := g.ctx, loadId := n, key := key, bundles := kBundles o pc n key, traps := kTraps o pc })
  s.setCore core { s.core core with ownership := own }

/-- The microprogram store of a core is written with the image of a group's kernel, under the load identifier of the half that the group
runs from there (R331, R385). -/
def State.writeMicro (s : State) (gid core : Nat) : State :=
  let g := s.group gid
  let c := s.core core
  let load := (c.halfAt (SMap.get g.halves (core % 8) c.active)).loadId
  s.setCore core (c.loadMicro (s.kernel g.kernel).bytes load (s.codeKey g.ctx))

/-- A core whose owner or code stands against a load begins to drain, once no strand is on it. -/
def State.beginDrain (s : State) (core : Nat) : State :=
  if s.coreEmpty core && (s.core core).ownership != .draining then s.setCore core { s.core core with ownership := .draining } else s

/-- A record left with no copy in any core is MEASURED again (R383). -/
def State.settleResident (s : State) : State :=
  let held := fun (k : Nat) => s.cores.any fun e => e.2.half0.kernel == some k || e.2.half1.kernel == some k
  { s with cmd := { s.cmd with kernels := s.cmd.kernels.map fun e =>
      (e.1, if e.2.state == .resident && !held e.1 then { e.2 with state := .measured } else e.2) } }

/-- One core of a group's placement receives its code; the microprogram store follows where the group owns the units. -/
def State.loadCore (s : State) (gid core : Nat) : State :=
  let g := s.group gid
  let pc := core % 8
  if !s.mayLoad core g.ctx then s.beginDrain core
  else match s.loadHalf core g.kernel g.ctx with
    | none => s
    | some h =>
      let s := s.writeHalf gid core h pc
      let s := s.setGroup gid { s.group gid with halves := SMap.insert g.halves pc h }
      (if g.state == .waking && g.placements.any (fun p => p.core == pc && p.own) then s.writeMicro gid core else s).settleResident

/-- The loader writes the code of a launch into one of its cores. -/
def execKernelLoad (launch core : Nat) (s : State) : Host.Outcome State Fault Refusal :=
  let wants := fun (e : Nat × Group) => e.2.launch == launch && e.2.state == .waking && e.2.cluster == core / 8 &&
    e.2.placements.any (fun p => p.core == core % 8) && (SMap.find e.2.halves (core % 8)).isNone && !(s.ctx e.2.ctx).parked
  .next (if !s.acts then s else match s.cmd.groups.find? wants with
    | some (gid, _) => s.loadCore gid core
    | none => s)

end Sys2Proof.Machine
end

