-- ==== Sys2Proof/Machine/Images.lean ====
section
/-! DEFINITION. The images in which state leaves a core (R312 to R317, R499): their bytes, what is read back of them, their room in the
save area, and the staging anew of BSTACK rows. Layouts that the manual leaves to the device inside an area are the model's own
(DESIGN CHOICE, log 25); bytes whose form it leaves to the stepping are free values (log 12). -/

namespace Sys2Proof.Machine

/-- Bytes that the manual does not fix. -/
def freeBytes (seed n : Nat) : List Byte := (List.range n).map fun i => BitVec.ofNat 8 (Config.freeNat (seed + i))

/-- A list of bytes cut or filled with zeros to a length. -/
def sized (n : Nat) (bs : List Byte) : List Byte := bs.take n ++ List.replicate (n - bs.length) 0

/-- Bytes with a field of 32 at 128 replaced (R313, R317). -/
def withDigest (bs d : List Byte) : List Byte := bs.take 128 ++ d ++ bs.drop 160
/-- The digest of an image: over its bytes with the field zero. -/
def imageDigest (bs : List Byte) : List Byte := sha3 (withDigest bs (List.replicate 32 0))

/-! ### Strand images (R313, R314) -/

def strandImageBytes : Nat := 147968
def coreImageBytes : Nat := 1477120
/-- A core image with its BSTACK tiles at their largest (R317). -/
def coreImageRoom : Nat := 3574272

/-- A mask of bits that a condition gives. -/
def maskOf (n : Nat) (f : Nat → Bool) : Nat := ofElems 1 ((List.range n).map fun i => ofBit (f i))

/-- The flat index of a pending result under the names of the moment (R134). -/
def Strand.flatOf (st : Strand) (p : Pending) : Nat :=
  let name := fun (lo n : Nat) => if p.reg < lo then p.reg else lo + (p.reg - lo + st.rot) % n
  match p.kind with
  | .x => p.reg
  | .v => 0x40 + name 16 16
  | .p => 0x60 + name 8 8
  | .c => 0x70 + p.reg
  | .b => 0x78 + p.reg
  | .mp => 0x80 + p.reg
  | .lc => 0x88 + p.reg
  | .ag => 0x90 + p.reg
  | .acc | .accAll => 0x98
  | .sr => 0xA0 + p.reg
  | .flags => 0xA7

/-- STATE of the header (R313). -/
def State.imageState (s : State) (sid : Nat) : Nat :=
  let st := s.strand sid
  let g := s.group st.grp
  let packet := s.link.packets.any fun (p : EpPacket) => !p.sealed && p.launch == st.launch && p.task == g.task && p.place == s.placeOf sid
  ofBit st.hnd + 2 * ofBit st.own + 4 * ofBit st.merge + 8 * ofBit st.second
    + 16 * ofBit ((if st.hnd then st.hgpos else st.gpos) != 0) + 32 * ofBit st.branch.isSome + 64 * ofBit packet

/-- The owned units of a strand: those of its core while they are its own, else those that its group left (R311). -/
def State.unitsFor (s : State) (sid : Nat) : Core :=
  let c := s.core (coreOf sid)
  let st := s.strand sid
  if c.owner = some sid then c else SMap.get (s.group st.grp).units st.placeCore {}

/-- The header, DIGEST zero. -/
def State.strandHeader (s : State) (sid : Nat) : List Byte :=
  let st := s.strand sid
  let b := st.branch
  let accv := if st.own then (s.unitsFor sid).accv.toNat else 0
  recordBytes 256 <|
    [(0, 4, 0x474D4953), (4, 2, 1), (6, 2, 0xA1), (8, 2, sid), (10, 2, st.ctx), (12, 1, s.imageState sid),
     (13, 1, if st.hnd then st.hgpos else st.gpos), (14, 1, (b.map (·.left)).getD 0), (16, 8, st.sbc), (24, 8, st.hbc),
     (32, 2, st.next), (34, 2, st.hnext), (36, 2, (b.map (·.target)).getD 0), (40, 8, st.fmt.toNat), (48, 8, caratOf s sid),
     (56, 8, st.flags.toNat), (64, 8, st.tcause.toNat), (72, 8, st.tinfo.toNat), (80, 8, st.tbundle.toNat), (88, 8, st.tslot.toNat)]
    ++ ((List.range 4).map fun n => (96 + 8 * n, 8, (SMap.get st.errcnt n 0).toNat))
    ++ [(160, 8, maskOf 64 st.xOk), (168, 32, maskOf 256 fun i => st.vOk (i / 8) (i % 8)),
        (200, 16, maskOf 128 fun i => st.pOk (i / 8) (i % 8)), (216, 1, maskOf 8 st.cOk), (217, 1, maskOf 4 st.bOk),
        (218, 1, maskOf 8 st.mpOk), (219, 1, maskOf 4 st.lcOk), (220, 1, maskOf 8 st.agOk), (224, 16, accv)]

/-- A value, or zero where it is not valid. -/
def valid (ok : Bool) (v : Nat) : Nat := if ok then v else 0

/-- Values in fields of a width. -/
def fields (n w : Nat) (f : Nat → Nat) : List Byte := (List.range n).flatMap fun i => toBytes (f i) w

/-- The 16 bits of a p register in a lanegroup, as a save finds them. -/
def Strand.pRaw (st : Strand) (r g : Nat) : Nat := if r = 0 then 0xFFFF else (SMap.get st.p (st.pIdx r) 0).toNat / 2 ^ (16 * g) % 2 ^ 16

/-- Offsets 0x100 to 0x5FF. -/
def Strand.scalarArea (st : Strand) : List Byte :=
  let loop := fun (l : Nat) =>
    let x := st.loop l
    toBytes x.first 2 ++ toBytes x.last 2 ++ toBytes x.iter 4 ++ toBytes (ofBit x.active) 1 ++ toBytes 0 3
  fields 64 8 (fun r => valid (st.xOk r) (st.xGet r)) ++ fields 8 1 (fun r => valid (st.cOk r) (ofBit (st.cGet r)))
    ++ fields 4 2 (fun r => valid (st.bOk r) (st.bGet r)) ++ fields 4 4 (fun r => valid (st.lcOk r) (st.lcGet r))
    ++ fields 8 8 (fun r => valid (st.mpOk r) (st.mpGet r)) ++ fields 8 40 (fun r => valid (st.agOk r) (agValue (st.agGet r)))
    ++ (List.range 4).flatMap loop
    ++ sized 48 (toBytes (ofBit st.md) 1 ++ toBytes (ofBit st.rb) 1 ++ toBytes st.stages 1 ++ toBytes st.pbase 1
        ++ toBytes (st.rotLoop % 16) 1 ++ toBytes 0 3 ++ toBytes st.srcIters 4)
    ++ (List.range 16).flatMap fun r => fields 8 2 fun g => valid (st.pOk r g) (st.pRaw r g)

/-- Offsets 0x600 to 0x45FF. -/
def Strand.vectorArea (st : Strand) : List Byte :=
  (List.range 32).flatMap fun r => fields 8 64 fun g => valid (st.vOk r g) (st.vGet r g)

def QKind.code : QKind → Nat
  | .unbound => 0 | .pattern => 1 | .explicit => 2

/-- The descriptor of an entry: its address, poison, and whether a part of its load is parked (R316). -/
def Strand.entryBytes (st : Strand) (n : Nat) (e : QEntry) : List Byte :=
  let parked := st.lq.any fun a => a.q == n && a.tag == e.tag && a.parts.any (·.parked)
  toBytes e.addr 8 ++ toBytes (ofBit e.poison.isSome) 1 ++ toBytes (ofBit parked) 1 ++ toBytes 0 6

/-- One stream register: 64 bytes of state, its descriptors, its entries. -/
def Strand.qArea (st : Strand) (n : Nat) : List Byte :=
  let q := st.qGet n
  if q.kind == .unbound then List.replicate 2176 0 else
    sized 64 (toBytes q.kind.code 1 ++ toBytes q.ety.code 1 ++ toBytes q.entries.length 1 ++ toBytes 0 5 ++ toBytes (agValue q.gen) 40)
      ++ sized 64 (q.entries.flatMap (st.entryBytes n)) ++ sized 2048 (q.entries.flatMap fun e => toBytes e.data.toNat 512)

/-- The kind of a delivery entry, by the register that it goes to. -/
def PendKind.code : PendKind → Nat
  | .x => 0 | .v => 1 | .p => 2 | .c => 3 | .b => 4 | .mp => 5 | .lc => 6 | .ag => 7 | .acc => 8 | .accAll => 9 | .sr => 10 | .flags => 11

/-- The bytes of its value that a pending result writes: those of its elements, or the whole of a register of the scalar files. -/
def Pending.byteMask (p : Pending) : Nat :=
  match p.kind with
  | .v | .acc => p.mask.toNat
  | .p => maskOf 16 fun i => field p.mask.toNat (8 * i) 8 != 0
  | .accAll => ones 512
  | .x | .mp | .sr | .flags => ones 8
  | .c => 1
  | .b => 3
  | .lc => ones 4
  | .ag => ones 40

/-- Does a pending result take an entry of the delivery buffer: flags alone take none (R38)? -/
def Pending.entry (p : Pending) : Bool := p.kind != .flags

/-- One entry of the delivery buffer (R314). -/
def Strand.dbufEntry (st : Strand) (p : Pending) : List Byte :=
  toBytes (st.flatOf p) 1 ++ toBytes p.lgm 1 ++ toBytes p.kind.code 1 ++ toBytes p.dir.code 1
    ++ toBytes p.idx 1 ++ toBytes 0 3 ++ toBytes p.due 8 ++ toBytes p.byteMask 64 ++ toBytes p.value.toNat 512

/-- One entry of the store buffer (R314): kind, type, lanegroups, handle, source iteration, address or element, `scat` addresses, data. -/
def storeEntry (kind ety lgm h iter at_ addrs data : Nat) : List Byte :=
  toBytes kind 1 ++ toBytes ety 1 ++ toBytes lgm 1 ++ toBytes h 1 ++ toBytes iter 4 ++ toBytes at_ 8 ++ toBytes 0 48 ++ toBytes addrs 512
    ++ toBytes data 512

/-- What a rollback loop holds back: kind 0 for a store to a tile, 1 for an access of the store queue (R197). -/
def BufStore.bytes : BufStore → List Byte
  | .tile iter h ety lgm e data => storeEntry 0 ety.code lgm h iter e 0 data.toNat
  | .global iter a => storeEntry 1 a.ety.code a.lgm 0 iter a.addr a.addrs.toNat a.dat.toNat

/-- A store or atomic that is parked on a page fault: an entry of kind 4 (R316). -/
def Access.parkedBytes (a : Access) : List Byte := storeEntry 4 a.ety.code a.lgm 0 0 a.addr a.addrs.toNat a.dat.toNat

/-- The store buffer: what a rollback loop holds back, then what is parked. -/
def Strand.storeArea (st : Strand) : List Byte :=
  sized 69632 (st.stbuf.flatMap BufStore.bytes ++ (st.sq.filter fun a => a.parts.any (·.parked)).flatMap Access.parkedBytes)

/-- The snapshots of an active rollback level: of each stream register 16 bytes of state and its descriptors. -/
def Strand.snapArea (st : Strand) : List Byte :=
  let one := fun (x : Snapshot) (n : Nat) =>
    let q := SMap.get x.qs n {}
    sized 16 (toBytes q.kind.code 1 ++ toBytes q.ety.code 1 ++ toBytes q.entries.length 1 ++ toBytes 0 1 ++ toBytes x.iter 4
      ++ toBytes q.gen.base.toNat 8) ++ sized 64 (q.entries.flatMap (st.entryBytes n))
  sized 5120 (st.snaps.flatMap fun x => (List.range 8).flatMap (one x))

/-- A strand image with DIGEST zero. -/
def State.strandBody (s : State) (sid : Nat) : List Byte :=
  let st := s.strand sid
  s.strandHeader sid ++ st.scalarArea ++ st.vectorArea ++ ((List.range 8).flatMap st.qArea)
    ++ sized 37888 ((st.dbuf.filter Pending.entry).flatMap st.dbufEntry) ++ st.storeArea ++ st.snapArea

/-- A strand image. -/
def State.strandImage (s : State) (sid : Nat) : List Byte := withDigest (s.strandBody sid) (imageDigest (s.strandBody sid))

/-! ### Reading strand images back (R314, R318) -/

/-- The bits of a mask below a bound, as a bit vector. -/
def bitsAt (bs : List Byte) (off n w : Nat) : BitVec w := BitVec.ofNat w (u bs off n)

/-- Registers, held under their numbers, from fields of an image. -/
def readRegs {w : Nat} (bs : List Byte) (off n size : Nat) (place : Nat → Nat) : SMap (BitVec w) :=
  (List.range n).foldl (fun m r => SMap.put m (place r) (BitVec.ofNat w (u bs (off + size * r) size)) 0) []

/-- Valid bits of a register file of eight lanegroups, from names to places. -/
def readValid (bs : List Byte) (off n w : Nat) (place : Nat → Nat) : BitVec w :=
  (List.range n).foldl (fun m r => m ||| BitVec.ofNat w (u bs (off + r) 1 * 2 ^ (8 * place r))) 0

/-- A loop level from an image. -/
def readLoop (bs : List Byte) (l : Nat) : LoopLevel :=
  let b := 0x4A0 + 12 * l
  { active := bit (u bs (b + 8) 1) 0, first := u bs b 2, last := u bs (b + 2) 2, iter := u bs (b + 4) 4 }

/-- A stream register from an image: its state, and the data of the entries that have arrived. -/
def QReg.ofImage (q : QReg) (bs : List Byte) (n : Nat) : QReg :=
  let b := 0x4600 + 2176 * n
  { q with gen := if q.kind == .unbound then q.gen else agOfValue (u bs (b + 8) 40),
           entries := q.entries.mapIdx fun i e => if e.arrived then { e with data := BitVec.ofNat 4096 (u bs (b + 128 + 512 * i) 512) } else e }

/-- A strand as its image gives it; what an image has no place for is as it was when the image was written (R62). -/
def Strand.ofImage (st : Strand) (bs : List Byte) : Strand :=
  { st with
    sbc := u bs 16 8, hbc := u bs 24 8, hnd := bit (u bs 12 1) 0, next := u bs 32 2, hnext := u bs 34 2,
    branch := st.branch.map fun b => { b with target := u bs 36 2, left := u bs 14 1 },
    fmt := bitsAt bs 40 8 64, carat := clearOne (bitsAt bs 48 8 64) 4, flags := bitsAt bs 56 8 64,
    tcause := bitsAt bs 64 8 64, tinfo := bitsAt bs 72 8 64, tbundle := bitsAt bs 80 8 64, tslot := bitsAt bs 88 8 64,
    errcnt := readRegs bs 96 4 8 id,
    xv := clearOne (bitsAt bs 160 8 64) 0, vv := readValid bs 168 32 256 st.vIdx, pv := readValid bs 200 16 128 st.pIdx,
    cv := clearOne (bitsAt bs 216 1 8) 0, bv := bitsAt bs 217 1 4, mpv := bitsAt bs 218 1 8, lcv := bitsAt bs 219 1 4,
    agv := bitsAt bs 220 1 8,
    x := readRegs bs 0x100 64 8 id,
    c := (List.range 8).foldl (fun m r => if 0 < r && bit (u bs (0x300 + r) 1) 0 then setOne m r else m) 0,
    b := readRegs bs 0x308 4 2 id, lc := readRegs bs 0x310 4 4 id, mp := readRegs bs 0x320 8 8 id,
    ag := (List.range 8).foldl (fun m r => SMap.put m r (agOfValue (u bs (0x360 + 40 * r) 40)) {}) [],
    loops := (List.range 4).foldl (fun m l => SMap.put m l (readLoop bs l) {}) [],
    md := bit (u bs 0x4D0 1) 0, rb := bit (u bs 0x4D1 1) 0, stages := u bs 0x4D2 1, pbase := u bs 0x4D3 1, srcIters := u bs 0x4D8 4,
    p := readRegs bs 0x500 16 16 st.pIdx, v := readRegs bs 0x600 32 512 st.vIdx,
    q := (List.range 8).foldl (fun m n => SMap.put m n ((st.qGet n).ofImage bs n) {}) [],
    dbuf := st.dbuf.mapIdx fun i d =>
      let b := 0x8A00 + 592 * ((st.dbuf.take i).filter Pending.entry).length
      if d.entry then { d with due := u bs (b + 8) 8, value := bitsAt bs (b + 80) 512 4096 } else d }

/-! ### Core images (R317) -/

/-- Does a tile hold a line of its core's scratchpad, or of its B-stack? -/
def Tile.holdsSp (t : Tile) (l : Nat) : Bool := t.level != .bstack && decide (t.base ≤ l) && decide (l < t.base + t.lines)
def Tile.holdsB (t : Tile) (l : Nat) : Bool := t.level == .bstack && decide (t.base ≤ l) && decide (l < t.base + t.lines)

/-- Lines of a scratchpad that some tiles hold; the rest read zero. -/
def Core.spArea (c : Core) (ts : List Tile) : List Byte := fields 5120 64 fun l => if ts.any fun t => t.holdsSp l then c.spLine l else 0

/-- The rows of a BSTACK tile, and the blocks of scales after them, each with its number, its place in the B-stack in bytes, and its
length. -/
def Tile.stackRows (t : Tile) : List (Nat × Nat × Nat) :=
  ((List.range t.rows).map fun i => (i, 64 * t.base + i * t.pitch, t.pitch)) ++
    (List.range (t.scaleBytes / 128)).map fun i => (t.rows + i, 64 * t.base + t.rows * t.pitch + 128 * i, 128)

/-- The rows that weight pages did not fill, which are saved. -/
def Tile.savedRows (t : Tile) : List (Nat × Nat × Nat) := t.stackRows.filter fun r => (SMap.find t.staged r.1).isNone

/-- Bytes of a B-stack. -/
def Core.bBytes (c : Core) (at_ n : Nat) : List Byte :=
  (cutLines at_ n).flatMap fun l => toBytes (field (c.bLine (l.1 / 64)) (8 * (l.1 % 64)) (8 * l.2.1)) l.2.1

/-- A B-stack with bytes written. -/
def Core.putBBytes (c : Core) (at_ : Nat) (bs : List Byte) : Core :=
  (cutLines at_ bs.length).foldl (fun c l =>
    c.setB (l.1 / 64) (setField (c.bLine (l.1 / 64)) (8 * (l.1 % 64)) (8 * l.2.1) (ofBytes ((bs.drop l.2.2).take l.2.1)))) c

/-- The BSTACK tiles of a core image, tile after tile, without the rows that are staged again. -/
def Core.bArea (c : Core) (ts : List Tile) : List Byte :=
  (ts.filter fun t => t.level == .bstack).flatMap fun t => t.savedRows.flatMap fun r => c.bBytes r.2.1 r.2.2

/-- Credits of a call or of a pass. -/
def Credits.bytes (c : Credits) : List Byte :=
  sized 16 (c.det.flatMap fun n => toBytes n 4) ++ sized 8 (c.rpl.flatMap fun n => toBytes n 2) ++ toBytes c.ckr 4 ++ toBytes c.resmax 4
    ++ toBytes c.grades 4

/-- A captured call in 128 bytes, its busy set as a mask of rows. -/
def MCall.bytes (m : MCall) : List Byte :=
  sized 128 (toBytes m.idx 1 ++ toBytes m.grade 1 ++ toBytes (ofBit m.rpl + 2 * ofBit m.started + 4 * ofBit m.ended) 1 ++ toBytes m.flags 1
    ++ toBytes m.fmt 4 ++ toBytes m.seq 4 ++ toBytes (maskOf 128 m.busy.contains) 16 ++ sized 64 (m.mp.flatMap fun v => toBytes v 8)
    ++ m.credits.bytes)

/-- The registers of the sequencer in 512 bytes: its descriptors have 64 bits. -/
def Sequencer.bytes (q : Sequencer) : List Byte :=
  let opt := fun (o : Option Nat) => toBytes (ofBit o.isSome) 1 ++ toBytes (o.getD 0) 8
  sized 512 (toBytes q.upc 2 ++ toBytes (ofBit q.running) 1 ++ toBytes q.m 1 ++ opt q.a ++ opt q.b ++ opt q.cv ++ opt q.mode
    ++ toBytes q.kappa 4 ++ toBytes q.pl 1 ++ toBytes q.lj 1 ++ toBytes q.lk 1 ++ toBytes 0 1 ++ toBytes q.sc 4
    ++ sized 32 (q.loops.flatMap fun l => toBytes l.1 2 ++ toBytes l.2 4) ++ q.credits.bytes)

/-- A batch of the transpose unit: its state, then its rows. -/
def Batch.bytes (b : Batch) : List Byte :=
  sized 128 (toBytes b.width 1 ++ toBytes b.popped 4 ++ toBytes b.closed 8 ++ toBytes (maskOf 128 fun i => (SMap.find b.rows i).isSome) 16)
    ++ b.rows.flatMap fun r => toBytes r.2.toNat 512

/-- A table of the row engine in the 3104 bytes of its image (R272), and a command. -/
def RowTable.bytes (t : RowTable) : List Byte :=
  (fields 8 4 fun i => SMap.get t.head i 0) ++ fields 768 4 fun i => SMap.get t.coeff i 0
def RowOp.code : RowOp → Nat
  | .resm => 0 | .renorm rms => 1 + ofBit rms | .retab _ => 3 | .retload _ => 4
def RowCmd.bytes (r : RowCmd) : List Byte :=
  toBytes r.op.code 1 ++ toBytes r.ha 1 ++ toBytes r.hd 1 ++ toBytes r.flags 1 ++ toBytes r.step 4 ++ toBytes r.issued 8

/-- The owned units: zero where nothing of them is live. -/
def Core.unitArea (c : Core) (seed : Nat) : List Byte :=
  fields 128 512 (fun i => if c.accv.getLsbD i then (SMap.get c.acc i 0).toNat else 0)
    ++ sized 1024 (sized 512 (c.calls.flatMap MCall.bytes) ++ (if c.calls.isEmpty then [] else c.seqr.bytes))
    ++ (if c.seqr.beta.isEmpty then List.replicate 1048576 0 else freeBytes seed 1048576)
    ++ sized 16640 ((c.trOpen.toList ++ c.trClosed).flatMap Batch.bytes)
    ++ sized 13312 (((List.range 4).flatMap fun i => (SMap.get c.tables i {}).bytes) ++ c.rowq.flatMap RowCmd.bytes)

def TileLevel.code : TileLevel → Nat
  | .loc => 0 | .shared => 1 | .bstack => 2

/-- An entry of the tile table, its fields in the order of R273. -/
def Tile.bytes (t : Tile) : List Byte :=
  sized 16 (toBytes t.level.code 1 ++ toBytes t.core 1 ++ toBytes t.rows 2 ++ toBytes t.cols 2 ++ toBytes t.ety.code 1
    ++ toBytes (1 + 2 * ofBit t.poisoned) 1 ++ toBytes t.base 4 ++ toBytes t.pitch 4)

/-- The tile table. -/
def tableArea (ts : SMap Tile) : List Byte :=
  (List.range 256).flatMap fun h => match SMap.find ts h with
    | some t => t.bytes
    | none => List.replicate 16 0

/-- Live-area flags: `acc`, calls and sequencer, β, transpose batches, row engine, scratchpad, tile table, B-stack. -/
def Core.liveAreas (c : Core) (mine : List Tile) (table : Bool) : Nat :=
  maskOf 8 fun i => match i with
    | 0 => c.accv != 0
    | 1 => !c.calls.isEmpty
    | 2 => !c.seqr.beta.isEmpty
    | 3 => c.trOpen.isSome || !c.trClosed.isEmpty
    | 4 => !c.tables.isEmpty || !c.rowq.isEmpty
    | 5 => mine.any fun t => t.level != .bstack
    | 6 => table
    | _ => mine.any fun t => t.level == .bstack

/-- Bytes of a strand that are live: its control and scalar part, the valid lanegroups of its v registers, its bound stream registers with
their entries, the entries of its delivery and store buffers, its snapshots (R319, R320, log 26). -/
def Strand.liveBytes (st : Strand) : Nat :=
  let count := fun (n : Nat) (f : Nat → Bool) => ((List.range n).filter f).length
  let q := fun (n : Nat) => let x := st.qGet n; if x.kind == .unbound then 0 else 128 + 512 * x.entries.length
  0x600 + 64 * count 256 (fun i => st.vOk (i / 8) (i % 8)) + ((List.range 8).map q).sum + 592 * (st.dbuf.filter Pending.entry).length
    + 1088 * (st.stbuf.length + (st.sq.filter fun a => a.parts.any (·.parked)).length) + 640 * st.snaps.length

/-- Bytes of a core image that are live: header, call queue and sequencer, `acc`, β, transpose batches and row engine where they hold
something, the lines of the tiles, and the rows that are saved (R319, R320, log 26). -/
def liveCoreBytes (units : Core) (mine : List Tile) : Nat :=
  let on := fun (b : Bool) (n : Nat) => if b then n else 0
  let areas := units.liveAreas mine false
  256 + 1024 + on (bit areas 0) 65536 + on (bit areas 2) 1048576 + on (bit areas 3) 16640 + on (bit areas 4) 13312
    + 64 * ((mine.filter (·.level != .bstack)).map Tile.lines).sum
    + (((mine.filter (·.level == .bstack)).flatMap Tile.savedRows).map (·.2.2)).sum

/-- A core image with DIGEST zero: the units as a core holds them, the lines of the tiles there, with placement core 0 the tile table. -/
def State.coreBody (s : State) (n : Nat) (units : Core) (table : SMap Tile) (tiles : List Tile) : List Byte :=
  let c := s.core n
  let mine := tiles.filter fun t => t.core == n % 8
  recordBytes 256 [(0, 4, 0x474D4943), (4, 2, 1), (6, 2, 0xA1), (8, 2, n), (10, 1, units.liveAreas mine (n % 8 == 0))]
    ++ units.unitArea s.tick ++ c.spArea mine ++ (if n % 8 = 0 then tableArea table else List.replicate 4096 0) ++ c.bArea mine

/-- A core image. -/
def State.coreImage (s : State) (n : Nat) (units : Core) (ts : SMap Tile) : List Byte :=
  let body := s.coreBody n units ts (ts.map (·.2))
  withDigest body (imageDigest body)

/-- The rows of BSTACK tiles in a core image, from an offset on: each with its place and its bytes. -/
def stackParts (bs : List Byte) : Nat → List (Nat × Nat × Nat) → List (Nat × List Byte)
  | _, [] => []
  | off, r :: rs => (r.2.1, (bs.drop off).take r.2.2) :: stackParts bs (off + r.2.2) rs

/-- A core's storage of a group as its image gives it: `acc`, the lines of its tiles, its BSTACK rows; what the image has no layout for is
as it was when the image was written. -/
def Core.ofImage (c : Core) (bs : List Byte) (mine : List Tile) : Core :=
  let acc := (List.range 128).foldl (fun m i =>
    if c.accv.getLsbD i then SMap.put m i (BitVec.ofNat 4096 (u bs (0x100 + 512 * i) 512)) 0 else m) []
  let sp := (List.range 5120).foldl (fun m l =>
    if mine.any fun t => t.holdsSp l then SMap.put m l (BitVec.ofNat 512 (u bs (0x117A00 + 64 * l) 64)) 0 else m) []
  let rows := (mine.filter fun t => t.level == .bstack).flatMap Tile.savedRows
  (stackParts bs coreImageBytes rows).foldl (fun c e => c.putBBytes e.1 e.2) { c with acc := acc, sp := sp }

/-! ### Rows that are staged again (R317, R372) -/

/-- The source of a staged row: its bytes as `stage` read them. -/
def Tile.sourceBytes (t : Tile) (num : Nat) (dense : Bool) : Nat := if num < t.rows then stageRow t dense else 128

/-- A tile whose staged rows are filled again from the weight pages, at the bound version of its launch; `none` while a read waits. -/
def State.restageTile (s : State) (k ctx : Nat) (bound : Nat → Nat) (t : Tile) : Option (State × Tile) :=
  t.staged.foldl (fun r e =>
    r.bind fun x =>
      match x.1.readRange (Reader.of (engineOf k) x.1.tick) ctx false bound e.2.1 (t.sourceBytes e.1 e.2.2) with
      | .park _ => none
      | .denied _ => some (x.1, { x.2 with poisoned := true })
      | .bytes bs p =>
        let n := coreAt k t.core
        let at_ := 64 * t.base + (if e.1 < t.rows then e.1 * t.pitch else t.rows * t.pitch + 128 * (e.1 - t.rows))
        let c := (x.1.core n).putBBytes at_ (if e.2.2 then stripRow t bs else bs)
        let c := if e.1 < t.rows then c.formCounts t e.1 1 else c
        some (x.1.setCore n c, { x.2 with poisoned := x.2.poisoned || p })) (some (s, t))

/-- The tiles of a table, those on some cores filled again where they were staged. -/
def State.restage (s : State) (k ctx : Nat) (bound : Nat → Nat) (on : Nat → Bool) (ts : SMap Tile) : Option (State × SMap Tile) :=
  ts.foldl (fun r e =>
    r.bind fun x =>
      if !on e.2.core then some (x.1, SMap.insert x.2 e.1 e.2)
      else (x.1.restageTile k ctx bound e.2).map fun y => (y.1, SMap.insert x.2 e.1 y.2)) (some (s, []))

/-- The versions that a group's launch is bound to. -/
def State.groupBound (s : State) (g : Group) (region : Nat) : Nat := SMap.get (s.launch g.launch).versions region 0

/-! ### Room in the save area (R298, R312) -/

/-- Cores of a group that have a core image: those with an owner, or whose storage the group uses. -/
def Group.imageCores (g : Group) (ts : SMap Tile) : List Nat :=
  (List.range 8).filter fun c => (g.placements.any fun p => p.core == c && p.own) || ts.any fun e => e.2.core == c

/-- Bytes that the images of a group take at their largest. -/
def Group.imageSize (g : Group) (ts : SMap Tile) : Nat :=
  strandImageBytes * g.placements.length + coreImageRoom * (g.imageCores ts).length

/-- The images that a context's save area holds. -/
def State.savedRanges (s : State) (ctx : Nat) : List (Nat × Nat) :=
  s.cmd.groups.flatMap fun e => if e.2.ctx = ctx then e.2.images.toList ++ e.2.unitImages else []

/-- A free place of a size, 64-byte aligned, first-fit in the save area (log 25). -/
def State.saveRoom (s : State) (ctx size : Nat) : Option Nat :=
  let c := s.ctx ctx
  let lo := (c.saveBase + 63) / 64 * 64
  let rs := s.savedRanges ctx
  let fits := fun b => decide (b + size ≤ c.saveBase + c.saveLen) && rs.all fun r => decide (b + size ≤ r.1) || decide (r.1 + r.2 ≤ b)
  (lo :: rs.map fun r => (r.1 + r.2 + 63) / 64 * 64).find? fits

/-- The owned units of a group on a placement core. -/
def State.groupUnits (s : State) (g : Group) (c : Nat) : Core :=
  let core := s.core (coreAt g.cluster c)
  if core.owner.any fun o => g.strands.contains o then core else SMap.get g.units c {}

/-- The images of a group and where each lies, from an address on. -/
def State.groupImages (s : State) (g : Group) (ts : SMap Tile) (at_ : Nat) : List (Nat × List Byte) :=
  let n := g.strands.length
  ((List.range n).map fun i => (at_ + strandImageBytes * i, s.strandImage ((g.strands[i]?).getD 0))) ++
    (g.imageCores ts).mapIdx fun i c =>
      (at_ + strandImageBytes * n + coreImageRoom * i, s.coreImage (coreAt g.cluster c) (s.groupUnits g c) ts)

/-- May the images be written: does no page of the area deny or hold a write? -/
def State.saveOpen (s : State) (ctx : Nat) (l : List (Nat × List Byte)) : Bool :=
  l.all fun e => (s.probeWrite agentCp ctx false e.1 e.2.length).isNone

/-- Images written through the page tables of their context. -/
def State.writeImages (s : State) (ctx : Nat) (l : List (Nat × List Byte)) : State :=
  l.foldl (fun s e => s.writeRange agentCp 7 ctx e.1 e.2 false) s

/-- Does an image pass the checks of R318: MAGIC, VER, STEP, DIGEST? -/
def imageGood (magic : Nat) (bs : List Byte) : Bool :=
  u bs 0 4 == magic && u bs 4 2 == 1 && u bs 6 2 == 0xA1 && decide ((bs.drop 128).take 32 = imageDigest bs)

end Sys2Proof.Machine
end

