-- ==== Sys2Proof/Machine/Groups.lean ====
section
/-! DEFINITION. The scheduler and the life of a group: the choice of an item (R358 to R361), dispatch (R299, R335, R353,
R354, R388, R394 to R396), start (R302, R387, R412), preload (R402, R403), the swap of bank sets (R310, R311, R395, R398,
R404), and the end of a task (R392). -/

namespace Sys2Proof.Machine

/-! ### Clusters and their groups -/

/-- The group in a cluster's foreground. -/
def State.foreOf (s : State) (k : Nat) : Option (Nat × Group) := s.cmd.groups.find? fun e => e.2.cluster == k && e.2.foreground

/-- The group in a cluster's shadow set. -/
def State.shadowOf (s : State) (k : Nat) : Option (Nat × Group) := s.cmd.groups.find? fun e => e.2.cluster == k && e.2.shadow

/-- A two-set group has a record of SET 1 (R395). -/
def twoSet (ps : List Placement) : Bool := ps.any fun p => p.set == 1

/-- Do the foreground sets of a cluster's cores agree? A group in a shadow set and one in the foreground share no set and no
mailbox then (log 24). -/
def State.setsAgree (s : State) (k : Nat) : Bool := (List.range 8).all fun c => (s.core (coreAt k c)).fgSet == (s.core (coreAt k 0)).fgSet

/-- The bank that a placement names, from the home set of its core (R394). -/
def State.bankOf (s : State) (k : Nat) (shadow : Bool) (p : Placement) : Nat :=
  let fg := (s.core (coreAt k p.core)).fgSet
  8 * coreAt k p.core + 4 * ((fg + ofBit shadow + p.set) % 2) + p.strand

/-! ### The choice of an item (R358 to R361) -/

/-- Does a task of a launch stop because it overran its budget for good (R363)? -/
def State.overrunning (s : State) (lid : Nat) : Bool := s.anyGroup fun g => g.launch == lid && g.overrun

/-- Is a launch's kernel checked, and has it a task to start, none of its tasks having raised BUDGET for good (R363), and no single-copy
region of its context being updated (R448)? -/
def State.startable (s : State) (lid : Nat) (l : Launch) : Bool :=
  s.eligible l && !s.updating l.ctx && l.kernel.any (fun k => (SMap.find s.cmd.kernels k).any fun r => r.state != .staged) && l.hasTask && !s.overrunning lid

def State.startables (s : State) (cls : Nat) : SMap Launch := s.cmd.launches.filter fun e => e.2.cls == cls && s.startable e.1 e.2

/-- The least of some launches by a key, the lower identity first. -/
def leastBy (key : Launch → Nat) : SMap Launch → Option Nat
  | [] => none
  | e :: l => some (l.foldl (fun (b : Nat × Launch) x => if key x.2 < key b.2 then x else b) e).1

/-- Saved tasks that run again, and are in memory (R363). -/
def State.rerunOf (s : State) (l : Launch) : Option Nat := l.reruns.find? fun g => (s.group g).state == .imaged
def State.rerunItem (s : State) : Option (Nat × Nat) :=
  let ok := s.cmd.launches.filter fun e => e.2.status == none && s.usable e.2.ctx && !(s.ctx e.2.ctx).parked && (s.rerunOf e.2).isSome
  (leastBy (·.cls) ok).bind fun lid => (s.rerunOf (s.launch lid)).map fun g => (lid, g)

/-- Is a cluster reserved for batch (R360)? -/
def State.reservedForBatch (s : State) (k : Nat) : Bool :=
  let n := ((List.range 6).filter fun i => (s.foreOf (k / 6 * 6 + i)).any fun e => e.2.cls == 0).length
  decide (6 - s.cmd.reserve ≤ n) && !(s.startables 1).isEmpty

/-- Weighted round-robin over the queues (R359): `turnsUsed` counts what each took of its WEIGHT, `lastQueue` is the queue
whose turn it is. A queue with nothing eligible has used its turn. The rounds to go through are bounded by what the queues have used. -/
def rrPick (weight : Nat → Nat) (elig : Nat → Option Nat) : Nat → CmdState → Option (Nat × CmdState)
  | 0, _ => none
  | n + 1, c =>
    let q := c.lastQueue
    let used := SMap.get c.turnsUsed q 0
    let pass := fun (_ : Unit) =>
      let t := SMap.insert c.turnsUsed q (max used (weight q))
      if q = 63 then
        rrPick weight elig n { c with lastQueue := 0, turnsUsed := (List.range 64).filterMap fun i =>
          let v := SMap.get t i 0 - weight i
          if v = 0 then none else some (i, v) }
      else rrPick weight elig n { c with lastQueue := q + 1, turnsUsed := t }
    if used < weight q then
      match elig q with
      | some lid => some (lid, { c with turnsUsed := SMap.insert c.turnsUsed q (used + 1) })
      | none => pass ()
    else pass ()

/-- The batch item that is chosen: an aged one, the oldest first, at the cost of a turn of its queue; else by turns. -/
def State.batchPick (s : State) : Option (Nat × CmdState) :=
  let ready := s.startables 1
  let debt := s.cmd.turnsUsed.foldl (fun n e => max n e.2) 0
  match leastBy (·.readAt) (ready.filter fun e => e.2.aged) with
  | some lid =>
    let q := (s.launch lid).queue
    some (lid, { s.cmd with turnsUsed := SMap.insert s.cmd.turnsUsed q (SMap.get s.cmd.turnsUsed q 0 + 1) })
  | none =>
    if ready.isEmpty then none else
    rrPick (fun q => (s.queue q).weight) (fun q => (ready.find? fun e => e.2.queue == q).map (·.1)) (64 * (debt + 2)) s.cmd

/-- The item whose next task a cluster takes (R358), with the account of turns as it then stands. -/
def State.pick (s : State) (k : Nat) : Option (Nat × CmdState) :=
  let inter := (leastBy (fun l => l.deadline) (s.startables 0)).map fun lid => (lid, s.cmd)
  let first := if s.reservedForBatch k then none else inter
  first.or (s.batchPick.or (inter.or ((leastBy (fun _ => 0) (s.startables 2)).map fun lid => (lid, s.cmd))))

/-! ### The first dispatch of a launch (R335, R353, R354, R388) -/

/-- The shape record of a launch: 16 zero bytes where there is none (R353). -/
def State.readShape (s : State) (l : Launch) : ObjRead :=
  let va := l.it 24 8
  if va = 0 then .object (List.replicate 16 0) else
  match s.cpBytes l.ctx va 16 with
  | .object h =>
    let n := u h 0 2
    let most := (l.kernel.map fun k => kShapeMax (s.kernel k).bytes).getD 0
    if most < n || 256 < n || !zeros h 2 14 then .ends .fault else s.cpBytes l.ctx va (16 + 8 * n)
  | r => r

/-- Regions mapped in a context, with their current versions, in ascending version number (R335, R388). -/
def State.boundVersions (s : State) (ctx : Nat) : List (Nat × Nat) :=
  let c := s.ctx ctx
  let all := (c.regions.filter fun e => !(c.regionPages e.1).isEmpty).map fun e => (e.1, e.2.current)
  all.foldl (fun acc e => acc.filter (fun x => decide (x.2 ≤ e.2)) ++ [e] ++ acc.filter (fun x => decide (e.2 < x.2))) []

/-- The launch chain at its start. -/
def chainStart (cbase : List Byte) (lid : Nat) (l : Launch) : List Byte :=
  sha3 (le 0x4C 1 ++ cbase ++ le lid 8 ++ le (l.it 48 16) 16)

/-- Task 0 is dispatched: versions are bound, the argument block and the shape record are measured as read, the superstep
barrier opens (R335, R354, R388, R429). -/
def State.bindLaunch (s : State) (lid : Nat) (args shape : List Byte) : State :=
  let l := s.launch lid
  let c := s.ctx l.ctx
  let k := s.kernel (l.kernel.getD 0)
  let vs := s.boundVersions l.ctx
  let x := extendDigest (chainStart c.chain lid l) 1 k.bytes.length k.digest
  let x := extendChain (extendChain x 2 args) 3 shape
  let x := vs.foldl (fun x e => extendChain x 6 (le e.2 8 ++ (s.region l.ctx e.1).digest)) x
  s.setLaunch lid { l with bound := true, tstart := s.power.dtime, cbase := c.chain, chain := x, debugMax := s.sec.debug,
                           args := args, shape := shape, versions := vs.foldl (fun m e => SMap.insert m e.1 e.2) [],
                           barrier := .open_ 0 }

/-- Is a launch ready for a task to start: bound, or its two reads done now? `none` where it is held or has ended. -/
def State.readyLaunch (s : State) (lid : Nat) : State × Bool :=
  let l := s.launch lid
  if l.bound then (s, true) else
  match s.cpBytes l.ctx (l.it 16 8) (l.it 104 4), s.readShape l with
  | .held a, _ => (s.cpPark l.ctx a lid false, false)
  | .ends st, _ => (s.endLaunches [lid] st {}, false)
  | _, .held a => (s.cpPark l.ctx a lid false, false)
  | _, .ends st => (s.endLaunches [lid] st {}, false)
  | .object a, .object b => (s.bindLaunch lid a b, true)

/-! ### Dispatch (R299, R394 to R396, R400) -/

/-- Cores of a cluster that a world other than a context's owns. -/
def State.foreignCores (s : State) (k ctx : Nat) : List Nat :=
  if !(s.ctx ctx).world then [] else
  ((List.range 8).map (coreAt k)).filter fun n => (s.core n).isOwned && (s.core n).ownership != .owned ctx

/-- Can a cluster take a group with these placements in its foreground? Beside a shadowed group only a one-set group, and no core of it
holds the saved state of another group. -/
def State.takes (s : State) (k ctx : Nat) (ps : List Placement) (ds : List Decl) : Bool :=
  (s.foreOf k).isNone && !(s.die (k / 6)).failed && !s.lingering k &&
    (s.shadowOf k).all (fun e => !twoSet ps && e.2.state != .preloaded && e.2.state != .switching && s.setsAgree k) &&
    (ps.all fun p => !(s.core (coreAt k p.core)).saved) &&
    ((ps.map fun p => coreAt k p.core).all fun n => s.mayLoad n ctx || s.coreEmpty n) && ((s.foreignCores k ctx).all s.coreEmpty) &&
    (placeDecls (s.cluster k).allTiles ds).isSome

/-- Cores are powered, with forced 24k where the context or another that runs there asks for it (R113, R400). -/
def State.powerCores (s : State) (k ctx : Nat) (cores : List Nat) : State :=
  let d := s.die (k / 6)
  let s := s.setDie (k / 6) { d with off := false }
  cores.foldl (fun s n => s.setCore n { s.core n with on := true, force := (s.ctx ctx).force || s.forceAsked n }) s

/-- A cluster on which no group stands has the foreground set of its first core in all of them; sets without strands swap like any
other (R310, log 24). -/
def State.alignSets (s : State) (k : Nat) : State :=
  if (s.foreOf k).isSome || (s.shadowOf k).isSome then s
  else (List.range 8).foldl (fun s c => s.setCore (coreAt k c) { s.core (coreAt k c) with fgSet := (s.core (coreAt k 0)).fgSet }) s

/-- The next task of a launch, taken. -/
def Launch.takeTask (l : Launch) : Nat × Launch :=
  match l.again with
  | t :: rest => (t, { l with again := rest })
  | [] => (l.nextTask, { l with nextTask := l.nextTask + 1 })

/-- A group for the next task of a launch: its context is ACTIVE, its kernel BOUND (R299, R383), its pool what no other group holds (R277). -/
def State.newGroup (s : State) (lid k : Nat) (state : GroupState) : State :=
  let l := s.launch lid
  let kid := l.kernel.getD 0
  let r := s.kernel kid
  let (t, l') := l.takeTask
  let ps := kPlaces r.bytes
  let cores := ps.foldl (fun m p => insertNat m (coreAt k p.core)) []
  let s := s.powerCores k l.ctx cores
  let forced := cores.any fun n => (s.core n).forced
  let s := s.setLaunch lid { l' with forced24 := l'.forced24 || forced }
  let s := s.setCtx l.ctx { s.ctx l.ctx with state := .active }
  let s := s.setKernel kid { r with state := .bound, used := s.cmd.dispatchNext }
  let cl := s.cluster k
  let g : Group := { state := state, launch := lid, task := t, ctx := l.ctx, cluster := k, kernel := kid, cls := l.cls, placements := ps,
                     taken := cl.tiles.map (·.2) ++ cl.shadow.map (·.2) }
  let s := s.setGroup s.cmd.groupNext g
  { s with cmd := { s.cmd with groupNext := s.cmd.groupNext + 1, dispatchNext := s.cmd.dispatchNext + 1 } }

/-- Launches that a STRICT wait ends (R355). -/
def State.sweepStrict (s : State) : State :=
  s.endLaunches ((s.cmd.launches.filter fun e => s.mustAbort e.2).map (·.1)) .abort {}

/-! ### Start of a group (R302, R380, R387, R396, R412) -/

/-- A row-table image written into its tile, dense bytes in row-major order (R380). -/
def Core.writeDense (c : Core) (t : Tile) (bs : List Byte) : Core :=
  (List.range t.rows).foldl (fun c r =>
    let n := min t.rowBits (8 * bs.length - r * t.rowBits)
    (List.range ((n + 511) / 512)).foldl (fun c i =>
      let w := min 512 (n - 512 * i)
      c.setSpBits (t.rowAt r + 512 * i) w (field (ofBytes bs) (r * t.rowBits + 512 * i) w)) c) c

/-- The tiles of a group's declarations: lines zero, row-table images in place. -/
def State.fillTiles (s : State) (k : Nat) (o : List Byte) (ts : SMap Tile) : State :=
  let s := (ts.map (·.2)).foldl (fun s t => s.zeroTile k t) s
  (List.range (kNrt o)).foldl (fun s i =>
    let (h, n, off) := kTable o i
    match SMap.find ts h with
    | some t => s.setCore (coreAt k t.core) ((s.core (coreAt k t.core)).writeDense t ((o.drop (kOrt o + off)).take n))
    | none => s) s

/-- The strands of a group as they are allocated (R302): GRADE is the stricter cap (R111). -/
def newStrand (gid : Nat) (g : Group) (l : Launch) (o : List Byte) (p : Placement) (life : Life) (begun : Bool) : Strand :=
  let cap := min (kCap o) (l.it 3 1)
  { life := life, grp := gid, ctx := g.ctx, launch := g.launch, placeCore := p.core, own := p.own, second := p.second,
    merge := g.cls == 0, half := SMap.get g.halves p.core 0, carat := BitVec.ofNat 64 (cap + 4 * cap), next := p.entry, begun := begun }

/-- The words of a task's mailbox (R412). -/
def mailWords (lid : Nat) (l : Launch) (task : Nat) : List Nat :=
  let count := u l.shape 0 2
  let m := (count + 55) / 56
  let s0 := if count ≤ 56 then 0 else 56 * (task % m)
  let w := if count ≤ 56 then count else min 56 (count - s0)
  [w + 2 ^ 32 * count, task + 2 ^ 32 * l.ntask, s0, l.it 16 8, l.it 24 8, l.it 104 4, lid, 0] ++
    (List.range 56).map fun j => if j < w then u l.shape (16 + 8 * (s0 + j)) 8 else 0

/-- The mailbox of each bank set that a group's strands use is written. -/
def State.writeMail (s : State) (gid : Nat) : State :=
  let g := s.group gid
  let words := mailWords g.launch (s.launch g.launch) g.task
  let sets := g.strands.foldl (fun m n => insertNat m (bankSetOf n)) []
  let cl := s.cluster g.cluster
  s.setCluster g.cluster { cl with mailbox := sets.foldl (fun m b =>
    (List.range 64).foldl (fun m i => SMap.put m (64 * b + i) (BitVec.ofNat 64 ((words[i]?).getD 0)) 0) m) cl.mailbox }

/-- The owned units are fresh, and belong to a strand. -/
def Core.ownedBy (c : Core) (sid : Nat) : Core :=
  { c with owner := some sid, calls := [], seqr := {}, trWidth := 32, trOpen := none, trClosed := [], rowq := [], tables := [],
           acc := [], accv := 0 }

/-- Lanegroups of a bank set of a core are on. -/
def Core.lanesOn (c : Core) (set : Nat) : Core := { c with lgs := c.lgs.filter fun e => e.1 / 8 != set }

/-- The strands of a group are allocated in their banks. A SET 1 strand waits, but on a core that has no SET 0 strand. -/
def State.allocStrands (s : State) (gid : Nat) (shadow : Bool) : State :=
  let g := s.group gid
  let l := s.launch g.launch
  let o := (s.kernel g.kernel).bytes
  let alone := fun (c : Nat) => !(g.placements.any fun p => p.core == c && p.set == 0)
  let one := fun (s : State) (p : Placement) =>
    let sid := s.bankOf g.cluster shadow p
    let waits := p.set == 1 && !alone p.core
    let s := s.setStrand sid (newStrand gid g l o p (if shadow || waits then .shadowed else .live) (!shadow && !waits))
    let c := (s.core (coreOf sid)).lanesOn (bankSetOf sid)
    s.setCore (coreOf sid) (if p.own && !shadow && !waits then c.ownedBy sid else c)
  let sids := g.placements.map (s.bankOf g.cluster shadow)
  let s := g.placements.foldl one s
  s.setGroup gid { s.group gid with strands := sids }

/-- On a core whose foreground has no strand of a two-set group the sets swap at dispatch (R395). -/
def State.swapAlone (s : State) (k : Nat) (ps : List Placement) : State :=
  (List.range 8).foldl (fun s c =>
    if (ps.any fun p => p.core == c) && !(ps.any fun p => p.core == c && p.set == 0) then
      s.setCore (coreAt k c) { s.core (coreAt k c) with fgSet := 1 - (s.core (coreAt k c)).fgSet }
    else s) s

/-- The half of instruction memory that the foreground of a core runs from is its active half (R385). -/
def State.activate (s : State) (gid : Nat) : State :=
  let g := s.group gid
  g.halves.foldl (fun s e => s.setCore (coreAt g.cluster e.1) { s.core (coreAt g.cluster e.1) with active := e.2 }) s

/-- Once every strand of a group halts, it drains (R398). -/
def State.settleGroup (s : State) (gid : Nat) : State :=
  let g := s.group gid
  if g.state == .running && g.strands.all (fun n => (s.strand n).halting || (s.strand n).life == .halted)
  then s.setGroup gid { g with state := .draining } else s

/-- Set-up is complete on every core: the first bundles may issue (R387, R398), unless the deadline has passed (R362) or the context is
parked (R327). -/
def execGroupStart (grp : Nat) (s : State) : Host.Outcome State Fault Refusal :=
  let g := s.group grp
  let o := (s.kernel g.kernel).bytes
  let cl := s.cluster g.cluster
  .next (if (SMap.find s.cmd.groups grp).isNone || g.state != .waking || !s.acts || (s.ctx g.ctx).parked || !(g.placements.all fun p => (SMap.find g.halves p.core).isSome) then s
    else if s.late (s.launch g.launch) then s.passDeadline g.launch
    else match placeDecls (g.taken ++ cl.allTiles) (kDecls o) with
      | none => s
      | some ts =>
        let s := s.setCluster g.cluster { cl with tiles := ts }
        let s := s.fillTiles g.cluster o ts
        let s := (s.allocStrands grp false).swapAlone g.cluster g.placements
        let s := (s.writeMail grp).activate grp
        let l := s.launch g.launch
        let s := s.setLaunch g.launch { l with started := l.started + 1 }
        s.setGroup grp { s.group grp with state := .running })

/-! ### The swap of bank sets (R310, R311, R398, R399, R404)

A pre-emption asks every core of a group; each swaps once its own strands have stopped, and the group has changed places once all
have. -/

/-- The owned units of a core, apart from the rest of it. -/
def Core.unitsOf (c : Core) : Core :=
  { owner := c.owner, calls := c.calls, seqr := c.seqr, trWidth := c.trWidth, trOpen := c.trOpen, trClosed := c.trClosed,
    rowq := c.rowq, tables := c.tables, acc := c.acc, accv := c.accv }
/-- A core with units put in. -/
def Core.withUnits (c units : Core) : Core :=
  { c with owner := units.owner, calls := units.calls, seqr := units.seqr, trWidth := units.trWidth, trOpen := units.trOpen,
           trClosed := units.trClosed, rowq := units.rowq, tables := units.tables, acc := units.acc, accv := units.accv }
/-- The units as they are saved: a pass that is cut starts afresh (R118, R249). -/
def Core.paused (c : Core) : Core := { c.unitsOf with seqr := c.seqr.cut }

/-- The owned units of a group leave a core with it, paused (R249, R311). -/
def State.stowUnits (s : State) (gid c : Nat) : State :=
  let g := s.group gid
  let n := coreAt g.cluster c
  let core := s.core n
  if core.owner.any fun o => g.strands.contains o then
    let s := s.setCore n (core.withUnits {})
    s.setGroup gid { s.group gid with units := SMap.insert (s.group gid).units c core.paused }
  else s

/-- The units of a group on a core as they were left, or fresh for an owner that has not run; the microprogram store is written for the
group's own code (R385). -/
def State.bringUnits (s : State) (gid c : Nat) : State :=
  let g := s.group gid
  match (g.placements.zip g.strands).find? fun e => e.1.core == c && e.1.own && (s.strand e.2).life == .live with
  | none => s
  | some (_, sid) =>
    let n := coreAt g.cluster c
    let core := match SMap.find g.units c with
      | some x => (s.core n).withUnits { x with owner := some sid }
      | none => (s.core n).ownedBy sid
    let s := (s.setCore n core).writeMicro gid n
    s.setGroup gid { s.group gid with units := SMap.erase g.units c }

/-- The strands of a group on a core. -/
def Group.onCore (g : Group) (c : Nat) : List Nat := ((g.placements.zip g.strands).filter fun e => e.1.core == c).map (·.2)

/-- A group's strands on a core go out of the foreground, or come into it. -/
def State.setLives (s : State) (gid c : Nat) (from_ to_ : Life) : State :=
  ((s.group gid).onCore c).foldl (fun s n =>
    let st := s.strand n
    if st.life == from_ then s.setStrand n { st with life := to_, begun := st.begun || to_ == .live } else s) s

/-- A core's foreground and shadow sets change places. -/
def State.flipCore (s : State) (n : Nat) : State := s.setCore n { s.core n with fgSet := 1 - (s.core n).fgSet }

/-- The half that a group runs from is the active half of a core. -/
def State.activateOn (s : State) (gid c : Nat) : State :=
  let g := s.group gid
  let n := coreAt g.cluster c
  match SMap.find g.halves c with
  | some h => s.setCore n { s.core n with active := h }
  | none => s

/-- A core swaps: one group's strands and units go, another's come. -/
def State.swapCore (s : State) (k : Nat) (out inn : Option Nat) (c : Nat) : State :=
  let s := match out with
    | some a => (s.stowUnits a c).setLives a c .live .shadowed
    | none => s
  let s := s.flipCore (coreAt k c)
  let s := match inn with
    | some b => ((s.setLives b c .shadowed .live).activateOn b c).bringUnits b c
    | none => s
  s.setCluster k { s.cluster k with swapped := insertNat (s.cluster k).swapped c }

/-- Do both groups name an owner on a core? Then the unit state of the outgoing one is first written to a core image (R311). -/
def ownersMeet (out inn : Group) (c : Nat) : Bool := [out, inn].all fun g => g.placements.any fun p => p.core == c && p.own

/-- The core image of a group whose owner gives way, where the save area takes it. -/
def State.writeUnits (s : State) (gid c : Nat) : Option State :=
  let g := s.group gid
  let n := coreAt g.cluster c
  if !(s.core n).owner.any (fun o => g.strands.contains o) then some s else
  (s.saveRoom g.ctx coreImageRoom).bind fun a =>
    let l := [(a, s.coreImage n (s.core n) (s.cluster g.cluster).tiles)]
    if s.saveOpen g.ctx l then
      let s := s.writeImages g.ctx l
      some (s.setGroup gid { s.group gid with unitImages := (a, coreImageRoom) :: (s.group gid).unitImages })
    else none

/-- Have the strands of a group on a core stopped? -/
def State.coreStopped (s : State) (gid c : Nat) : Bool := ((s.group gid).onCore c).all fun n => (s.strand n).stopped

/-- A core swaps if it has not yet, its outgoing strands have stopped, and an owner that gives way has its image. -/
def State.trySwap (s : State) (k : Nat) (out inn : Option Nat) (c : Nat) : State :=
  if (s.cluster k).swapped.contains c || !out.all (fun a => s.coreStopped a c) then s else
  match out, inn with
  | some a, some b =>
    (match if ownersMeet (s.group a) (s.group b) c then s.writeUnits a c else some s with
     | some t => t.swapCore k out inn c
     | none => s)
  | _, _ => s.swapCore k out inn c

/-- A rerun task runs again. -/
def State.rerunTaken (s : State) (gid : Nat) : State :=
  let lid := (s.group gid).launch
  let l := s.launch lid
  if l.reruns.contains gid then s.setLaunch lid { l with reruns := l.reruns.filter (· != gid) } else s

/-- A group has come into the foreground: a preloaded task starts with its first bundle (R404); it drains if every strand of it halts
(R398). -/
def State.swapIn (s : State) (gid : Nat) : State :=
  let s := s.rerunTaken gid
  let g := s.group gid
  (s.setGroup gid { g with state := .running, prior := .running, entering := false, unissued := g.unissued || g.prior == .preloaded,
                           unitImages := [] }).settleGroup gid

/-- Every core has swapped: the tile tables change places, the outgoing group is SHADOWED, the incoming one RUNNING. -/
def State.endSwap (s : State) (k : Nat) (out inn : Option Nat) : State :=
  let cl := s.cluster k
  let s := s.setCluster k { cl with tiles := cl.shadow, shadow := cl.tiles, swapped := [] }
  let s := match out with
    | some a => s.setGroup a { s.group a with state := .shadowed }
    | none => s
  match inn with
  | some b => s.swapIn b
  | none => s

/-- The cores that can swap do; with all swapped the swap ends. A preload whose deadline has passed meanwhile does not start (R362). -/
def State.swapStep (s : State) (k : Nat) (out inn : Option Nat) : State :=
  match inn.filter fun b => (s.group b).prior == .preloaded && s.late (s.launch (s.group b).launch) with
  | some b => (s.endGroup b .faulted).passDeadline (s.group b).launch
  | none =>
    let s := (List.range 8).foldl (fun s c => s.trySwap k out inn c) s
    if (List.range 8).all fun c => (s.cluster k).swapped.contains c then s.endSwap k out inn else s

/-- A group of the shadow set is to come in: PRELOADED or SHADOWED to SWITCHING (R398). -/
def State.enter (s : State) (gid : Nat) : State :=
  let g := s.group gid
  s.setGroup gid { g with state := .switching, prior := g.state, entering := true }

/-- In a two-set group each core whose SET 0 strands have halted swaps its sets, and its SET 1 strands begin (R395). -/
def State.swapSecond (s : State) (gid : Nat) : State :=
  let g := s.group gid
  let pairs := g.placements.zip g.strands
  (List.range 8).foldl (fun s c =>
    let n := coreAt g.cluster c
    let first := pairs.filter fun e => e.1.core == c && e.1.set == 0
    let second := pairs.filter fun e => e.1.core == c && e.1.set == 1 && (s.strand e.2).life == .shadowed
    if !first.isEmpty && !second.isEmpty && first.all (fun e => (s.strand e.2).life == .halted) then
      second.foldl (fun s (e : Placement × Nat) =>
        let s := s.setStrand e.2 { s.strand e.2 with life := .live, begun := true }
        if e.1.own then s.setCore n ((s.core n).ownedBy e.2) else s) (s.flipCore n)
    else s) s

/-- Does the package let swaps go on: one that is under way completes, with the groups that are SWITCHING, a new one does not begin in a hold
or a power loss (R310, R321, R323)? -/
def State.swapsGo (s : State) (k : Nat) : Bool :=
  let switching := s.anyGroup fun g => g.cluster == k && g.state == .switching
  !s.power.off && (!(s.cluster k).swapped.isEmpty || (s.power.kiln == .running && (!s.power.lost || switching)))

/-- Swaps that are due on a cluster come about. -/
def execBankSwapComplete (cluster : Nat) (s : State) : Host.Outcome State Fault Refusal :=
  .next (if !s.swapsGo cluster then s else
    match s.foreOf cluster, s.shadowOf cluster with
    | some (a, g), sh =>
      if twoSet g.placements then (if g.state == .running then s.swapSecond a else s)
      else if g.state == .switching && !g.overrun then
        (match sh with
         | some (b, h) => if h.state == .retained then s else if h.entering then s.swapStep cluster (some a) (some b) else s.enter b
         | none => s.swapStep cluster (some a) none)
      else s
    | none, some (b, h) => if h.state == .retained then s else if h.entering then s.swapStep cluster none (some b) else s.enter b
    | none, none => s)

/-! ### Imaging (R312 to R318, R363, R399) -/

/-- Are the queues of a strand empty, but for parked parts (R316)? The appends to an open packet, which stays in the endpoint buffer, do not
count (R472). -/
def State.queuesQuiet (s : State) (sid : Nat) : Bool :=
  let st := s.strand sid
  let quiet := fun (a : Access) => a.op == .epstore || a.parts.all fun p => p.parked || p.doneAt a.op 7
  st.lq.all quiet && st.sq.all quiet &&
    s.mem.narrow.all fun w => w.tag.eng || !w.tag.from_ st.grp (s.placeOf sid) st.seq || decide (7 ≤ w.level)

/-- The commands of a group that work on its tiles stand still while it is imaged, its tiles with it; its other commands run on (R316,
log 25). -/
def State.pauseCopies (s : State) (gid : Nat) : State :=
  let pause := fun (c : CeCmd) => if c.grp = gid then { c with dst := none, src := none } else c
  { s with clusters := s.clusters.map fun e => (e.1, { e.2 with ceq := e.2.ceq.map pause }) }

/-- Does a command go with its group to another cluster: one that has not begun, or that works on tiles (R316, R365, log 25)? -/
def CeCmd.moves (c : CeCmd) (gid : Nat) : Bool := c.grp == gid && (!c.begun || c.paused)

/-- The commands that stood still go on at the engines of the cluster that a group has come to, in the order of their issue, on its tiles as
they lie there (R316, R399). -/
def State.resumeCopies (s : State) (gid k : Nat) (ts : SMap Tile) : State :=
  let moved := s.clusters.flatMap fun e => e.2.ceq.filter fun c => c.moves gid
  let stay := s.clusters.map fun e => (e.1, { e.2 with ceq := e.2.ceq.filter fun c => !c.moves gid })
  moved.foldl (fun s c =>
    let cl := s.cluster k
    let t := tilesOf ts c.op c.a c.b
    s.setCluster k { cl with ceq := cl.ceq ++ [{ c with id := cl.ceId, dst := t.1, src := t.2 }], ceId := cl.ceId + 1 })
    ({ s with clusters := stay } : State)

/-- What a group's strands have read, what happens before their accesses, and what they were before a `halt` that drains, goes with them:
from agents to others (R390, R399, R424). -/
def State.renameAgents (s : State) (pairs : List (Nat × Nat)) : State :=
  let place := fun (n : Nat) => ((pairs.find? fun e => e.1 == n).map (·.2)).getD n
  { s with mem := pairs.foldl (fun m e => m.rename e.1 e.2) s.mem,
           halts := s.halts.foldl (fun m e => SMap.insert m (place e.1) e.2) [] }

/-- A copy of what a group has in a core: its units, the lines of its tiles, its lanegroup states, those of the foreground set
under 0 to 7. -/
def State.imageStore (s : State) (g : Group) (ts : SMap Tile) (c : Nat) : Core :=
  let n := coreAt g.cluster c
  let core := s.core n
  let mine := (ts.map (·.2)).filter fun t => t.core == c
  let spIn := fun (l : Nat) => mine.any fun t => t.holdsSp l
  let bIn := fun (l : Nat) => mine.any fun t => t.holdsB l
  let lane := fun (e : Nat × LgPower) =>
    if g.strands.any fun m => coreOf m == n && bankSetOf m == e.1 / 8 then some (8 * ((e.1 / 8 + core.fgSet) % 2) + e.1 % 8, e.2) else none
  { (s.groupUnits g c).paused with
    sp := core.sp.filter fun e => spIn e.1, spPoison := core.spPoison.filter spIn, scaleBad := core.scaleBad.filter fun b => spIn (b / 512),
    bPoison := core.bPoison.filter bIn, bScaleBad := core.bScaleBad.filter fun b => bIn (b / 64),
    bst := core.bst.filter fun e => bIn e.1, counts := core.counts.filter fun e => bIn (e.1 / 4),
    lgs := (core.lgs.filterMap lane).foldl (fun m e => SMap.insert m e.1 e.2) [] }

/-- The group leaves its cluster with its images written: banks and tiles are free (R312), forced 24k is what the groups left ask for (R113). -/
def State.leaveCluster (s : State) (gid at_ size : Nat) (ts : SMap Tile) (fore : Bool) : State :=
  let g := s.group gid
  let saved := g.strands.map s.strand
  let units := (List.range 8).filterMap fun c => if g.placements.any fun p => p.core == c then some (c, s.imageStore g ts c) else none
  let s := (s.pauseCopies gid).renameAgents (g.strands.zipIdx.map fun e => (e.1, savedAgent gid e.2))
  let s := g.strands.foldl (fun s n =>
    let s := { s with strands := SMap.erase s.strands n }
    let c := s.core (coreOf n)
    if c.owner = some n then s.setCore (coreOf n) (c.withUnits {}) else s) s
  let s := if fore then s.freeTable g.cluster else s.freeShadow g.cluster
  let s := s.setGroup gid { s.group gid with
    state := .imaged, strands := [], saved := saved.map fun st => if st.life == .halted then st else { st with life := .imaged }, units := units,
    tiles := ts, images := some (at_, size), unitImages := [] }
  s.forceCores g.cores

/-- The command processor writes the images of a shadowed group, or of a two-set group that has stopped, where the save area
has room for them all; otherwise the group stays as it is. -/
def execImageWrite (grp : Nat) (s : State) : Host.Outcome State Fault Refusal :=
  let g := s.group grp
  let fore := g.state == .switching && twoSet g.placements && !g.overrun
  let cl := s.cluster g.cluster
  let ts := if fore then cl.tiles else cl.shadow
  let size := g.imageSize ts
  .next (if (SMap.find s.cmd.groups grp).isNone || !(g.state == .shadowed || (fore && s.groupStopped g)) || !s.acts ||
      !(g.strands.all s.queuesQuiet) then s
    else match s.saveRoom g.ctx size with
      | none => s
      | some a =>
        let l := s.groupImages g ts a
        if s.saveOpen g.ctx l then (s.writeImages g.ctx l).leaveCluster grp a size ts fore else s)

/-- Is a tile clear of others? -/
def Tile.clearOf (t : Tile) (others : List Tile) : Bool :=
  others.all fun x => !(sameStore x t.level t.core) || decide (t.base + t.lines ≤ x.base) || decide (x.base + x.lines ≤ t.base)

/-- Tiles placed anew first-fit among others, in the order of their handles. -/
def replaceTiles (others : List Tile) : SMap Tile → Option (SMap Tile)
  | [] => some []
  | e :: rest =>
    match firstFit others e.2.level e.2.core e.2.lines with
    | none => none
    | some b => (replaceTiles ({ e.2 with base := b } :: others) rest).map fun m => (e.1, { e.2 with base := b }) :: m

/-- Where the tiles of a saved group come to lie in a cluster: where they stood, or, where other tiles lie there now, first-fit (R399,
log 25). -/
def State.roomFor (s : State) (g : Group) (k : Nat) : Option (SMap Tile) :=
  let others := (s.cluster k).allTiles
  if g.tiles.all fun e => e.2.clearOf others then some g.tiles else replaceTiles others g.tiles

/-- Is a cluster one that a saved group can come to: the cores that its placement names free in the shadow set (both sets for a two-set
group), with room for its tiles, and cores that are another world's or another code's empty, to be drained first (R328)? The cores are
restored in any order (R399, log 25). -/
def State.couldRestore (s : State) (g : Group) (k : Nat) : Bool :=
  let two := twoSet g.placements
  let cores := g.placements.map fun p => coreAt k p.core
  !(s.die (k / 6)).failed && (s.shadowOf k).isNone && (!two || (s.foreOf k).isNone) &&
    (s.foreOf k).all (fun e => s.setsAgree k && !twoSet e.2.placements && e.2.state != .waking) &&
    (cores.all fun n => !(s.core n).saved && (s.mayLoad n g.ctx || s.coreEmpty n) && (s.loadHalf n g.kernel g.ctx).isSome) &&
    ((s.foreignCores k g.ctx).all s.coreEmpty) && (s.roomFor g k).isSome

/-- Can a cluster take a saved group now: with no core to be drained first? -/
def State.canRestore (s : State) (g : Group) (k : Nat) : Bool :=
  s.couldRestore g k && (g.placements.all fun p => s.mayLoad (coreAt k p.core) g.ctx) && (s.foreignCores k g.ctx).isEmpty

/-- The cores of a cluster that stand against a saved group begin to drain (R328). -/
def State.drainFor (s : State) (g : Group) (k : Nat) : State :=
  let cores := (g.placements.map fun p => coreAt k p.core).filter fun n => !s.mayLoad n g.ctx
  (cores ++ s.foreignCores k g.ctx).foldl State.beginDrain s

/-- The images of a saved group, strand images first, as they are read back and pass their checks (R318): `none` while a read waits, an
inner `none` where one fails. -/
def State.readImages (s : State) (g : Group) : Option (Option (List (List Byte))) :=
  match g.images with
  | none => some none
  | some (a, _) =>
    let n := g.saved.length
    let rows := fun (c : Nat) => ((g.tiles.map (·.2)).filter fun t => t.core == c && t.level == .bstack).flatMap Tile.savedRows
    let reads := ((List.range n).map fun i => (0x474D4953, a + strandImageBytes * i, strandImageBytes)) ++
      (g.imageCores g.tiles).mapIdx fun i c =>
        (0x474D4943, a + strandImageBytes * n + coreImageRoom * i, coreImageBytes + ((rows c).map (·.2.2)).sum)
    reads.foldl (fun r e => r.bind fun o => match s.cpRead g.ctx e.2.1 e.2.2 with
      | .park _ => none
      | .bytes bs false => some (o.bind fun l => if imageGood e.1 bs then some (l ++ [bs]) else none)
      | _ => some none) (some (some []))

/-- The code of a group in the halves of a cluster's cores. -/
def State.loadAll (s : State) (gid k : Nat) : State :=
  let g := s.group gid
  let s := (g.placements.foldl (fun l p => insertNat l p.core) []).foldl (fun s c =>
    match s.loadHalf (coreAt k c) g.kernel g.ctx with
    | some h =>
      let s := s.writeHalf gid (coreAt k c) h c
      s.setGroup gid { s.group gid with halves := SMap.insert (s.group gid).halves c h }
    | none => s) s
  s.settleResident

/-- A saved group as its images give it (R318). -/
def Group.ofImages (g : Group) (imgs : List (List Byte)) : Group :=
  let n := g.saved.length
  let cores := g.imageCores g.tiles
  let unit := fun (e : Nat × Core) =>
    if cores.contains e.1 then
      (e.1, e.2.ofImage ((imgs[n + cores.idxOf e.1]?).getD []) ((g.tiles.map (·.2)).filter fun t => t.core == e.1))
    else e
  { g with saved := g.saved.mapIdx fun i st => st.ofImage ((imgs[i]?).getD []), units := g.units.map unit }

/-- What a saved group had in its cores is there again. -/
def State.putStore (s : State) (k : Nat) (units : SMap Core) : State :=
  units.foldl (fun s e =>
    let n := coreAt k e.1
    let c := s.core n
    let put := fun {α : Type} (m : SMap α) (x : SMap α) => x.foldl (fun m e => SMap.insert m e.1 e.2) m
    s.setCore n { c with sp := put c.sp e.2.sp, spPoison := e.2.spPoison.foldl insertNat c.spPoison, bst := put c.bst e.2.bst,
                         scaleBad := e.2.scaleBad.foldl insertNat c.scaleBad, bPoison := e.2.bPoison.foldl insertNat c.bPoison,
                         bScaleBad := e.2.bScaleBad.foldl insertNat c.bScaleBad,
                         counts := put c.counts e.2.counts,
                         lgs := e.2.lgs.foldl (fun m x => SMap.put m (8 * ((x.1 / 8 + c.fgSet) % 2) + x.1 % 8) x.2 .on) c.lgs }) s

/-- Where a place in the lines of some tiles has come to with them: `unit` places stand in a line, of the B-stack or of the scratchpad. -/
def movedPlace (pairs : List (Tile × Tile)) (isB : Bool) (unit at_ : Nat) : Nat :=
  match pairs.find? fun e => (e.1.level == .bstack) == isB && decide (unit * e.1.base ≤ at_) && decide (at_ < unit * (e.1.base + e.1.lines)) with
  | some e => at_ + unit * e.2.base - unit * e.1.base
  | none => at_

/-- A map under other keys. -/
def SMap.rekey {α : Type} (m : SMap α) (f : Nat → Nat) : SMap α := m.foldl (fun r e => SMap.insert r (f e.1) e.2) []

/-- What a core held of some tiles, at the lines to which the tiles have come. -/
def Core.moveTiles (c : Core) (pairs : List (Tile × Tile)) : Core :=
  let pad := movedPlace pairs false
  let stack := movedPlace pairs true
  let race := fun (m : MCall) => { m with touched := SMap.rekey m.touched (pad 1), touchedB := SMap.rekey m.touchedB (stack 1),
                                          unsynced := SMap.rekey m.unsynced (pad 1), wrote := SMap.rekey m.wrote (pad 1) }
  let spots := fun (l : List Nat) (f : Nat → Nat) => l.foldl (fun r n => insertNat r (f n)) []
  { c with sp := SMap.rekey c.sp (pad 1), spPoison := spots c.spPoison (pad 1), scaleBad := spots c.scaleBad (pad 512),
           bst := SMap.rekey c.bst (stack 1), bPoison := spots c.bPoison (stack 1), bScaleBad := spots c.bScaleBad (stack 64),
           counts := SMap.rekey c.counts (stack 4), calls := c.calls.map race }

/-- A saved group with its tiles at new places, what its cores held at the lines of each with it (R399, log 25). -/
def Group.movedTo (g : Group) (ts : SMap Tile) : Group :=
  if g.tiles == ts then g else
  let at_ := fun (m : SMap Tile) (c : Nat) => (m.map (·.2)).filter fun t => t.core == c
  { g with tiles := ts, units := g.units.map fun e => (e.1, e.2.moveTiles ((at_ g.tiles e.1).zip (at_ ts e.1))) }

/-- A strand that is read back: an access that is parked goes to the fault table of its new die (R441, R442). -/
def Strand.unparked (st : Strand) : Strand :=
  let f := fun (a : Access) => { a with parts := a.parts.map fun p => { p with parked := false } }
  { st with lq := st.lq.map f, sq := st.sq.map f }

/-- The completions that waited for a group go to their entries (R316). -/
def State.postHeld (s : State) (gid : Nat) : State :=
  let g := s.group gid
  let s := s.setGroup gid { g with held := [] }
  g.held.foldl (fun s h => s.postTo gid h.1 h.2.1 h.2.2.1 h.2.2.2) s

/-- A saved group takes its place in the shadow set of a cluster, exactly as its images give it (R62, R318), its staged rows filled again
(R317); nothing comes of it while one of those reads waits. -/
def State.restoreOn (s : State) (gid k : Nat) (imgs : List (List Byte)) : Option State :=
  let g := (s.group gid).ofImages imgs
  let g := g.movedTo ((s.roomFor g k).getD g.tiles)
  let two := twoSet g.placements
  let cores := g.placements.foldl (fun m p => insertNat m (coreAt k p.core)) []
  let s := (s.alignSets k).powerCores k g.ctx cores
  let s := cores.foldl (fun s n => s.setCore n (let c := s.core n; let d := c.lanesOn (1 - c.fgSet); if two then d.lanesOn c.fgSet else d)) s
  let s := (s.setGroup gid { g with cluster := k, halves := [], loadId := none }).loadAll gid k
  let g := s.group gid
  let pairs := g.placements.zip g.saved
  let second := fun (c : Nat) => pairs.any fun e => e.1.core == c && e.1.set == 1 && e.2.begun
  let fgNow := fun (p : Placement) => two && second p.core == (p.set == 1)
  let bank := fun (p : Placement) =>
    let fg := (s.core (coreAt k p.core)).fgSet
    8 * coreAt k p.core + 4 * ((fg + ofBit (!fgNow p)) % 2) + p.strand
  let sids := pairs.map fun e => bank e.1
  let back := fun (st : Strand) => if st.life == .halted then Life.halted else if two && st.begun then Life.live else Life.shadowed
  let s := pairs.foldl (fun s (e : Placement × Strand) =>
    s.setStrand (bank e.1) { e.2.unparked with half := SMap.get g.halves e.1.core 0, life := back e.2 }) s
  let cl := s.cluster k
  let s := s.setCluster k (if two then { cl with tiles := g.tiles } else { cl with shadow := g.tiles })
  let s := s.putStore k g.units
  let rename := fun (x : Core) (c : Nat) =>
    let own := (pairs.zip sids).find? fun e => e.1.1.core == c && e.1.1.own && (two == false || e.1.2.begun)
    let sid := (own.map (·.2)).getD 0
    { x.unitsOf with owner := own.map (·.2), calls := x.calls.map fun m => { m with sid := sid } }
  let units := g.units.map fun e => (e.1, rename e.2 e.1)
  let s := s.setGroup gid { g with strands := sids, saved := [], tiles := [], images := none, units := units,
                                   state := if two then .switching else .shadowed }
  let s := if two then ((List.range 8).foldl (fun s c => s.bringUnits gid c) (s.activate gid)).rerunTaken gid else s
  let s := (s.renameAgents (sids.zipIdx.map fun e => (savedAgent gid e.2, e.1))).resumeCopies gid k g.tiles
  let s := (s.writeMail gid).postHeld gid
  (s.restage k g.ctx (s.groupBound g) (fun _ => true) g.tiles).map fun x =>
    let cl := x.1.cluster k
    x.1.setCluster k (if two then { cl with tiles := x.2 } else { cl with shadow := x.2 })

/-- A saved group is read back into the shadow set of a cluster that can take it, after its images are checked: a failure
aborts it, with KIND bit 2 (R308, R318). -/
def State.restore (s : State) (gid k : Nat) : State :=
  let g := s.group gid
  match s.readImages g with
  | none => s
  | some (some imgs) => (s.restoreOn gid k imgs).getD s
  | some none =>
    let sid := 8 * coreAt g.cluster 0
    s.faultLaunch g.launch { sid := sid, kind := 4, time := s.power.dtime }

/-- May a saved group come back now: its context takes work and is not PARKED, and it is the rerun that the scheduler chooses, or there
is none and it was saved for another reason (R327, R358, R361)? -/
def State.mayReturn (s : State) (gid : Nat) : Bool :=
  let g := s.group gid
  let l := s.launch g.launch
  l.status == none && s.usable g.ctx && !(s.ctx g.ctx).parked &&
    (match s.rerunItem with
     | some (_, r) => r == gid
     | none => !l.reruns.contains gid)

def execImageRestore (grp : Nat) (s : State) : Host.Outcome State Fault Refusal :=
  let g := s.group grp
  let ks := (List.range 48).filter (s.canRestore g)
  let ds := (List.range 48).filter (s.couldRestore g)
  .next (if (SMap.find s.cmd.groups grp).isNone || g.state != .imaged || !s.acts || !s.mayReturn grp then s
    else match ks[Config.choice s.tick % ks.length]?, ds[Config.choice s.tick % ds.length]? with
      | some k, _ => (s.restore grp k).bump
      | none, some k => (s.drainFor g k).bump
      | none, none => s)

/-! ### Dispatch and preload -/

/-- A scheduling point of a cluster that is free: a rerun comes first, else the item that is chosen has its next task
started there (R358). -/
def execTaskDispatch (cluster : Nat) (s : State) : Host.Outcome State Fault Refusal :=
  .next (if 48 ≤ cluster || !s.acts then s else
    let s := s.sweepStrict
    match s.rerunItem with
    | some (_, g) =>
      if !(s.foreOf cluster).isNone then s
      else if s.canRestore (s.group g) cluster then s.restore g cluster
      else if s.couldRestore (s.group g) cluster then s.drainFor (s.group g) cluster
      else s
    | none =>
      match s.pick cluster with
      | none => s
      | some (lid, cmd) =>
        let l := s.launch lid
        let o := (s.kernel (l.kernel.getD 0)).bytes
        if !s.takes cluster l.ctx (kPlaces o) (kDecls o) then s
        else
          let r := s.readyLaunch lid
          if !r.2 then r.1
          else
            let s := { r.1 with cmd := { r.1.cmd with turnsUsed := cmd.turnsUsed, lastQueue := cmd.lastQueue } }
            let s := (s.foreignCores cluster l.ctx).foldl State.beginDrain (s.alignSets cluster)
            s.newGroup lid cluster .waking)

/-- Is a context's world the world of a cluster's cores and of its foreground group, or is neither protected (R328, R402)? -/
def State.sameWorld (s : State) (k ctx : Nat) (g : Group) : Bool :=
  if (s.ctx ctx).world then g.ctx == ctx && (s.foreignCores k ctx).isEmpty
  else !(s.ctx g.ctx).world && (List.range 8).all fun c => !(s.core (coreAt k c)).isOwned

/-- May a task be preloaded on a cluster (R402)? -/
def State.mayPreload (s : State) (k ctx : Nat) (ps : List Placement) (ds : List Decl) : Bool :=
  let cores := ps.map fun p => coreAt k p.core
  (match s.foreOf k with
   | some (_, g) => !twoSet g.placements && (g.state == .running || g.state == .draining) && s.sameWorld k ctx g
   | none => false) &&
  !twoSet ps && (s.shadowOf k).isNone && s.setsAgree k && !s.lingering k &&
  (cores.all fun n => !(s.core n).saved && s.mayLoad n ctx && (List.range 4).all fun i => (s.strand (8 * n + 4 * (1 - (s.core n).fgSet) + i)).life == .unalloc) &&
  (placeDecls (s.cluster k).allTiles ds).isSome

/-- A pre-emption request stops the strands of the group in a cluster's foreground at their group boundaries (R310, R399). A two-set group
is asked only where the save area can take it, since it is pre-empted by imaging (R312, R395). -/
def execPreemptRequest (cluster : Nat) (s : State) : Host.Outcome State Fault Refusal :=
  .next (match s.foreOf cluster with
    | some (a, g) =>
      if twoSet g.placements && (s.saveRoom g.ctx (g.imageSize (s.cluster cluster).tiles)).isNone then s else s.setGroup a g.requested
    | none => s)

/-- A preload of the item that is chosen into the shadow sets of a busy cluster (R403): nothing of it issues. -/
def execPreload (cluster : Nat) (s : State) : Host.Outcome State Fault Refusal :=
  .next (if 48 ≤ cluster || !s.acts then s else
    let s := s.sweepStrict
    match s.rerunItem, s.pick cluster with
    | none, some (lid, cmd) =>
      let l := s.launch lid
      let kid := l.kernel.getD 0
      let o := (s.kernel kid).bytes
      let spare := (kPlaces o).all fun p => (s.loadHalf (coreAt cluster p.core) kid l.ctx).isSome
      if !s.mayPreload cluster l.ctx (kPlaces o) (kDecls o) || !spare then s
      else
        let r := s.readyLaunch lid
        if !r.2 then r.1
        else
          let s := { r.1 with cmd := { r.1.cmd with turnsUsed := cmd.turnsUsed, lastQueue := cmd.lastQueue } }
          let gid := s.cmd.groupNext
          let s := (s.newGroup lid cluster .preloaded).loadAll gid cluster
          let cl := s.cluster cluster
          (match placeDecls cl.allTiles (kDecls o) with
           | some ts =>
             let s := (s.setCluster cluster { cl with shadow := ts }).fillTiles cluster o ts
             (s.allocStrands gid true).writeMail gid
           | none => s)
    | _, _ => s)

/-! ### The end of a task (R391, R392) -/

/-- Every strand of a draining group has halted: the tree rises, the task ends, and the launch with it if it was the last. A task that
overran its budget for good ends its item with BUDGET instead, and one whose charge has reached it is not at its end before BUDGET is
raised (R363). -/
def execTileTaskEnd (grp : Nat) (s : State) : Host.Outcome State Fault Refusal :=
  let g := s.group grp
  .next (if g.state == .draining && !s.spent g && !g.strands.isEmpty && g.strands.all (fun n => (s.strand n).life == .halted) then
    (s.endGroup grp .halted).settleLaunch g.launch
  else s)

end Sys2Proof.Machine
end

