-- ==== Sys2Proof/Machine/Complete.lean ====
section
/-! DEFINITION. Stage 9 of a launch (R393): the result buffers, the chains (R335), the hallmark (R337, R338), the completion
record and the token (R355, R356). -/

namespace Sys2Proof.Machine

/-- The result buffers of a launch (R525): its RESLIST, then the bytes of each, as address, length and digest. -/
inductive Results where
  | held (va : Nat)
  | failed
  | done (l : List (Nat × Nat × List Byte))
  deriving DecidableEq, Repr

/-- The buffers of a list of pairs, in order. -/
def State.hashBuffers (s : State) (ctx : Nat) : List (Nat × Nat) → Results
  | [] => .done []
  | (a, n) :: rest =>
    match s.cpBytes ctx a n with
    | .held va => .held va
    | .ends _ => .failed
    | .object bs =>
      match s.hashBuffers ctx rest with
      | .done l => .done ((a, n, sha3 bs) :: l)
      | r => r

def State.results (s : State) (l : Launch) : Results :=
  let n := l.it 6 1
  match s.cpBytes l.ctx (l.it 72 8) (16 * n) with
  | .held va => .held va
  | .ends _ => .failed
  | .object bs => s.hashBuffers l.ctx ((List.range n).map fun i => (u bs (16 * i) 8, u bs (16 * i + 8) 8))

/-- `meas` records by task, then SID, then issue order (R335). -/
def sortMeas (l : List MeasRec) : List MeasRec :=
  let before := fun (a b : MeasRec) => a.task < b.task || (a.task == b.task && (a.sid < b.sid || (a.sid == b.sid && a.seq ≤ b.seq)))
  l.foldl (fun acc m => acc.filter (fun x => before x m) ++ [m] ++ acc.filter fun x => !before x m) []

/-- The launch chain at completion. A launch that no task started has it unextended, from the context chain as it stands
(R337). -/
def State.finalChain (s : State) (lid : Nat) (l : Launch) (bufs : List (Nat × Nat × List Byte)) : List Byte × List Byte :=
  if l.started = 0 then
    let c := (s.ctx l.ctx).chain
    (c, chainStart c lid l)
  else
    let x := (sortMeas l.measured).foldl (fun x m => extendDigest x 5 m.len m.digest) l.chain
    (l.cbase, bufs.foldl (fun x b => extendDigest x 4 b.2.1 b.2.2) x)

/-- The 624 bytes of a hallmark body (R337). -/
def State.hallmarkBody (s : State) (lid : Nat) (l : Launch) (st : Status) (cbase chain : List Byte) (bufs : List (Nat × Nat × List Byte)) : List Byte :=
  let ran := l.started != 0
  let cr := if ran then l.credits else {}
  let flags := ofBit (s.ctx l.ctx).world + 2 * ofBit l.measLost + 4 * ofBit l.forced24
  let at_ := fun (xs : List Nat) (i : Nat) => (xs[i]?).getD 0
  let head := le 1 2 ++ le flags 2 ++ le l.ctx 2 ++ le st.code 1 ++ le cr.grades 1 ++ deviceId ++ Config.firmwareDigest
    ++ le lid 8 ++ le (l.it 48 16) 16 ++ cbase ++ chain ++ le bufs.length 1 ++ le l.debugMax 1 ++ le 0 2
    ++ le (min (2 ^ 32 - 1) cr.resmax) 4 ++ ((List.range 4).flatMap fun n => le (min (2 ^ 64 - 1) (at_ cr.det n)) 8)
    ++ ((List.range 4).flatMap fun n => le (min (2 ^ 32 - 1) (at_ cr.rpl n)) 4) ++ le (min (2 ^ 32 - 1) cr.ckr) 4 ++ le 0 4
    ++ le (if ran then l.tstart else l.tend) 8 ++ le l.tend 8
  head ++ sized 384 (bufs.flatMap fun b => le b.1 8 ++ le b.2.1 8 ++ b.2.2)

/-- Stage 9 as far as the signature: buffers are hashed, the chains extended, the body formed. -/
def State.measureLaunch (s : State) (lid : Nat) (st : Status) (bufs : List (Nat × Nat × List Byte)) : State :=
  let l := s.launch lid
  let (cbase, chain) := s.finalChain lid l bufs
  let body := s.hallmarkBody lid l st cbase chain bufs
  let s := s.setLaunch lid { l with status := some st, cbase := cbase, chain := chain, stage9 := 1,
                                    hmBody := if l.wantsHm then body else [] }
  let s := match SMap.find s.ctxs l.ctx with
    | some c => s.setCtx l.ctx { c with chain := extendChain c.chain 7 chain }
    | none => s
  if l.wantsHm then { s with sec := { s.sec with signQ := s.sec.signQ ++ [lid] } } else s

/-- The completion record of a launch (R356). -/
def Launch.record (l : Launch) (lid : Nat) : Completion :=
  { status := (l.status.map Status.code).getD 0, hmlost := l.hmLost, cls := l.cls, engerr := l.engerr, queue := l.queue,
    tasks := l.started, tag := l.it 96 8, launch := lid, tend := l.tend, esc := l.esc, signal := true }

/-- Records of administrative commands that waited for that of a launch are written (R357). -/
def State.postAdmin (s : State) (lid : Nat) : State :=
  let now := s.cmd.adminDone.filter fun e => e.1 == lid
  let s := { s with cmd := { s.cmd with adminDone := s.cmd.adminDone.filter fun e => e.1 != lid } }
  now.foldl (fun s e => s.postRecord (s.queue 0).cq e.2) s

/-- The record is written or held, the token follows, and stage 9 ends. -/
def State.closeLaunch (s : State) (lid : Nat) : State :=
  let l := s.launch lid
  let s := s.setLaunch lid { l with stage9 := 2 }
  let s := { s with cmd := { s.cmd with statusOrder := s.cmd.statusOrder.drop 1 } }
  ((s.postRecord (s.queue l.queue).cq (l.record lid)).postAdmin lid).settleClosing l.ctx

/-- Is every write of a launch performed at .sy: no store of it is on its way, no command of it has begun and not ended, and nothing that one
wrote stands below .sy (R309, R355, R393)? -/
def State.writesDone (s : State) (lid : Nat) : Bool :=
  (s.mem.orphans.all fun o => o.2.launch != lid) && (s.clusters.all fun e => e.2.ceq.all fun (c : CeCmd) => c.launch != lid) &&
    (s.link.cols.all fun (c : ColCmd) => c.launch != lid) &&
    s.mem.narrow.all fun w => w.tag.grp == 0 || w.tag.launch != lid

/-- Is a line poisoned that a part of it is to be written into: such a write fails, where one of the whole line makes it good (R297,
R525)? -/
def State.poisonedFor (s : State) (key pa n : Nat) : Bool :=
  n != 64 && (peerOf pa).isNone && (s.mem.poisonLast (pa / 64) || !s.mem.opens key pa)

/-- The hallmark's way to its place: held at an address, `false`, also while the link to a host that holds it is away (R462), failed,
`true`, at a denied address, a poisoned line or a POISONED page (R525), or open. -/
def State.hallmarkWay (s : State) (l : Launch) : Option (Bool × Nat) :=
  let va := l.it 64 8
  let c := s.ctx l.ctx
  let at_ := fun (x : Nat × Nat × Nat) => match s.transIn c x.1 true false (fun _ => 0) with
    | .ok pa bad _ =>
      if isHost pa && !s.link.hostUp then some (false, x.1) else if bad || s.poisonedFor c.keyId pa x.2.1 then some (true, x.1) else none
    | _ => none
  if c.parked then some (false, va) else
  match (cutLines va 3044).findSome? at_ with
  | some (false, a) => some (false, a)
  | other => (s.probeWrite agentCp l.ctx false va 3044).or other

/-- Stage 9 of the launch whose status was fixed first (R335, R393), once its writes are performed: up to the signature, then from the
signature on. -/
def execLaunchComplete (launch : Nat) (s : State) : Host.Outcome State Fault Refusal :=
  let l := s.launch launch
  .next (if s.cmd.statusOrder.head? != some launch || s.power.off || !s.writesDone launch then s
    else match l.status with
      | none => s
      | some st =>
        if l.stage9 = 0 then
          if st != .ok then s.measureLaunch launch st []
          else match s.results l with
            | .held va => s.cpPark l.ctx va launch false
            | .failed => s.measureLaunch launch .fault []
            | .done bufs => s.measureLaunch launch .ok bufs
        else if l.wantsHm then
          if !l.hmSigned then s
          else match s.hallmarkWay l with
            | some (false, va) => s.cpPark l.ctx va launch true
            | some (true, _) => (s.setLaunch launch { l with hmLost := true }).closeLaunch launch
            | none => (s.writeRange agentCp 7 l.ctx (l.it 64 8) l.hmBody false).closeLaunch launch
        else s.closeLaunch launch)

/-- The context string of a hallmark (R338). -/
def hallmarkContext : List Byte := beBytes 0x4F445648_4C4D4B31 8

/-- The security controller signs the body that stands first (R28, R338): the 2420 bytes of its signature with the context string, hedged
with 32 random bytes. The standard bounds the tries at a signature; where they fail the request stands, for another hedge. -/
def execHallmarkSign (launch : Nat) (s : State) : Host.Outcome State Fault Refusal :=
  .next (if s.sec.signQ.head? != some launch || s.power.off then s
    else
      let l := s.launch launch
      match dsaSign identityKey hallmarkContext l.hmBody (secretKey s.tick) with
      | none => s.bump
      | some sig =>
        let s := s.setLaunch launch { l with hmBody := l.hmBody ++ sig, hmSigned := true }
        { s with sec := { s.sec with signQ := s.sec.signQ.drop 1 } }.bump)

end Sys2Proof.Machine
end

