-- ==== Sys2Proof/Machine/Retention.lean ====
section
/-! DEFINITION. Gating and waking of cores (R319, R320, R386, R400), drains (R328), the power-loss save (R321), the return of
power (R322) and bring-up (R502). A retention area holds the images of its core; what a core without power returns to stands beside them,
behind `on` (log 26). -/

namespace Sys2Proof.Machine

/-! ### Gating (R319, R401) -/

/-- What a core without power keeps: its ownership, its wear, its place in forced 24k; the rest presents zeros (R400). -/
def Core.gated (c : Core) : Core :=
  { ownership := c.ownership, force := c.force, forceUntil := c.forceUntil, detSecond := c.detSecond, detCounts := c.detCounts,
    active := c.active, fgSet := c.fgSet, wear := c.wear, retired := c.retired }

/-- A die whose cores are all gated is powered off (R32). -/
def State.settleDie (s : State) (d : Nat) : State :=
  if (List.range 48).all fun i => !(s.core (48 * d + i)).on then s.setDie d { s.die d with off := true } else s

/-- The groups that stand on a cluster. -/
def State.groupsAt (s : State) (k : Nat) : SMap Group :=
  s.cmd.groups.filter fun e => e.2.cluster == k && e.2.state != .imaged && e.2.state != .halted && e.2.state != .faulted

/-- Does a group that stands on a cluster name a core? -/
def State.coreClaimed (s : State) (core : Nat) : Bool := (s.groupsAt (core / 8)).any fun e => e.2.cores.contains core

/-- The cores that are gated, and wake, together with a core: those of the groups on it, and of a group that shares one with them
(R398, R401). -/
def State.gateSet (s : State) (core : Nat) : List Nat :=
  let gs := (s.groupsAt (core / 8)).map (·.2)
  let near := (gs.filter fun g => g.cores.contains core).flatMap Group.cores
  (gs.filter fun g => g.cores.any near.contains).foldl (fun l g => g.cores.foldl insertNat l) []

/-- The groups that stand on some cores. -/
def State.groupsOver (s : State) (core : Nat) (cores : List Nat) : List Nat :=
  ((s.groupsAt (core / 8)).filter fun e => e.2.cores.any cores.contains).map (·.1)

/-- Does a strand wait on a barrier, on a parked fault or on an elastic path, or has it halted (R53, R319)? -/
def Strand.waits (st : Strand) : Bool :=
  st.life == .halted || st.halting || st.cbarGen.isSome || st.stall.any Stall.elastic || !st.begun ||
    (st.lq ++ st.sq).any fun a => a.parts.any (·.parked)

/-- The first address of a core's retention area, its length, and the places in it of bank `k`'s strand image and of the core image
(R26, R319). -/
def retentionBase (core : Nat) : Nat := 0x10000000000 + 0x10000000 * core + 0xF800000
def retentionBytes : Nat := 0x800000
def strandPlace (sid : Nat) : Nat := retentionBase (coreOf sid) + 0x1000 + 0x24200 * (sid % 8)
def corePlace (core : Nat) : Nat := retentionBase core + 0x122000

/-- The key under which images of a core are written: the data key of the world that owns it (R329). -/
def State.coreKey (s : State) (core : Nat) : Nat :=
  match (s.core core).ownership with
  | .owned w => (s.ctx w).keyId
  | _ => 0

/-- The tables of a cluster as one, the foreground's first, and all tiles of both. -/
def Cluster.bothTiles (cl : Cluster) : List Tile := cl.tiles.map (·.2) ++ cl.shadow.map (·.2)

/-- The owned units that a core holds: its owner's, or those of the shadowed group whose owner left them paused there (R311). -/
def State.unitsHeld (s : State) (core : Nat) : Core :=
  if (s.core core).owner.isSome then s.core core else
  ((s.groupsAt (core / 8)).findSome? fun e => if e.2.unitImages.isEmpty then SMap.find e.2.units (core % 8) else none).getD (s.core core)

/-- The core image of a core, with the tiles of both sets (R319). -/
def State.retainedCore (s : State) (core : Nat) : List Byte :=
  let cl := s.cluster (core / 8)
  let body := s.coreBody core (s.unitsHeld core) cl.tiles cl.bothTiles
  withDigest body (imageDigest body)

/-- A record of a directory: kind, 1 for a strand image and 2 for a core image, offset, live length, length, digest (R319, log 10). -/
def dirRecord (kind off live : Nat) (bs : List Byte) : List Byte :=
  recordBytes 32 [(0, 8, kind), (8, 8, off), (16, 8, live), (24, 8, bs.length)] ++ (bs.drop 128).take 32

/-- The images of a core: kind, where each lies, its live length, its bytes. -/
def State.keptImages (s : State) (core : Nat) : List (Nat × Nat × Nat × List Byte) :=
  let mine := (s.cluster (core / 8)).bothTiles.filter fun t => t.core == core % 8
  (s.strandsOn core).map (fun n => (1, strandPlace n, (s.strand n).liveBytes, s.strandImage n)) ++
    [(2, corePlace core, liveCoreBytes (s.unitsHeld core) mine, s.retainedCore core)]

/-- The images of a core and where each lies, behind its directory. -/
def State.retentionImages (s : State) (core : Nat) : List (Nat × List Byte) :=
  let ims := s.keptImages core
  (retentionBase core, ims.flatMap fun i => dirRecord i.1 (i.2.1 - retentionBase core) i.2.2.1 i.2.2.2) :: ims.map fun i => (i.2.1, i.2.2.2)

/-- A retention area overwritten with zero (R303). -/
def State.clearRetention (s : State) (core : Nat) : State :=
  let b := retentionBase core
  let out := fun (a : Nat) => decide (a < b) || decide (b + retentionBytes ≤ a)
  { s with mem := { s.mem with cells := s.mem.cells.filter fun e => out e.1, poison := s.mem.poison.filter fun l => out (64 * l),
                               keys := s.mem.keys.filter fun e => out (64 * e.1) } }

/-- The images of a core are written into its retention area, its strands are RETAINED (R301), a pass that is cut is to start afresh
(R249); instruction memory and the microprogram store are not kept (R386). -/
def State.retain (s : State) (core : Nat) : State :=
  let ims := s.retentionImages core
  let key := s.coreKey core
  let s := s.clearRetention core
  let s : State := { s with mem := ims.foldl (fun (m : Mem) (e : Nat × List Byte) => m.write agentCp 7 e.1 e.2 false key) s.mem }
  let s := (s.strandsOn core).foldl (fun s n =>
    let st := s.strand n
    if st.life == .live || st.life == .shadowed then s.setStrand n { st with life := .retained } else s) s
  let c := s.core core
  s.setCore core { c with on := false, saved := true, seqr := c.seqr.cut, half0 := {}, half1 := {}, mstore := [], routines := [] }

/-- A group whose cores are gated is RETAINED (R398). -/
def State.retainGroup (s : State) (gid : Nat) : State :=
  let g := s.group gid
  s.setGroup gid { g with state := .retained, prior := g.state, loadId := none }

/-- May the cores of some groups be gated: every strand on them waits, with its queues empty, and for longer than GATEIDLE, as the command
processor expects (R316, R319, R490)? A command that works on their tiles stands still meanwhile (log 25). -/
def State.mayRetain (s : State) (cores groups : List Nat) : Bool :=
  s.power.gateIdle != 0 && decide (s.power.gateIdle < s.power.expected) &&
    (cores.all fun n => (s.strandsOn n).all fun m => (s.strand m).waits && (s.strand m).stopped && s.queuesQuiet m) &&
    groups.all fun g => (s.group g).state == .running || (s.group g).state == .shadowed

/-- A core is gated: one that no strand and no group holds loses its storage; one whose strands all wait is retained, with the other cores
of its groups. -/
def execCoreGate (core : Nat) (s : State) : Host.Outcome State Fault Refusal :=
  let c := s.core core
  let cores := s.gateSet core
  let gs := s.groupsOver core cores
  .next (if !c.on || 384 ≤ core || !s.alarms || c.ownership == .draining then s
    else if !s.coreClaimed core then
      if (s.strandsOn core).isEmpty then ((s.setCore core c.gated).settleResident).settleDie (core / 48) else s
    else if s.mayRetain cores gs then
      ((gs.foldl State.retainGroup (cores.foldl State.retain s)).settleResident).settleDie (core / 48)
    else s)

/-! ### Waking (R318, R320, R386) -/

/-- Bytes of MRAM under a key, where no line of them is poisoned or under another key (R332). -/
def State.areaBytes (s : State) (key pa n : Nat) : Option (List Byte) :=
  if (cutLines pa n).all fun l => s.mem.opens key l.1 && !s.mem.poisonFor (Reader.of agentCp s.tick) (l.1 / 64)
  then some (s.mem.bytesFor (Reader.of agentCp s.tick) pa n) else none

/-- The record of a directory that names an image of a kind at a place; a directory has at most nine. -/
def State.dirEntry (s : State) (key core kind pa : Nat) : Option (List Byte) :=
  (List.range 9).findSome? fun i =>
    (s.areaBytes key (retentionBase core + 64 * i) 64).filter fun d => u d 0 8 == kind && u d 8 8 == pa - retentionBase core

/-- Does an image of a retention area pass its checks, and is it the one that the directory names there (R318)? -/
def State.imageKept (s : State) (key core kind magic pa : Nat) : Bool :=
  match s.dirEntry key core kind pa with
  | some d =>
    (match s.areaBytes key pa (min (u d 24 8) retentionBytes) with
     | some bs => imageGood magic bs && decide (d.drop 32 = (bs.drop 128).take 32)
     | none => false)
  | none => false

/-- Do the retention images of a core pass their checks: its core image, and those of the strands that are still there (R318)? -/
def State.retentionGood (s : State) (core : Nat) : Bool :=
  let key := s.coreKey core
  (s.strandsOn core).all (fun n => s.imageKept key core 1 0x474D4953 (strandPlace n)) && s.imageKept key core 2 0x474D4943 (corePlace core)

/-- A group's code is in its cores again, under a new load identifier (R386); the units' store with its owner's. -/
def State.reloadOn (s : State) (gid : Nat) : State :=
  let g := s.group gid
  g.halves.foldl (fun s e =>
    let n := coreAt g.cluster e.1
    let s := s.writeHalf gid n e.2 e.1
    if (s.core n).owner.any fun o => g.strands.contains o then s.writeMicro gid n else s) s

/-- A strand of a bank returns to what it was when its core was gated: LIVE in the foreground set, SHADOWED in the other (R301). -/
def State.lifeBack (s : State) (sid : Nat) : Life :=
  if bankSetOf sid = (s.core (coreOf sid)).fgSet && (s.strand sid).begun then .live else .shadowed

/-- The strands of a group on cores that wake resume exactly (R62, R320), a RETAINED group returns to its previous state, and its code is
loaded anew (R386). One that drained or was in a swap at a power loss has no row for it in R398: it goes on as it is (R7). -/
def State.wakeGroup (s : State) (gid : Nat) : State :=
  let g := s.group gid
  let s := g.strands.foldl (fun s n =>
    let st := s.strand n
    if st.life == .retained then s.setStrand n { st with life := s.lifeBack n } else s) s
  (s.setGroup gid { g with state := if g.state == .retained then g.prior else g.state }).reloadOn gid

/-- The staged rows of a group's tiles, filled again where their cores wake; `none` while a read waits (R317). -/
def State.restageGroup (s : State) (gid : Nat) : Option State :=
  let g := s.group gid
  let k := g.cluster
  let cl := s.cluster k
  if g.shadow then
    (s.restage k g.ctx (s.groupBound g) (fun _ => true) cl.shadow).map fun x => x.1.setCluster k { x.1.cluster k with shadow := x.2 }
  else (s.restage k g.ctx (s.groupBound g) (fun _ => true) cl.tiles).map fun x => x.1.setCluster k { x.1.cluster k with tiles := x.2 }

/-- Gated cores wake, with the groups on them; their retention areas are free, and zero (R303). -/
def State.wake (s : State) (cores groups : List Nat) : State :=
  let s := cores.foldl (fun s n => (s.setCore n { s.core n with on := true, saved := false }).clearRetention n) s
  match groups.foldl (fun r g => r.bind fun s => s.restageGroup g) (some s) with
  | none => s
  | some s => groups.foldl State.wakeGroup s

/-- May cores wake: can every staged row be read now? -/
def State.mayWake (s : State) (groups : List Nat) : Bool := (groups.foldl (fun r g => r.bind fun s => s.restageGroup g) (some s)).isSome

/-- The work items of the groups on cores whose retention images fail their checks are LOST, and the cores are empty (R318). -/
def State.loseCores (s : State) (cores groups : List Nat) : State :=
  let ls := groups.foldl (fun l g => insertNat l (s.group g).launch) []
  let s := s.endLaunches ls .lost {}
  cores.foldl (fun s n => (s.setCore n (s.core n).gated).clearRetention n) s

/-- A gated core with retained images wakes, with the others of its groups; an image that fails its check makes its work items LOST. -/
def execCoreWake (core : Nat) (s : State) : Host.Outcome State Fault Refusal :=
  let c := s.core core
  let cores := (s.gateSet core).filter fun n => (s.core n).saved
  let gs := s.groupsOver core cores
  .next (if c.on || !c.saved || s.power.lost || s.power.off then s
    else if cores.isEmpty then (s.setCore core c.gated).clearRetention core
    else if !(cores.all s.retentionGood) then s.loseCores cores gs
    else if s.mayWake gs then (s.wake cores gs).setDie (core / 48) { s.die (core / 48) with off := false }
    else s)

/-! ### Drains (R328) -/

/-- A cluster without the tile-table entries of a core. -/
def Cluster.withoutCore (cl : Cluster) (c : Nat) : Cluster :=
  { cl with tiles := cl.tiles.filter (fun e => e.2.core != c), shadow := cl.shadow.filter fun e => e.2.core != c }

/-- Does a command that has begun work on a tile of a core? What it writes there is to be zero too before the core is CLEAN (R328). -/
def State.coreWorked (s : State) (core : Nat) : Bool :=
  (s.cluster (core / 8)).ceq.any fun c => c.working.any fun t => t.core == core % 8

/-- A drained core reads zero everywhere and is CLEAN; contexts that waited for it are released. -/
def execCoreDrainComplete (core : Nat) (s : State) : Host.Outcome State Fault Refusal :=
  let c := s.core core
  .next (if c.ownership != .draining || !s.coreEmpty core || s.coreWorked core then s else
    let s := s.setCore core { c.gated with on := c.on, ownership := .clean }
    let cl := s.cluster (core / 8)
    let s := s.setCluster (core / 8) (cl.withoutCore (core % 8))
    let latched := fun (e : Nat × Cluster) => (e.1, if e.1 = core / 8 then e.2.withoutCore (core % 8) else e.2)
    let clear := fun (x : Snap) => { x with cores := SMap.erase x.cores core, strands := x.strands.filter (fun e => coreOf e.1 != core),
                                            clusters := x.clusters.map latched }
    let s := { s with power := { s.power with snap := s.power.snap.map clear } }
    s.settleResident.settleAll)

/-! ### Power loss (R321) -/

/-- Have all strands stopped that must, with no swap under way? -/
def State.allStopped (s : State) : Bool := (s.strands.all fun e => e.2.stopped) && s.clusters.all fun e => e.2.swapped.isEmpty

/-- Have the swaps that are under way on a cluster come as far as they can (R321)? -/
def State.swapsDone (s : State) (k : Nat) : Bool :=
  if s.anyGroup (fun g => g.cluster == k && g.state == .switching) then
    (match execBankSwapComplete k s with
     | .next t => decide (t = s)
     | _ => true)
  else true

/-- May the save be made: every strand has stopped, with its queues empty but for what is parked, and every swap is finished (R316,
R321)? -/
def State.saveReady (s : State) : Bool :=
  (s.strands.all fun e => e.2.stopped && s.queuesQuiet e.1) && (SMap.keys s.clusters).all s.swapsDone

/-- The command processor and the security controller take a launch as far through stage 9 as it goes (R31, R321). -/
def State.completeNow (s : State) (lid : Nat) : State :=
  let go := fun (s : State) (o : Host.Outcome State Fault Refusal) => match o with
    | .next t => t
    | _ => s
  let s := go s (execLaunchComplete lid s)
  let s := go s (execHallmarkSign lid s)
  go s (execLaunchComplete lid s)

/-- A group as the save leaves it: RETAINED, to return to what it was; one that drains, or stands in a swap, has no row for it in R398 and
stays as it is (R7). Its code is to be loaded anew (R386). -/
def Group.kept (g : Group) : Group :=
  if g.state == .running || g.state == .shadowed then { g with state := .retained, prior := g.state, loadId := none }
  else { g with loadId := none }

/-- A strand whose `halt` drains as it stood at the boundary before its `halt` bundle, which it issues again: the flags gathered since, and the
accesses that earlier bundles left parked, stay (R321, R390). -/
def Strand.unhalted (st pre : Strand) : Strand :=
  { pre with life := st.life, next := st.haltAt, seq := st.seq, tagNext := st.tagNext, flags := st.flags, fences := st.fences, reads := st.reads,
             sq := st.sq.filter fun a => decide (a.seq ≤ pre.seq) }

/-- Every `halt` that drains is taken back; a group one of whose strands has its `halt` to issue is not DRAINING (R398). -/
def State.undoHalts (s : State) : State :=
  let back := fun (s : State) (e : Nat × Strand) =>
    let st := s.strand e.1
    if !st.halting || (st.life != .live && st.life != .shadowed) then s else
    let s := s.setStrand e.1 (st.unhalted e.2)
    let g := s.group st.grp
    if g.state == .draining then s.setGroup st.grp { g with state := .running } else s
  let t := s.halts.foldl back s
  { t with halts := t.halts.filter fun e => (t.strand e.1).halting }

/-- Launches between stages 8 and 9 end, every core that is not gated writes both sets, and the package switches off (R31, R321). -/
def State.saveAll (s : State) : State :=
  let s := (s.cmd.statusOrder.foldl State.completeNow s).undoHalts
  let s := (s.cores.filter fun e => e.2.on).foldl (fun s e =>
    if (s.strandsOn e.1).isEmpty then s.setCore e.1 (s.core e.1).gated else s.retain e.1) s
  let s : State := { s with cmd := { s.cmd with groups := s.cmd.groups.map fun (e : Nat × Group) => (e.1, e.2.kept) } }
  { s.settleResident with power := { s.power with off := true } }

/-- After a warning the save is made once it can be (R321). -/
def State.settleLoss (s : State) : State := if s.power.lost && !s.power.off && s.saveReady then s.saveAll else s

/-- The warning stops every strand at its group boundary; once all have stopped, everything is saved within the hold-up
time. -/
def execPowerLossWarning (s : State) : Host.Outcome State Fault Refusal :=
  .next (State.settleLoss { s with power := { s.power with lost := true } })

/-! ### The return of power (R322, R326, R479) -/

/-- May a saved group resume: scratch-resident, nothing of it outside scratchpad and MRAM, no command outstanding, no open
packet? -/
def State.mayResume (s : State) (gid : Nat) : Bool :=
  let g := s.group gid
  (s.launch g.launch).resident && g.scratchOnly && (s.clusters.all fun e => e.2.ceq.all fun (c : CeCmd) => c.grp != gid) &&
    (s.link.cols.all fun (c : ColCmd) => c.grp != gid) &&
    !(s.link.packets.any fun (p : EpPacket) => !p.sealed && p.launch == g.launch && p.task == g.task)

/-- Memory after a loss: writes that were on their way landed or did not; LPDDR6 holds values that nothing fixes. -/
def State.lostMemory (s : State) : State :=
  let m := s.mem.narrow.foldl (fun m w => if Config.movedEarly (s.tick + w.wid) then m.promote w.wid 7 else m) s.mem
  let m := { m with narrow := [], orphans := [], cache := [] }
  let cells := m.cells.foldl (fun l e =>
    if s.isLpddr e.1 then cellPut l e.1 (BitVec.ofNat 8 (Config.freeNat (s.tick + e.1))) else l) m.cells
  { s with mem := { m with cells := cells, poison := m.poison.filter fun l => !s.isLpddr (64 * l) } }

/-- Contexts whose key slot fails to be restored (R326). -/
def State.slotFails (s : State) : List Nat := (s.sec.slots.filter fun e => Config.bootFails (s.tick + e.1)).map fun e => e.2.ctx

/-- Launches of a context that have groups. -/
def State.runningOf (s : State) (ctx : Nat) : List Nat := (s.openLaunches ctx).filter fun l => !(s.groupsOf l).isEmpty

/-- Is a group one that was running when the power went (R322)? A preload was not. -/
def Group.ran (g : Group) : Bool :=
  g.state == .retained || g.state == .imaged || g.state == .draining || (g.state == .switching && !(g.entering && g.prior == .preloaded))

/-- Registers after a loss of power, at their reset values (R4), but for what the command processor and non-volatile storage keep (log 27). -/
def PowerState.coldRegs (p : PowerState) : PowerState :=
  { p with gateIdle := 50, detLim := 64, holds := 0, snapArm := false, snapSrc := 0, snapCode := 0, snapDone := false, snapCmp := 0,
           snapAddr := 0, snap := none, wearAddr := 0, mcRing := [], mcCount := 0, mcIdx := 0, mcLast := [], mcSuppressed := [],
           corrected := [], dbgSid := 0, dbgRefused := false, dbgErr := false, dbgSteps := 0, dbgVa := 0, dbgData := 0, i3cAddr := 0x4E }

/-- A compute die after a loss of power: its fault table stays with what is parked there (log 27). -/
def Die.cold (d : Die) : Die := { faults := d.faults, failed := false, off := d.off }

/-- Power returns: device time has gone on; groups that may not resume complete LOST, and every group that is imaged; preloads go back to
the pool, tasks that had not started are set up again; links, sessions, engines, caches and registers are as after a cold start, and bring-up
runs anew. -/
def execPowerReturn (s : State) : Host.Outcome State Fault Refusal :=
  .next (if !s.power.off then s else
    let s := { s with power := { s.power.coldRegs with dtime := s.power.dtime + Config.freeNat s.tick, lost := false, off := false, stage := 0,
                                                       err := 0, kiln := .running } }
    let lost := (s.cmd.groups.filter fun e => e.2.ran && (e.2.state == .imaged || !s.mayResume e.1)).foldl (fun l e => insertNat l e.2.launch) []
    let s := s.endLaunches (lost.filter fun l => (s.launch l).status == none) .lost {}
    let pre := s.cmd.groups.filter fun e => e.2.state == .preloaded || (e.2.state == .switching && e.2.entering && e.2.prior == .preloaded)
    let s := pre.foldl (fun s e => s.dropPreload e.1 true) s
    let again := fun (e : Nat × Group) => (e.1, if e.2.state == .waking then { e.2 with halves := [], loadId := none } else e.2)
    let s := { s with cmd := { s.cmd with groups := s.cmd.groups.map again } }
    let s := s.slotFails.foldl (fun s c => (s.endLaunches (s.runningOf c) .lost {}).breakCtx c) s
    let s := s.lostMemory
    let l := s.link
    let cluster := fun (e : Nat × Cluster) => (e.1, { e.2 with ceq := [], tlb := [] })
    let die := fun (e : Nat × Die) => (e.1, e.2.cold)
    let s := { s with clusters := s.clusters.map cluster, dies := s.dies.map die, cmd := { s.cmd with age := 10000, reserve := 0, msix := [] },
                      sec := { s.sec with spdm := none, challenge := none },
                      link := { l with packets := [], cols := [], colData := [], outbox := [], flows := [], peers := [], hostUp := false,
                                       hostFailed := false, ports := [], ucie := [], pto := 2000, kai := 250, sysid := 0, asks := [] } }
    s.bump)

/-! ### Bring-up (R341, R451, R459, R502) -/

/-- What a stage does once it completes: at stage 6 the journal is replayed, regions with COMMIT completed and the others rolled back (R451); at
stage 8 the link status block stands in memory (R468, R469) and the record of a thermal trip is delivered (R489). -/
def State.stageDone (s : State) : Nat → State
  | 3 => s.lockDebug
  | 4 => { s with link := { s.link with ucie := (List.range 17).map fun n => (n, { state := .active }) } }
  | 6 => s.ctxs.foldl (fun s c => c.2.regions.foldl (fun s r =>
      if r.2.commit then s.commitRegion c.1 r.1 else if r.2.tx == .idle then s else s.setRegion c.1 r.1 r.2.rollBack) s) s
  | 7 => { s with link := { s.link with hostUp := true } }
  | 8 =>
    let s := s.postStatus
    (match s.power.tripped with
     | some raw => { s with power := { s.power with tripped := none } }.deliverCheck raw
     | none => s)
  | _ => s

/-- One stage of bring-up completes, or fails: ERR is then a value that the manual does not give (log 12). -/
def execBringUp (s : State) : Host.Outcome State Fault Refusal :=
  let n := s.power.stage + 1
  .next (if 8 < n || s.power.err != 0 || s.power.off || s.power.lost then s
    else if Config.bootFails s.tick then { s with power := { s.power with err := 1 + Config.freeNat s.tick % 255 } }.bump
    else ({ s with power := { s.power with stage := n } }.stageDone n).bump)

end Sys2Proof.Machine
end

