-- ==== Sys2Proof/Machine/Power.lean ====
section
/-! DEFINITION. Clock hops and droop (R481 to R484), the current controller (R485), heat and kiln hold (R487, R488), the thermal
trip (R489), forced 24k by health (R490), line checks and errors (R492, R493, R495). -/

namespace Sys2Proof.Machine

/-! ### Clock hops (R481 to R483) -/

/-- VNOM at a frequency in MHz, in thirds of a microvolt: linear between the points of the table (R480). -/
def vnom (f : Nat) : Nat :=
  if f ≤ 1000 then 1800000 + 480 * (f - 500) else if f ≤ 1500 then 2040000 + 420 * (f - 1000) else 2250000 + 700 * (f - 1500)

/-- Hundredths of VNOM at which a band's rail stands under a grade (R108). -/
def railRatio (grade band : Nat) : Nat :=
  match grade, band with
  | 1, 0 => 86
  | 2, 0 | 2, 1 => 80
  | 3, 0 | 3, 1 | 3, 2 => 75
  | _, _ => 100

/-- The voltage of a band's rail in a core, in 1/300 microvolt: the ratio of the grade that its regulators follow, of the VNOM at which the
rails of its die stand (R108, R110, R480). -/
def State.bandVolts (s : State) (core band : Nat) : Nat := railRatio (s.core core).rails band * vnom (s.die (core / 48)).raised

/-- A target as it is stored: rounded down to 25 MHz, within 500 to 1800. -/
def clampTgt (v : Nat) : Nat := max 500 (min 1800 (v % 2 ^ 11 / 25 * 25))

/-- A hop toward TGT starts, where it is not CUR: the rails of a rising hop are raised at once. -/
def Die.startHop (d : Die) : Die :=
  if d.tgt = d.cur then d else { d with hop := .locking, hopTgt := d.tgt, abn := 0, raised := max d.raised d.tgt }

/-- A write of DIECLK: TGT, and HOPFAIL by writing 1. A hop under way, or a kiln hold, defers the new one. -/
def execDieclkTgtWrite (die v : Nat) (s : State) : Host.Outcome State Fault Refusal :=
  .next (if 8 ≤ die then s else
    let d := s.die die
    let d := { d with tgt := clampTgt v, hopFail := d.hopFail && !bit v 32 }
    s.setDie die (if d.hop == .none && s.power.kiln == .running then d.startHop else d))

/-- The idle PLL locks and becomes the live one. -/
def execHopPllLock (die : Nat) (s : State) : Host.Outcome State Fault Refusal :=
  let d := s.die die
  .next (if d.hop == .locking && s.power.kiln == .running then s.setDie die { d with cur := d.hopTgt, hop := .lowering } else s)

/-- The rails stand at the new VNOM and the hop ends; a target written meanwhile is taken then. -/
def execHopComplete (die : Nat) (s : State) : Host.Outcome State Fault Refusal :=
  let d := s.die die
  .next (if d.hop == .lowering && s.power.kiln == .running then
    s.setDie die ({ d with hop := .none, raised := d.cur }.startHop) else s)

/-- A hop is given up after 16 abandons, with HOPFAIL and its record (R483). -/
def State.giveUp (s : State) (die : Nat) : State :=
  let d := s.die die
  if d.hop == .abandoned && decide (16 ≤ d.abn) then
    (s.setDie die { d with hop := .none, tgt := d.cur, hopFail := true }).machineCheck 7 die 0xFFFF 0 0
  else s

/-- Has a die been without droop for 20 microseconds (R482, R483)? -/
def State.quiet (s : State) (die : Nat) : Bool :=
  !(s.die die).stretch && (s.die die).lastDroop.all fun t => decide (t + 20000 ≤ s.power.dtime)

/-- A droop stretches the clock; before the switch it abandons the hop, after it the lowering pauses. -/
def execDroopDetect (die : Nat) (s : State) : Host.Outcome State Fault Refusal :=
  let d := { s.die die with stretch := true, lastDroop := some s.power.dtime }
  .next (if 8 ≤ die then s else s.setDie die (match d.hop with
    | .locking => { d with hop := .abandoned, abn := min 255 (d.abn + 1) }
    | .lowering => if d.hopTgt < d.raised then { d with hop := .paused } else d
    | _ => d) |>.giveUp die)

def execDroopStretchEnd (die : Nat) (s : State) : Host.Outcome State Fault Refusal :=
  .next (s.setDie die { s.die die with stretch := false })

/-- After 20 microseconds of quiet an abandoned hop is tried again, and a paused lowering goes on. -/
def execHopRetry (die : Nat) (s : State) : Host.Outcome State Fault Refusal :=
  let d := s.die die
  .next (if s.power.kiln != .running || !s.quiet die then s else match d.hop with
    | .abandoned =>
      s.setDie die { d with hop := .locking }
    | .paused => s.setDie die { d with hop := .lowering }
    | _ => s)

/-! ### The current controller (R485) -/

/-- The level that a current asks for. -/
def levelFor (i : Nat) : Nat :=
  let l := Config.currentLimit
  if l < i then 4 else if 97 * l < 100 * i then 3 else if 92 * l < 100 * i then 2 else if 85 * l < 100 * i then 1 else 0

/-- Hundredths of the limit above which a level is entered. -/
def levelPercent (level : Nat) : Nat :=
  match level with
  | 0 => 0 | 1 => 85 | 2 => 92 | 3 => 97 | _ => 100

/-- Does the current lie below the threshold of the level less 5 % of the limit? -/
def Die.calm (d : Die) : Bool := d.level != 0 && decide (100 * d.amps < (levelPercent d.level - 5) * Config.currentLimit)

/-- A die at a level, with the time since when its current has been low enough for it to be left: from the moment that the level is
entered, at the earliest (log 29). -/
def Die.atLevel (d : Die) (level now : Nat) : Die :=
  let since := if level = d.level then d.calmSince else none
  let d := { d with level := level }
  { d with calmSince := if d.calm then some (since.getD now) else none }

/-- The controller measures its die's current: the level rises at a crossing. -/
def execCurrentLevelRaise (die current : Nat) (s : State) : Host.Outcome State Fault Refusal :=
  let d := { s.die die with amps := current }
  .next (if 8 ≤ die then s else s.setDie die (d.atLevel (max d.level (levelFor current)) s.power.dtime))

/-- After 10 microseconds below the threshold less 5 % of the limit the level falls by one, not below 2 while the die is throttled; it is kept
through a kiln hold (R487, R488). -/
def execCurrentLevelLower (die : Nat) (s : State) : Host.Outcome State Fault Refusal :=
  let d := s.die die
  let low := d.calmSince.any fun t => decide (t + 10000 ≤ s.power.dtime)
  .next (if s.power.kiln == .held || (d.throttle && decide (d.level ≤ 2)) || !low then s
    else s.setDie die (d.atLevel (d.level - 1) s.power.dtime))

/-! ### Heat (R487 to R489) -/

/-- A reading in 1/16 °C, two's complement. -/
def State.temp (s : State) (n : Nat) : Int := sx 16 (SMap.get s.power.temps n 0)

/-- A sensor's reading. Sensors 4 d to 4 d + 3 are those of compute die d (log 10). -/
def State.setTemp (s : State) (n t : Nat) : State := { s with power := { s.power with temps := SMap.insert s.power.temps n (t % 2 ^ 16) } }

/-- The die of a sensor: 8 and 9 for IO0 and IO1. -/
def sensorDie (n : Nat) : Nat := if n < 32 then n / 4 else 8 + (n - 32) / 2

/-- A die is throttled while one of its sensors stands at 95 °C or above: its level is 2 at least. -/
def State.settleThrottle (s : State) (n : Nat) : State :=
  if 32 ≤ n then s else
  let k := n / 4
  let d := s.die k
  let hot := (List.range 4).any fun i => decide (1520 ≤ s.temp (4 * k + i))
  s.setDie k ({ d with throttle := hot }.atLevel (if hot then max 2 d.level else d.level) s.power.dtime)

/-- A reading of a sensor, with what it throttles. -/
def State.readSensor (s : State) (n t : Nat) : State := (s.setTemp n t).settleThrottle n

/-- The hold is entered once every strand has stopped (R323, R488). -/
def State.settleHold (s : State) : State :=
  if s.power.kiln == .entering && s.allStopped then { s with power := { s.power with kiln := .held } } else s

/-- What a sensor's reading asks for: at or above 115 °C the power-loss save, after which every supply goes off (R489); at or above
105 °C a kiln hold of the whole package. -/
def State.heatActs (s : State) (sensor : Nat) : State :=
  if 1840 ≤ s.temp sensor && !s.power.off then
    let s := if s.power.tripped.isSome then s else
      { s with power := { s.power with tripped := some (s.checkBytes 5 (sensorDie sensor) 0xFFFF 0 0) } }.trigger 2 5
    State.settleLoss { s with power := { s.power with lost := true } }
  else if 1680 ≤ s.temp sensor && s.power.kiln == .running then
    { s with power := { s.power with kiln := .entering, kilnSince := s.power.dtime, holds := (s.power.holds + 1) % 2 ^ 16 } }.settleHold
  else s

/-- A sensor is read: what it throttles, and what its heat asks for. -/
def State.sense (s : State) (sensor temp : Nat) : State := if 36 ≤ sensor then s else (s.readSensor sensor temp).heatActs sensor

def execThermalThrottle (sensor temp : Nat) (s : State) : Host.Outcome State Fault Refusal := .next (s.sense sensor temp)
def execKilnHoldStart (sensor temp : Nat) (s : State) : Host.Outcome State Fault Refusal := .next (s.sense sensor temp)
def execThermalTrip (sensor temp : Nat) (s : State) : Host.Outcome State Fault Refusal := .next (s.sense sensor temp)

/-- The hold ends with every sensor at or below 90 °C, at the earliest after 1 ms; hops that it deferred start, and packets that it kept
back are sent. -/
def execKilnHoldEnd (s : State) : Host.Outcome State Fault Refusal :=
  let cool := (List.range 36).all fun n => decide (s.temp n ≤ 1440)
  .next (if s.power.kiln == .held && cool && decide (s.power.kilnSince + 1000000 ≤ s.power.dtime) then
    let hop := fun (e : Nat × Die) => (e.1, if e.2.hop == .none then e.2.startHop else e.2)
    { s with power := { s.power with kiln := .running }, dies := s.dies.map hop }.flushOutbox
  else s)

/-! ### Forced 24k by health (R490) -/

def execForce24kExpiry (core : Nat) (s : State) : Host.Outcome State Fault Refusal :=
  let c := s.core core
  .next (match c.forceUntil with
    | some t => if t ≤ s.power.dtime then s.setCore core { c with forceUntil := none } else s
    | none => s)

/-! ### Errors (R492, R493, R495) -/

/-- The pages that map a physical address: context, first granule, entry. -/
def State.pagesAt (s : State) (pa : Nat) : List (Nat × Nat × Nat) :=
  s.ctxs.flatMap fun e => (e.2.pages.filter fun p =>
    let n := 65536 * pageGranules (pteSize p.2)
    let d := (SMap.get e.2.regions (pteWreg p.2) {}).delta
    pteState p.2 != pgNonres && !pteEp p.2 && ((decide (ptePa p.2 ≤ pa) && decide (pa < ptePa p.2 + n)) ||
      (pteState p.2 == pgWeight && decide (ptePa p.2 + d ≤ pa) && decide (pa < ptePa p.2 + d + n)))).map fun p => (e.1, p.1, p.2)

/-- The context that a frame belongs to, 0xFFFF where none maps it. -/
def State.ctxAt (s : State) (pa : Nat) : Nat := ((s.pagesAt pa).head?.map (·.1)).getD 0xFFFF

/-- A line fails its check, with a LINECHK record: it is poisoned from there on, at its home, where it is verified there, or for the reader
that it is on its way to. Which of the two it is, is a free value (R492, log 28). -/
def execLineCheckFail (addr : Nat) (s : State) : Host.Outcome State Fault Refusal :=
  let m := if Config.freeNat s.tick % 2 = 0 then s.mem.poisonLine (addr / 64)
    else { s.mem with transit := insertNat s.mem.transit (addr / 64) }
  .next (({ s with mem := m }.lineCheckRecord (s.ctxAt addr) addr).bump)

/-- An uncorrectable error of a frame: its line is poisoned, its page passes to POISONED, a FRAME record goes out (R440). -/
def State.frameError (s : State) (pa : Nat) : State :=
  let ctx := s.ctxAt pa
  let ps := s.pagesAt pa
  let s := { s with mem := s.mem.poisonLine (pa / 64) }
  let s := ps.foldl (fun s p =>
    let st := pteState p.2.2
    if st = pgResident || st = pgSealed || st = pgWeight then
      let c := s.ctx p.1
      (s.setCtx p.1 { c with pages := SMap.insert c.pages p.2.1 (pteWithState p.2.2 pgPoisoned) }).tlbDrop p.1 p.2.1 (pageGranules (pteSize p.2.2))
    else s) s
  s.machineCheck 2 0xFFFF ctx (pa / 64 * 64) 0

/-- An error in another array of a core: the groups concerned complete FAULT with a zero record, kind COREUE, with their context where it is
one (R496). -/
def State.coreError (s : State) (core : Nat) (groups : List Nat) : State :=
  let ls := groups.foldl (fun l g => insertNat l (s.group g).launch) []
  let ctxs := groups.foldl (fun l g => insertNat l (s.group g).ctx) []
  let ctx := match ctxs with
    | [c] => c
    | _ => 0xFFFF
  (s.endLaunches (ls.filter fun l => (s.launch l).status == none) .fault {}).machineCheck 9 core ctx 0 0

/-- Groups with a strand on a core. -/
def State.groupsOn (s : State) (core : Nat) : List Nat := (s.strandsOn core).foldl (fun l n => insertNat l (s.strand n).grp) []
/-- The group of the owner of a core's units. -/
def State.ownerGroup (s : State) (core : Nat) : List Nat := ((s.core core).owner.map fun o => (s.strand o).grp).toList

/-- An uncorrectable error, by where it lies (R493, R494). Whether that of a dirty cache line reaches its key tag too is a free value
(R495, log 12). -/
def execUncorrectableError (place : ErrorPlace) (s : State) : Host.Outcome State Fault Refusal :=
  .next (match place with
    | .scratchpad core line => s.setCore core { s.core core with spPoison := insertNat (s.core core).spPoison line }
    | .bstack core line => s.setCore core { s.core core with bPoison := insertNat (s.core core).bPoison line }
    | .padScale core bit => s.setCore core { s.core core with scaleBad := insertNat (s.core core).scaleBad bit }
    | .stackScale core byte => s.setCore core { s.core core with bScaleBad := insertNat (s.core core).bScaleBad byte }
    | .registerFile sid | .deliveryBuffer sid | .storeBuffer sid => s.coreError (coreOf sid) (if (s.strand sid).life == .unalloc then [] else [(s.strand sid).grp])
    | .accFile core => s.coreError core (s.ownerGroup core)
    | .microstore core => s.coreError core (s.ownerGroup core)
    | .imem core => s.coreError core (s.groupsOn core)
    | .cacheLine addr =>
      let dirty := (SMap.find s.mem.cache (addr / 64)).any (·.dirty)
      let s := { s with mem := { s.mem with cache := SMap.erase s.mem.cache (addr / 64) } }.bump
      if !dirty then s
      else
        let m := s.mem.poisonLine (addr / 64)
        if Config.freeNat s.tick % 2 = 0 then { s with mem := m }
        else { s with mem := { m with keys := SMap.insert m.keys (addr / 64) (2 ^ 64) } }.machineCheck 1 0xFFFF 0xFFFF (addr / 64 * 64) 0
    | .lpddrLine addr => s.frameError addr
    | .mramLine addr => s.frameError addr)

/-- A corrected error of a 64 KiB frame: the sixteenth within an hour raises CECOUNT (R493). -/
def execCorrectedError (frame : Nat) (s : State) : Host.Outcome State Fault Refusal :=
  let now := s.power.dtime
  let ts := now :: (SMap.get s.power.corrected frame []).filter fun t => decide (now < t + 3600000000000)
  .next (if ts.length < 16 then { s with power := { s.power with corrected := SMap.insert s.power.corrected frame ts } }
    else { s with power := { s.power with corrected := SMap.erase s.power.corrected frame } }.machineCheck 6 0xFFFF
      (s.ctxAt (65536 * frame)) (65536 * frame) 0)

end Sys2Proof.Machine
end

