-- ==== Sys2Proof/Machine/Registers.lean ====
section
/-! DEFINITION. The registers of the host port and of the management interface (R346, R464, R481, R490, R499 to R501): writes
that have no row of their own, what a read returns, and the snapshot window. -/

namespace Sys2Proof.Machine

/-! ### Writes (R4, R5) -/

/-- The debug registers SID and VA, by their place in order (R501): nothing below level 2. -/
def State.writeDebug (s : State) (i v : Nat) : State :=
  if s.sec.debug != 2 then s else
  match i with
  | 0 => { s with power := { s.power with dbgSid := v % 2 ^ 12 } }
  | 3 => { s with power := { s.power with dbgVa := v % 2 ^ 62 } }
  | _ => s

/-- QBASE is written while its queue is OFF; QSTAT clears CFGERR by a 1 (R346, R347). -/
def State.writeQueue (s : State) (q off v : Nat) : State :=
  let c := s.queue q
  if off = 0 then (if c.state == .off then s.setQueue q { c with base := BitVec.ofNat 64 v } else s)
  else if off = 0x20 && bit v 3 then s.setQueue q { c with cfgerr := false }
  else s

/-- CBASE is written while its queue is OFF (R348). -/
def State.writeCq (s : State) (q off v : Nat) : State :=
  let c := s.cq q
  if off = 0 && !c.on then s.setCq q { c with base := BitVec.ofNat 64 v } else s

/-- Does the interface's lock hold the configuration of the package: SCHEDCFG, LINKCFG, SYSID and POWERCFG? Queues and ports serve
unprotected contexts too, which no TDI state affects (R461, log 30). -/
def State.frozen (s : State) (addr : Nat) : Bool :=
  (s.sec.tdi == .locked || s.sec.tdi == .run) && (addr == 0x1000 || addr == 0x1008 || addr == 0x1018 || addr == 0x1028)

/-- A write to the device register region. Registers not listed ignore writes, and so do those that the interface's lock holds. -/
def State.writeDevice (s : State) (addr v : Nat) : State :=
  if s.frozen addr then s
  else if addr = 0x1000 then State.settleAged { s with cmd := { s.cmd with age := field v 0 32, reserve := min 6 (field v 32 3) } }
  else if addr = 0x1008 then
    { s with link := { s.link with pto := max 100 (min 1000000 (field v 0 32)), kai := max 10 (field v 32 16) } }
  else if addr = 0x1028 then { s with power := { s.power with gateIdle := field v 0 16, detLim := field v 16 16 } }
  else if 0x1300 ≤ addr ∧ addr ≤ 0x1320 ∧ addr % 8 = 0 then s.writeDebug ((addr - 0x1300) / 8) v
  else if 0x10000 ≤ addr ∧ addr < 0x11000 then s.writeQueue ((addr - 0x10000) / 64) (addr % 64) v
  else if 0x20000 ≤ addr ∧ addr < 0x21000 then s.writeCq ((addr - 0x20000) / 64) (addr % 64) v
  else s

/-- A write to the management interface (R500, R501). -/
def State.writeManagement (s : State) (addr v : Nat) : State :=
  if addr = 0x158 then { s with power := { s.power with snapCmp := v % 2 ^ 64 } }
  else if addr = 0x160 then { s with power := { s.power with snapAddr := v % 2 ^ 64 } }
  else if addr = 0x170 then { s with power := { s.power with wearAddr := v % 2 ^ 23 } }
  else if addr = 0x180 then { s with power := { s.power with mcIdx := v % 2 ^ 11 } }
  else if 0x1A0 ≤ addr ∧ addr ≤ 0x1C0 ∧ addr % 8 = 0 then s.writeDebug ((addr - 0x1A0) / 8) v
  else s

/-- Space 0 is the device register region, space 1 the management interface. -/
def execRegisterWrite (space addr value : Nat) (s : State) : Host.Outcome State Fault Refusal :=
  .next (match space with
    | 0 => s.writeDevice addr value
    | 1 => s.writeManagement addr value
    | _ => s)

/-- The management target takes a dynamic address (R500). -/
def execDynamicAddressAssign (addr : Nat) (s : State) : Host.Outcome State Fault Refusal :=
  .next { s with power := { s.power with i3cAddr := addr % 128 } }

/-! ### Snapshot windows (R329, R498, R499) -/

/-- The state as a trigger latched it. -/
def State.asLatched (s : State) (x : Snap) : State :=
  { s with tick := x.tick, cmd := { s.cmd with groups := x.groups }, strands := x.strands, cores := x.cores, clusters := x.clusters, dies := x.dies,
           link := { s.link with ports := x.ports, packets := x.packets }, power := { s.power with temps := x.temps } }

/-- PORTn (R464). -/
def Port.word (p : Port) : Nat :=
  p.state.code + 8 * ofBit p.en + 2 ^ 8 * min 255 p.trn
    + 2 ^ 16 * (if p.state == .up || p.state == .degraded then p.nbr % 2 ^ 12 else 0)

/-- DIECLKd (R481). -/
def Die.word (d : Die) : Nat :=
  d.tgt + 2 ^ 12 * d.cur + 2 ^ 23 * ofBit (d.hop != .none) + 2 ^ 24 * d.abn + 2 ^ 32 * ofBit d.hopFail + 2 ^ 33 * ofBit d.off

/-- Does a block exist, and under which cores' power and ownership does it stand: one core, the cores of a cluster (its tables and
engines), or none? -/
def blockCores (cls inst : Nat) : Option (List Nat) :=
  let cluster := fun (k : Nat) => (List.range 8).map fun i => 8 * k + i
  match cls with
  | 1 => if inst < 3072 then some [coreOf inst] else none
  | 2 => if inst < 384 then some [inst] else none
  | 3 => if inst < 48 then some (cluster inst) else none
  | 4 | 5 | 6 => if inst < 8 then some [] else none
  | 7 => if inst < 96 then some (cluster (inst / 2)) else none
  | _ => none

/-- Contents of a window from byte 64 on. -/
def State.blockBytes (s : State) (cls inst : Nat) : List Byte :=
  match cls with
  | 1 => s.strandBody inst
  | 2 => (s.retainedCore inst).take 0x167A00
  | 3 =>
    let cl := s.cluster inst
    let gen := ((s.cmd.groups.find? fun e => e.2.cluster == inst && e.2.foreground).map fun e => e.2.gen).getD 0
    tableArea cl.tiles ++ tableArea cl.shadow ++ toBytes gen 8
  | 4 =>
    let d := s.die inst
    let t := fun (e : TlbEntry) => toBytes e.leaf 8 ++ toBytes e.page 5 ++ toBytes e.ctx 2 ++ toBytes 1 1
    let f := fun (e : FaultEntry) => toBytes (65536 * e.page) 8 ++ toBytes e.ctx 2 ++ toBytes e.count 2 ++ toBytes (ofBit e.write) 1 ++ toBytes 0 3
    sized 65536 (d.tlb.flatMap t) ++ sized 8192 (d.faults.flatMap f)
  | 5 =>
    let d := s.die inst
    toBytes d.word 8 ++ toBytes d.level 1 ++ toBytes 0 7 ++ (List.range 4).flatMap fun i => toBytes (SMap.get s.power.temps (4 * inst + i) 0) 2
  | 6 =>
    let p := SMap.get s.link.ports inst {}
    toBytes p.word 8 ++ toBytes p.retrans 8 ++ toBytes p.drops 8 ++ toBytes p.marked 8
  | 7 =>
    match ((s.cluster (inst / 2)).ceq.filter fun (c : CeCmd) => c.begun)[inst % 2]? with
    | some c => toBytes c.word 8 ++ toBytes c.a 8 ++ toBytes c.b 8 ++ toBytes c.c 8 ++ toBytes ((c.n + 7) / 8) 8
    | none => List.replicate 40 0
  | _ => []

/-- Lanegroups of a strand's set that are gated. -/
def State.gatedLanes (s : State) (sid : Nat) : Nat :=
  maskOf 8 fun g => SMap.get (s.core (coreOf sid)).lgs (8 * bankSetOf sid + g) .on == .gated

/-- The word of the snapshot window that SNAPADDR selects. A cluster's tables and engines read as zero while any of its cores is OWNED,
and are off with all of them (log 10). -/
def State.snapData (s : State) : Nat :=
  let a := s.power.snapAddr
  let (off, inst, cls) := (field a 0 40, field a 40 16, field a 56 8)
  match s.power.snap, blockCores cls inst with
  | some x, some ns =>
    let t := s.asLatched x
    let cs := ns.map t.core
    let owned := cs.any Core.isOwned
    let lanes := if cls = 1 then t.gatedLanes inst else 0
    let dark := (!cs.isEmpty && cs.all fun c => !c.on && !c.saved) || ((cls == 4 || cls == 5) && (t.die inst).off)
    let ret := !owned && (cs.any (fun c => c.saved && !c.on) || lanes != 0)
    let status := 1 + 2 * ofBit ret + 4 * ofBit owned + 8 * ofBit dark + 2 ^ 8 * cls + 2 ^ 16 * (if owned then 0 else lanes)
    if off % 8 ≠ 0 then 0
    else if off = 0 then status
    else if off < 64 || owned || dark || s.sec.debug = 0 then 0
    else u (t.blockBytes cls inst) (off - 64) 8
  | none, some _ => if field a 0 40 = 0 then 2 ^ 8 * cls else 0
  | _, none => 0

/-! ### Reads (R4, R346, R464, R479, R490, R500, R501) -/

def Kiln.code : Kiln → Nat
  | .running => 0 | .entering => 1 | .held => 2
def QueueState.code : QueueState → Nat
  | .off => 0 | .on => 1 | .error => 2

def State.readQueue (s : State) (q off : Nat) : Nat :=
  let c := s.queue q
  match off with
  | 0x00 => c.base.toNat
  | 0x08 => ofBit c.en + 2 * ofBit c.loc + 2 ^ 4 * c.log2n + 2 ^ 8 * c.ctx + 2 ^ 18 * c.weight + 2 ^ 26 * c.cq
  | 0x10 => c.tail
  | 0x18 => c.head
  | 0x20 => c.state.code + 4 * ofBit c.cqfull + 8 * ofBit c.cfgerr
  | _ => 0
def State.readCq (s : State) (q off : Nat) : Nat :=
  let c := s.cq q
  match off with
  | 0x00 => c.base.toNat
  | 0x08 => ofBit c.en + 2 * ofBit c.loc + 2 ^ 4 * c.log2n + 2 ^ 8 * c.ctx + 2 ^ 18 * c.vec + 2 ^ 29 * ofBit c.mask
  | 0x10 => c.head
  | 0x18 => c.tail
  | 0x20 => ofBit c.on
  | _ => 0

/-- The debug registers in order; below level 2 all but DBGSTAT read zero. -/
def State.readDebug (s : State) (i : Nat) : Nat :=
  let p := s.power
  let st := s.strand p.dbgSid
  let state := if !st.debugHalt then 0 else if st.debugStopped then 2 else 1
  match i with
  | 2 => state + 4 * ofBit p.dbgRefused + 8 * ofBit p.dbgErr + 2 ^ 32 * (p.dbgSteps % 2 ^ 32)
  | _ => if s.sec.debug != 2 then 0 else match i with
    | 0 => p.dbgSid
    | 3 => p.dbgVa
    | 4 => p.dbgData
    | _ => 0

/-- What a read of the device register region returns. -/
def State.readDevice (s : State) (addr : Nat) : Nat :=
  if addr = 0x1000 then s.cmd.age + 2 ^ 32 * s.cmd.reserve
  else if addr = 0x1008 then s.link.pto + 2 ^ 32 * s.link.kai
  else if addr = 0x1010 then 2 ^ 12 * field s.boot.lsBase 12 40
  else if addr = 0x1018 then s.link.sysid
  else if addr = 0x1020 then s.power.dtime
  else if addr = 0x1028 then s.power.gateIdle + 2 ^ 16 * s.power.detLim
  else if 0x1100 ≤ addr ∧ addr < 0x1140 ∧ addr % 8 = 0 then (SMap.get s.link.ports ((addr - 0x1100) / 8) {}).word
  else if 0x1200 ≤ addr ∧ addr < 0x1240 ∧ addr % 8 = 0 then (s.die ((addr - 0x1200) / 8)).word
  else if 0x1300 ≤ addr ∧ addr ≤ 0x1320 ∧ addr % 8 = 0 then s.readDebug ((addr - 0x1300) / 8)
  else if 0x10000 ≤ addr ∧ addr < 0x11000 then s.readQueue ((addr - 0x10000) / 64) (addr % 64)
  else if 0x20000 ≤ addr ∧ addr < 0x21000 then s.readCq ((addr - 0x20000) / 64) (addr % 64)
  else 0

/-- What a read of the management interface returns. -/
def State.readManagement (s : State) (addr : Nat) : Nat :=
  let p := s.power
  if addr = 0x0000 then 0xA10096
  else if addr = 0x0008 then p.stage + 2 ^ 8 * p.err
  else if addr = 0x0010 then p.dtime
  else if addr = 0x0018 then p.pwr
  else if 0x0020 ≤ addr ∧ addr < 0x0140 ∧ addr % 8 = 0 then SMap.get p.temps ((addr - 0x20) / 8) 0
  else if addr = 0x0140 then p.kiln.code + 2 ^ 16 * p.holds
  else if addr = 0x0148 then ofElems 3 ((List.range 8).map fun d => (s.die d).level)
  else if addr = 0x0150 then ofBit p.snapArm + 2 ^ 2 * p.snapSrc + 2 ^ 8 * p.snapCode + 2 ^ 16 * ofBit p.snapDone
  else if addr = 0x0158 then p.snapCmp
  else if addr = 0x0160 then p.snapAddr
  else if addr = 0x0168 then s.snapData
  else if addr = 0x0170 then p.wearAddr
  else if addr = 0x0178 then SMap.get p.wearWrites p.wearAddr 0 + 2 ^ 32 * SMap.get p.wearRewrites p.wearAddr 0
    + 2 ^ 48 * ofBit (p.retired.contains p.wearAddr)
  else if addr = 0x0180 then p.mcIdx
  else if addr = 0x0188 then u (SMap.get p.mcRing (p.mcIdx % 256) []) (8 * field p.mcIdx 8 3) 8
  else if 0x1A0 ≤ addr ∧ addr ≤ 0x1C0 ∧ addr % 8 = 0 then s.readDebug ((addr - 0x1A0) / 8)
  else 0

end Sys2Proof.Machine
end

