-- ==== Sys2Proof/Machine/Units.lean ====
section
/-! DEFINITION. The XF slot: the transpose unit (R261 to R264), and the row engine with its arithmetic and its steps
(R265 to R272). -/

namespace Sys2Proof.Machine

/-! ### Transpose unit (R261 to R264) -/

/-- A batch is not retired while a column is left and its window stands (R263). -/
def Batch.stands (b : Batch) (count : Nat) : Bool := b.popped != 2 ^ 16 - 1 && decide (count ≤ b.closed + 22)

/-- Batches retire by the owner's count (R263). -/
def Core.retireBatches (c : Core) (count : Nat) : Core := { c with trClosed := c.trClosed.filter (·.stands count) }

/-- TINFO of SCHEDVIOL: its path (R70). -/
def pathTranspose : Nat := 1
def pathRow : Nat := 2

def execTrpush (v idx : Nat) (s : State) : Host.Outcome State Fault Refusal :=
  slotOp (.trpush v idx) s fun s =>
    match lgWait s (List.range 8) with
    | some r => r
    | none =>
      let c := s.myCore
      let b : Batch := c.trOpen.getD { width := c.trWidth }
      let b := { b with rows := SMap.insert b.rows idx (s.me.vRaw v) }
      if idx ≠ 15 then .ok (s.setMyCore { c with trOpen := some b })
      else if 2 ≤ c.trClosed.length then .trap cSCHEDVIOL pathTranspose
      else .ok (s.setMyCore { c with trOpen := none, trClosed := c.trClosed ++ [{ b with closed := s.me.sbc }] })

/-- Lanegroup `g` of column `j` of a batch (R263). -/
def Batch.column (b : Batch) (j g : Nat) : Nat :=
  let m := 32 / b.width
  ofElems b.width ((List.range (16 * m)).map fun e =>
    elem b.width ((SMap.get b.rows (e % 16) 0).toNat / 2 ^ (512 * g)) (m * j + e / 16))

/-- Does a `trpop` of column `j` at a count take this batch (R263)? -/
def Batch.gives (b : Batch) (j count : Nat) : Bool :=
  !bit b.popped j && decide (b.closed < count) && decide (count ≤ b.closed + 7 + j)

def execTrpop (v idx : Nat) (s : State) : Host.Outcome State Fault Refusal :=
  slotOp (.trpop v idx) s fun s =>
    match lgWait s (List.range 8) with
    | some r => r
    | none =>
      let c := s.myCore
      let n := s.me.sbc
      match c.trClosed.find? (·.gives idx n) with
      | none => .trap cSCHEDVIOL pathTranspose
      | some b =>
        let rest := c.trClosed.map fun x => if x.closed = b.closed then { x with popped := setBit x.popped idx true } else x
        let s := s.setMyCore ({ c with trClosed := rest }.retireBatches n)
        .ok (postV s (b.closed + 8 + idx - n) v 255 fun g => wholeOut (b.column idx g) 0)

def execTrcfg (ty : ElemType) (s : State) : Host.Outcome State Fault Refusal :=
  slotOp (.trcfg ty) s fun s =>
    match lgWait s (List.range 8) with
    | some r => r
    | none =>
      let c := s.myCore
      if c.trOpen.isSome || !c.trClosed.isEmpty then .trap cSCHEDVIOL pathTranspose
      else .ok (s.setMyCore { c with trWidth := ty.width })

/-- Batches whose window has passed retire. -/
def execTransposeRetire (core : Nat) (s : State) : Host.Outcome State Fault Refusal :=
  let c := s.core core
  match c.owner with
  | some sid => .next (s.setCore core (c.retireBatches (s.strand sid).sbc))
  | none => .next s

/-! ### FP32 steps of the row engine: nearest-even, subnormals kept (R266, R77, R80)

A value with the flags that it took to form it. -/

/-- A value and flags. -/
structure RowVal where
  v : FVal
  fl : Nat := 0
  deriving DecidableEq, Repr

/-- The result of an FP32 operation. -/
def RowVal.of (r : Nat × Nat) (before : Nat) : RowVal := { v := decodeF fmtF32 r.1, fl := flOr before r.2 }

def RowVal.add (a b : RowVal) : RowVal := .of (addF fmtF32 .rne false a.v b.v) (flOr a.fl b.fl)
def RowVal.sub (a b : RowVal) : RowVal := .of (addF fmtF32 .rne false a.v b.v.flip) (flOr a.fl b.fl)
def RowVal.mul (a b : RowVal) : RowVal := .of (mulF fmtF32 .rne false a.v b.v) (flOr a.fl b.fl)
def RowVal.fma (a b c : RowVal) : RowVal := .of (fmaF fmtF32 .rne false a.v b.v c.v) (flOr a.fl (flOr b.fl c.fl))

/-- A real that is not a dyadic rational, rounded into FP32. -/
def RowVal.near (x : Dy) (neg : Bool) (before : Nat) : RowVal := .of (roundDy fmtF32 .rne false x neg) before

/-- round(x/n). -/
def RowVal.div (x : RowVal) (n : Nat) : RowVal :=
  match x.v with
  | .fin s m e => .near (stickyDy s (m * 2 ^ 80 / n) (e - 80) (m * 2 ^ 80 % n != 0)) s x.fl
  | _ => x

/-- round(1/x) of a positive value. -/
def RowVal.recip (x : RowVal) : RowVal :=
  match x.v with
  | .fin s m e => .near (if s then (recipDy m e).1.neg else (recipDy m e).1) s x.fl
  | .inf s => { v := .fin s 0 0, fl := x.fl }
  | _ => x

/-- The FP32 value nearest 1/√x of a positive value. -/
def RowVal.rsqrt (x : RowVal) : RowVal :=
  match x.v with
  | .fin _ m e => .near (rsqrtDy m e).1 false x.fl
  | .inf _ => { v := .fin false 0 0, fl := x.fl }
  | _ => x

/-- exp(-x/2^256) in units of 2^-256, by `n` terms of its series from the last inwards. -/
def expSeries (x : Int) : Nat → Int
  | 0 => 0
  | n + 1 => expTerm x 1 n
where
  /-- 1 - (x/k)(1 - (x/(k+1))(…)). -/
  expTerm (x : Int) (k : Nat) : Nat → Int
    | 0 => (2 ^ 256 : Nat)
    | n + 1 => (2 ^ 256 : Nat) - x * expTerm x (k + 1) n / ((k * 2 ^ 256 : Nat) : Int)

/-- Squared `n` times. -/
def squareTimes (r : Int) : Nat → Int
  | 0 => r
  | n + 1 => squareTimes (r * r / (2 ^ 256 : Nat)) n

/-- The FP32 value nearest exp(x) of a value that is not above 0: a series at x/128 to 2^-250, squared seven times;
exp is no tie of FP32 at a rational other than 0 (R269). -/
def RowVal.exp (x : RowVal) : RowVal :=
  match x.v with
  | .fin _ m e =>
    if m = 0 then { v := .fin false 1 0, fl := x.fl }
    else if Dy.lt ⟨200, 0⟩ ⟨m, e⟩ then .near ⟨1, -400⟩ false x.fl
    else
      let k := e + 249
      let t : Int := if 0 ≤ k then m * (2 ^ k.toNat : Nat) else m / (2 ^ (-k).toNat : Nat)
      let r := squareTimes (expSeries t 60) 7
      .near (stickyDy false r.toNat (-256) true) false x.fl
  | .inf _ => { v := .fin false 0 0, fl := x.fl }
  | _ => x

/-- Neighbours added. -/
def pairSums : List RowVal → List RowVal
  | a :: b :: l => a.add b :: pairSums l
  | l => l

/-- The tree of five levels over 32 values, missing ones as -0 (R269, R102). -/
def chunkSum (l : List RowVal) : RowVal :=
  let full := l ++ List.replicate (32 - l.length) { v := .fin true 0 0 }
  ((pairSums (pairSums (pairSums (pairSums (pairSums full))))).head?).getD { v := .fin true 0 0 }

/-- The chunk sums of a row, added in order (R269). -/
def rowSum (l : List RowVal) : RowVal :=
  match (List.range ((l.length + 31) / 32)).map fun k => chunkSum ((l.drop (32 * k)).take 32) with
  | [] => { v := .fin false 0 0 }
  | x :: xs => xs.foldl RowVal.add x

/-- A value rounded into a type of the row engine. -/
def RowVal.out (ty : ElemType) (x : RowVal) : Nat × Nat :=
  let f := fmtOf ty
  match x.v with
  | .nan s => (f.qnan, flOr x.fl (if s then flNV else 0))
  | .inf s => (infPat f s, x.fl)
  | .fin s m e =>
    let r := roundDy f .rne false (FVal.fin s m e).toDy s
    (r.1, flOr x.fl r.2)

/-- A row of NaN (R269, R270). -/
def nanRow (n : Nat) (ty : ElemType) : List Nat × Nat := (List.replicate n (fmtOf ty).qnan, flNV)

/-- Output patterns with all their flags. -/
def rowOut (ty : ElemType) (ys : List RowVal) : List Nat × Nat :=
  let r := ys.map (RowVal.out ty)
  (r.map (·.1), flAll (r.map (·.2)))

/-- `resm` on a row (R269). -/
def softmaxRow (ty : ElemType) (xs : List FVal) : List Nat × Nat :=
  let mx := xs.foldl (fun a b => if orderedLt a b then b else a) (.inf true)
  if xs.any FVal.isNaN || mx.isInf then nanRow xs.length ty
  else
    let es := xs.map fun x => (RowVal.sub { v := x } { v := mx }).exp
    let r := (rowSum es).recip
    rowOut ty (es.map fun e => e.mul r)

/-- ε of `renorm`. -/
def rowEps : RowVal := { v := .fin false 1 (-16) }

/-- `renorm` on a row (R270). -/
def normRow (rms : Bool) (ty : ElemType) (xs : List FVal) : List Nat × Nat :=
  if xs.any FVal.isNaN then nanRow xs.length ty
  else
    let x := xs.map fun v => ({ v := v } : RowVal)
    let mean := (rowSum x).div xs.length
    let d := if rms then x else x.map fun v => v.sub mean
    let var := (rowSum (d.map fun v => v.mul v)).div xs.length
    let rsq := (var.add rowEps).rsqrt
    rowOut ty (d.map fun v => v.mul rsq)

/-! ### Tables (R271, R272) -/

/-- A head word of a table, LO HI INVW VLO VHI RULES, and a coefficient. -/
def RowTable.head' (t : RowTable) (n : Nat) : FVal := decodeF fmtF32 (SMap.get t.head n 0)
def RowTable.rules (t : RowTable) : Nat := SMap.get t.head 5 0
def RowTable.coef (t : RowTable) (seg k : Nat) : RowVal := { v := decodeF fmtF32 (SMap.get t.coeff (3 * seg + k) 0) }

/-- The polynomial of a segment at `f` (R271). -/
def RowTable.poly (t : RowTable) (seg : Nat) (f : RowVal) : RowVal :=
  if f.v.isNaN then { v := .nan false, fl := flOr f.fl flNV }
  else f.fma (f.fma (t.coef seg 2) (t.coef seg 1)) (t.coef seg 0)

/-- round(round(x - LO) · INVW). -/
def RowTable.pos (t : RowTable) (x : FVal) : RowVal :=
  (RowVal.sub { v := x } { v := t.head' 0 }).mul { v := t.head' 2 }

/-- t - s, exact. -/
def RowVal.minus (x : RowVal) (s : Nat) : RowVal :=
  match x.v with
  | .fin n m e =>
    let d := Dy.sub (FVal.fin n m e).toDy ⟨s, 0⟩
    { x with v := .fin (decide (d.m < 0)) d.m.natAbs d.e }
  | _ => x

/-- max(0, min(floor(t), 255)). -/
def RowVal.segment (x : RowVal) : Nat :=
  match x.v with
  | .fin n m e => if n then 0 else min (FVal.fin n m e).toDy.toInt.toNat 255
  | .inf n => if n then 0 else 255
  | _ => 0

/-- An edge rule (R271). -/
def RowTable.edge (t : RowTable) (rule : Nat) (high : Bool) (x : FVal) : RowVal :=
  let seg := if high then 255 else 0
  match rule with
  | 0 => { v := t.head' (if high then 4 else 3) }
  | 1 => { v := x }
  | 2 => t.poly seg { v := .fin false (if high then 1 else 0) 0 }
  | _ => t.poly seg ((t.pos x).minus seg)

/-- `retab` on an element (R271). -/
def RowTable.eval (t : RowTable) (ty : ElemType) (x : FVal) : Nat × Nat :=
  if x.isNaN then ((fmtOf ty).qnan, flNV)
  else
    let lo := t.head' 0
    let hi := t.head' 1
    if !lo.isNaN && orderedLt x lo && !orderedEq x lo then (t.edge (t.rules % 4) false x).out ty
    else if !hi.isNaN && (orderedEq x hi || !orderedLt x hi) then (t.edge (t.rules / 4 % 4) true x).out ty
    else
      let p := t.pos x
      (t.poly p.segment (p.minus p.segment)).out ty

/-- A word of a table's image stored (R272). -/
def RowTable.load (t : RowTable) (j w : Nat) : RowTable :=
  if j < 5 then { t with head := SMap.put t.head j w 0 }
  else if j = 5 then { t with head := SMap.put t.head 5 (w % 16) 0 }
  else if j < 8 then t
  else { t with coeff := SMap.put t.coeff (j - 8) w 0 }

/-! ### Commands (R266, R267) -/

/-- A tile that a row-engine command may name (R267). -/
def rowTile (s : State) (h : Nat) (typed : Bool) : Option Tile :=
  match SMap.find s.myCluster.tiles h with
  | some t =>
    if t.level == .loc && t.core == localCore s.cur && (!typed || t.ety == .f32 || t.ety == .bf16 || t.ety == .f16)
    then some t else none
  | none => none

/-- A command joins the queue (R266). -/
def State.queueRow (s : State) (op : RowOp) (ha hd : Nat) : Res :=
  let c := s.myCore
  if 4 ≤ c.rowq.length then .trap cSCHEDVIOL pathRow
  else .ok (s.setMyCore { c with rowq := c.rowq ++ [{ op := op, ha := ha, hd := hd, seq := s.me.seq, issued := s.me.sbc }] })

/-- A command with a source and a destination of one shape. -/
def rowPair (i : Instr) (op : RowOp) (ha hd : Nat) (s : State) : Host.Outcome State Fault Refusal :=
  slotOp i s fun s =>
    match rowTile s ha true, rowTile s hd true with
    | none, _ => .trap cHANDLE ha
    | _, none => .trap cHANDLE hd
    | some a, some d =>
      if a.rows ≠ d.rows ∨ a.cols ≠ d.cols then .trap cHANDLE hd else s.queueRow op ha hd

def execResm (ha hd : Nat) (s : State) : Host.Outcome State Fault Refusal := rowPair (.resm ha hd) .resm ha hd s
def execRenorm (ha hd : Nat) (rms : Bool) (s : State) : Host.Outcome State Fault Refusal :=
  rowPair (.renorm ha hd rms) (.renorm rms) ha hd s
def execRetab (ha hd tb : Nat) (s : State) : Host.Outcome State Fault Refusal :=
  rowPair (.retab ha hd tb) (.retab tb) ha hd s
def execRetload (ha tb : Nat) (s : State) : Host.Outcome State Fault Refusal :=
  slotOp (.retload ha tb) s fun s =>
    match rowTile s ha false with
    | none => .trap cHANDLE ha
    | some t =>
      let byte := fun j => (s.myCore.raceView s.tick).denseByte t j
      if t.rows * t.rowBits < 8 * 3104 || decide (16 ≤ byte 20) || (List.range 11).any fun j => byte (21 + j) != 0
      then .trap cHANDLE ha
      else s.queueRow (.retload tb) ha ha

/-! ### A step (R265, R268) -/

/-- Elements of chunk `k` of a row: their columns. -/
def Tile.chunkCols (t : Tile) (k : Nat) : List Nat :=
  (List.range (min (32 * (k + 1)) t.cols - 32 * k)).map (32 * k + ·)

/-- The output row of a command whose row has been read. -/
def RowCmd.rowResult (c : RowCmd) (ha : Tile) (hdTy : ElemType) (r : Nat) : List Nat × Nat :=
  let xs := (List.range ha.cols).map fun j => decodeF (fmtOf ha.ety) (SMap.get c.read (r * ha.cols + j) 0)
  match c.op with
  | .renorm rms => normRow rms hdTy xs
  | _ => softmaxRow hdTy xs

/-- What a step reads. -/
def Core.rowRead (core : Core) (c : RowCmd) (ha : Tile) : RowCmd :=
  match c.op.reads ha c.step with
  | some (r, k) => { c with read := (ha.chunkCols k).foldl (fun m j =>
      SMap.insert m (r * ha.cols + j) (core.tileElem ha r j)) c.read }
  | none => c

/-- What a step writes, with its flags; the values read for it are dropped with the row's last chunk. -/
def Core.rowWrite (core : Core) (c : RowCmd) (ha hd : Tile) : Core × RowCmd :=
  match c.op.writes hd c.step with
  | none => (core, c)
  | some (r, k) =>
    let res : List (Nat × Nat) × Nat := match c.op with
      | .retab tb =>
        let t := SMap.get core.tables tb {}
        let ys := (ha.chunkCols k).map fun j =>
          (j, t.eval hd.ety (decodeF (fmtOf ha.ety) (SMap.get c.read (r * ha.cols + j) 0)))
        (ys.map fun y => (y.1, y.2.1), flAll (ys.map fun y => y.2.2))
      | _ =>
        let row := c.rowResult ha hd.ety r
        ((ha.chunkCols k).map fun j => (j, (row.1[j]?).getD 0), row.2)
    let core := res.1.foldl (fun core y => core.setTileElem hd r y.1 y.2) core
    let gone := match c.op with
      | .retab _ => (ha.chunkCols k).map fun j => r * ha.cols + j
      | _ => if k + 1 = ha.chunks then (List.range ha.cols).map fun j => r * ha.cols + j else []
    (core, { c with flags := flOr c.flags res.2, read := c.read.filter fun e => !gone.contains e.1 })

/-- A step of `retload`: 128 bytes of the image. -/
def Core.rowLoad (core view : Core) (c : RowCmd) (tb : Nat) (ha : Tile) : Core :=
  let words := (List.range (min 32 (776 - 32 * c.step))).map fun j => 32 * c.step + j
  let t := words.foldl (fun (t : RowTable) j =>
    t.load j (ofElems 8 ((List.range 4).map fun b => view.denseByte ha (4 * j + b)))) (SMap.get core.tables tb {})
  { core with tables := SMap.put core.tables tb t {} }

/-- One step of a core's row engine, for a command that began at an earlier count than `now`; the flags of a command
whose last step it is fall due at `due` (R266). -/
def State.rowStep (s : State) (n now due : Nat) : State :=
  let core := s.core n
  match core.owner, core.rowq with
  | some sid, c :: rest =>
    if now ≤ c.issued then s else
    match SMap.find (s.cluster (n / 8)).tiles c.ha, SMap.find (s.cluster (n / 8)).tiles c.hd with
    | some ha, some hd =>
      let (core, c') := match c.op with
        | .retload tb => (core.rowLoad (core.raceView s.tick) c tb ha, c)
        | _ =>
          let c := (core.raceView s.tick).rowRead c ha
          let w := core.rowWrite c ha hd
          (core.raceWrite w.1 s.tick (stepLines c ha hd), w.2)
      let c' := { c' with step := c'.step + 1 }
      if c'.step < c'.op.steps ha then s.setCore n { core with rowq := c' :: rest }
      else
        let s := s.setCore n { core with rowq := rest }
        let st := s.strand sid
        if c'.flags = 0 then s
        else s.setStrand sid { st with dbuf := st.dbuf ++
          [{ kind := .flags, reg := 0, due := due, flags := c'.flags, arrived := true }] }
    | _, _ => s.setCore n { core with rowq := rest }
  | _, _ => s

/-- While the owner waits at a `join` whose mark named the row engine, or at `halt`, the engine goes on (R265). -/
def execRowEngineStep (core : Nat) (s : State) : Host.Outcome State Fault Refusal :=
  match (s.core core).owner with
  | none => .next s
  | some sid =>
    let st := s.strand sid
    let waits := st.stall == some .halt || (st.stall == some .markers && st.joinMarkers.any fun m => m.queue == 3)
    if waits && s.unitsOn core then .next (s.rowStep core (st.sbc + 1) st.sbc) else .next s

end Sys2Proof.Machine
end

