-- ==== Sys2Proof/Machine/Dispatch.lean ====
section
/-! DEFINITION. One arm for each instruction: a direct call of its meaning, or its rejection by name. -/

namespace Sys2Proof.Machine

def exec (i : Instr) (s : State) : Host.Outcome State Fault Refusal :=
  match i with
  | .emptyBundle stop gap swa => Sys2Proof.Machine.execEmptyBundle stop gap swa s
  | .add ty d a b => Sys2Proof.Machine.execAdd ty d a b s
  | .addI ty d a imm => Sys2Proof.Machine.execAddI ty d a imm s
  | .sub ty d a b => Sys2Proof.Machine.execSub ty d a b s
  | .subI ty d a imm => Sys2Proof.Machine.execSubI ty d a imm s
  | .mul ty d a b => Sys2Proof.Machine.execMul ty d a b s
  | .mulI ty d a imm => Sys2Proof.Machine.execMulI ty d a imm s
  | .mulh ty d a b => Sys2Proof.Machine.execMulh ty d a b s
  | .div ty d a b => Sys2Proof.Machine.execDiv ty d a b s
  | .rem ty d a b => Sys2Proof.Machine.execRem ty d a b s
  | .and ty d a b => Sys2Proof.Machine.execAnd ty d a b s
  | .andI ty d a imm => Sys2Proof.Machine.execAndI ty d a imm s
  | .or ty d a b => Sys2Proof.Machine.execOr ty d a b s
  | .orI ty d a imm => Sys2Proof.Machine.execOrI ty d a imm s
  | .xor ty d a b => Sys2Proof.Machine.execXor ty d a b s
  | .xorI ty d a imm => Sys2Proof.Machine.execXorI ty d a imm s
  | .andn ty d a b => Sys2Proof.Machine.execAndn ty d a b s
  | .andnI ty d a imm => Sys2Proof.Machine.execAndnI ty d a imm s
  | .shl ty d a b => Sys2Proof.Machine.execShl ty d a b s
  | .shlI ty d a imm => Sys2Proof.Machine.execShlI ty d a imm s
  | .shr ty d a b => Sys2Proof.Machine.execShr ty d a b s
  | .shrI ty d a imm => Sys2Proof.Machine.execShrI ty d a imm s
  | .rotl ty d a b => Sys2Proof.Machine.execRotl ty d a b s
  | .rotlI ty d a imm => Sys2Proof.Machine.execRotlI ty d a imm s
  | .clz ty d a => Sys2Proof.Machine.execClz ty d a s
  | .ctz ty d a => Sys2Proof.Machine.execCtz ty d a s
  | .popc ty d a => Sys2Proof.Machine.execPopc ty d a s
  | .min ty d a b => Sys2Proof.Machine.execMin ty d a b s
  | .minI ty d a imm => Sys2Proof.Machine.execMinI ty d a imm s
  | .max ty d a b => Sys2Proof.Machine.execMax ty d a b s
  | .maxI ty d a imm => Sys2Proof.Machine.execMaxI ty d a imm s
  | .sel ty d a b cn => Sys2Proof.Machine.execSel ty d a b cn s
  | .cmp cc ty d a b => Sys2Proof.Machine.execCmp cc ty d a b s
  | .cmpI cc ty d a imm => Sys2Proof.Machine.execCmpI cc ty d a imm s
  | .ext ty d a => Sys2Proof.Machine.execExt ty d a s
  | .movi d imm => Sys2Proof.Machine.execMovi d imm s
  | .movhi d a imm => Sys2Proof.Machine.execMovhi d a imm s
  | .bfx ty d a pos len => Sys2Proof.Machine.execBfx ty d a pos len s
  | .bfi ty d a pos len => Sys2Proof.Machine.execBfi ty d a pos len s
  | .prep bt src => Sys2Proof.Machine.execPrep bt src s
  | .br bt cn neg => Sys2Proof.Machine.execBr bt cn neg s
  | .call bt cn neg => Sys2Proof.Machine.execCall bt cn neg s
  | .trap imm => Sys2Proof.Machine.execTrap imm s
  | .mfs d sr => Sys2Proof.Machine.execMfs d sr s
  | .mts a sr => Sys2Proof.Machine.execMts a sr s
  | .setfmt value mask => Sys2Proof.Machine.execSetfmt value mask s
  | .setcar g => Sys2Proof.Machine.execSetcar g s
  | .time d => Sys2Proof.Machine.execTime d s
  | .halloc level ty d a => Sys2Proof.Machine.execHalloc level ty d a s
  | .hfree a => Sys2Proof.Machine.execHfree a s
  | .mbox d word => Sys2Proof.Machine.execMbox d word s
  | .fadd h b => Sys2Proof.Machine.execFadd h b s
  | .fsub h b => Sys2Proof.Machine.execFsub h b s
  | .fmul h b => Sys2Proof.Machine.execFmul h b s
  | .fma h b c => Sys2Proof.Machine.execFma h b c s
  | .fms h b c => Sys2Proof.Machine.execFms h b c s
  | .fnma h b c => Sys2Proof.Machine.execFnma h b c s
  | .fmin h b => Sys2Proof.Machine.execFmin h b s
  | .fmax h b => Sys2Proof.Machine.execFmax h b s
  | .fabs h => Sys2Proof.Machine.execFabs h s
  | .fneg h => Sys2Proof.Machine.execFneg h s
  | .fcpys h b => Sys2Proof.Machine.execFcpys h b s
  | .fcmp cc h b => Sys2Proof.Machine.execFcmp cc h b s
  | .fclass h classes => Sys2Proof.Machine.execFclass h classes s
  | .frecpe h => Sys2Proof.Machine.execFrecpe h s
  | .frsqe h => Sys2Proof.Machine.execFrsqe h s
  | .fscale h b => Sys2Proof.Machine.execFscale h b s
  | .fscaleI h imm => Sys2Proof.Machine.execFscaleI h imm s
  | .fround md h => Sys2Proof.Machine.execFround md h s
  | .cvt h sty sat => Sys2Proof.Machine.execCvt h sty sat s
  | .mxq h b c sty => Sys2Proof.Machine.execMxq h b c sty s
  | .mxdq h b sty => Sys2Proof.Machine.execMxdq h b sty s
  | .bpq h sty => Sys2Proof.Machine.execBpq h sty s
  | .iadd h b => Sys2Proof.Machine.execIadd h b s
  | .iaddI h imm => Sys2Proof.Machine.execIaddI h imm s
  | .isub h b => Sys2Proof.Machine.execIsub h b s
  | .isubI h imm => Sys2Proof.Machine.execIsubI h imm s
  | .imul h b sat => Sys2Proof.Machine.execImul h b sat s
  | .imad h b c sat => Sys2Proof.Machine.execImad h b c sat s
  | .iadds h b => Sys2Proof.Machine.execIadds h b s
  | .isubs h b => Sys2Proof.Machine.execIsubs h b s
  | .iand h b => Sys2Proof.Machine.execIand h b s
  | .iandI h imm => Sys2Proof.Machine.execIandI h imm s
  | .ior h b => Sys2Proof.Machine.execIor h b s
  | .iorI h imm => Sys2Proof.Machine.execIorI h imm s
  | .ixor h b => Sys2Proof.Machine.execIxor h b s
  | .ixorI h imm => Sys2Proof.Machine.execIxorI h imm s
  | .ishl h b sat => Sys2Proof.Machine.execIshl h b sat s
  | .ishlI h imm => Sys2Proof.Machine.execIshlI h imm s
  | .ishr h b => Sys2Proof.Machine.execIshr h b s
  | .ishrI h imm => Sys2Proof.Machine.execIshrI h imm s
  | .imin h b => Sys2Proof.Machine.execImin h b s
  | .iminI h imm => Sys2Proof.Machine.execIminI h imm s
  | .imax h b => Sys2Proof.Machine.execImax h b s
  | .imaxI h imm => Sys2Proof.Machine.execImaxI h imm s
  | .iabs h sat => Sys2Proof.Machine.execIabs h sat s
  | .icmp cc h b => Sys2Proof.Machine.execIcmp cc h b s
  | .icmpI cc h imm => Sys2Proof.Machine.execIcmpI cc h imm s
  | .ipopc h => Sys2Proof.Machine.execIpopc h s
  | .vmov h => Sys2Proof.Machine.execVmov h s
  | .vmovi lgm pr d ty imm => Sys2Proof.Machine.execVmovi lgm pr d ty imm s
  | .vbcast h => Sys2Proof.Machine.execVbcast h s
  | .vsel h b c => Sys2Proof.Machine.execVsel h b c s
  | .vperm h b => Sys2Proof.Machine.execVperm h b s
  | .vshuf h imm => Sys2Proof.Machine.execVshuf h imm s
  | .vext h lane => Sys2Proof.Machine.execVext h lane s
  | .vins h lane => Sys2Proof.Machine.execVins h lane s
  | .xcopy h src => Sys2Proof.Machine.execXcopy h src s
  | .xbcast h src => Sys2Proof.Machine.execXbcast h src s
  | .vred op h => Sys2Proof.Machine.execVred op h s
  | .pand lgm pr d a b => Sys2Proof.Machine.execPand lgm pr d a b s
  | .por lgm pr d a b => Sys2Proof.Machine.execPor lgm pr d a b s
  | .pxor lgm pr d a b => Sys2Proof.Machine.execPxor lgm pr d a b s
  | .pnot lgm pr d a => Sys2Proof.Machine.execPnot lgm pr d a s
  | .pmov lgm pr d a => Sys2Proof.Machine.execPmov lgm pr d a s
  | .vany lgm pr d a => Sys2Proof.Machine.execVany lgm pr d a s
  | .vall lgm pr d a => Sys2Proof.Machine.execVall lgm pr d a s
  | .pcnt lgm pr d a => Sys2Proof.Machine.execPcnt lgm pr d a s
  | .accrd lgm pr v dir idx ty => Sys2Proof.Machine.execAccrd lgm pr v dir idx ty s
  | .accwr lgm pr v dir idx ty => Sys2Proof.Machine.execAccwr lgm pr v dir idx ty s
  | .accclr lgm pr dir idx all => Sys2Proof.Machine.execAccclr lgm pr dir idx all s
  | .acccvt lgm pr dir idx ty sty => Sys2Proof.Machine.execAcccvt lgm pr dir idx ty sty s
  | .mset mp x => Sys2Proof.Machine.execMset mp x s
  | .mseti mp imm => Sys2Proof.Machine.execMseti mp imm s
  | .mcall idx => Sys2Proof.Machine.execMcall idx s
  | .mstat x => Sys2Proof.Machine.execMstat x s
  | .mchk c => Sys2Proof.Machine.execMchk c s
  | .trpush v idx => Sys2Proof.Machine.execTrpush v idx s
  | .trpop v idx => Sys2Proof.Machine.execTrpop v idx s
  | .trcfg ty => Sys2Proof.Machine.execTrcfg ty s
  | .resm ha hd => Sys2Proof.Machine.execResm ha hd s
  | .renorm ha hd rms => Sys2Proof.Machine.execRenorm ha hd rms s
  | .retab ha hd tb => Sys2Proof.Machine.execRetab ha hd tb s
  | .retload ha tb => Sys2Proof.Machine.execRetload ha tb s
  | .rowEngineStep core => Sys2Proof.Machine.execRowEngineStep core s
  | .ldSp t => Sys2Proof.Machine.execLdSp t s
  | .ldB t => Sys2Proof.Machine.execLdB t s
  | .ldG d a ty sc ord off => Sys2Proof.Machine.execLdG d a ty sc ord off s
  | .gath d a ty sc ord lgm => Sys2Proof.Machine.execGath d a ty sc ord lgm s
  | .amo op d a b ty sc ord off => Sys2Proof.Machine.execAmo op d a b ty sc ord off s
  | .cas d a b c ty sc ord off => Sys2Proof.Machine.execCas d a b c ty sc ord off s
  | .qbind d ag ty => Sys2Proof.Machine.execQbind d ag ty s
  | .qfree d => Sys2Proof.Machine.execQfree d s
  | .stSp t => Sys2Proof.Machine.execStSp t s
  | .stG vs a b ty sc ord off lgm => Sys2Proof.Machine.execStG vs a b ty sc ord off lgm s
  | .scat a b ty sc ord lgm => Sys2Proof.Machine.execScat a b ty sc ord lgm s
  | .epSt vs a b ty off lgm => Sys2Proof.Machine.execEpSt vs a b ty off lgm s
  | .qout a b ty sc ord off => Sys2Proof.Machine.execQout a b ty sc ord off s
  | .streamFill sid q k => Sys2Proof.Machine.execStreamFill sid q k s
  | .streamPrefetch sid q => Sys2Proof.Machine.execStreamPrefetch sid q s
  | .homeAccess sid k part scope => Sys2Proof.Machine.execHomeAccess sid k part scope s
  | .cp c => Sys2Proof.Machine.execCp c s
  | .cpg c => Sys2Proof.Machine.execCpg c s
  | .cps c => Sys2Proof.Machine.execCps c s
  | .stage c => Sys2Proof.Machine.execStage c s
  | .sealRec c => Sys2Proof.Machine.execSealRec c s
  | .openRec c => Sys2Proof.Machine.execOpenRec c s
  | .ckpt a q qe => Sys2Proof.Machine.execCkpt a q qe s
  | .pf a b level => Sys2Proof.Machine.execPf a b level s
  | .res a b level => Sys2Proof.Machine.execRes a b level s
  | .col op c => Sys2Proof.Machine.execCol op c s
  | .meas a b q qe => Sys2Proof.Machine.execMeas a b q qe s
  | .ceCommandBegin cluster k => Sys2Proof.Machine.execCeCommandBegin cluster k s
  | .ceCommandComplete cluster k => Sys2Proof.Machine.execCeCommandComplete cluster k s
  | .colCommandComplete k => Sys2Proof.Machine.execColCommandComplete k s
  | .domainBarrierComplete comm => Sys2Proof.Machine.execDomainBarrierComplete comm s
  | .mark qm sc => Sys2Proof.Machine.execMark qm sc s
  | .markerReachHead sid k => Sys2Proof.Machine.execMarkerReachHead sid k s
  | .superstepArrival sid => Sys2Proof.Machine.execSuperstepArrival sid s
  | .superstepGenerationComplete launch => Sys2Proof.Machine.execSuperstepGenerationComplete launch s
  | .cbarGenerationComplete grp => Sys2Proof.Machine.execCbarGenerationComplete grp s
  | .haltRetire sid => Sys2Proof.Machine.execHaltRetire sid s
  | .tileTaskEnd grp => Sys2Proof.Machine.execTileTaskEnd grp s
  | .lgate lgm st => Sys2Proof.Machine.execLgate lgm st s
  | .wake lgm => Sys2Proof.Machine.execWake lgm s
  | .lanegroupTurnOn core lg => Sys2Proof.Machine.execLanegroupTurnOn core lg s
  | .lset lv cnt body mod rb => Sys2Proof.Machine.execLset lv cnt body mod rb s
  | .lbrk lv cn neg => Sys2Proof.Machine.execLbrk lv cn neg s
  | .agset ag x => Sys2Proof.Machine.execAgset ag x s
  | .agstr ag lv x => Sys2Proof.Machine.execAgstr ag lv x s
  | .spred p stg => Sys2Proof.Machine.execSpred p stg s
  | .resultArrive sid k => Sys2Proof.Machine.execResultArrive sid k s
  | .resultDeliver sid => Sys2Proof.Machine.execResultDeliver sid s
  | .transposeRetire core => Sys2Proof.Machine.execTransposeRetire core s
  | .mcallStart core => Sys2Proof.Machine.execMcallStart core s
  | .mcallEnd core => Sys2Proof.Machine.execMcallEnd core s
  | .railSettled core => Sys2Proof.Machine.execRailSettled core s
  | .aload ma n16 => Sys2Proof.Machine.execAload ma n16 s
  | .bsel ma => Sys2Proof.Machine.execBsel ma s
  | .planes n8 => Sys2Proof.Machine.execPlanes n8 s
  | .limb n8 => Sys2Proof.Machine.execLimb n8 s
  | .pass n8 => Sys2Proof.Machine.execPass n8 s
  | .accz n16 => Sys2Proof.Machine.execAccz n16 s
  | .accm n8 => Sys2Proof.Machine.execAccm n8 s
  | .scale ma mb => Sys2Proof.Machine.execScale ma mb s
  | .drain ma n8 => Sys2Proof.Machine.execDrain ma n8 s
  | .mloop cnt => Sys2Proof.Machine.execMloop cnt s
  | .mend tgt => Sys2Proof.Machine.execMend tgt s
  | .mwait n16 => Sys2Proof.Machine.execMwait n16 s
  | .workItemRead q => Sys2Proof.Machine.execWorkItemRead q s
  | .taskDispatch cluster => Sys2Proof.Machine.execTaskDispatch cluster s
  | .kernelRead launch => Sys2Proof.Machine.execKernelRead launch s
  | .kernelLoad launch core => Sys2Proof.Machine.execKernelLoad launch core s
  | .groupStart grp => Sys2Proof.Machine.execGroupStart grp s
  | .preload cluster => Sys2Proof.Machine.execPreload cluster s
  | .itemAged launch => Sys2Proof.Machine.execItemAged launch s
  | .deadlinePass launch => Sys2Proof.Machine.execDeadlinePass launch s
  | .budgetExpiry grp => Sys2Proof.Machine.execBudgetExpiry grp s
  | .launchComplete launch => Sys2Proof.Machine.execLaunchComplete launch s
  | .hallmarkSign launch => Sys2Proof.Machine.execHallmarkSign launch s
  | .create ctx world policy root save len tag => Sys2Proof.Machine.execCreate ctx world policy root save len tag s
  | .destroy ctx tag => Sys2Proof.Machine.execDestroy ctx tag s
  | .park ctx blob tag => Sys2Proof.Machine.execPark ctx blob tag s
  | .unpark ctx blob tag => Sys2Proof.Machine.execUnpark ctx blob tag s
  | .relock tag => Sys2Proof.Machine.execRelock tag s
  | .force ctx on tag => Sys2Proof.Machine.execForce ctx on tag s
  | .cancel ctx queue target tag => Sys2Proof.Machine.execCancel ctx queue target tag s
  | .map m => Sys2Proof.Machine.execMap m s
  | .unmap ctx size va count tag => Sys2Proof.Machine.execUnmap ctx size va count tag s
  | .migrate ctx size va pa tag => Sys2Proof.Machine.execMigrate ctx size va pa tag s
  | .migrateCopyDone ctx va => Sys2Proof.Machine.execMigrateCopyDone ctx va s
  | .wreg ctx region delta tag => Sys2Proof.Machine.execWreg ctx region delta tag s
  | .wbegin ctx region tag => Sys2Proof.Machine.execWbegin ctx region tag s
  | .wpage ctx region va src count tag => Sys2Proof.Machine.execWpage ctx region va src count tag s
  | .wcommit ctx region tag => Sys2Proof.Machine.execWcommit ctx region tag s
  | .wabort ctx region tag => Sys2Proof.Machine.execWabort ctx region tag s
  | .ckcfg ctx base len tag => Sys2Proof.Machine.execCkcfg ctx base len tag s
  | .epwin ctx window enable dest ring tag => Sys2Proof.Machine.execEpwin ctx window enable dest ring tag s
  | .epring ctx ring log2s wake base tag => Sys2Proof.Machine.execEpring ctx ring log2s wake base tag s
  | .pageWalkComplete ctx va die cluster => Sys2Proof.Machine.execPageWalkComplete ctx va die cluster s
  | .ckptSnapshot ctx => Sys2Proof.Machine.execCkptSnapshot ctx s
  | .ckptGranuleStreamed ctx granule => Sys2Proof.Machine.execCkptGranuleStreamed ctx granule s
  | .preemptRequest cluster => Sys2Proof.Machine.execPreemptRequest cluster s
  | .bankSwapComplete cluster => Sys2Proof.Machine.execBankSwapComplete cluster s
  | .imageWrite grp => Sys2Proof.Machine.execImageWrite grp s
  | .imageRestore grp => Sys2Proof.Machine.execImageRestore grp s
  | .coreGate core => Sys2Proof.Machine.execCoreGate core s
  | .coreWake core => Sys2Proof.Machine.execCoreWake core s
  | .coreDrainComplete core => Sys2Proof.Machine.execCoreDrainComplete core s
  | .keepalive dest => Sys2Proof.Machine.execKeepalive dest s
  | .peerSilent dest => Sys2Proof.Machine.execPeerSilent dest s
  | .force24kExpiry core => Sys2Proof.Machine.execForce24kExpiry core s
  | .rett => Sys2Proof.Machine.execRett s
  | .join => Sys2Proof.Machine.execJoin s
  | .ssarr => Sys2Proof.Machine.execSsarr s
  | .sswait => Sys2Proof.Machine.execSswait s
  | .cbar => Sys2Proof.Machine.execCbar s
  | .halt => Sys2Proof.Machine.execHalt s
  | .lrot => Sys2Proof.Machine.execLrot s
  | .chk => Sys2Proof.Machine.execChk s
  | .msync => Sys2Proof.Machine.execMsync s
  | .mret => Sys2Proof.Machine.execMret s
  | .powerLossWarning => Sys2Proof.Machine.execPowerLossWarning s
  | .powerReturn => Sys2Proof.Machine.execPowerReturn s
  | .bringUp => Sys2Proof.Machine.execBringUp s
  | .kilnHoldEnd => Sys2Proof.Machine.execKilnHoldEnd s
  | .hostLinkTimeout => Sys2Proof.Machine.execHostLinkTimeout s
  | .hostLinkReturn => Sys2Proof.Machine.execHostLinkReturn s
  | .lockInterface => Sys2Proof.Machine.execLockInterface s
  | .startInterface => Sys2Proof.Machine.execStartInterface s
  | .stopInterface => Sys2Proof.Machine.execStopInterface s
  | .tdiError => Sys2Proof.Machine.execTdiError s
  | .debugChallenge => Sys2Proof.Machine.execDebugChallenge s
  | .debugExpiry => Sys2Proof.Machine.execDebugExpiry s
  | .debugHalt => Sys2Proof.Machine.execDebugHalt s
  | .debugStep => Sys2Proof.Machine.execDebugStep s
  | .debugResume => Sys2Proof.Machine.execDebugResume s
  | .debugMemRead => Sys2Proof.Machine.execDebugMemRead s
  | .snapTrigger => Sys2Proof.Machine.execSnapTrigger s
  | .snapcmpMatch => Sys2Proof.Machine.execSnapcmpMatch s
  | .hostLinkDown => Sys2Proof.Machine.execHostLinkDown s
  | .spdmKeyExchange => Sys2Proof.Machine.execSpdmKeyExchange s
  | .registerWrite space addr value => Sys2Proof.Machine.execRegisterWrite space addr value s
  | .qtailWrite q v => Sys2Proof.Machine.execQtailWrite q v s
  | .queueEnable q v => Sys2Proof.Machine.execQueueEnable q v s
  | .queueDisable q v => Sys2Proof.Machine.execQueueDisable q v s
  | .cqEnable q v => Sys2Proof.Machine.execCqEnable q v s
  | .cqDisable q v => Sys2Proof.Machine.execCqDisable q v s
  | .cheadWrite q v => Sys2Proof.Machine.execCheadWrite q v s
  | .kilnHoldStart sensor temp => Sys2Proof.Machine.execKilnHoldStart sensor temp s
  | .thermalThrottle sensor temp => Sys2Proof.Machine.execThermalThrottle sensor temp s
  | .thermalTrip sensor temp => Sys2Proof.Machine.execThermalTrip sensor temp s
  | .currentLevelRaise die current => Sys2Proof.Machine.execCurrentLevelRaise die current s
  | .currentLevelLower die => Sys2Proof.Machine.execCurrentLevelLower die s
  | .dieclkTgtWrite die v => Sys2Proof.Machine.execDieclkTgtWrite die v s
  | .hopPllLock die => Sys2Proof.Machine.execHopPllLock die s
  | .hopComplete die => Sys2Proof.Machine.execHopComplete die s
  | .droopDetect die => Sys2Proof.Machine.execDroopDetect die s
  | .droopStretchEnd die => Sys2Proof.Machine.execDroopStretchEnd die s
  | .hopRetry die => Sys2Proof.Machine.execHopRetry die s
  | .ucieRetrain link => Sys2Proof.Machine.execUcieRetrain link s
  | .ucieRetrainComplete link ok => Sys2Proof.Machine.execUcieRetrainComplete link ok s
  | .portEnable port v => Sys2Proof.Machine.execPortEnable port v s
  | .portDisable port v => Sys2Proof.Machine.execPortDisable port v s
  | .portLaneLock port lane => Sys2Proof.Machine.execPortLaneLock port lane s
  | .portLaneLoss port lane => Sys2Proof.Machine.execPortLaneLoss port lane s
  | .portTrainTimeout port => Sys2Proof.Machine.execPortTrainTimeout port s
  | .sysidWrite v => Sys2Proof.Machine.execSysidWrite v s
  | .packetArrive src flow seq mark body => Sys2Proof.Machine.execPacketArrive src flow seq mark body s
  | .ackArrive dest flow ack mark => Sys2Proof.Machine.execAckArrive dest flow ack mark s
  | .retransmitTimeout dest flow => Sys2Proof.Machine.execRetransmitTimeout dest flow s
  | .remoteRequest src op addr data => Sys2Proof.Machine.execRemoteRequest src op addr data s
  | .epPacketArrive src ring data => Sys2Proof.Machine.execEpPacketArrive src ring data s
  | .channelInstall ctx chan key => Sys2Proof.Machine.execChannelInstall ctx chan key s
  | .debugUnlock token => Sys2Proof.Machine.execDebugUnlock token s
  | .debugMemWrite v => Sys2Proof.Machine.execDebugMemWrite v s
  | .snapArm v => Sys2Proof.Machine.execSnapArm v s
  | .lineCheckFail addr => Sys2Proof.Machine.execLineCheckFail addr s
  | .uncorrectableError place => Sys2Proof.Machine.execUncorrectableError place s
  | .correctedError frame => Sys2Proof.Machine.execCorrectedError frame s
  | .dynamicAddressAssign addr => Sys2Proof.Machine.execDynamicAddressAssign addr s
  | .routeTableUpdate table index v => Sys2Proof.Machine.execRouteTableUpdate table index v s
  | .hostEndpointWrite window off data => Sys2Proof.Machine.execHostEndpointWrite window off data s
  | .hostMemoryAccess write addr data => Sys2Proof.Machine.execHostMemoryAccess write addr data s

end Sys2Proof.Machine
end

