-- ==== Sys2Proof/Machine/Issue.lean ====
section
/-! DEFINITION. A bundle of a strand: when a strand may issue (R50, R53, R61, R408), the fetch checks (R154, R173), the order
of traps (R58), the slots in order (R41, R56), and what takes effect when the bundle commits (R35, R42, R175 to R177,
R188, R265). The order in which the strands of a core issue is wall-clock order only (R48 to R51; log 1). -/

namespace Sys2Proof.Machine

/-! ### When a strand may issue -/

/-- Does the strand's group let it issue: it runs, or it is stopping and the strand is not at a place where it stops (R61,
R310)? A task whose charge has reached its BUDGET stops as well (R363). -/
def State.groupLets (s : State) (st : Strand) : Bool :=
  match (s.group st.grp).state with
  | .running | .draining => !s.spent (s.group st.grp) || !st.atBoundary
  | .switching => !(s.group st.grp).entering && !st.atBoundary
  | _ => false

/-- Does the package let strands issue: no hold, no power loss, but for what lies before the next boundary (R323, R488)? -/
def State.powerLets (s : State) (st : Strand) : Bool :=
  !s.power.off && (match s.power.kiln with
    | .running => !s.power.lost || !st.atBoundary
    | .entering => !st.atBoundary
    | .held => false)

/-- Are the lanegroups on that the last `wake` of the strand named (R408)? -/
def State.wakeMet (s : State) (sid : Nat) : Bool :=
  (groups (s.strand sid).wakeWait).all fun g => SMap.get (s.core (coreOf sid)).lgs (8 * bankSetOf sid + g) .on == .on

/-- May a strand try to issue its next bundle? -/
def State.canIssue (s : State) (sid : Nat) : Bool :=
  let st := s.strand sid
  let c := s.core (coreOf sid)
  st.life == .live && st.begun && !st.halting && st.cbarGen.isNone && c.on && bankSetOf sid == c.fgSet &&
    s.powerLets st && s.groupLets st && !st.debugStopped && s.wakeMet sid

/-! ### Before the slots -/

/-- The index of the bundle that is next. -/
def Strand.place (st : Strand) : Nat := if st.hnd then st.hnext else st.next

/-- The first form that fetch rejects in its place, in slot order. -/
def firstIll (s : State) : List (Slot × Instr) → Option IllEnc
  | [] => none
  | o :: l =>
    match formIll { s with iss := { s.iss with slot := o.1.code } } o.2 with
    | some e => some e
    | none => firstIll s l

/-- The first invalid register that a slot reads, with the slot (R58, R201). -/
def firstInvalid (s : State) : List (Slot × Instr) → Option (Nat × Nat)
  | [] => none
  | o :: l =>
    if offStage s o.2 then firstInvalid s l else
    match s.badRead o.2 with
    | some r => some (o.1.code, r.info)
    | none => firstInvalid s l

/-- The trap that fetch or an invalid register raises before any slot runs: cause, TSLOT, TINFO. -/
def earlyTrap (s : State) (ops : List (Slot × Instr)) : Option (Nat × Nat × Nat) :=
  match groupIll s.me s.myCore s.iss.idx s.iss.stop ops with
  | some e => some (cILLENC, 15, e.tinfo)
  | none =>
    match firstIll s ops with
    | some e => some (cILLENC, 15, e.tinfo)
    | none => (firstInvalid s ops).map fun r => (cINVREG, r.1, r.2)

/-! ### The slots -/

/-- Results that the delivery buffer holds; flags alone take no entry (R38). A result to `x0`, `p0` or `c0`, which goes
nowhere, takes one like any other (log 35). -/
def Strand.results (st : Strand) : Nat := (st.dbuf.filter (·.kind != .flags)).length

/-- The order in which the slots run: slot order, but that the handler ends after the bundle's other slots (R179). -/
def slotOrder (ops : List (Slot × Instr)) : List (Slot × Instr) :=
  ops.filter (fun o => o.2 != .rett) ++ ops.filter (fun o => o.2 == .rett)

/-- The slots run until one ends the bundle; the slot whose result is the sixty-fifth pending raises SCHEDVIOL (R38). A trap of
a slot is taken before a wait of a later one, which the manual leaves open (R58, log 35). -/
def runSlots : List (Slot × Instr) → State → Host.Outcome State Fault Refusal
  | [], s => .next s
  | o :: l, s =>
    match exec o.2 { s with iss := { s.iss with slot := o.1.code } } with
    | .next t =>
      if t.iss.ended.isSome then .next t
      else if 64 < t.me.results then .next (t.endTrap cSCHEDVIOL 4)
      else runSlots l t
    | .fault f => .fault f
    | .refused r => .refused r

/-! ### Commit -/

/-- The head entry of a stream register goes; an explicit one that is left with none is unbound (R205, R288). -/
def Strand.popHead (st : Strand) (n : Nat) : Strand :=
  let q := st.qGet n
  let rest := q.entries.drop 1
  st.setQ n (if q.kind == .explicit && rest.isEmpty then {} else { q with entries := rest })

/-- A `qbind` or `qfree` takes effect; toward a register that it frees, an entry of an engine command of the same bundle
stands (R289, R291). -/
def Strand.bindQ (st : Strand) (before : Nat) (n : Nat) (q : QReg) : Strand :=
  let old := st.qGet n
  let kept := old.entries.filter fun e => old.kind == .explicit && decide (before ≤ e.tag)
  st.setQ n (if q.kind == .unbound && !kept.isEmpty then { kind := .explicit, entries := kept } else q)

/-- The writes of engine commands with REL whose completions the bundle's pops observe (R423). -/
def State.observed (s : State) (sid : Nat) (pops : List Nat) : List Nat :=
  let st := s.strand sid
  let place := s.placeOf sid
  let of_ := fun (n : Nat) => (s.mem.narrow.filter fun w => w.tag.eng && w.tag.rel && w.tag.grp == st.grp && w.tag.place == place &&
    w.tag.seq == n).map (·.wid)
  pops.flatMap fun n => match (st.qGet n).entries with
    | e :: _ => (e.eng.map of_).getD []
    | [] => []

/-- What a bundle observes happens before what follows it, so that what was fetched ahead is discarded (R423, R424). -/
def State.observe (s : State) (sid n : Nat) (ids : List Nat) : State :=
  if ids.isEmpty then s else
  { s with mem := s.mem.order ids sid n }.setStrand sid ((s.strand sid).dropFetched fun _ => true)

/-- A pop of a pattern is a load at its bundle: the strand has read what its entry returned (R420, R421). -/
def State.popReads (s : State) (sid : Nat) (pops : List Nat) : State :=
  pops.foldl (fun s n =>
    let st := s.strand sid
    match (st.qGet n).kind, (st.qGet n).entries with
    | .pattern, e :: _ =>
      let new := (e.heads.filter s.mem.matters).map fun h => ({ queue := 0, seq := st.seq, head := h } : HeadRead)
      { s with mem := s.mem.noteRead e.ids sid }.setStrand sid { st with reads := st.reads ++ new }
    | _, _ => s) s

/-- The pops and bindings of the bundle; `before` is the first tag that the bundle gave out. -/
def Strand.commitQs (st : Strand) (meet : Nat → Nat → Bool) (before : Nat) (i : Iss) : Strand :=
  let st := i.pops.foldl (fun st n => (st.loadOrder meet n).popHead n) st
  i.binds.foldl (fun st b => st.bindQ before b.1 b.2) st

/-- The strand's count, bundle number and marks after a bundle (R35, R50, R51, R59). -/
def Strand.tally (st : Strand) (i : Iss) : Strand :=
  let st := if i.rett then st else if st.hnd then { st with hbc := st.hbc + 1 } else { st with sbc := st.sbc + 1 }
  { st with seq := st.seq + 1, gap := i.gap, swa := i.swa }

/-- The strand's place in its issue group after a bundle of its count (R44). -/
def Strand.regroup (st : Strand) (i : Iss) (dests : List Nat) : Strand :=
  if i.rett then st
  else if st.hnd then
    if i.stop then { st with hgpos := 0, hwritten := [] } else { st with hgpos := st.hgpos + 1, hwritten := st.hwritten ++ dests }
  else if i.stop then { st with gpos := 0, gwritten := [] }
  else { st with gpos := st.gpos + 1, gwritten := st.gwritten ++ dests }

/-- Does the body of a level hold a target that a transfer goes to? -/
def Strand.leaves (st : Strand) (l target : Nat) : Bool := (st.loop l).active && !(st.loop l).holds target

/-- A transfer out of the body of an active level ends it and every level inside it (R177). -/
def State.transfer (s : State) (sid target : Nat) : State :=
  match (List.range 4).find? fun l => (s.strand sid).leaves l target with
  | some l => (List.range 4).foldl (fun s m => if l ≤ m then s.endLevel sid m else s) s
  | none => s

/-- The transfer under way after a bundle, and the target where its last delay bundle has issued (R175). -/
def branchStep (pend new : Option Branch) : Option Branch × Option Nat :=
  match new with
  | some b => (some b, none)
  | none =>
    match pend with
    | some b => if b.left ≤ 1 then (none, if b.taken then some b.target else none) else (some { b with left := b.left - 1 }, none)
    | none => (none, none)

/-- Where a handler goes on. -/
def Strand.advanceHandler (st : Strand) (i : Iss) : Strand :=
  let (b, t) := branchStep st.hbranch i.branch
  { st with hbranch := b, hnext := t.getD (i.idx + 1) }

/-- Where a strand goes on: at the target of a transfer, at the start of a body, after a body that an `lset` or `lbrk`
passed over, or at the next bundle (R173, R175, R186, R188). Two points the manual leaves open are the model's choice (log 35): a branch
in the last bundle of an active body steps back to START, and its delay bundles are counted from there; a step past a body by an `lset` of
no trips or an `lbrk` leaves an outer level active wherever it lands. -/
def State.advance (s : State) (sid : Nat) (i : Iss) : State :=
  let st := s.strand sid
  let (b, t) := branchStep st.branch i.branch
  let s := s.setStrand sid { st with branch := b }
  match t with
  | some target =>
    let s := s.transfer sid target
    s.setStrand sid { s.strand sid with next := target }
  | none =>
    let (s, n) := s.loopEnd sid i.idx
    s.setStrand sid { s.strand sid with next := n.getD (i.next.getD (i.idx + 1)) }

/-- A rollback loop that opens keeps its stream registers from its first iteration on (R197). -/
def Strand.openRb (st : Strand) (ops : List (Slot × Instr)) : Strand :=
  if (ops.any fun o => match o.2 with
      | .lset _ _ _ _ rb => rb
      | _ => false) && (st.loop 3).active then st.snapshot 0 else st

/-- The owner's units move on with its bundle: a step of the row engine at the bundle's count, batches whose window has
passed (R263, R265). -/
def State.ownedStep (s : State) (sid now : Nat) : State :=
  let n := coreOf sid
  if (s.core n).owner = some sid then
    let s := s.rowStep n now (now + 1)
    s.setCore n ((s.core n).retireBatches (now + 1))
  else s

/-- A `halt` in the bundle, at an index. `pre`, the strand as it stood before, is what a save during the drain takes (R321, R390). -/
def State.commitHalt (s : State) (sid idx : Nat) (pre : Strand) : State :=
  if (s.strand sid).halting then
    let s := (s.discardAtHalt sid).haltCkpts sid
    let s := { s.setStrand sid { s.strand sid with haltAt := idx } with halts := SMap.insert s.halts sid pre }
    s.settleGroup (s.strand sid).grp
  else s

/-- The debugger's step ends with the issue group (R501). -/
def State.commitDebug (s : State) (sid : Nat) (stop : Bool) : State :=
  let st := s.strand sid
  if st.debugHalt && st.debugSteps != 0 && stop then
    let s := s.setStrand sid { st with debugSteps := st.debugSteps - 1 }
    { s with power := { s.power with dbgSteps := s.power.dbgSteps + 1 } }
  else s

/-- A preloaded task that was swapped in has started once a bundle of it issues (R362, R404). -/
def State.markIssued (s : State) (gid : Nat) : State :=
  match SMap.find s.cmd.groups gid with
  | some g => if !g.unissued then s else
      (s.setGroup gid { g with unissued := false }).setLaunch g.launch { s.launch g.launch with started := (s.launch g.launch).started + 1 }
  | none => s

/-- A bundle whose slots all ran commits (R42). `pre` is the strand before its slots, `dests` the registers written. -/
def State.commit (s : State) (sid : Nat) (pre : Strand) (dests : List Nat) : State :=
  let i := s.iss
  let kernel := !pre.hnd
  let s := (s.commitTiles i.tiles).popReads sid i.pops
  let seen := s.observed sid i.pops
  let meet := fun a b => s.locationsMeet sid a 512 b 512
  let s := s.setStrand sid ((((s.strand sid).commitQs meet pre.tagNext i).tally i).regroup i dests)
  let s := (s.observe sid (pre.seq + 1) seen).markIssued pre.grp
  let s := if i.lrot then s.setStrand sid (s.strand sid).rotate else s
  let s := if i.rett then s
    else if kernel then s.advance sid i
    else s.setStrand sid ((s.strand sid).advanceHandler i)
  let s := s.setStrand sid ((s.strand sid).openRb i.ops)
  let s := if kernel then s.ownedStep sid pre.sbc else s
  (s.commitHalt sid i.idx pre).commitDebug sid i.stop

/-! ### A bundle -/

/-- The bundle does not take effect: the state before its slots, with what its ending does (R42, R53, R57, R198, R247); a miss in the
TLBs starts a walk (R437). -/
def State.abandon (pre : State) (sid idx : Nat) (consumed : Option (Nat × Nat)) : SlotEnd → State
  | .trap slot cause info =>
    let s := match consumed with
      | some (upto, c) => pre.consumeRecords sid upto c
      | none => pre
    s.takeTrap sid cause slot info idx
  | .stall why =>
    let s := pre.setStrand sid { pre.strand sid with stall := some why }
    match why with
    | .translation va => s.startWalk sid (pre.strand sid).ctx va
    | _ => s
  | .rollback it => pre.startRollback sid it

/-- What the slots came to. -/
def State.conclude (pre : State) (sid : Nat) (dests : List Nat) (t : State) : State :=
  let u := match t.iss.ended with
    | some e => pre.abandon sid t.iss.idx t.iss.consumed e
    | none => t.commit sid (pre.strand sid) dests
  { u with iss := {} }

/-- A decoded bundle at an index: the class mask, the traps before any slot, then the slots. -/
def runBundle (s : State) (sid idx : Nat) (b : Bundle) : Host.Outcome State Fault Refusal :=
  if (s.die (dieOf sid)).mask &&& b.cls ≠ 0 then .next (s.setStrand sid { s.strand sid with stall := some .classMask })
  else
    let t := { s with iss := { idx := idx, stop := b.stop, gap := b.gap, swa := b.swa, ops := b.ops } }
    match earlyTrap t b.ops with
    | some (c, slot, info) => .next (s.takeTrap sid c slot info idx)
    | none =>
      let dests := b.ops.flatMap fun o => Instr.dests s.me o.2
      match runSlots (slotOrder b.ops) t with
      | .next u => .next (s.conclude sid dests u)
      | .fault f => .fault f
      | .refused r => .refused r

/-- The word at an index of a half, which the fetch buffer opens where the half holds ciphertext (R331). Where nothing lies stands a guard
bundle (R131). -/
def ImemHalf.fetch (h : ImemHalf) (idx : Nat) : Nat :=
  match SMap.find h.bundles idx with
  | none => 2 ^ 512 - 1
  | some w => openCode h.key (codeTweak h.loadId 0 idx) 64 w.toNat

/-- The word at an index of the half that a strand runs from. -/
def State.bundleAt (s : State) (sid idx : Nat) : Nat := (s.half sid).fetch idx

/-- TINFO at an index that names no bundle, as at a guard bundle (R131, R173). -/
def guardInfo : Nat := 0x013F0001

/-- A strand that does not wait any more, its due results delivered. -/
def State.ready (s : State) (sid : Nat) : State :=
  let s := s.deliverDue sid
  { s.setStrand sid { s.strand sid with stall := none, wakeWait := 0 } with cur := sid, iss := {} }

/-- The power classes in a bundle's header word, which a class mask judges before fetch checks the bundle (R55, R156, log 14). -/
def headClass (w : Nat) : Nat := field w 15 4

/-- A strand's next bundle: it waits for a late result (R38), traps at an index that names no bundle or at a bundle that
fetch rejects, or runs. -/
def issueBundle (s : State) (sid : Nat) : Host.Outcome State Fault Refusal :=
  if !s.canIssue sid then .next s
  else if (s.strand sid).lateResult then .next (s.setStrand sid { s.strand sid with stall := some .lateResult })
  else
    let s := s.ready sid
    let idx := (s.strand sid).place
    if 2048 ≤ idx then .next (s.takeTrap sid cILLENC 15 guardInfo idx)
    else if (s.die (dieOf sid)).mask &&& headClass (s.bundleAt sid idx) ≠ 0 then
      .next (s.setStrand sid { s.strand sid with stall := some .classMask })
    else
      match decodeBundle ((s.core (coreOf sid)).owner == some sid) (s.bundleAt sid idx) with
      | .error e => .next (s.takeTrap sid cILLENC 15 e.tinfo idx)
      | .ok b => runBundle s sid idx b

end Sys2Proof.Machine
end

