-- ==== Sys2Proof/Machine/Turns.lean ====
section
/-! DEFINITION. What a turn does: a bundle (R35), the next micro-word of a core's sequencer (R254), the next administrative
command (R352), an event of the device, the passing of time (R479); which turn comes about of itself when none is
scheduled (log 1, 2); and how a word is laid where a turn fetches it. -/

namespace Sys2Proof.Machine

/-- The word that a core's sequencer fetches. -/
def State.microWord (s : State) (core : Nat) : Nat := (s.core core).microAt (s.core core).seqr.upc

/-- A core's sequencer runs its next micro-word while the owner's units are on (R249, R254). -/
def microTurn (s : State) (core : Nat) : Host.Outcome State Fault Refusal :=
  match (s.core core).owner with
  | none => .next s
  | some sid =>
    if !s.unitsOn core then .next s else
    match decodeMicro (s.microWord core) with
    | some i => exec i { s with cur := sid }
    | none => .next s

/-- TAG of a work item (R350). -/
def itemTag (w : Nat) : Nat := itemBytes w 96 8

/-- The command processor takes its next administrative command; one that does not decode completes FAULT (R351, R352). -/
def adminTurn (s : State) : Host.Outcome State Fault Refusal :=
  match s.cmd.admin with
  | [] => .next s
  | e :: _ =>
    if s.power.lost || s.power.off then .next s else
    match decodeAdmin (e % 2 ^ 1024) with
    | some i => exec i s
    | none => .next (s.adminFault (itemTag (e % 2 ^ 1024)))

/-- Is an instruction an event, which no word encodes? -/
def Instr.isEvent (i : Instr) : Bool := (encode i).isNone

/-- Is an event one of the compute dies, their units, or the stages that start tasks on them? A kiln hold gates their clocks, and every
wait on them is held (R31, R431, R488). -/
def Instr.needsClock : Instr → Bool
  | .rowEngineStep _ | .streamFill .. | .streamPrefetch .. | .ceCommandBegin .. | .ceCommandComplete .. | .markerReachHead ..
  | .superstepArrival _ | .superstepGenerationComplete _ | .cbarGenerationComplete _ | .haltRetire _ | .tileTaskEnd _
  | .lanegroupTurnOn .. | .resultArrive .. | .resultDeliver _ | .transposeRetire _ | .mcallStart _ | .mcallEnd _ | .taskDispatch _
  | .kernelRead _ | .kernelLoad .. | .groupStart _ | .preload _ | .pageWalkComplete .. | .preemptRequest _ | .bankSwapComplete _
  | .imageWrite _ | .imageRestore _ | .coreGate _ | .coreWake _ | .coreDrainComplete _ | .hopPllLock _ | .hopComplete _ => true
  | _ => false

/-- Can an event come about: not without power, but for its return (R321), and not while a hold stops its clock? -/
def State.eventOpen (s : State) (i : Instr) : Bool :=
  (!s.power.off || i == .powerReturn) && (s.power.kiln != .held || !Instr.needsClock i)

/-- An event comes about; an instruction that a word encodes is no event. -/
def eventTurn (s : State) (i : Instr) : Host.Outcome State Fault Refusal :=
  if Instr.isEvent i && s.eventOpen i then exec i s else .next s

/-- Strands and cores of the package (R17). -/
def strandCount : Nat := 3072
def coreCount : Nat := 384

/-- What a turn does. -/
def runTurn (s : State) : Turn → Host.Outcome State Fault Refusal
  | .issue sid => if sid < strandCount then issueBundle s sid else .fault (.noSuchAgent sid)
  | .micro core => if core < coreCount then microTurn s core else .fault (.noSuchAgent core)
  | .admin => adminTurn s
  | .event i => eventTurn s i
  | .elapse => .next (s.passTime (Config.elapsed s.tick))

/-- The events that come about of themselves, by number, with operands: what the device's own units do, and timers. The others
(sensors, links, the clocks' hops, the host) come about when they are scheduled (log 2). -/
def ownEvent (n a b c : Nat) : Instr :=
  match n with
  | 0 => .rowEngineStep a
  | 1 => .streamFill a b c
  | 2 => .streamPrefetch a b
  | 3 => .homeAccess a b c .st
  | 4 => .homeAccess a b c .cl
  | 5 => .homeAccess a b c .di
  | 6 => .homeAccess a b c .pk
  | 7 => .homeAccess a b c .dm
  | 8 => .homeAccess a b c .sy
  | 9 => .ceCommandBegin a b
  | 10 => .ceCommandComplete a b
  | 11 => .colCommandComplete a
  | 12 => .domainBarrierComplete a
  | 13 => .markerReachHead a b
  | 14 => .superstepArrival a
  | 15 => .superstepGenerationComplete a
  | 16 => .cbarGenerationComplete a
  | 17 => .haltRetire a
  | 18 => .tileTaskEnd a
  | 19 => .lanegroupTurnOn a b
  | 20 => .resultArrive a b
  | 21 => .transposeRetire a
  | 22 => .mcallStart a
  | 23 => .mcallEnd a
  | 24 => .railSettled a
  | 25 => .workItemRead a
  | 26 => .taskDispatch a
  | 27 => .kernelRead a
  | 28 => .kernelLoad a b
  | 29 => .groupStart a
  | 30 => .preload a
  | 31 => .itemAged a
  | 32 => .deadlinePass a
  | 33 => .budgetExpiry a
  | 34 => .launchComplete a
  | 35 => .hallmarkSign a
  | 36 => .migrateCopyDone a b
  | 37 => .pageWalkComplete a b (c % 8) (c / 8)
  | 38 => .ckptSnapshot a
  | 39 => .ckptGranuleStreamed a b
  | 40 => .preemptRequest a
  | 41 => .bankSwapComplete a
  | 42 => .imageWrite a
  | 43 => .imageRestore a
  | 44 => .coreGate a
  | 45 => .coreWake a
  | 46 => .coreDrainComplete a
  | 47 => .keepalive a
  | 48 => .peerSilent a
  | 49 => .force24kExpiry a
  | 50 => .bringUp
  | 51 => .kilnHoldEnd
  | 52 => .debugExpiry
  | 53 => .snapcmpMatch
  | 54 => .hostLinkTimeout
  | _ => .resultDeliver a

/-- The turn that comes about when none is scheduled: any of the package's own, as free values say (log 2). -/
def freeTurn (tick : Nat) : Turn :=
  let v := fun (k : Nat) => Config.choice (8 * tick + k)
  match v 0 % 4 with
  | 0 => .issue (v 1 % strandCount)
  | 1 => .micro (v 1 % coreCount)
  | 2 => .admin
  | _ => .event (ownEvent (v 1) (v 2) (v 3) (v 4))

/-- What follows a turn: a kiln hold is entered, and the save of a power loss made, once every strand has stopped (R321, R488). -/
def settled : Host.Outcome State Fault Refusal → Host.Outcome State Fault Refusal
  | .next s => .next s.settleHold.settleLoss
  | r => r

/-! ### A word where a turn fetches it -/

/-- A strand that can issue its next bundle, and owns its core's array: strand 0. -/
def State.withIssuer (s : State) : State :=
  let st := s.strand 0
  let c := s.core 0
  let d := s.die 0
  let st := { st with life := .live, begun := true, halting := false, cbarGen := none, debugHalt := false, wakeWait := 0,
                      next := st.next % 2048, hnext := st.hnext % 2048,
                      dbuf := st.dbuf.map fun (p : Pending) => { p with arrived := true } }
  let s := ((s.setStrand 0 st).setCore 0 { c with on := true, saved := false, fgSet := 0, owner := some 0 }).setDie 0 { d with level := 0 }
  let s := s.setGroup st.grp { s.group st.grp with state := .running }
  { s with power := { s.power with kiln := .running, lost := false, off := false } }

/-- A bundle at the place of strand 0, whose turn it is. -/
def State.withBundle (s : State) (w : Nat) : State :=
  let s := s.withIssuer
  let st := s.strand 0
  let c := s.core 0
  let word := fun (h : ImemHalf) => BitVec.ofNat 512 (sealCode h.key (codeTweak h.loadId 0 st.place) 64 w)
  let put := fun (h : ImemHalf) => { h with bundles := SMap.insert h.bundles st.place (word h) }
  let c := if st.half = 0 then { c with half0 := put c.half0 } else { c with half1 := put c.half1 }
  { s.setCore 0 c with turns := [.issue 0] }

/-- A micro-word at the place of core 0's sequencer, whose turn it is; a call runs. -/
def State.withMicro (s : State) (w : Nat) : State :=
  let s := s.withIssuer
  let c := s.core 0
  let call : MCall := { sid := 0, idx := 0, mp := [], fmt := 0x2900, grade := 0, rpl := false, busy := [], seq := 0, started := true }
  let calls := if c.running.isSome then c.calls else [call]
  let q := { c.seqr with running := true, railWait := false }
  let word := BitVec.ofNat 128 (sealCode c.microKey (codeTweak c.microLoad 1 q.upc) 16 w)
  let c := { c with calls := calls, seqr := q, mstore := SMap.insert c.mstore q.upc word }
  { s.setCore 0 c with turns := [.micro 0] }

/-- A work item at the head of the administrative commands, whose turn it is. -/
def State.withAdmin (s : State) (w : Nat) : State :=
  { s with cmd := { s.cmd with admin := (w % 2 ^ 1024) :: s.cmd.admin }, turns := [.admin],
           power := { s.power with lost := false, off := false } }

end Sys2Proof.Machine
end

