-- ==== Sys2Proof/Machine/Step.lean ====
section
/-! DEFINITION. One step of the package: the scheduled turn, or one of the package's own with time passing (log 1, 2). -/

namespace Sys2Proof.Machine

/-- One step. -/
def step (s : State) : Host.Outcome State Fault Refusal :=
  match s.turns with
  | t :: rest => settled (runTurn { s with turns := rest, tick := s.tick + 1 } t)
  | [] => settled (runTurn ({ s with tick := s.tick + 1 }.passTime (Config.elapsed s.tick)) (freeTurn s.tick))

/-- `s` with a word where the next step fetches it: a micro-word of up to 128 bits, a bundle of up to 512, a work item of
1024 (log 4). -/
def State.withFetchWord (s : State) (nbits w : Nat) : State :=
  if nbits ≤ 128 then s.withMicro w else if nbits ≤ 512 then s.withBundle w else s.withAdmin w

end Sys2Proof.Machine
end

