-- ==== Sys2Proof/Safety.lean ====
section
/-! DEFINITION. The terms of the statements: when a form stands where its own effect follows, what a vector form writes, what
a form leaves unchanged, and the invariant of memory. -/

namespace Sys2Proof.Machine

/-! ### When a form has its own effect -/

/-- Fetch admits the form in its place, it is on stage, and every register that it reads is valid (R43, R58, R195). -/
def formOk (s : State) (i : Instr) : Bool := (slotBad s i).isNone && !offStage s i

/-- The lanegroups of a list are on (R206). -/
def State.lanesOn (s : State) (named : List Nat) : Bool := named.all fun g => s.lgState g == .on

/-- The lanegroups that a V form names: those of its mask and a source outside it (R206). -/
def vNamed (lgm : Nat) (extra : List Nat) : List Nat := (List.range 8).filter fun g => bit lgm g || extra.contains g

/-- The stream registers that a V form pops: those that it reads, where an element of width `w` is active (R205). -/
def vPops (s : State) (i : Instr) (w : Nat) : List Nat :=
  match Instr.vMask i with
  | none => []
  | some (lgm, pr) =>
    if (groups lgm).any fun g => (List.range (512 / w)).any (elemActive w (s.me.pGet pr g)) then Instr.qReads i else []

/-- The head entry of a stream register can be popped: its address passes, it has arrived, it is not poisoned (R205). -/
def popOk (s : State) (pr n : Nat) : Bool := (popAddress s n).isNone && (popWait s n).isNone && (popPoison s n pr).isNone

/-- The lanegroups that a V form names are on, and the entries that it pops are there. -/
def vLanes (s : State) (i : Instr) (w : Nat) (extra : List Nat) : Bool :=
  match Instr.vMask i with
  | none => true
  | some (lgm, pr) => s.lanesOn (vNamed lgm extra) && (vPops s i w).all (popOk s pr)

/-- A V form of element width `w` has its own effect. -/
def vecOk (s : State) (i : Instr) (w : Nat) (extra : List Nat := []) : Bool := formOk s i && vLanes s i w extra

/-- The state with the pops that a V form makes. -/
def State.popped (s : State) (i : Instr) (w : Nat) : State := (vPops s i w).foldl State.popQ s

/-- The result of an element-wise V form: in `lat` bundles the active elements of d hold what `f` gives (R200, R201). -/
def State.vecOut (s : State) (i : Instr) (h : VHead) (lat : Nat) (f : Nat → Nat → Nat × Nat) : State :=
  postV (s.popped i h.ty.width) lat h.d h.lgm fun g => laneOut h.ty.width (s.me.pGet h.pr g) (f g)

/-- The result of a V form that writes a predicate (R212). -/
def State.predResult (s : State) (i : Instr) (h : VHead) (lat : Nat) (f : Nat → Nat → Bool × Nat) : State :=
  postP (s.popped i h.ty.width) lat h.d h.lgm fun g => predOut h.ty.width (s.me.pGet h.pr g) (f g)

/-- The strand's next bundle is issued when its turn comes: the conditions on the strand and its group hold and no due result
is late (R38, R50, R61). -/
def State.issues (s : State) (sid : Nat) : Bool := s.canIssue sid && !(s.strand sid).lateResult

/-- A micro-operation of the running call has its own effect: a call runs and does not wait for its rails (R110, R254). -/
def callRuns (s : State) : Bool := s.myCore.running.isSome && !s.seqr.railWait

/-- The call that the sequencer runs. -/
def State.call (s : State) : MCall := s.myCore.running.getD { sid := 0, idx := 0, mp := [], fmt := 0, grade := 0, rpl := false, busy := [], seq := 0 }

/-- The sequencer at its next word (R254). -/
def State.nextWord (s t : State) : State := t.setSeqr { t.seqr with upc := s.seqr.upc + 1 }

/-! ### What a form leaves unchanged -/

/-- Two states agree but for the issuing strand and the bundle being issued. -/
def State.onlyMe (s t : State) : Prop :=
  t = { s with strands := t.strands, iss := t.iss } ∧ ∀ n, n ≠ s.cur → t.strand n = s.strand n

/-- A form that only puts results into the delivery buffer: no register, no memory, no other strand changes (R36). -/
def State.onlyPosts (s t : State) : Prop :=
  s.onlyMe t ∧ t.me = { s.me with dbuf := t.me.dbuf } ∧ ∃ new, t.me.dbuf = s.me.dbuf ++ new

/-- Forms of the S, V, MX and AD slots whose results all pass through the delivery buffer. -/
def Instr.posts : Instr → Bool
  | .add .. | .addI .. | .sub .. | .subI .. | .mul .. | .mulI .. | .mulh .. | .div .. | .rem .. | .and .. | .andI ..
  | .or .. | .orI .. | .xor .. | .xorI .. | .andn .. | .andnI .. | .shl .. | .shlI .. | .shr .. | .shrI .. | .rotl ..
  | .rotlI .. | .clz .. | .ctz .. | .popc .. | .min .. | .minI .. | .max .. | .maxI .. | .sel .. | .cmp .. | .cmpI ..
  | .ext .. | .movi .. | .movhi .. | .bfx .. | .bfi .. | .prep .. | .mfs .. | .mts .. | .setfmt .. | .setcar ..
  | .time .. | .mbox .. | .fadd .. | .fsub .. | .fmul .. | .fma .. | .fms .. | .fnma .. | .fmin .. | .fmax ..
  | .fabs .. | .fneg .. | .fcpys .. | .fcmp .. | .fclass .. | .frecpe .. | .frsqe .. | .fscale .. | .fscaleI ..
  | .fround .. | .cvt .. | .mxq .. | .mxdq .. | .bpq .. | .iadd .. | .iaddI .. | .isub .. | .isubI .. | .imul ..
  | .imad .. | .iadds .. | .isubs .. | .iand .. | .iandI .. | .ior .. | .iorI .. | .ixor .. | .ixorI .. | .ishl ..
  | .ishlI .. | .ishr .. | .ishrI .. | .imin .. | .iminI .. | .imax .. | .imaxI .. | .iabs .. | .icmp .. | .icmpI ..
  | .ipopc .. | .vmov .. | .vmovi .. | .vbcast .. | .vsel .. | .vperm .. | .vshuf .. | .vext .. | .vins ..
  | .xcopy .. | .xbcast .. | .vred .. | .pand .. | .por .. | .pxor .. | .pnot .. | .pmov .. | .vany .. | .vall ..
  | .pcnt .. | .accrd .. | .accwr .. | .accclr .. | .acccvt .. | .mset .. | .mseti .. | .mstat .. | .mchk ..
  | .ldSp .. | .ldB .. | .agset .. | .agstr .. => true
  | _ => false

/-! ### Memory -/

/-- The memory of a package keeps its canonical form: addresses rise, none listed with the value of an unlisted one. -/
def State.memWf (s : State) : Prop := Memory.wf s.mem.cells = true

/-- The byte at an address: that of the last write in the coherence order of its location (R416, R419). -/
def State.byteAt (s : State) (a : Nat) : Byte := s.mem.byteLast a

/-- The turn that is scheduled names an agent of the package (R17). -/
def Turn.named : Turn → Bool
  | .issue sid => decide (sid < strandCount)
  | .micro core => decide (core < coreCount)
  | _ => true

end Sys2Proof.Machine
end

