-- ==== Sys2Proof/Certificates/Slice0/Obligations.lean ====
section
/-! DEFINITION. The statements for the provers, in the order of the layers: words, turns, the S slot, the V slots, the other
slots, micro-operations, events and commands, then frames and invariants. -/

open Sys2Proof Sys2Proof.Machine

/-! ### Words -/

/-- One word of each family, written out field by field from R128 to R152 and R350, decodes to its instruction; a header with a
reserved bit and an all-ones bundle decode to none. -/
def Obligations.WordsDecode : Prop :=
  -- S: stop, OP 0x01 at 7:0, D at 13:8, A at 19:14, B at 25:20, TY at 35:32
  decodeTableWord 512 (2 ^ 0 + 2 ^ 10 + 2 ^ 32 * (0x01 + 2 ^ 8 * 5 + 2 ^ 14 * 6 + 2 ^ 20 * 7 + 2 ^ 32 * 3)) =
    some (.add .s64 5 6 7) ∧
  -- S with an immediate: TY at 23:20, CC at 27:24, IMM at 63:28
  decodeTableWord 512 (2 ^ 0 + 2 ^ 10 + 2 ^ 32 * (0x54 + 2 ^ 8 * 3 + 2 ^ 14 * 6 + 2 ^ 20 * 5 + 2 ^ 24 * 4 + 2 ^ 28 * 9)) =
    some (.cmpI .gt .n16 3 6 9) ∧
  -- V0 (class bit 15): OP, LGM at 15:8, PR at 19:16, D at 25:20, A at 31:26, B at 37:32, ETY at 48:44
  decodeTableWord 512 (2 ^ 1 + 2 ^ 10 + 2 ^ 15 + 2 ^ 96 * (0x01 + 2 ^ 8 * 255 + 2 ^ 16 * 2 + 2 ^ 20 * 9 + 2 ^ 26 * 33 + 2 ^ 32 * 4 + 2 ^ 44 * 9)) =
    some (.fadd { lgm := 255, pr := 2, d := 9, a := 33, ty := .f32 } 4) ∧
  -- MX (class bit 16): OP, IDX at 13:8
  decodeTableWord 512 (2 ^ 3 + 2 ^ 10 + 2 ^ 16 + 2 ^ 224 * (0x03 + 2 ^ 8 * 17)) = some (.mcall 17) ∧
  -- XF (class bit 17): OP, V at 13:8, IDX at 17:14
  decodeTableWord 512 (2 ^ 4 + 2 ^ 10 + 2 ^ 17 + 2 ^ 272 * (0x01 + 2 ^ 8 * 12 + 2 ^ 14 * 15)) = some (.trpush 12 15) ∧
  -- LD: OP, R at 13:8, H at 21:14, AG at 24:22, AGV at 25, ETY at 30:26, OFF at 42:31, LGM at 50:43
  decodeTableWord 512 (2 ^ 5 + 2 ^ 10 + 2 ^ 304 * (0x01 + 2 ^ 8 * 7 + 2 ^ 14 * 200 + 2 ^ 22 * 3 + 2 ^ 25 * 1 + 2 ^ 26 * 2 + 2 ^ 31 * 48 + 2 ^ 43 * 3)) =
    some (.ldSp { r := 7, h := 200, ag := 3, agv := true, ty := .s32, off := 48, lgm := 3 }) ∧
  -- ST (class bit 18): OP, A at 13:8, B at 19:14, ETY at 24:20, SC at 27:25, ORD at 29:28, VS at 30, OFF at 40:31, LGM at 48:41
  decodeTableWord 512 (2 ^ 6 + 2 ^ 10 + 2 ^ 18 + 2 ^ 360 * (0x10 + 2 ^ 8 * 10 + 2 ^ 14 * 11 + 2 ^ 20 * 3 + 2 ^ 25 * 4 + 2 ^ 28 * 2 + 2 ^ 31 * 1)) =
    some (.stG false 10 11 .s64 .pk .rel 1 0) ∧
  -- SY: OP at 5:0, QM at 11:6, SC at 14:12
  decodeTableWord 512 (2 ^ 8 + 2 ^ 10 + 2 ^ 464 * (0x01 + 2 ^ 6 * 3 + 2 ^ 12 * 4)) = some (.mark 3 .pk) ∧
  -- AD: OP at 5:0, LV at 7:6, KIND at 9:8, CNT at 15:10, BODY at 21:16
  decodeTableWord 512 (2 ^ 9 + 2 ^ 10 + 2 ^ 488 * (0x01 + 2 ^ 6 * 2 + 2 ^ 8 * 1 + 2 ^ 10 * 5 + 2 ^ 16 * 3)) =
    some (.lset 2 (.reg 5) 3 false false) ∧
  -- micro-word: MOP at 7:0, MA at 10:8, N16 at 40:25
  decodeTableWord 128 (0x01 + 2 ^ 8 * 4 + 2 ^ 25 * 16) = some (.aload 4 16) ∧
  -- work item: KIND at byte 0, the opcode at byte 4, the context at bytes 8 and 9, TAG at byte 96
  decodeTableWord 1024 (1 + 2 ^ 32 * 0x02 + 2 ^ 64 * 6 + 2 ^ 768 * 77) = some (.destroy 6 77) ∧
  decodeTableWord 512 (2 ^ 0 + 2 ^ 10 + 2 ^ 19 + 2 ^ 32 * (0x01 + 2 ^ 8 * 5)) = none ∧
  decodeTableWord 512 (2 ^ 512 - 1) = none

/-- R128 to R152, R350: the decoder reads back every well-formed instruction that a word encodes, with every operand. -/
def Obligations.DecodeEncode : Prop :=
  ∀ (i : Instr) (nbits w : Nat), i.wf = true → encode i = some (nbits, w) → decodeTableWord nbits w = some i

/-! ### Turns -/

/-- R35, R42, R58: when the bundle at a strand's place decodes, the strand may issue it, and nothing stops it before its slots, the
step is the meanings of its operations, each with what the one before left, until one ends the bundle, and then the bundle's commit,
or its end as a trap, a wait or a rollback; a bundle of one operation is that operation's meaning. A `rett` acts after the other
slots (log 14). A kiln hold is then entered, and the save of a power loss made, if every strand has stopped (log 20, 21). -/
def Obligations.StepRunsBundle : Prop :=
  ∀ (s : State) (sid : Nat) (rest : List Turn) (b : Bundle),
    let s1 := { s with turns := rest, tick := s.tick + 1 }
    let s2 := s1.ready sid
    let idx := (s2.strand sid).place
    let s3 := { s2 with iss := { idx := idx, stop := b.stop, gap := b.gap, swa := b.swa, ops := b.ops } }
    let full := fun (t : State) => if t.iss.ended.isNone && decide (64 < t.me.results) then t.endTrap 0x40 4 else t
    let slot := fun (t : State) (o : Slot × Instr) => if t.iss.ended.isSome then t else
      match exec o.2 { t with iss := { t.iss with slot := o.1.code } } with
      | .next u => full u
      | _ => t
    s.turns = .issue sid :: rest → sid < 3072 → s1.issues sid = true → idx < 2048 →
    decodeBundle ((s2.core (coreOf sid)).owner == some sid) (s2.bundleAt sid idx) = .ok b →
    (s2.die (dieOf sid)).mask &&& b.cls = 0 → earlyTrap s3 b.ops = none →
    step s = .next (s2.conclude sid (b.ops.flatMap fun o => Instr.dests s2.me o.2)
      ((b.ops.filter (fun o => o.2 != .rett) ++ b.ops.filter (fun o => o.2 == .rett)).foldl slot s3)).settleHold.settleLoss ∧
    ∀ sl i, b.ops = [(sl, i)] → ∃ t, exec i { s3 with iss := { s3.iss with slot := sl.code } } = .next t ∧
      step s = .next (s2.conclude sid (Instr.dests s2.me i) (full t)).settleHold.settleLoss

/-- R254, R352; turns are the model's (log 1): the turn of a core's sequencer runs the micro-operation at its place; the command processor's turn runs the
administrative command that stands first; an event that no word encodes runs as it is, unless the package is without power, or a
kiln hold stops the clocks of the units that it concerns (R321, R488), when nothing happens. -/
def Obligations.StepRunsMicroAdminEvent : Prop :=
  (∀ (s : State) (core sid : Nat) (rest : List Turn) (i : Instr),
    let s1 := { s with turns := rest, tick := s.tick + 1 }
    s.turns = .micro core :: rest → core < 384 → (s.core core).owner = some sid → s1.unitsOn core = true →
    decodeMicro (s.microWord core) = some i → step s = settled (exec i { s1 with cur := sid })) ∧
  (∀ (s : State) (rest : List Turn) (w : Nat) (l : List Nat) (i : Instr),
    s.turns = .admin :: rest → s.cmd.admin = w :: l → s.power.lost = false → s.power.off = false →
    decodeAdmin (w % 2 ^ 1024) = some i → step s = settled (exec i { s with turns := rest, tick := s.tick + 1 })) ∧
  (∀ (s : State) (rest : List Turn) (i : Instr),
    let s1 := { s with turns := rest, tick := s.tick + 1 }
    s.turns = .event i :: rest → encode i = none → step s = settled (if s1.eventOpen i then exec i s1 else .next s1))

/-- R57 (every error is a trap, a status or a record; turns are the model's, log 1): an instruction always answers a next state, and a step does so whenever
the scheduled turn names a strand or core of the package; it faults exactly where the turn names none. -/
def Obligations.StepAnswers : Prop :=
  (∀ (i : Instr) (s : State), ∃ t, exec i s = .next t) ∧
  (∀ s : State, s.turns.head?.all Turn.named = true → ∃ t, step s = .next t) ∧
  (∀ (s : State) (sid : Nat) (rest : List Turn), s.turns = .issue sid :: rest → 3072 ≤ sid → step s = .fault (.noSuchAgent sid))

/-! ### The S slot -/

/-- R168 to R170: the arithmetic forms deliver low(in(low(v, N)), 64) of the exact result v, in 1 bundle, 3 for a product. R170: a
quotient truncates toward zero and the remainder has the sign of the dividend, in 16 bundles; a zero divisor raises IDIV with
information 0, and nothing of its bundle takes effect; -2^(N-1) by -1 gives -2^(N-1) and the remainder 0, and no flag. -/
def Obligations.ScalarArithmetic : Prop :=
  (∀ (s : State) (ty : IntTy) (d a b imm : Nat),
    let x := xIn ty s a
    let y := xIn ty s b
    let k := immIn ty imm
    (formOk s (.add ty d a b) = true → exec (.add ty d a b) s = .next (s.postX 1 d (IntTy.result ty (x + y)))) ∧
    (formOk s (.addI ty d a imm) = true → exec (.addI ty d a imm) s = .next (s.postX 1 d (IntTy.result ty (x + k)))) ∧
    (formOk s (.sub ty d a b) = true → exec (.sub ty d a b) s = .next (s.postX 1 d (IntTy.result ty (x - y)))) ∧
    (formOk s (.subI ty d a imm) = true → exec (.subI ty d a imm) s = .next (s.postX 1 d (IntTy.result ty (x - k)))) ∧
    (formOk s (.mul ty d a b) = true → exec (.mul ty d a b) s = .next (s.postX 3 d (IntTy.result ty (x * y)))) ∧
    (formOk s (.mulI ty d a imm) = true → exec (.mulI ty d a imm) s = .next (s.postX 3 d (IntTy.result ty (x * k)))) ∧
    (formOk s (.mulh ty d a b) = true →
      exec (.mulh ty d a b) s = .next (s.postX 3 d (IntTy.result ty (x * y / (2 ^ IntTy.width ty : Nat))))) ∧
    (formOk s (.min ty d a b) = true → exec (.min ty d a b) s = .next (s.postX 1 d (IntTy.result ty (min x y)))) ∧
    (formOk s (.minI ty d a imm) = true → exec (.minI ty d a imm) s = .next (s.postX 1 d (IntTy.result ty (min x k)))) ∧
    (formOk s (.max ty d a b) = true → exec (.max ty d a b) s = .next (s.postX 1 d (IntTy.result ty (max x y)))) ∧
    (formOk s (.maxI ty d a imm) = true → exec (.maxI ty d a imm) s = .next (s.postX 1 d (IntTy.result ty (max x k)))) ∧
    (formOk s (.ext ty d a) = true → exec (.ext ty d a) s = .next (s.postX 1 d (IntTy.result ty x)))) ∧
  (∀ (s : State) (ty : IntTy) (d a b : Nat),
    let x := xIn ty s a
    let y := xIn ty s b
    (formOk s (.div ty d a b) = true → y ≠ 0 → exec (.div ty d a b) s = .next (s.postX 16 d (IntTy.result ty (x.tdiv y)))) ∧
    (formOk s (.rem ty d a b) = true → y ≠ 0 → exec (.rem ty d a b) s = .next (s.postX 16 d (IntTy.result ty (x.tmod y)))) ∧
    (formOk s (.div ty d a b) = true → y = 0 → exec (.div ty d a b) s = .next (s.endTrap 0x08 0)) ∧
    (formOk s (.rem ty d a b) = true → y = 0 → exec (.rem ty d a b) s = .next (s.endTrap 0x08 0)) ∧
    (∀ (pre : State) sid dests, s.iss.consumed = none →
      pre.conclude sid dests (s.endTrap 0x08 0) = { pre.takeTrap sid 0x08 s.iss.slot 0 s.iss.idx with iss := {} }) ∧
    (IntTy.signed ty = true → x = -(2 ^ (IntTy.width ty - 1) : Nat) → y = -1 →
      IntTy.result ty (x.tdiv y) = low x 64 ∧ IntTy.result ty (x.tmod y) = 0) ∧
    (∀ v, (s.postX 16 d v).me.flags = s.me.flags ∧ ((s.postX 16 d v).me.dbuf.drop s.me.dbuf.length).all fun p => p.flags == 0))

/-- R169, R171, R172: the forms on bits. The shift amount is B[5:0] or IMM[5:0]; a right shift is floor(a / 2^s). R139, R168: a
comparison delivers its condition to a c register, `sel` one of two operands by a c register, in 1 bundle. -/
def Obligations.ScalarBitsAndCompare : Prop :=
  (∀ (s : State) (ty : IntTy) (d a b imm pos len : Nat),
    let n := IntTy.width ty
    let x := xIn ty s a
    let p := low x n
    let q := low (xIn ty s b) n
    let k := low (immIn ty imm) n
    let m := s.me.xGet b % 64
    let out := fun (v : Int) => Host.Outcome.next (φ := Fault) (ρ := Refusal) (s.postX 1 d (IntTy.result ty v))
    (formOk s (.and ty d a b) = true → exec (.and ty d a b) s = out (p &&& q : Nat)) ∧
    (formOk s (.andI ty d a imm) = true → exec (.andI ty d a imm) s = out (p &&& k : Nat)) ∧
    (formOk s (.or ty d a b) = true → exec (.or ty d a b) s = out (p ||| q : Nat)) ∧
    (formOk s (.orI ty d a imm) = true → exec (.orI ty d a imm) s = out (p ||| k : Nat)) ∧
    (formOk s (.xor ty d a b) = true → exec (.xor ty d a b) s = out (p ^^^ q : Nat)) ∧
    (formOk s (.xorI ty d a imm) = true → exec (.xorI ty d a imm) s = out (p ^^^ k : Nat)) ∧
    (formOk s (.andn ty d a b) = true → exec (.andn ty d a b) s = out (p &&& (2 ^ n - 1 - q % 2 ^ n) : Nat)) ∧
    (formOk s (.andnI ty d a imm) = true → exec (.andnI ty d a imm) s = out (p &&& (2 ^ n - 1 - k % 2 ^ n) : Nat)) ∧
    (formOk s (.shl ty d a b) = true → exec (.shl ty d a b) s = out (x * (2 ^ m : Nat))) ∧
    (formOk s (.shlI ty d a imm) = true → exec (.shlI ty d a imm) s = out (x * (2 ^ (imm % 64) : Nat))) ∧
    (formOk s (.shr ty d a b) = true → exec (.shr ty d a b) s = out (x / (2 ^ m : Nat))) ∧
    (formOk s (.shrI ty d a imm) = true → exec (.shrI ty d a imm) s = out (x / (2 ^ (imm % 64) : Nat))) ∧
    (formOk s (.rotl ty d a b) = true → exec (.rotl ty d a b) s = out (rotLeft n p m : Nat)) ∧
    (formOk s (.rotlI ty d a imm) = true → exec (.rotlI ty d a imm) s = out (rotLeft n p (imm % 64) : Nat)) ∧
    (formOk s (.clz ty d a) = true → exec (.clz ty d a) s = out (leadingZeros p n : Nat)) ∧
    (formOk s (.ctz ty d a) = true → exec (.ctz ty d a) s = out (trailingZeros p n : Nat)) ∧
    (formOk s (.popc ty d a) = true → exec (.popc ty d a) s = out (popCount p n : Nat)) ∧
    (formOk s (.bfx ty d a pos len) = true → exec (.bfx ty d a pos len) s =
      out (if IntTy.signed ty then sx len (field (s.me.xGet a) pos len) else (field (s.me.xGet a) pos len : Nat))) ∧
    (formOk s (.bfi ty d a pos len) = true →
      exec (.bfi ty d a pos len) s = out (setField (s.me.xGet d) pos len (s.me.xGet a) : Nat)) ∧
    (formOk s (.movi d imm) = true → exec (.movi d imm) s = .next (s.postX 1 d (low (sx 36 imm) 64))) ∧
    (formOk s (.movhi d a imm) = true → exec (.movhi d a imm) s = .next (s.postX 1 d (setField (s.me.xGet a) 36 28 imm)))) ∧
  (∀ (s : State) (ty : IntTy) (d a b imm cn : Nat),
    let x := xIn ty s a
    (∀ y : Int, Cond.holds .eq x y = decide (x = y) ∧ Cond.holds .ne x y = decide (x ≠ y) ∧ Cond.holds .lt x y = decide (x < y) ∧
      Cond.holds .le x y = decide (x ≤ y) ∧ Cond.holds .gt x y = decide (x > y) ∧ Cond.holds .ge x y = decide (x ≥ y)) ∧
    (∀ cc, formOk s (.cmp cc ty d a b) = true → exec (.cmp cc ty d a b) s = .next (s.postC 1 d (Cond.holds cc x (xIn ty s b)))) ∧
    (∀ cc, formOk s (.cmpI cc ty d a imm) = true →
      exec (.cmpI cc ty d a imm) s = .next (s.postC 1 d (Cond.holds cc x (immIn ty imm)))) ∧
    (formOk s (.sel ty d a b cn) = true → s.me.cGet cn = true → exec (.sel ty d a b cn) s = .next (s.postX 1 d (IntTy.result ty x))) ∧
    (formOk s (.sel ty d a b cn) = true → s.me.cGet cn = false →
      exec (.sel ty d a b cn) s = .next (s.postX 1 d (IntTy.result ty (xIn ty s b)))))

/-- R174, R175: `prep` gives a b register an index in 2 bundles; `br` and `call` start a transfer with three delay bundles, taken
by the condition, and a taken `call` gives b3 the index after them in 4. -/
def Obligations.Branches : Prop :=
  ∀ (s : State) (bt cn k a : Nat) (neg : Bool),
    let taken := s.me.cGet cn != neg
    let gone := { s with iss := { s.iss with branch := some { target := s.me.bGet bt, left := 3, taken := taken } } }
    (formOk s (.prep bt (.index k)) = true →
      exec (.prep bt (.index k)) s = .next (s.post 2 { kind := .b, reg := bt, due := 0, value := BitVec.ofNat 4096 k })) ∧
    (formOk s (.prep bt (.reg a)) = true → exec (.prep bt (.reg a)) s =
      .next (s.post 2 { kind := .b, reg := bt, due := 0, value := BitVec.ofNat 4096 (s.me.xGet a % 2 ^ 11) })) ∧
    (formOk s (.br bt cn neg) = true → exec (.br bt cn neg) s = .next gone) ∧
    (formOk s (.call bt cn neg) = true → taken = false → exec (.call bt cn neg) s = .next gone) ∧
    (formOk s (.call bt cn neg) = true → taken = true → exec (.call bt cn neg) s =
      .next (gone.post 4 { kind := .b, reg := 3, due := 0, value := BitVec.ofNat 4096 ((s.iss.idx + 4) % 4096) }))

/-- R65 to R69, R180 to R184: a state register read, written in 4 bundles for FMT and CARAT and 1 for the others, a read-only one
left; `setfmt` replaces the masked bits of FMT[15:0]; `setcar` writes CARAT; `time` reads the nanoseconds to the deadline. R35,
R130, R278 to R280, R412: a bundle with no operation changes nothing of its own; `halloc` delivers the lowest free handle with the
tile placed first-fit, or all ones where none is free; `hfree` frees a handle that no operation uses; a shape or a handle that may
not be used raises HANDLE; `mbox` reads a word of the mailbox. -/
def Obligations.StateRegistersAndHandles : Prop :=
  (∀ (s : State) (d a sr value mask g : Nat),
    let srOut := fun (lat n v : Nat) => s.post lat { kind := .sr, reg := n, due := 0, value := BitVec.ofNat 4096 (v % 2 ^ 64) }
    (formOk s (.mfs d sr) = true → exec (.mfs d sr) s = .next (s.postX 1 d (srRead s s.cur sr))) ∧
    (formOk s (.mts a sr) = true → sr ≤ 1 → exec (.mts a sr) s = .next (srOut 4 sr (s.me.xGet a))) ∧
    (formOk s (.mts a sr) = true → 3 ≤ sr → sr ≤ 7 → exec (.mts a sr) s = .next (srOut 1 sr (s.me.xGet a))) ∧
    (formOk s (.mts a sr) = true → sr = 2 ∨ 8 ≤ sr → exec (.mts a sr) s = .next s) ∧
    (formOk s (.setfmt value mask) = true → value < 65536 → mask < 65536 → exec (.setfmt value mask) s =
      .next (srOut 4 0 ((s.me.fmt.toNat % 65536) &&& (65535 - mask) ||| (value &&& mask)))) ∧
    (formOk s (.setcar (.imm g)) = true → exec (.setcar (.imm g)) s = .next (srOut 4 1 g)) ∧
    (formOk s (.setcar (.reg a)) = true → exec (.setcar (.reg a)) s = .next (srOut 4 1 (s.me.xGet a % 4))) ∧
    (formOk s (.time d) = true → exec (.time d) s = .next (s.postX 1 d (low (timeLeft s.myLaunch.deadline s.power.dtime) 64)))) ∧
  (∀ (s : State) (level : TileLevel) (ty : ElemType) (d a word : Nat),
    let v := s.me.xGet a
    let rows := field v 0 13
    let cols := field v 16 13
    let core := if level == .shared then field v 32 3 else localCore s.cur
    let cl := s.myCluster
    let held := s.heldTiles s.me.grp (clusterOf s.cur)
    let shapeOk := (decide (1 ≤ rows) && decide (rows ≤ 4096) && decide (1 ≤ cols)) && decide (cols ≤ 4096) &&
      (level != .bstack || (decide (cols ≤ 128) && bstackType ty)) && (s.group s.me.grp).placements.any fun p => p.core == core
    (∀ stop gap swa, exec (.emptyBundle stop gap swa) s = .next s) ∧
    (formOk s (.halloc level ty d a) = true → shapeOk = true →
      ∀ h t, cl.freeHandle = some h → placeTile held level core rows cols ty = some t →
      exec (.halloc level ty d a) s = .next { s.postX 1 d h with iss := { s.iss with tiles := [(h, some t)] } }) ∧
    (formOk s (.halloc level ty d a) = true → shapeOk = true →
      cl.freeHandle = none ∨ placeTile held level core rows cols ty = none →
      exec (.halloc level ty d a) s = .next (s.postX 1 d (2 ^ 64 - 1))) ∧
    (formOk s (.halloc level ty d a) = true → shapeOk = false → exec (.halloc level ty d a) s = .next (s.endTrap 0x04 0xFF)) ∧
    (formOk s (.hfree a) = true → v < 256 → (SMap.find cl.tiles v).isSome = true → s.handleBusy (clusterOf s.cur) v = false →
      exec (.hfree a) s = .next { s with iss := { s.iss with tiles := [(v, none)] } }) ∧
    (formOk s (.hfree a) = true → 256 ≤ v ∨ SMap.find cl.tiles v = none →
      exec (.hfree a) s = .next (s.endTrap 0x04 (v % 256))) ∧
    (formOk s (.mbox d word) = true → exec (.mbox d word) s = .next (s.postX 1 d (s.mailWord word))))

/-- R178, R57, R59, R304: `trap` raises TRAPI with its immediate; a trap of a strand outside a handler whose kernel names an entry
for the cause saves cause, information, bundle and slot and enters the handler on a fresh handler count; the strand's own registers,
count, branch and loops stay. R307, R308: a fatal cause, a trap in a handler, and a cause without an entry escalate: the trap
registers are written, the launch's groups are aborted, and its status is FAULT with the escalation record, unless a status was
fixed before. R57: where a slot trapped, nothing of the bundle's slots remains: the trap is taken on the state before them. R179,
R306: `rett` delivers the handler's results and goes on at TBUNDLE[10:0] on the strand's own count, HND clear; with TBUNDLE[11] set
it raises ILLENC. -/
def Obligations.Traps : Prop :=
  ((∀ (s : State) (imm : Nat), formOk s (.trap imm) = true →
    ∃ t, exec (.trap imm) s = .next t ∧ t.iss.ended = some (.trap s.iss.slot 0x0B (imm % 65536))) ∧
  (∀ (s : State) (sid cause slot info idx e : Nat), cause < 0x40 → (s.strand sid).hnd = false → s.power.snapArm = false →
    SMap.find (s.half sid).traps cause = some e →
    s.takeTrap sid cause slot info idx = s.setStrand sid { s.strand sid with
      tcause := BitVec.ofNat 64 (s.tcauseOf sid cause), tinfo := BitVec.ofNat 64 info, tbundle := BitVec.ofNat 64 (idx % 4096),
      tslot := BitVec.ofNat 64 slot, hnd := true, hbc := 0, hnext := e, hbranch := none, hgpos := 0, hwritten := [],
      stall := none })) ∧
  (∀ (s : State) (sid cause slot info idx : Nat), s.power.snapArm = false →
    (0x40 ≤ cause ∨ (s.strand sid).hnd = true ∨ SMap.find (s.half sid).traps cause = none) →
    s.takeTrap sid cause slot info idx = (s.setStrand sid { s.strand sid with
        tcause := BitVec.ofNat 64 (s.tcauseOf sid cause), tinfo := BitVec.ofNat 64 info, tbundle := BitVec.ofNat 64 (idx % 4096),
        tslot := BitVec.ofNat 64 slot }).faultLaunch (s.strand sid).launch
          { sid := sid, cause := cause, slot := slot, bundle := idx % 4096, info := info,
            kind := if (s.strand sid).hnd then 1 else if 0x40 ≤ cause then 0 else 2,
            sbc := (s.strand sid).sbc, time := s.power.dtime }) ∧
  (∀ (pre t : State) (sid slot cause info : Nat) (dests : List Nat), t.iss.ended = some (.trap slot cause info) →
    t.iss.consumed = none → pre.conclude sid dests t = { pre.takeTrap sid cause slot info t.iss.idx with iss := {} }) ∧
  (∀ s : State, formOk s .rett = true →
    let t := s.deliverHandler s.cur
    let tb := t.me.tbundle.toNat
    (bit tb 11 = false → exec .rett s = .next { t.setMe (t.me.fromTrap (tb % 2048)) with iss := { t.iss with rett := true } }) ∧
    (bit tb 11 = true → ∃ u, exec .rett s = .next u ∧ u.iss.ended = some (.trap 15 0x01 3)) ∧
    ((t.me.fromTrap (tb % 2048)).hnd = false ∧ (t.me.fromTrap (tb % 2048)).next = tb % 2048 ∧
      (t.me.fromTrap (tb % 2048)).sbc = t.me.sbc))

/-- R57, R58, R64, R132, R195: every form of a bundle has its checks before its own effect: what fetch rejects raises ILLENC with slot
0xF, a source register without a valid bit INVREG with its code; an LD or ST form whose stage predicate is false does nothing. -/
def Obligations.FormChecks : Prop :=
  ∀ (i : Instr) (s : State), (slotFields i).isSome = true →
    (∀ e, formIll s i = some e →
      ∃ t, exec i s = .next t ∧ t.iss.ended = some (.trap 15 0x01 e.tinfo) ∧ t.iss.consumed = s.iss.consumed) ∧
    (formIll s i = none → offStage s i = true → exec i s = .next s) ∧
    (∀ r, formIll s i = none → offStage s i = false → s.badRead i = some r →
      ∃ t, exec i s = .next t ∧ t.iss.ended = some (.trap s.iss.slot 0x02 r.info) ∧ t.iss.consumed = s.iss.consumed)

/-! ### The V slots -/

/-- R200 to R209: arithmetic on the active elements, rounded once under FMT, in 4 bundles. R210 to R217: minimum and maximum, sign
forms, comparison and class into a predicate, reciprocal and root seeds in 6 bundles, scaling, rounding to an integral value. -/
def Obligations.VectorArithmetic : Prop :=
  (∀ (s : State) (h : VHead) (b c : Nat),
    let m := fmtOf h.ty
    let w := h.ty.width
    let z := ftzOf m s.me.ftz
    let x := opVal s.me h.ty h.a
    let y := opVal s.me h.ty b
    let v := opVal s.me h.ty c
    let mo := s.me.rm
    (vecOk s (.fadd h b) w = true →
      exec (.fadd h b) s = .next (s.vecOut (.fadd h b) h 4 fun g j => addF m mo z (x g j) (y g j))) ∧
    (vecOk s (.fsub h b) w = true →
      exec (.fsub h b) s = .next (s.vecOut (.fsub h b) h 4 fun g j => addF m mo z (x g j) (y g j).flip)) ∧
    (vecOk s (.fmul h b) w = true →
      exec (.fmul h b) s = .next (s.vecOut (.fmul h b) h 4 fun g j => mulF m mo z (x g j) (y g j))) ∧
    (vecOk s (.fma h b c) w = true →
      exec (.fma h b c) s = .next (s.vecOut (.fma h b c) h 4 fun g j => fmaF m mo z (x g j) (y g j) (v g j))) ∧
    (vecOk s (.fms h b c) w = true →
      exec (.fms h b c) s = .next (s.vecOut (.fms h b c) h 4 fun g j => fmaF m mo z (x g j) (y g j) (v g j).flip)) ∧
    (vecOk s (.fnma h b c) w = true →
      exec (.fnma h b c) s = .next (s.vecOut (.fnma h b c) h 4 fun g j => fmaF m mo z (x g j).flip (y g j) (v g j)))) ∧
  (∀ (s : State) (h : VHead) (b imm : Nat) (cc : FCond) (md : RoundSel),
    let m := fmtOf h.ty
    let w := h.ty.width
    let z := s.me.ftz
    let p := srcElem s.me h.ty h.a
    let q := srcElem s.me h.ty b
    (vecOk s (.fmin h b) w = true → exec (.fmin h b) s = .next (s.vecOut (.fmin h b) h 4 fun g j => minF m z (p g j) (q g j))) ∧
    (vecOk s (.fmax h b) w = true → exec (.fmax h b) s = .next (s.vecOut (.fmax h b) h 4 fun g j => maxF m z (p g j) (q g j))) ∧
    (vecOk s (.fabs h) w = true → exec (.fabs h) s = .next (s.vecOut (.fabs h) h 4 fun g j => (magOf m (p g j), 0))) ∧
    (vecOk s (.fneg h) w = true →
      exec (.fneg h) s = .next (s.vecOut (.fneg h) h 4 fun g j => (withSign m (!signOf m (p g j)) (magOf m (p g j)), 0))) ∧
    (vecOk s (.fcpys h b) w = true →
      exec (.fcpys h b) s = .next (s.vecOut (.fcpys h b) h 4 fun g j => (withSign m (signOf m (q g j)) (magOf m (p g j)), 0))) ∧
    (vecOk s (.fcmp cc h b) w = true →
      exec (.fcmp cc h b) s = .next (s.predResult (.fcmp cc h b) h 4 fun g j => cmpF m z cc (p g j) (q g j))) ∧
    (vecOk s (.fclass h imm) w = true →
      exec (.fclass h imm) s = .next (s.predResult (.fclass h imm) h 4 fun g j => (bit imm (classF m (p g j)), 0))) ∧
    (vecOk s (.frecpe h) w = true → exec (.frecpe h) s = .next (s.vecOut (.frecpe h) h 6 fun g j => seedF m z false (p g j))) ∧
    (vecOk s (.frsqe h) w = true → exec (.frsqe h) s = .next (s.vecOut (.frsqe h) h 6 fun g j => seedF m z true (p g j))) ∧
    (vecOk s (.fscale h b) w = true →
      exec (.fscale h b) s = .next (s.vecOut (.fscale h b) h 4 fun g j => scaleF m s.me.rm z (p g j) (sx m.width (q g j)))) ∧
    (vecOk s (.fscaleI h imm) w = true →
      exec (.fscaleI h imm) s = .next (s.vecOut (.fscaleI h imm) h 4 fun g j => scaleF m s.me.rm z (p g j) (sx 16 imm))) ∧
    (vecOk s (.fround md h) w = true →
      exec (.fround md h) s = .next (s.vecOut (.fround md h) h 4 fun g j => roundF m (roundSel s.me md) z (p g j))))

/-- R218 to R222: a conversion of the elements that both types have; blocks of 32 quantised with one scale, and back; bit-plane
quantisation; 4 bundles. -/
def Obligations.VectorConversions : Prop :=
  ∀ (s : State) (h : VHead) (b c : Nat) (sty : ElemType) (sat : Bool),
    let st := s.me
    let e := mxBlockElem st h b sty
    (vecOk s (.cvt h sty sat) h.ty.width = true → exec (.cvt h sty sat) s = .next (s.vecOut (.cvt h sty sat) h 4 fun g j =>
      if j < 512 / max h.ty.width sty.width then
        cvtElem h.ty sty st.rmCvt st.ftz (sat || st.sat) (srcElem st sty h.a g j) else (0, 0))) ∧
    (vecOk s (.mxq h b c sty) 32 = true →
      let q := fun g => mxQuantBlock h.ty (fmtOf sty) st.ftz (blockSource st sty h.a b g)
      exec (.mxq h b c sty) s = .next (postV
        (postV (s.popped (.mxq h b c sty) 32) 4 h.d h.lgm fun g => wholeOut (ofElems h.ty.width (q g).1) (q g).2.2)
        4 c h.lgm fun g => wholeOut (q g).2.1 0)) ∧
    (vecOk s (.mxdq h b sty) 32 = true → h.ty = .f32 → exec (.mxdq h b sty) s = .next (postV
      (postV (s.popped (.mxdq h b sty) 32) 4 h.d h.lgm fun g => blockOut 32 ((List.range 16).map (e g)))
      4 (h.d + 1) h.lgm fun g => blockOut 32 ((List.range 16).map fun i => e g (16 + i)))) ∧
    (vecOk s (.mxdq h b sty) 32 = true → h.ty ≠ .f32 → exec (.mxdq h b sty) s = .next
      (postV (s.popped (.mxdq h b sty) 32) 4 h.d h.lgm fun g => blockOut 16 ((List.range 32).map (e g)))) ∧
    (vecOk s (.bpq h sty) 32 = true → exec (.bpq h sty) s = .next (postV (s.popped (.bpq h sty) 32) 4 h.d h.lgm fun g =>
      blockOut 8 ((elems sty.width (vsrc st h.a g) (512 / sty.width)).map (bpQuant h.ty.width (fmtOf sty) st.ftz))))

/-- R223 to R225, R82: integer forms deliver the low bits of the exact result, or the nearest value of the type with SA where they
saturate, in 2 bundles. R223 to R225: bitwise forms, shifts by bits [7:0] of the amount, comparisons into a predicate, and counts of
ones, in 2 bundles. -/
def Obligations.VectorIntegers : Prop :=
  (∀ (s : State) (h : VHead) (b c imm : Nat) (sat : Bool),
    let w := h.ty.width
    let x := intElem s.me h.ty h.a
    let y := intElem s.me h.ty b
    let z := intElem s.me h.ty c
    let k := sx 16 imm
    let out := fun (i : Instr) (sat : Bool) (f : Nat → Nat → Int) =>
      Host.Outcome.next (φ := Fault) (ρ := Refusal) (s.vecOut i h 2 fun g j => deliverInt h.ty sat (f g j))
    (∀ v : Int, deliverInt h.ty false v = (low v w, 0)) ∧
    (∀ v : Int, deliverInt h.ty true v =
      if v < intMin h.ty.isSigned w then (low (intMin h.ty.isSigned w) w, flSA)
      else if intMax h.ty.isSigned w < v then (low (intMax h.ty.isSigned w) w, flSA) else (low v w, 0)) ∧
    (vecOk s (.iadd h b) w = true → exec (.iadd h b) s = out (.iadd h b) false fun g j => x g j + y g j) ∧
    (vecOk s (.iaddI h imm) w = true → exec (.iaddI h imm) s = out (.iaddI h imm) false fun g j => x g j + k) ∧
    (vecOk s (.isub h b) w = true → exec (.isub h b) s = out (.isub h b) false fun g j => x g j - y g j) ∧
    (vecOk s (.isubI h imm) w = true → exec (.isubI h imm) s = out (.isubI h imm) false fun g j => x g j - k) ∧
    (vecOk s (.imul h b sat) w = true → exec (.imul h b sat) s = out (.imul h b sat) sat fun g j => x g j * y g j) ∧
    (vecOk s (.imad h b c sat) w = true →
      exec (.imad h b c sat) s = out (.imad h b c sat) sat fun g j => x g j * y g j + z g j) ∧
    (vecOk s (.iadds h b) w = true → exec (.iadds h b) s = out (.iadds h b) true fun g j => x g j + y g j) ∧
    (vecOk s (.isubs h b) w = true → exec (.isubs h b) s = out (.isubs h b) true fun g j => x g j - y g j) ∧
    (vecOk s (.imin h b) w = true → exec (.imin h b) s = out (.imin h b) false fun g j => min (x g j) (y g j)) ∧
    (vecOk s (.iminI h imm) w = true → exec (.iminI h imm) s = out (.iminI h imm) false fun g j => min (x g j) k) ∧
    (vecOk s (.imax h b) w = true → exec (.imax h b) s = out (.imax h b) false fun g j => max (x g j) (y g j)) ∧
    (vecOk s (.imaxI h imm) w = true → exec (.imaxI h imm) s = out (.imaxI h imm) false fun g j => max (x g j) k) ∧
    (vecOk s (.iabs h sat) w = true → exec (.iabs h sat) s = out (.iabs h sat) sat fun g j => ((x g j).natAbs : Int))) ∧
  (∀ (s : State) (h : VHead) (b imm : Nat) (sat : Bool) (cc : Cond),
    let w := h.ty.width
    let x := intElem s.me h.ty h.a
    let y := intElem s.me h.ty b
    let k := sx 16 imm
    let out := fun (i : Instr) (sat : Bool) (f : Nat → Nat → Int) =>
      Host.Outcome.next (φ := Fault) (ρ := Refusal) (s.vecOut i h 2 fun g j => deliverInt h.ty sat (f g j))
    (vecOk s (.iand h b) w = true → exec (.iand h b) s = out (.iand h b) false fun g j => (low (x g j) w &&& low (y g j) w : Nat)) ∧
    (vecOk s (.iandI h imm) w = true → exec (.iandI h imm) s = out (.iandI h imm) false fun g j => (low (x g j) w &&& low k w : Nat)) ∧
    (vecOk s (.ior h b) w = true → exec (.ior h b) s = out (.ior h b) false fun g j => (low (x g j) w ||| low (y g j) w : Nat)) ∧
    (vecOk s (.iorI h imm) w = true → exec (.iorI h imm) s = out (.iorI h imm) false fun g j => (low (x g j) w ||| low k w : Nat)) ∧
    (vecOk s (.ixor h b) w = true → exec (.ixor h b) s = out (.ixor h b) false fun g j => (low (x g j) w ^^^ low (y g j) w : Nat)) ∧
    (vecOk s (.ixorI h imm) w = true → exec (.ixorI h imm) s = out (.ixorI h imm) false fun g j => (low (x g j) w ^^^ low k w : Nat)) ∧
    (vecOk s (.ishl h b sat) w = true →
      exec (.ishl h b sat) s = out (.ishl h b sat) sat fun g j => x g j * (2 ^ low (y g j) 8 : Nat)) ∧
    (vecOk s (.ishlI h imm) w = true → exec (.ishlI h imm) s = out (.ishlI h imm) false fun g j => x g j * (2 ^ low k 8 : Nat)) ∧
    (vecOk s (.ishr h b) w = true → exec (.ishr h b) s = out (.ishr h b) false fun g j => x g j / (2 ^ low (y g j) 8 : Nat)) ∧
    (vecOk s (.ishrI h imm) w = true → exec (.ishrI h imm) s = out (.ishrI h imm) false fun g j => x g j / (2 ^ low k 8 : Nat)) ∧
    (vecOk s (.icmp cc h b) w = true →
      exec (.icmp cc h b) s = .next (s.predResult (.icmp cc h b) h 2 fun g j => (Cond.holds cc (x g j) (y g j), 0))) ∧
    (vecOk s (.icmpI cc h imm) w = true →
      exec (.icmpI cc h imm) s = .next (s.predResult (.icmpI cc h imm) h 2 fun g j => (Cond.holds cc (x g j) k, 0))) ∧
    (vecOk s (.ipopc h) w = true →
      exec (.ipopc h) s = .next (s.vecOut (.ipopc h) h 2 fun g j => (popCount (srcElem s.me h.ty h.a g j) w, 0))))

/-- R226 to R228: moves, broadcasts, selection, permutation and shuffles of the elements of a lanegroup, and one lane moved to or
from an x register. R229, R230, R70, R71: `xcopy` and `xbcast` copy a lanegroup of A to those of the mask in 2 bundles and one for
each hop of the longest way; with four copies in flight one more raises SCHEDVIOL, path 3. -/
def Obligations.VectorMoves : Prop :=
  (∀ (s : State) (h : VHead) (b c imm lane lgm pr d : Nat) (ty : ElemType),
    let st := s.me
    let w := h.ty.width
    let p := srcElem st h.ty h.a
    let q := srcElem st h.ty b
    let g0 := lowGroup h.lgm
    let e := 32 * lane / w
    (vecOk s (.vmov h) w = true → exec (.vmov h) s = .next (s.vecOut (.vmov h) h 2 fun g j => (p g j, 0))) ∧
    (vecOk s (.vmovi lgm pr d ty imm) ty.width = true → exec (.vmovi lgm pr d ty imm) s =
      .next (s.vecOut (.vmovi lgm pr d ty imm) { lgm := lgm, pr := pr, d := d, a := 0, ty := ty } 2 fun _ _ => (imm % 2 ^ ty.width, 0))) ∧
    (vecOk s (.vbcast h) w = true → exec (.vbcast h) s = .next (s.vecOut (.vbcast h) h 2 fun _ _ => (st.xGet h.a % 2 ^ w, 0))) ∧
    (vecOk s (.vsel h b c) w = true → exec (.vsel h b c) s =
      .next (s.vecOut (.vsel h b c) h 2 fun g j => (if elemActive w (st.pGet c g) j then p g j else q g j, 0))) ∧
    (vecOk s (.vperm h b) w = true →
      exec (.vperm h b) s = .next (s.vecOut (.vperm h b) h 3 fun g j => (p g (q g j % (512 / w)), 0))) ∧
    (vecOk s (.vshuf h imm) w = true → exec (.vshuf h imm) s = .next (s.vecOut (.vshuf h imm) h 3 fun g j =>
      ((shufFrom (imm % 16) (imm / 16) (512 / w) j).elim 0 (p g), 0))) ∧
    (vecOk s (.vext h lane) w = true → elemActive w (st.pGet h.pr g0) e = true → exec (.vext h lane) s =
      .next ((s.popped (.vext h lane) w).postX 2 h.d (low (intElem st h.ty h.a g0 e) 64))) ∧
    (vecOk s (.vext h lane) w = true → elemActive w (st.pGet h.pr g0) e = false →
      exec (.vext h lane) s = .next (s.popped (.vext h lane) w)) ∧
    (vecOk s (.vins h lane) w = true → elemActive w (st.pGet h.pr g0) e = true → exec (.vins h lane) s =
      .next (postV (s.popped (.vins h lane) w) 2 h.d h.lgm fun _ =>
        { mask := (2 ^ (w / 8) - 1) * 2 ^ (w / 8 * e), val := st.xGet h.a % 2 ^ w * 2 ^ (w * e) })) ∧
    (vecOk s (.vins h lane) w = true → elemActive w (st.pGet h.pr g0) e = false →
      exec (.vins h lane) s = .next (s.popped (.vins h lane) w))) ∧
  (∀ (s : State) (h : VHead) (src : Nat) (i : Instr), i = .xcopy h src ∨ i = .xbcast h src →
    vecOk s i h.ty.width [src] = true →
    let flying := (s.me.dbuf.filter (·.ring)).length
    let hops := (groups h.lgm).map fun g => min ((src + 8 - g) % 8) ((g + 8 - src) % 8)
    (4 ≤ flying → exec i s = .next (s.endTrap 0x40 3)) ∧
    (flying < 4 → ∃ t p, exec i s = .next t ∧ t.me = { s.me with dbuf := s.me.dbuf ++ [p] } ∧ t.mem = s.mem ∧
      p.kind = .v ∧ p.reg = s.me.vIdx h.d ∧ p.lgm = h.lgm ∧ p.ring = true ∧
      (∃ k, p.due = s.me.count + 2 + k ∧ (∀ n ∈ hops, n ≤ k) ∧ (k = 0 ∨ k ∈ hops)) ∧
      ∀ g < 8, elem 512 p.value.toNat g = if bit h.lgm g then
        (laneOut h.ty.width (s.me.pGet h.pr g) fun j => (elem h.ty.width (s.me.vGet h.a src) j, 0)).val % 2 ^ 512 else 0))

/-- R102, R231: `vred` combines the active elements of a lanegroup by a tree of neighbours and writes the result to every element,
in 5 bundles; a sum over fewer elements takes -0 or 0 for the others, minimum and maximum what leaves them unchanged. R232, R233:
predicate forms write the lanes that PR covers in 1 bundle; votes over the masked lanes that PR covers. -/
def Obligations.ReductionsAndVotes : Prop :=
  (∀ (s : State) (op : RedOp) (h : VHead),
    let st := s.me
    let w := h.ty.width
    let r := fun g => treeReduce (redNode st op h.ty) ((List.range (512 / w)).map fun j =>
      (if elemActive w (st.pGet h.pr g) j then srcElem st h.ty h.a g j else redNeutral op h.ty, 0))
    vecOk s (.vred op h) w = true →
    exec (.vred op h) s = .next (postV (s.popped (.vred op h) w) 5 h.d h.lgm fun g =>
      wholeOut (ofElems w (List.replicate (512 / w) (r g).1)) (r g).2)) ∧
  (∀ (s : State) (lgm pr d a b : Nat),
    let st := s.me
    let out := fun (i : Instr) (f : Nat → Nat) => Host.Outcome.next (φ := Fault) (ρ := Refusal)
      (postP (s.popped i 32) 1 d lgm fun g => { mask := st.pGet pr g, val := f g % 2 ^ 16 })
    let count := ((groups lgm).map fun g => popCount (st.pGet pr g &&& st.pGet a g) 16).sum
    let lanes := ((groups lgm).map fun g => popCount (st.pGet pr g) 16).sum
    (vecOk s (.pand lgm pr d a b) 32 = true → exec (.pand lgm pr d a b) s = out (.pand lgm pr d a b) fun g => st.pGet a g &&& st.pGet b g) ∧
    (vecOk s (.por lgm pr d a b) 32 = true → exec (.por lgm pr d a b) s = out (.por lgm pr d a b) fun g => st.pGet a g ||| st.pGet b g) ∧
    (vecOk s (.pxor lgm pr d a b) 32 = true → exec (.pxor lgm pr d a b) s = out (.pxor lgm pr d a b) fun g => st.pGet a g ^^^ st.pGet b g) ∧
    (vecOk s (.pnot lgm pr d a) 32 = true → exec (.pnot lgm pr d a) s = out (.pnot lgm pr d a) fun g => 2 ^ 16 - 1 - st.pGet a g) ∧
    (vecOk s (.pmov lgm pr d a) 32 = true → exec (.pmov lgm pr d a) s = out (.pmov lgm pr d a) fun g => st.pGet a g) ∧
    (vecOk s (.vany lgm pr d a) 32 = true →
      exec (.vany lgm pr d a) s = .next ((s.popped (.vany lgm pr d a) 32).postC 2 d (decide (0 < count)))) ∧
    (vecOk s (.vall lgm pr d a) 32 = true →
      exec (.vall lgm pr d a) s = .next ((s.popped (.vall lgm pr d a) 32).postC 2 d (count == lanes))) ∧
    (vecOk s (.pcnt lgm pr d a) 32 = true →
      exec (.pcnt lgm pr d a) s = .next ((s.popped (.pcnt lgm pr d a) 32).postX 1 d count)))

/-- R234 to R239: a line of `acc` read into a v register in 3 bundles, written in 2, cleared in 2, converted in 4; a row that a
call not yet joined uses raises SCHEDVIOL, path 0. -/
def Obligations.AccLines : Prop :=
  ∀ (s : State) (lgm pr v idx : Nat) (dir : AccDir) (ty sty : ElemType),
    let st := s.me
    let rows := accRows dir idx lgm
    let free := rows.any s.myCore.busyRow = false
    let line := fun (lat : Nat) (t : State) (f : Nat → LaneOut) => t = postLine s lat lgm dir idx f ∧
      ∃ p, t.me = { st with dbuf := st.dbuf ++ [p] } ∧ p.kind = .acc ∧ p.dir = dir ∧ p.idx = idx ∧ p.due = st.count + lat
    (vecOk s (.accrd lgm pr v dir idx ty) ty.width = true → free → exec (.accrd lgm pr v dir idx ty) s = .next (postV s 3 v lgm fun g =>
      laneOut ty.width (st.pGet pr g) fun j =>
        (elem ty.width (ofElems 32 ((List.range 16).map fun l => lineElem s.myCore dir idx (16 * g + l))) j, 0))) ∧
    (vecOk s (.accwr lgm pr v dir idx ty) ty.width = true → free → ∃ t, exec (.accwr lgm pr v dir idx ty) s = .next t ∧
      line 2 t fun g => laneOut ty.width (st.pGet pr g) fun j => (elem ty.width (st.vGet v g) j, 0)) ∧
    (vecOk s (.accclr lgm pr dir idx false) 32 = true → free → ∃ t, exec (.accclr lgm pr dir idx false) s = .next t ∧
      line 2 t fun g => laneOut 32 (st.pGet pr g) fun _ => (0, 0)) ∧
    (vecOk s (.accclr lgm pr dir idx true) 32 = true → (List.range 128).any s.myCore.busyRow = false →
      exec (.accclr lgm pr dir idx true) s = .next (s.post 2 { kind := .accAll, reg := 0, lgm := 255, due := 0 })) ∧
    (vecOk s (.acccvt lgm pr dir idx ty sty) 32 = true → free → ∃ t, exec (.acccvt lgm pr dir idx ty sty) s = .next t ∧
      line 4 t fun g => laneOut 32 (st.pGet pr g) fun l =>
        cvtElem ty sty st.rmCvt st.ftz st.sat (lineElem s.myCore dir idx (16 * g + l))) ∧
    (vecOk s (.accrd lgm pr v dir idx ty) ty.width = true → ¬ free →
      exec (.accrd lgm pr v dir idx ty) s = .next (s.endTrap 0x40 0))

/-! ### The MX and XF slots -/

/-- R240 to R248: `mset` and `mseti` deliver a call parameter in 1 bundle; `mcall` joins the call queue with its captured
parameters, FMT and grade, and with four calls not joined, or a pending write of one of its rows, raises SCHEDVIOL, path 0; `mstat`
and `mchk` read how the calls stand. R110, R243, R250, R254: the oldest call that has not ended starts with the sequencer's
registers as the rule gives them, or with the fault that the first block of a streamed operand meets, or waits for its page; it ends
when its routine has stopped; rails that settle let the waiting pass start, but not during a kiln hold. -/
def Obligations.MatrixCalls : Prop :=
  (∀ (s : State) (mp x imm idx c : Nat),
    let st := s.me
    let core := s.myCore
    let caught := (List.range 8).map fun r => if st.mpOk r then st.mpGet r else 0
    let busy := busySet (core.routineOps idx) caught
    let clash := st.dbuf.any fun p => p.accRows.any busy.contains
    (formOk s (.mset mp x) = true → exec (.mset mp x) s =
      .next (s.post 1 { kind := .mp, reg := mp, due := 0, value := BitVec.ofNat 4096 (st.xGet x) })) ∧
    (formOk s (.mseti mp imm) = true → exec (.mseti mp imm) s =
      .next (s.post 1 { kind := .mp, reg := mp, due := 0, value := BitVec.ofNat 4096 (low (sx 32 imm) 64) })) ∧
    (formOk s (.mcall idx) = true → core.calls.length < 4 → clash = false → exec (.mcall idx) s =
      .next (s.setMyCore { core with calls := core.calls ++
        [{ sid := s.cur, idx := idx, mp := caught, fmt := st.fmt.toNat,
           grade := min (field st.carat.toNat 0 2) (field (st.mpGet 7) 0 2), rpl := bit (st.mpGet 7) 2, busy := busy,
           seq := st.seq }] })) ∧
    (formOk s (.mcall idx) = true → 4 ≤ core.calls.length ∨ clash = true → exec (.mcall idx) s = .next (s.endTrap 0x40 0)) ∧
    (formOk s (.mstat x) = true → core.running = none → exec (.mstat x) s =
      .next (s.postX 1 x (min core.calls.length 4 + 2 ^ 20 * min core.rowq.length 4 + 2 ^ 23 * min core.trClosed.length 2))) ∧
    (formOk s (.mstat x) = true → ∀ m, core.running = some m → exec (.mstat x) s =
      .next (s.postX 1 x (min core.calls.length 4 + (2 ^ 3 + 2 ^ 4 * m.idx + 2 ^ 10 * (core.seqr.upc % 512)
        + 2 ^ 19 * ofBit core.seqr.railWait) + 2 ^ 20 * min core.rowq.length 4 + 2 ^ 23 * min core.trClosed.length 2))) ∧
    (formOk s (.mchk c) = true → exec (.mchk c) s = .next (s.postC 1 c (core.calls.all (·.ended))))) ∧
  (∀ (s : State) (core sid : Nat) (m : MCall),
    let c := s.core core
    (c.owner = some sid → c.calls.find? (fun m => !m.ended) = some m → m.started = false → s.unitsOn core = true →
      startBlocks { s with cur := sid } m = none → ∃ t, exec (.mcallStart core) s = .next t ∧
      (t.core core).seqr = { running := true, upc := ((c.routine m.idx).map (·.1)).getD 0, a := none, m := 0, b := none, kappa := 0,
                             pl := 8, lj := 0, lk := 0, sc := 0x3F800000, cv := none, beta := [] } ∧
      (t.core core).calls = c.calls.map (fun x => if x.seq = m.seq then { x with started := true } else x) ∧ t.mem = s.mem) ∧
    (c.owner = some sid → c.calls.find? (fun m => !m.ended) = some m → m.started = false → s.unitsOn core = true →
      ∀ x i, startBlocks { s with cur := sid } m = some (.fault x i) → ∃ t, exec (.mcallStart core) s = .next t ∧
      (t.core core).seqr = {} ∧ (t.core core).calls = c.calls.map (fun y =>
        if y.seq = m.seq then { y with started := true, faults := y.faults ++ [{ cause := x, info := i }] } else y) ∧ t.mem = s.mem) ∧
    (c.owner = some sid → c.calls.find? (fun m => !m.ended) = some m → m.started = false → s.unitsOn core = true →
      ∀ u, startBlocks { s with cur := sid } m = some (.wait u) → exec (.mcallStart core) s = .next { u with cur := s.cur }) ∧
    (c.seqr.running = true → exec (.mcallEnd core) s = .next s) ∧
    (c.seqr.running = false → exec (.mcallEnd core) s = .next (s.setCore core
      { c with calls := c.calls.map fun m => if m.started then { m with ended := true } else m })) ∧
    (c.seqr.railWait = true → c.running = some m → s.power.kiln = .running → exec (.railSettled core) s = .next (s.setCore core
      { c with rails := c.seqr.grade c.forced m, seqr := { c.seqr with railWait := false } })) ∧
    (c.seqr.railWait = true → c.running = some m → s.power.kiln ≠ .running → exec (.railSettled core) s = .next s))

/-- R261 to R264: `trpush` stores a row and, with index 15, closes the batch unless two are closed; `trpop` takes its column from
the batch whose window holds the count, due when the unit gives it; `trcfg` sets the width of an empty unit; what does not fit
raises SCHEDVIOL, path 1. -/
def Obligations.Transposes : Prop :=
  ∀ (s : State) (v idx : Nat) (ty : ElemType), s.lanesOn (List.range 8) = true →
    let c := s.myCore
    let n := s.me.sbc
    let old := c.trOpen.getD { width := c.trWidth }
    let filled := { old with rows := SMap.insert old.rows idx (s.me.vRaw v) }
    (formOk s (.trpush v idx) = true → idx ≠ 15 →
      exec (.trpush v idx) s = .next (s.setMyCore { c with trOpen := some filled })) ∧
    (formOk s (.trpush v idx) = true → idx = 15 → c.trClosed.length < 2 → exec (.trpush v idx) s =
      .next (s.setMyCore { c with trOpen := none, trClosed := c.trClosed ++ [{ filled with closed := n }] })) ∧
    (formOk s (.trpush v idx) = true → idx = 15 → 2 ≤ c.trClosed.length → exec (.trpush v idx) s = .next (s.endTrap 0x40 1)) ∧
    (formOk s (.trpop v idx) = true → ∀ b, c.trClosed.find? (·.gives idx n) = some b → ∃ t, exec (.trpop v idx) s = .next t ∧
      (b.closed < n ∧ n ≤ b.closed + 7 + idx ∧ bit b.popped idx = false) ∧ ∃ p, t.me = { s.me with dbuf := s.me.dbuf ++ [p] } ∧
      p.kind = .v ∧ p.reg = s.me.vIdx v ∧ p.lgm = 255 ∧ p.due = s.me.count + (b.closed + 8 + idx - n) ∧
      ∀ g < 8, elem 512 p.value.toNat g = b.column idx g % 2 ^ 512) ∧
    (formOk s (.trpop v idx) = true → c.trClosed.find? (·.gives idx n) = none →
      exec (.trpop v idx) s = .next (s.endTrap 0x40 1)) ∧
    (formOk s (.trcfg ty) = true → c.trOpen = none → c.trClosed = [] →
      exec (.trcfg ty) s = .next (s.setMyCore { c with trWidth := ty.width })) ∧
    (formOk s (.trcfg ty) = true → c.trOpen ≠ none ∨ c.trClosed ≠ [] → exec (.trcfg ty) s = .next (s.endTrap 0x40 1)) ∧
    (∀ core sid, (s.core core).owner = some sid → exec (.transposeRetire core) s = .next (s.setCore core
      { s.core core with trClosed := (s.core core).trClosed.filter fun b =>
          b.popped != 2 ^ 16 - 1 && decide ((s.strand sid).sbc ≤ b.closed + 22) }))

/-- R266 to R268, R272: a row-engine command on tiles of the core's own scratchpad, one shape, floating types, joins a queue of
four; a handle that does not fit raises HANDLE with it, a fifth command SCHEDVIOL, path 2. Bytes of a table image that an unjoined
call's drains wrote are old or new (R246). R265, R268: the row engine of a strand that waits at a `join` whose mark named it, or at
`halt`, goes on: the oldest command takes its next step, and leaves the queue with its last; with no command it stays. -/
def Obligations.RowEngine : Prop :=
  (∀ (s : State) (ha hd tb : Nat) (rms : Bool) (a d : Tile),
    let c := s.myCore
    let queued := fun (op : RowOp) (x y : Nat) => Host.Outcome.next (φ := Fault) (ρ := Refusal)
      (s.setMyCore { c with rowq := c.rowq ++ [{ op := op, ha := x, hd := y, seq := s.me.seq, issued := s.me.sbc }] })
    let pair := rowTile s ha true = some a ∧ rowTile s hd true = some d ∧ a.rows = d.rows ∧ a.cols = d.cols
    let v := c.raceView s.tick
    let image := rowTile s ha false = some a ∧ 8 * 3104 ≤ a.rows * (a.cols * a.ety.width) ∧ v.denseByte a 20 < 16 ∧
      ∀ j < 11, v.denseByte a (21 + j) = 0
    (formOk s (.resm ha hd) = true → pair → c.rowq.length < 4 → exec (.resm ha hd) s = queued .resm ha hd) ∧
    (formOk s (.renorm ha hd rms) = true → pair → c.rowq.length < 4 → exec (.renorm ha hd rms) s = queued (.renorm rms) ha hd) ∧
    (formOk s (.retab ha hd tb) = true → pair → c.rowq.length < 4 → exec (.retab ha hd tb) s = queued (.retab tb) ha hd) ∧
    (formOk s (.retload ha tb) = true → image → c.rowq.length < 4 → exec (.retload ha tb) s = queued (.retload tb) ha ha) ∧
    (formOk s (.resm ha hd) = true → pair → 4 ≤ c.rowq.length → exec (.resm ha hd) s = .next (s.endTrap 0x40 2)) ∧
    (formOk s (.resm ha hd) = true → rowTile s ha true = none → exec (.resm ha hd) s = .next (s.endTrap 0x04 ha)) ∧
    (formOk s (.retload ha tb) = true → rowTile s ha false = none → exec (.retload ha tb) s = .next (s.endTrap 0x04 ha))) ∧
  (∀ (s : State) (core sid : Nat) (c : RowCmd) (rest : List RowCmd) (ha hd : Tile),
    let st := s.strand sid
    let k := (s.core core).rowq
    (s.core core).owner = some sid → s.unitsOn core = true →
    st.stall = some .halt ∨ (st.stall = some .markers ∧ st.joinMarkers.any (fun m => m.queue == 3) = true) →
    (k = [] → exec (.rowEngineStep core) s = .next s) ∧
    (k = c :: rest → c.issued ≤ st.sbc → SMap.find (s.cluster (core / 8)).tiles c.ha = some ha →
      SMap.find (s.cluster (core / 8)).tiles c.hd = some hd → ∃ t, exec (.rowEngineStep core) s = .next t ∧ t.mem = s.mem ∧
      (c.step + 1 < c.op.steps ha → ∃ c', (t.core core).rowq = c' :: rest ∧ c'.step = c.step + 1 ∧ c'.op = c.op ∧ c'.ha = c.ha ∧
        c'.hd = c.hd) ∧
      (c.op.steps ha ≤ c.step + 1 → (t.core core).rowq = rest)))

/-! ### Micro-operations -/

/-- R250, R254, R255, R260: the micro-operations that set the sequencer's registers go on at the next word; a descriptor that does
not fit ends the call with a HANDLE record; `mloop` and `mend` count their loop and jump. -/
def Obligations.MicroControl : Prop :=
  ∀ (s : State) (ma mb n : Nat), callRuns s = true →
    let q := s.seqr
    let m := s.call
    let d := m.param ma
    let e := m.param mb
    let at_ := fun (q : Sequencer) (u : Nat) => Host.Outcome.next (φ := Fault) (ρ := Refusal) (s.setSeqr { q with upc := u })
    (∀ t, descTile s d .loc = some t → dMram d = false → dRow d < t.rows → dAr d + n ≤ (if t.ety = .f64 then 64 else 128) →
      exec (.aload ma n) s = at_ { q with a := some d, m := n } (q.upc + 1)) ∧
    (∀ t, descTile s d .bstack = some t → dMram d = false → dCol d < t.cols → t.poisoned = false →
      exec (.bsel ma) s = at_ { q with b := some d, kappa := 0 } (q.upc + 1)) ∧
    (dMram d = true → (dMramTy d).any mramType = true → exec (.bsel ma) s = at_ { q with b := some d, kappa := 0 } (q.upc + 1)) ∧
    (exec (.planes n) s = at_ { q with pl := n } (q.upc + 1)) ∧
    (exec (.limb n) s = at_ { q with lj := n % 8, lk := n / 8 % 8 } (q.upc + 1)) ∧
    (e = 2 ^ 63 → exec (.scale ma mb) s = at_ { q with sc := d % 2 ^ 32, cv := none } (q.upc + 1)) ∧
    (∀ t, e ≠ 2 ^ 63 → descTile s e .loc = some t → dMram e = false → t.ety = .f32 → dCol e + 128 ≤ t.cols →
      exec (.scale ma mb) s = at_ { q with sc := d % 2 ^ 32, cv := some e } (q.upc + 1)) ∧
    (0 < n → exec (.mloop (.imm n)) s = at_ { q with loops := (n, q.upc + 1) :: q.loops } (q.upc + 1)) ∧
    (0 < d % 2 ^ 32 → exec (.mloop (.mp ma)) s = at_ { q with loops := (d % 2 ^ 32, q.upc + 1) :: q.loops } (q.upc + 1)) ∧
    (d % 2 ^ 32 = 0 → exec (.mloop (.mp ma)) s = at_ q (afterMend s.myCore 512 (q.upc + 1) 0)) ∧
    (∀ k b ls, q.loops = (k, b) :: ls → 1 < k → exec (.mend n) s = at_ { q with loops := (k - 1, b) :: ls } n) ∧
    (∀ k b ls, q.loops = (k, b) :: ls → k ≤ 1 → exec (.mend n) s = at_ { q with loops := ls } (q.upc + 1)) ∧
    (exec (.mwait n) s = at_ q (q.upc + 1)) ∧
    (exec .msync s = .next (s.nextWord (s.onCall fun m => { m with unsynced := [] }))) ∧
    (exec .mret s = at_ { q with running := false } (q.upc + 1)) ∧
    (descTile s d .loc = none → exec (.aload ma n) s = .next
      (let t := s.onCall fun m => { m with faults := m.faults ++ [{ cause := 0x04, info := 2 ^ 64 - 256 + d % 256 }] }
       t.setSeqr { t.seqr with running := false }))

/-- R255 to R259: `accz` zeroes rows and makes them valid; `accm` merges what the passes left into `acc` and clears it; `drain`
writes a tile; `chk` passes where every count held with the tile is its planes' count, and otherwise poisons the tile and ends the
call; of a streamed block, whose counts are formed as it arrives, it only reads the block (R250). R258, R246: `drain` leaves in
element (ROW + i, COL + j) of its tile what it computes of the `acc` element of vector i and column j; where another agent wrote the
element's line since the call was issued, that or the old element. The tile's rows do not overlap. -/
def Obligations.MicroAcc : Prop :=
  (∀ (s : State) (ma n : Nat) (d o : Nat) (t : Tile), callRuns s = true → s.seqr.a = some d →
    let q := s.seqr
    let m := s.call
    let c := s.myCore
    let k := 64 * q.kappa + dRow o
    let held := ∀ i < 64, k + i < t.rows → ∀ st ∈ readStrips t.ety q.pl q.lk,
      c.planeCount t (k + i) st.1 = SMap.get c.counts (stripKey t (k + i) st.1) 0
    let block := fun ty => readBlock s ty (dMramAddr o + q.kappa * blockBytes ty)
    (∃ u, exec (.accz n) s = .next u ∧ u.seqr = { q with upc := q.upc + 1 } ∧
      ∀ r < 128, (dAr d ≤ r ∧ r < dAr d + n → u.myCore.accv.getLsbD r = true ∧ ∀ j, u.myCore.accGet r j = 0) ∧
        (¬(dAr d ≤ r ∧ r < dAr d + n) → u.myCore.accv.getLsbD r = c.accv.getLsbD r ∧ ∀ j, u.myCore.accGet r j = c.accGet r j)) ∧
    (q.mode = some (n % 4) → ∃ u, exec (.accm n) s = .next u ∧ u.seqr = { q with beta := [], mode := none, upc := q.upc + 1 } ∧
      (n % 4 ≤ 2 → q.m ≤ 128 → dAr d + q.m ≤ 128 → ∀ i < q.m, ∀ j < 128, u.myCore.accv.getLsbD (dAr d + i) = true ∧
        u.myCore.accGet (dAr d + i) j = (mergeElem (n % 4) (bit n 2) (if c.accv.getLsbD (dAr d + i) then c.accGet (dAr d + i) j else 0)
          (SMap.get q.beta (128 * i + j) {})).1 % 2 ^ 32)) ∧
    (descTile s (m.param ma) .loc = some t → dMram (m.param ma) = false → t.ety.isPlain = true → dRow (m.param ma) < t.rows →
      dCol (m.param ma) < t.cols → dAr (m.param ma) + q.m ≤ (if n % 4 = 2 then 64 else 128) →
      ∃ u, exec (.drain ma n) s = .next u ∧ u.seqr = { q with upc := q.upc + 1 } ∧ u.mem = s.mem ∧
        (bit n 4 = false → u.myCore.acc = c.acc)) ∧
    (q.b = some o → dMram o = true → ∀ ty, dMramTy o = some ty →
      (∀ bs, block ty = .bytes bs → exec .chk s = .next (s.setSeqr { q with upc := q.upc + 1 })) ∧
      (∀ u, block ty = .wait u → exec .chk s = .next u) ∧
      (∀ x i, block ty = .fault x i → ∃ u, exec .chk s = .next u ∧ u.seqr.running = false ∧ u.mem = s.mem)) ∧
    (q.b = some o → dMram o = false → SMap.find s.myCluster.tiles (dH o) = some t → held →
      exec .chk s = .next (s.setSeqr { q with upc := q.upc + 1 })) ∧
    (q.b = some o → dMram o = false → SMap.find s.myCluster.tiles (dH o) = some t → ¬ held → ∃ u, exec .chk s = .next u ∧
      u.seqr.running = false ∧ SMap.find u.myCluster.tiles (dH o) = some { t with poisoned := true })) ∧
  (∀ (s : State) (ma n i j : Nat) (t : Tile), callRuns s = true → s.seqr.a ≠ none →
    let q := s.seqr
    let d := s.call.param ma
    let apart := ∀ l ∈ t.elemLines (dRow d + i) (dCol d + j) 1, SMap.find s.call.touched l = none
    descTile s d .loc = some t → dMram d = false → t.ety.isPlain = true → dAr d + q.m ≤ (if n % 4 = 2 then 64 else 128) →
    t.cols * t.ety.width ≤ 512 * t.pitch → i < q.m → j < 128 → dRow d + i < t.rows → dCol d + j < t.cols → bit n 4 = false →
    ∃ u, exec (.drain ma n) s = .next u ∧
      (u.myCore.tileElem t (dRow d + i) (dCol d + j) =
        (drainElem (n % 4) q.pl (bit n 3) (drainFactors s s.call q (bit n 2) j) t.ety (drainSource s.myCore (n % 4) (dAr d) i j)).1
          % 2 ^ t.ety.width ∨
        (¬ apart ∧ u.myCore.tileElem t (dRow d + i) (dCol d + j) = s.myCore.tileElem t (dRow d + i) (dCol d + j))))

/-- R256, R110, R111, R115, R118, R125, R126: a pass whose operands fit waits while the rails stand looser than its grade, which its
first run fixes; a run with a late transition in a band at VNOM is made again, at most three times, its credits kept; one within
tolerance leaves beta with the products of every element added and kappa advanced with ADV, and credits its call; one beyond it is
made again at 24k where the call asks so, once, or leaves a CHECKSUM record. Which runs detect one is a free value of the model (log
11). R93 to R95, R107: the exact plane sum of a byte weight is a·b; the product of K planes is a·(2t + 1), t the first K bits; what
an undervolted plane contributes lies between 0 and its full term, and a plane at VNOM brings its term and what an event outside the
range of R108 adds (log 11). -/
def Obligations.PassRuns : Prop :=
  ((∀ (s : State) (n da mode : Nat) (ta : Tile) (b : BSource), callRuns s = true →
    passOperands s s.call s.seqr = .ok ta da b mode →
    let q := s.seqr
    let grade := q.grade s.myCore.forced s.call
    let s1 := (s.setMyCore { s.myCore with rails := grade }).noteGrades (2 ^ grade)
    let det := runDetections s1
    let hits := nominalHits det grade
    let r := runPass s1 (s.call.views s1.myCore) q (bit n 0) grade ta da b mode
    let credits := q.credits.add (runCredits det hits grade)
    let all := credits.add { resmax := r.rho.foldl max 0 }
    let done : Sequencer := { q with beta := r.beta, mode := some mode, kappa := if bit n 1 then q.kappa + 1 else q.kappa,
                                     upc := q.upc + 1, repeats := 0, force24 := false, railWait := false, passGrade := none, credits := {} }
    let ended := fun (u : State) (faults : List Deferred) => u.seqr = done ∧
      ∃ m, u.myCore.running = some m ∧ m = { s.call with flags := flOr s.call.flags r.flags, passes := s.call.passes + 1,
                                                          faults := s.call.faults ++ faults, credits := s.call.credits.add all }
    (grade < s.myCore.rails → exec (.pass n) s = .next (s.setSeqr { q with railWait := true })) ∧
    (s.myCore.rails ≤ grade → ∃ u, exec (.pass n) s = .next u ∧ (hits = [] ∨ q.repeats < 3 → u.mem = s.mem) ∧
      (hits = [] → worstVector r = none → ended u []) ∧
      (hits = [] → ∀ i rho, worstVector r = some (i, rho) → s.call.rpl = true → q.force24 = false →
        u.seqr = { q with force24 := true, passGrade := none, repeats := 0, credits := all.add { ckr := 1 } }) ∧
      (hits = [] → ∀ i rho, worstVector r = some (i, rho) → s.call.rpl = false ∨ q.force24 = true →
        ended u [{ cause := 0x0A, info := checksumInfo rho (dAr da + i) s.call.passes grade, rho := rho }]) ∧
      (hits ≠ [] → q.repeats < 3 →
        u.seqr = { q with passGrade := some grade, credits := credits, repeats := q.repeats + 1 }))) ∧
  (∀ (s : State) (views : Core × Core) (q : Sequencer) (first : Bool) (grade da mode : Nat) (ta : Tile) (b : BSource) (i n : Nat),
    i < q.m → n < 128 →
    SMap.get (runPass s views q first grade ta da b mode).beta (128 * i + n) {} =
        betaAdd mode (if first then {} else SMap.get q.beta (128 * i + n) {})
          ((passProducts s views q grade ta da b i n).map fun y => (y.value, y.special)) ∧
      (runPass s views q first grade ta da b mode).rho[i]? = some (residual b q.pl q.lk
        ((List.range 64).map fun kk => actSig ta.ety q.lj (passAct views s.tick ta da q.kappa i kk))
        ((List.range 128).map fun n => passProducts s views q grade ta da b i n)))) ∧
  ((∀ (a : Int) (p : Nat), p < 256 →
    exactSum a (weightOf .s8 0 127 p) (readPlanes .s8 8 0) = a * sx 8 p ∧
    exactSum a (weightOf .n8 0 127 p) (readPlanes .n8 8 0) = a * (p : Int)) ∧
  (∀ (a : Int) (p k : Nat), p < 256 → 2 ≤ k → k ≤ 8 → let w := weightOf .bp8 0 127 p
    (alignedProduct a 0 w (exactSum a w (readPlanes .bp8 k 0))).toInt = a * (2 * (sx 8 p / (2 ^ (8 - k) : Nat)) + 1)) ∧
  (∀ (grade row : Nat) (a free late : Int) (w : Weight) (p : Plane), let full := a * w.unit p
    (exposedSlot grade p.run p.place row = true →
      min full 0 ≤ planeTerm grade row a free late w p ∧ planeTerm grade row a free late w p ≤ max full 0) ∧
    (exposedSlot grade p.run p.place row = false →
      planeTerm grade row a free late w p = (if bit w.bits p.bit then full else 0) + late)) ∧
  (∀ (grade k j row : Nat), 0 < k → j < k →
    (exposedSlot grade k j row = true → exposedPlane grade k j = true) ∧
    (exposedPlane grade k j = true → (planeBands k j).1 = (planeBands k j).2 → exposedSlot grade k j row = true)))

/-! ### Tile access -/

/-- R281 to R286: `ld.sp` delivers the lines of a LOCAL tile to a v register in 4 bundles, padding as zero, `ld.b` the image of a
BSTACK tile in 1; a bank that the bundle's store or the row engine uses raises BANKCONF; poison is consumed: a POISON trap, or a
rollback (R198). A line that an unjoined matrix call wrote is old or new, element by element (R246). R282, R286, R197, R246: `st.sp`
writes the lines of a LOCAL tile at its own bundle, padding as zero; every other line of the scratchpad, memory and the strand stay;
unjoined matrix calls race with it; in a rollback loop the store waits in its buffer. R274, R281, R282: what a store of rows left in
a LOCAL tile, a load of the same elements finds: each lanegroup's bits up to the padding. -/
def Obligations.TileAccess : Prop :=
  (∀ (s : State) (t : TileArg),
    let c := s.myCore
    (formOk s (.ldSp t) = true → ∀ ms, spMoves s t = .ok ms → ldConflict s ms = none → s.lanesOn (groups t.lgm) = true →
      c.movesBad ms = false → exec (.ldSp t) s = .next (postLoad s 4 t.r t.lgm (moveValue (c.raceView s.tick) ms))) ∧
    (formOk s (.ldSp t) = true → ∀ cause info, spMoves s t = .error (cause, info) →
      exec (.ldSp t) s = .next (s.endTrap cause info)) ∧
    (formOk s (.ldSp t) = true → ∀ ms i, spMoves s t = .ok ms → ldConflict s ms = some i →
      exec (.ldSp t) s = .next (s.endTrap 0x03 i)) ∧
    (formOk s (.ldSp t) = true → ∀ ms, spMoves s t = .ok ms → ldConflict s ms = none → s.lanesOn (groups t.lgm) = true →
      c.movesBad ms = true →
      (s.me.rollbackTo s.iss.idx none = none → exec (.ldSp t) s = .next (s.endTrap 0x09 (2 ^ 63 + t.h))) ∧
      ∀ i, s.me.rollbackTo s.iss.idx none = some i → exec (.ldSp t) s = .next (s.endRollback i)) ∧
    (formOk s (.ldB t) = true → ∀ x, SMap.find s.myCluster.tiles t.h = some x → x.level = .bstack → x.core = localCore s.cur →
      tileIndex s.me t % 64 = 0 → (∀ g ∈ groups t.lgm, tileIndex s.me t + 64 * g < 64 * x.lines) →
      s.lanesOn (groups t.lgm) = true →
      let bad := x.poisoned || (groups t.lgm).any fun g => c.stackBad (64 * x.base + tileIndex s.me t + 64 * g) 64
      (bad = false → exec (.ldB t) s = .next (postLoad s 1 t.r t.lgm fun g => c.bLine (x.base + tileIndex s.me t / 64 + g))) ∧
      (bad = true → s.me.rollbackTo s.iss.idx none = none → exec (.ldB t) s = .next (s.endTrap 0x09 (2 ^ 63 + t.h))))) ∧
  (∀ (s : State) (t : TileArg) (ms : List Move), formOk s (.stSp t) = true → spMoves s t = .ok ms →
    s.lanesOn (groups t.lgm) = true →
    let c := s.myCore
    let st := s.me
    (st.inRollback s.iss.idx = false → stConflict s ms = none → ∃ u, exec (.stSp t) s = .next u ∧
      u = s.setMyCore (c.raceWrite (storeMoves c (fun g => st.vGet t.r g) ms) s.tick (moveLines ms)) ∧ u.mem = s.mem ∧
      u.strands = s.strands ∧ (c.calls = [] → u.myCore = storeMoves c (fun g => st.vGet t.r g) ms) ∧
      ∀ l, l ∉ moveLines ms → u.myCore.spLine l = c.spLine l) ∧
    (st.inRollback s.iss.idx = false → ∀ i, stConflict s ms = some i → exec (.stSp t) s = .next (s.endTrap 0x03 i)) ∧
    (st.inRollback s.iss.idx = true → exec (.stSp t) s = .next (s.setMe
      { st with stbuf := st.stbuf ++ [.tile st.storeIter t.h t.ty t.lgm (tileIndex st t) (st.vRaw t.r)] }))) ∧
  (∀ (c : Core) (t : Tile) (a : TileArg) (e : Nat) (ms : List Move) (f : Nat → Nat), 0 < t.pitch → 512 % a.ty.width = 0 →
    rowMoves t a e = .ok ms → ∀ m ∈ ms, moveValue (storeMoves c f ms) ms m.lg = f m.lg % 2 ^ 512 % 2 ^ m.real)

/-! ### Global access -/

/-- R292, R58: the checks on an address stand in this order: 52 bits (PERM), alignment to the element (ALIGN), translations that
have to be fetched (a wait), permission of each line (PERM), lanegroups (GATED, or a wait). R287 to R296: loads, gathers and atomics
give a stream register an entry and join a queue with their translated parts; `qbind` and `qfree` take effect when the bundle
commits. -/
def Obligations.GlobalLoads : Prop :=
  (∀ (s : State) (a len w : Nat) (write : Bool) (named : List Nat),
    let r := globalCheck s [a] [a] len w write named
    (2 ^ 52 ≤ a → r = some (.trap 0x06 a)) ∧
    (a < 2 ^ 52 → a % (w / 8) ≠ 0 → r = some (.trap 0x05 a)) ∧
    (a < 2 ^ 52 → a % (w / 8) = 0 → s.rangeWaits s.cur a len = true →
      ∃ va, s.waitAt s.cur a len = some va ∧ r = some (.stall (.translation va))) ∧
    (a < 2 ^ 52 → a % (w / 8) = 0 → s.rangeWaits s.cur a len = false → ∀ l,
      s.deniedAt s.cur a len write = some l → r = some (.trap 0x06 l)) ∧
    (r = none ↔ a < 2 ^ 52 ∧ a % (w / 8) = 0 ∧ s.lanesOn named = true ∧ s.rangeWaits s.cur a len = false ∧
      s.deniedAt s.cur a len write = none)) ∧
  (∀ (s : State) (d a b c : Nat) (ty : ElemType) (sc : Scope) (ord : Order) (off lgm ag : Nat) (op : AmoOp),
    let n := ty.width / 8
    let va := globalAddr (s.me.xGet a) off ty.width
    let rows := pairAddrs s.me a lgm
    let e := fun (a : Nat) (ps : List Part) => (s.newEntry d a ps).1
    let ga := (rows.map fun p => p.2.2).headD 0
    let tag := s.me.tagNext
    let ps := s.partsOf va 512 0 false []
    let gs := rows.flatMap fun p => s.partsOf p.2.2 n (64 * p.1 + n * p.2.1) false []
    let ops := fun (y : Nat) => (s.partsOf va n 0 true (toBytes (s.me.xGet b) n)).map fun p => { p with cmp := toBytes y n }
    let both := globalCheck s [va] [va] n ty.width false [] = none ∧ globalCheck s [va] [va] n ty.width true [] = none
    (formOk s (.ldG d a ty sc ord off) = true → qRoom s d = none → globalCheck s [va] [va] 512 ty.width false [] = none →
      s.me.lq.length < 32 → exec (.ldG d a ty sc ord off) s = .next ((e va ps).queueLoad
        { seq := 0, op := .load, sc := sc, ord := ord, q := d, tag := tag, ety := ty, addr := va, parts := ps })) ∧
    (formOk s (.gath d a ty sc ord lgm) = true → qRoom s d = none →
      globalCheck s (rows.map fun p => p.2.2) (rows.map fun p => p.2.2) n ty.width false (groups lgm) = none → s.me.lq.length < 32 →
      exec (.gath d a ty sc ord lgm) s = .next ((e ga gs).queueLoad
        { seq := 0, op := .gather, sc := sc, ord := ord, q := d, tag := tag, ety := ty, lgm := lgm, addr := ga, parts := gs })) ∧
    (formOk s (.amo op d a b ty sc ord off) = true → qRoom s d = none → both → s.me.storesHeld < 32 →
      exec (.amo op d a b ty sc ord off) s = .next ((e va []).queueStore
        { seq := 0, op := .amo op ty.isSigned, sc := sc, ord := ord,
          q := d, tag := tag, ety := ty, addr := va, dat := BitVec.ofNat 4096 (s.me.xGet b), parts := ops 0 })) ∧
    (formOk s (.cas d a b c ty sc ord off) = true → qRoom s d = none → both → s.me.storesHeld < 32 →
      exec (.cas d a b c ty sc ord off) s = .next ((e va []).queueStore
        { seq := 0, op := .cas ty.isSigned, sc := sc, ord := ord,
          q := d, tag := tag, ety := ty, addr := va, dat := BitVec.ofNat 4096 (s.me.xGet b), parts := ops (s.me.xGet c) })) ∧
    (formOk s (.qbind d ag ty) = true → exec (.qbind d ag ty) s = .next { s with iss := { s.iss with
      binds := s.iss.binds ++ [(d, { kind := .pattern, ety := ty, gen := s.me.agGet ag })] } }) ∧
    (formOk s (.qfree d) = true → exec (.qfree d) s = .next { s with iss := { s.iss with binds := s.iss.binds ++ [(d, {})] } }) ∧
    (formOk s (.ldG d a ty sc ord off) = true → (s.me.qGet d).kind = .pattern →
      exec (.ldG d a ty sc ord off) s = .next (s.endTrap 0x04 (0xFF + 2 ^ 8 * d))))

/-- R294, R197, R471: stores, scatters and stream stores join the store queue with their bytes, or the buffer of a rollback loop;
`ep.st` appends its bytes to the packet of its strand and window, sealed where address bit 6 is set. -/
def Obligations.GlobalStores : Prop :=
  ∀ (s : State) (vs : Bool) (a b : Nat) (ty : ElemType) (sc : Scope) (ord : Order) (off lgm : Nat),
    let st := s.me
    let n := ty.width / 8
    let va := globalAddr (st.xGet b) off ty.width
    let rs := if vs then (groups lgm).map fun g => (va + 64 * g, toBytes (st.vGet a g) 64) else [(va, toBytes (st.xGet a) n)]
    let len := if vs then 64 else n
    let named := if vs then groups lgm else []
    let dat := if vs then st.vRaw a else BitVec.ofNat 4096 (st.xGet a)
    let rows := pairAddrs st b lgm
    let room := st.inRollback s.iss.idx = true ∨ st.storesHeld < 32
    let q := (s.partsOf va 512 0 true (toBytes (headData st a).toNat 512)).map fun p => { p with
      poison := (List.range p.len).any fun i => (((st.qGet a).entries.head?.map QEntry.bad).getD 0).getLsbD (p.pos + i) }
    let g := s.group st.grp
    let bytes := (rs.map (·.2)).flatten
    let mine := s.link.packets.find? fun p =>
      !p.sealed && p.launch == st.launch && p.task == g.task && p.place == s.placeOf s.cur
        && p.window == (s.windowOf st.ctx va).getD 0
    (formOk s (.stG vs a b ty sc ord off lgm) = true → globalCheck s [va] (rs.map (·.1)) len ty.width true named = none → room →
      exec (.stG vs a b ty sc ord off lgm) s = .next (s.store
        { seq := 0, op := .store, sc := sc, ord := ord, ety := ty, lgm := lgm,
          addr := va, dat := dat, parts := rs.flatMap fun r => s.partsOf r.1 len 0 true r.2 })) ∧
    (formOk s (.scat a b ty sc ord lgm) = true →
      globalCheck s (rows.map fun p => p.2.2) (rows.map fun p => p.2.2) n ty.width true (groups lgm) = none → room →
      exec (.scat a b ty sc ord lgm) s = .next (s.store
        { seq := 0, op := .scatter, sc := sc, ord := ord, ety := ty, lgm := lgm,
          addr := (rows.map fun p => p.2.2).headD 0, addrs := st.vRaw b, dat := st.vRaw a, parts := rows.flatMap fun p =>
          s.partsOf p.2.2 n 0 true (toBytes (elem ty.width (st.vGet a p.1) p.2.1) n) })) ∧
    (formOk s (.qout a b ty sc ord off) = true → popAddress s a = none → globalCheck s [va] [va] 512 ty.width true [] = none →
      popWait s a = none → st.storesHeld < 32 → exec (.qout a b ty sc ord off) s = .next ((s.popQ a).store
        { seq := 0, op := .qstore, sc := sc, ord := ord, ety := ty, addr := va, dat := headData st a, parts := q })) ∧
    (formOk s (.epSt vs a b ty off lgm) = true → va < 2 ^ 52 → va % n = 0 → s.lanesOn named = true →
      s.needsWalk s.cur st.ctx va = false → ∀ w, s.windowOf st.ctx va = some w →
      (mine.map (·.data.length)).getD 0 + bytes.length ≤ 4096 → (SMap.find s.link.windows w).any (·.enabled) = true →
      mine.isSome = true ∨ s.openPackets < 256 → s.linkHeld (2 * dieOf s.cur + 1) = false → st.storesHeld < 32 →
      let t := s.appendPacket st.launch g.task (s.placeOf s.cur) w bytes (bit va 6)
      let parts : List Part := [{ va := va, len := bytes.length, pa := some 0 }]
      exec (.epSt vs a b ty off lgm) s = .next (t.1.queueStore
        { seq := 0, op := .epstore, q := w, tag := t.2, ety := ty, lgm := lgm,
          addr := va, dat := dat, parts := parts }))

/-- R25, R294 to R297, R416, R419: at its home a load part gets what its strand reads there, which in a launch without copies of its
arguments is what memory gives that reader; a store part at scope .sy, and an atomic, leave their bytes last in the coherence order and
every byte outside them as it was, a `cas` that does not match the value that it read; a part whose earlier accesses hold it back waits.
The line opens under the context's key (one that does not fails its line check, R332), and its route carries traffic (R459). -/
def Obligations.HomeService : Prop :=
  ∀ (s : State) (sid k part pa : Nat) (sc : Scope) (a : Access) (p : Part),
    let st := s.strand sid
    let old := s.mem.bytesLast pa p.data.length
    let key := (s.ctx a.ctx).keyId
    let r := s.readerOf sid a.seq
    let got := s.readLine r key pa p.len
    let seen := s.asCopied st.launch p.va (got.1, got.2 || p.bad)
    let p' := { p with data := seen.1, poison := seen.2, returned := true, level := 7 }
    let a' := (a.setPart part p').shareReads p'
    let new := (atomicValue a.op (8 * p.data.length) (ofBytes old) (ofBytes p.data) (ofBytes p.cmp)).map (toBytes · p.data.length)
    let wrote := fun (t : State) (bs : List Byte) =>
      (∀ i < bs.length, t.mem.byteLast (pa + i) = (bs[i]?).getD 0) ∧
      ∀ x, x < pa ∨ pa + bs.length ≤ x → t.mem.byteLast x = s.mem.byteLast x
    let fresh := (s.mem.narrow.map (·.wid)).Nodup ∧ ∀ w ∈ s.mem.narrow, w.wid < s.mem.wnext
    sid < 3072 → s.power.kiln ≠ .held ∨ s.power.lost = true → (st.lq ++ st.sq)[k]? = some a → a.parts[part]? = some p →
    (st.ahead k).any (s.awaitsEntry sid) = false →
    (mayServe (st.lq ++ st.sq) a p = false → exec (.homeAccess sid k part sc) s = .next s) ∧
    (mayServe (st.lq ++ st.sq) a p = true → p.pa = some pa → peerOf pa = none → isHost pa = false → s.routeOpen sid pa = true →
      s.mem.opens key pa = true →
      (AccOp.isLoad a.op = true → p.returned = false → (∀ x ∈ a.parts, x.ask = none) →
        ((s.launch st.launch).bound = false → s.mem.sameKey key pa = true → p'.data = s.mem.bytesFor r pa p.len) ∧
        ∃ t u : State, exec (.homeAccess sid k part sc) s = .next t ∧
          t = (u.setStrand sid ((u.strand sid).setAccess k a')).afterService sid a' p' ∧
          u.mem.cells = s.mem.cells ∧ u.mem.cache = (s.mem.cached key pa false).cache ∧ (u.strand sid).x = st.x) ∧
      (a.op = .store ∨ a.op = .scatter ∨ a.op = .qstore → p.level = 0 → fresh →
        ∃ t, exec (.homeAccess sid k part .sy) s = .next t ∧ wrote t p.data) ∧
      (AccOp.isAtomic a.op = true → p.level = 0 → p.bad = false → s.mem.poisonLast (pa / 64) = false → fresh →
        ∃ t, exec (.homeAccess sid k part .sy) s = .next t ∧ wrote t (new.getD old)))

/-- R288, R290, R295, R297: an entry is filled once every part of its operation has returned; a pattern's next entry is fetched at
the predicted address, with four at most. -/
def Obligations.StreamEvents : Prop :=
  ∀ (s : State) (sid q k : Nat),
    let st := s.strand sid
    let r := st.qGet q
    (∀ e a, r.entries[k]? = some e → e.arrived = false → r.kind = .explicit →
      (st.lq ++ st.sq).find? (fun a => a.q == q && a.tag == e.tag && (AccOp.isLoad a.op || AccOp.isAtomic a.op)) = some a →
      (a.parts.all (·.returned) = true → exec (.streamFill sid q k) s =
          .next (s.setStrand sid (st.fillEntry q e.tag a.entryData).sweep) ∧
        (((st.fillEntry q e.tag a.entryData).sweep.qGet q).entries[k]? = some (a.entryData e))) ∧
      (a.parts.all (·.returned) = false → exec (.streamFill sid q k) s = .next s) ∧
      (a.entryData e).arrived = true) ∧
    (r.kind = .pattern → st.life = .live → s.power.kiln = .running → st.stall = none → r.entries.length < 4 →
      let a := st.predict r.gen r.entries.length
      a < 2 ^ 52 → s.rangeWaits sid a 512 = false → ∀ e, s.fetchEntry sid a = some e →
        let st' := st.setQ q { r with entries := r.entries ++ [e] }
        let t := (((s.setStrand sid st').leavesRange sid a 512).openRange st.ctx (s.boundOf sid) a 512).bump
        exec (.streamPrefetch sid q) s = .next t ∧ t.strand sid = st') ∧
    (r.kind = .pattern → 4 ≤ r.entries.length → st.stall = none → exec (.streamPrefetch sid q) s = .next s)

/-! ### The SY and AD slots -/

/-- R415 to R418, R421: `mark` places a marker behind each queue of its mask, or waits behind four; a marker reaches its head once
every entry ahead of it has met its condition; `join` waits for its markers; then its fence acquires, observes and releases by them,
they are gone, and so are the entries fetched ahead. R243, R247, R118: a `join` behind a matrix call's marker takes the calls up to
it: with no fault recorded they leave the queue and their credits reach the strand; otherwise it traps with the lowest cause
recorded. -/
def Obligations.Markers : Prop :=
  (∀ (s : State) (qm sid k : Nat) (sc : Scope) (m : Marker),
    let st := s.me
    let new := ((List.range 6).filter fun n => bit qm n).map fun n => ({ queue := n, sc := sc, seq := st.seq, hnd := st.hnd } : Marker)
    let room := ∀ n < 6, bit qm n = true → (st.markers.filter (·.queue == n)).length < 4
    let ms := if st.hnd then st.markers.filter (·.hnd) else st.markers
    (formOk s (.mark qm sc) = true → room → exec (.mark qm sc) s = .next (s.setMe { st with markers := st.markers ++ new })) ∧
    (formOk s (.mark qm sc) = true → ¬ room → exec (.mark qm sc) s = .next (s.endStall .markerFull)) ∧
    ((s.strand sid).markers[k]? = some m → s.markerMet sid m = true → exec (.markerReachHead sid k) s = .next (s.setStrand sid
      { s.strand sid with markers := (s.strand sid).markers.set k { m with reached := true } })) ∧
    ((s.strand sid).markers[k]? = some m → s.markerMet sid m = false → exec (.markerReachHead sid k) s = .next s) ∧
    (formOk s .join = true → ms.any (fun m => !m.reached) = true → exec .join s = .next (s.endStall .markers)) ∧
    (formOk s .join = true → ms.all (·.reached) = true → ms.all (·.queue != 2) = true →
      exec .join s = .next (s.fence ms) ∧ (s.fence ms).mem.cells = s.mem.cells ∧
      (s.fence ms).me.markers = st.markers.filter (fun m => !ms.contains m) ∧
      (s.fence ms).me.q = (st.dropFetched fun _ => true).q ∧
      ∀ m ∈ ms, m.queue = 1 → ∃ f ∈ (s.fence ms).me.fences, f.agent = s.cur ∧ f.sc = m.sc ∧ f.seq = st.seq)) ∧
  (∀ (s : State), formOk s .join = true →
    let ms := s.me.joinMarkers
    let upto := (ms.filter (·.queue == 2)).foldl (fun (n : Nat) (m : Marker) => max n m.seq) 0
    let joined := s.myCore.calls.filter fun m => m.sid == s.cur && decide (m.seq ≤ upto)
    ms.all (·.reached) = true → ms.any (·.queue == 2) = true →
    (joined.all (·.faults.isEmpty) = true → ∃ t, exec .join s = .next t ∧
      t.myCore.calls = s.myCore.calls.filter (fun m => !(m.sid == s.cur && decide (m.seq ≤ upto))) ∧
      t.me.errcnt = (s.me.credit (joined.foldl (fun (c : Credits) (m : MCall) => c.add m.credits) {})).errcnt ∧
      t.me.carat = (s.me.credit (joined.foldl (fun (c : Credits) (m : MCall) => c.add m.credits) {})).carat) ∧
    (joined.all (·.faults.isEmpty) = false → ∃ t f, exec .join s = .next t ∧
      t.iss.ended = some (.trap (if f.cause = 0x01 then 15 else s.iss.slot) f.cause f.info) ∧
      f ∈ joined.flatMap (·.faults) ∧ ∀ g ∈ joined.flatMap (·.faults), f.cause ≤ g.cause))

/-- R425 to R429: `ssarr` takes the open generation, unless the strand's last one is not complete; the arrival counts once what
stands ahead of it is performed at .pk; a generation completes when every member has arrived; `sswait` waits for it, and what the
members did before their arrivals happens before what follows it. R410, R411: `cbar` waits until the stores and engine commands of
the strand's earlier bundles are performed at .cl, then the strand stands at its group's generation; the generation completes when
every strand of the group that has begun and not halted stands there, one that is swapped out among them, and all go on. -/
def Obligations.Barriers : Prop :=
  (∀ (s : State) (sid lid g n : Nat),
    let st := s.me
    let waits := st.arrival.any fun g => s.genOpen st.launch g
    (formOk s .ssarr = true → waits = false → s.myLaunch.barrier = .open_ g →
      exec .ssarr s = .next (s.setMe { st with arrival := some g, arriving := some st.seq, arrivedAt := st.seq })) ∧
    (formOk s .ssarr = true → waits = true → exec .ssarr s = .next (s.endStall .superstep)) ∧
    let after := if st.arrival.isSome then { s with mem := s.mem.order s.myLaunch.carried s.cur (st.seq + 1) } else s
    (formOk s .sswait = true → waits = false →
      exec .sswait s = .next (after.setMe ({ st with arrival := none }.dropFetched fun _ => true))) ∧
    (formOk s .sswait = true → waits = true → exec .sswait s = .next (s.endStall .superstep)) ∧
    ((s.strand sid).arriving = some n → ((s.strand sid).sq.all fun a => decide (n < a.seq) || a.doneAt 5) = true →
      s.enginesBusy sid (n + 1) = false → s.writesBelow sid (n + 1) 5 = false →
      ((s.colsOf sid).all fun c => decide (n < c.seq)) = true →
      exec (.superstepArrival sid) s = .next (s.setStrand sid { s.strand sid with arriving := none })) ∧
    ((s.launch lid).barrier = .open_ g → s.allArrived lid g = true → s.snapshotDue lid g = false →
      exec (.superstepGenerationComplete lid) s = .next (s.setLaunch lid { s.launch lid with
        barrier := .open_ (g + 1), carried := ((s.launch lid).carried ++ s.arrivalsOf lid).filter s.mem.hidden })) ∧
    ((s.launch lid).barrier = .open_ g → s.allArrived lid g = false → exec (.superstepGenerationComplete lid) s = .next s)) ∧
  (∀ (s : State) (grp : Nat),
    let st := s.me
    let busy := (st.sq.any fun a => decide (a.seq < st.seq) && a.op != .epstore && !a.doneAt 3) || s.enginesBusy s.cur st.seq ||
      s.writesBelow s.cur st.seq 3
    let g := s.group grp
    let live := g.strands.filter fun n => (s.strand n).begun && (s.strand n).life != .halted
    (formOk s .cbar = true → busy = true → exec .cbar s = .next (s.endStall .barrier)) ∧
    (formOk s .cbar = true → busy = false → exec .cbar s = .next (s.setMe { st with cbarGen := some (s.group st.grp).gen })) ∧
    (live ≠ [] → (live.all fun n => (s.strand n).cbarGen == some g.gen) = true →
      ∃ t, exec (.cbarGenerationComplete grp) s = .next t ∧ (t.group grp).gen = g.gen + 1 ∧
        (∀ n ∈ live, (t.strand n).cbarGen = none) ∧ ∀ n, n ∉ live → t.strand n = s.strand n) ∧
    ((live.all fun n => (s.strand n).cbarGen == some g.gen) = false → exec (.cbarGenerationComplete grp) s = .next s))

/-- R389, R390, R398: `halt` waits for the strand's calls and row commands, then marks the strand, which retires once nothing of
it is under way; a draining group whose strands have all retired ends its task. -/
def Obligations.Halting : Prop :=
  ∀ (s : State) (sid grp : Nat),
    let g := s.group grp
    let c := s.myCore
    let busy := (c.calls.any fun m => m.sid == s.cur && !m.ended) || (c.owner == some s.cur && !c.rowq.isEmpty)
    let st := s.strand sid
    (formOk s .halt = true → busy = true → exec .halt s = .next (s.endStall .halt)) ∧
    (formOk s .halt = true → busy = false → c.calls = [] → ∃ t, exec .halt s = .next t ∧ t.me.halting = true ∧ t.mem = s.mem ∧
      t.me.x = s.me.x ∧ t.me.v = s.me.v ∧ t.me.sbc = s.me.sbc) ∧
    (st.halting = true → st.life = .live → s.drained sid = true →
      exec (.haltRetire sid) s = .next { s.setStrand sid { st with life := .halted, halting := false, sq := [] } with
        halts := SMap.erase s.halts sid }) ∧
    (s.drained sid = false → exec (.haltRetire sid) s = .next s) ∧
    (g.state = .draining → s.spent g = false → g.strands ≠ [] → (g.strands.all fun n => (s.strand n).life == .halted) = true →
      exec (.tileTaskEnd grp) s = .next ((s.endGroup grp .halted).settleLaunch g.launch) ∧
      ((s.endGroup grp .halted).group grp).state = .halted ∧ ∀ n ∈ g.strands, (s.endGroup grp .halted).strand n = {}) ∧
    ((g.strands.all fun n => (s.strand n).life == .halted) = false ∨ g.state ≠ .draining → exec (.tileTaskEnd grp) s = .next s)

/-- R206, R407 to R409: `lgate` sets the state of the masked lanegroups of the strand's bank set, waking those set on; `wake` starts
them and names them for the strand's next bundle; a waking lanegroup turns on. R185 to R190: `lset` with a count opens a level at
the next bundle and puts the count into its lc register; without one it passes over the body; `lbrk` ends the level and those inside
it and goes on after the body, or drains a modulo loop. R191 to R194: `agset` gives a generator a base and no strides, `agstr` one
stride, both in 1 bundle; `lrot` rotates when its bundle commits; `spred` sets the stages of the loop; a generator's value is its
base and its strides times the loop indices. -/
def Obligations.LanegroupsAndLoops : Prop :=
  (∀ (s : State) (lgm core lg : Nat) (mode : LgState),
    (formOk s (.lgate lgm mode) = true → ∃ t, exec (.lgate lgm mode) s = .next t ∧ t.strands = s.strands ∧ t.mem = s.mem ∧
      ∀ g < 8, t.lgState g = if bit lgm g then
        (match mode with
         | .on => if s.lgState g = .on then .on else .waking
         | .drowsy => .drowsy
         | .gated => .gated)
        else s.lgState g) ∧
    (formOk s (.wake lgm) = true → ∃ t, exec (.wake lgm) s = .next t ∧ t.me = { s.me with wakeWait := lgm } ∧
      ∀ g < 8, t.lgState g = if bit lgm g && s.lgState g != .on then .waking else s.lgState g) ∧
    (SMap.get (s.core core).lgs lg .on = .waking → ∃ t, exec (.lanegroupTurnOn core lg) s = .next t ∧
      SMap.get (t.core core).lgs lg .on = .on ∧ ∀ n, n ≠ lg → SMap.get (t.core core).lgs n .on = SMap.get (s.core core).lgs n .on) ∧
    (SMap.get (s.core core).lgs lg .on = .gated → exec (.lanegroupTurnOn core lg) s = .next s)) ∧
  (∀ (s : State) (lv n body cn x w : Nat) (rb neg : Bool), lv < 4 →
    let st := s.me
    let k := s.iss.idx
    let at_ := fun (j : Nat) => { s.iss with next := some j }
    let opened := { active := true, first := k + 1, last := k + 1 + body, iter := 0 : LoopLevel }
    let brk := (st.cGet cn != neg) && (st.loop lv).active
    (∀ cnt, formOk s (.lset lv cnt body false rb) = true → lv ≠ 3 → 0 < n → n < 2 ^ 32 →
      (cnt = .imm n ∨ (cnt = .reg x ∧ n = st.xGet x % 2 ^ 32) ∨ (cnt = .word w ∧ n = s.mailWord w % 2 ^ 32)) →
      exec (.lset lv cnt body false rb) s = .next { (s.setMe (st.setLoop lv opened)).post 1
        { kind := .lc, reg := lv, due := 0, value := BitVec.ofNat 4096 n } with iss := at_ (k + 1) }) ∧
    (formOk s (.lset 3 (.imm n) body true rb) = true → 0 < n → st.hnd = false → ∃ t, exec (.lset 3 (.imm n) body true rb) s = .next t ∧
      t.iss.next = some (k + 1) ∧ t.me.loop 3 = opened ∧ t.me.md = true ∧ t.me.rb = rb ∧ t.me.srcIters = n ∧
      t.me.dbuf = st.dbuf ++ [{ kind := .lc, reg := 3, due := st.sbc + 1, value := BitVec.ofNat 4096 ((n + st.stages - 1) % 2 ^ 32), born := st.seq }]
        ++ (List.range st.stages).map fun i =>
          { kind := .p, reg := st.pIdx (st.pbase + i), lgm := 255, due := st.sbc + 1, mask := pFull, value := pAll (i == 0),
            born := st.seq }) ∧
    (∀ mod, formOk s (.lset lv (.imm 0) body mod rb) = true →
      exec (.lset lv (.imm 0) body mod rb) s = .next { s with iss := at_ (k + body + 2) }) ∧
    (formOk s (.lbrk lv cn neg) = true → brk = false → exec (.lbrk lv cn neg) s = .next s) ∧
    (formOk s (.lbrk lv cn neg) = true → brk = true → lv = 3 → st.md = true → exec (.lbrk lv cn neg) s =
      .next (s.setMe { st.lcSet 3 st.stages with srcIters := (st.loop 3).iter + 1 })) ∧
    (formOk s (.lbrk lv cn neg) = true → brk = true → lv ≠ 3 ∨ st.md = false → ∃ t, exec (.lbrk lv cn neg) s = .next t ∧
      t.iss.next = some ((st.loop lv).last + 1) ∧ (∀ l < 4, lv ≤ l → (t.me.loop l).active = false) ∧
      ∀ l < lv, t.me.loop l = st.loop l)) ∧
  (∀ (s : State) (ag x lv p stg : Nat),
    let st := s.me
    let put := fun (a : AddrGen) => Host.Outcome.next (φ := Fault) (ρ := Refusal)
      (s.post 1 { kind := .ag, reg := ag, due := 0, value := BitVec.ofNat 4096 (agValue a) })
    let v := BitVec.ofNat 64 (st.xGet x)
    let a := st.agGet ag
    let i := fun l => if (st.loop l).active then (st.loop l).iter else 0
    (formOk s (.agset ag x) = true → exec (.agset ag x) s = put { base := v }) ∧
    let str := fun (n : Nat) (old : Word) => if lv = n then v else old
    (formOk s (.agstr ag lv x) = true → lv < 4 → exec (.agstr ag lv x) s =
      put { base := a.base, s0 := str 0 a.s0, s1 := str 1 a.s1, s2 := str 2 a.s2, s3 := str 3 a.s3 }) ∧
    (formOk s .lrot = true → exec .lrot s = .next { s with iss := { s.iss with lrot := true } }) ∧
    (formOk s (.spred p stg) = true → exec (.spred p stg) s = .next (s.setMe { st with stages := stg + 1, pbase := p })) ∧
    (∀ b : AddrGen, agOfValue (agValue b) = b) ∧
    st.genValue a = (a.base.toNat + i 0 * a.s0.toNat + i 1 * a.s1.toNat + i 2 * a.s2.toNat + i 3 * a.s3.toNat) % 2 ^ 64)

/-! ### Delivery -/

/-- R36 to R38, R40, R64: a result stands in its register when its due count comes, not before; one that has not arrived holds the
strand; a write to x0, p0 or c0 is discarded. -/
def Obligations.Delivery : Prop :=
  ∀ (s : State) (sid k : Nat) (p : Pending),
    let st := s.strand sid
    (st.dbuf[k]? = some p → exec (.resultArrive sid k) s =
      .next (s.setStrand sid { st with dbuf := st.dbuf.set k { p with arrived := true } })) ∧
    (st.lateResult = true → exec (.resultDeliver sid) s = .next s) ∧
    (st.lateResult = false → st.dbuf.filter st.isDue = [p] → p.kind = .x → p.reg ≠ 0 → p.reg < 64 → ∃ t,
      exec (.resultDeliver sid) s = .next t ∧ (t.strand sid).xGet p.reg = p.value.toNat % 2 ^ 64 ∧ (t.strand sid).xOk p.reg = true ∧
      (∀ r, r ≠ p.reg → (t.strand sid).xGet r = st.xGet r) ∧ (t.strand sid).dbuf = st.dbuf.filter (fun q => !st.isDue q) ∧
      (t.strand sid).flags = st.flags ||| BitVec.ofNat 64 (p.flags % 64)) ∧
    (st.lateResult = false → st.dbuf.filter st.isDue = [] → ∃ t, exec (.resultDeliver sid) s = .next t ∧ t.strand sid = st) ∧
    (∀ v, st.xSet 0 v = st ∧ st.xGet 0 = 0 ∧ st.xOk 0 = true) ∧ (∀ b, st.cSet 0 b = st ∧ st.cGet 0 = true ∧ st.cOk 0 = true) ∧
    (∀ lgm m v g, st.pPut 0 lgm m v = st ∧ st.pGet 0 g = 0xFFFF ∧ st.pOk 0 g = true)

/-! ### The CE slot and the engines -/

/-- R365 to R367, R371 to R373, R336, R453: a copy-engine form whose tiles and ranges pass joins the queue of its cluster, with a
stream-register entry where it names one; it waits while the strand has eight commands. R456, R457: `pf` and `res` put the pages of
their range into the hint unit of their die, 64 at most; what finds it full is counted. The unit judges its oldest page: `pf` fills
the translation buffers and, at its higher levels, takes lines of LPDDR6 and host memory into the memory-side cache, `res` pins or
frees the lines, or ranks those that the cache holds; a page that it cannot act on is counted, and nothing traps. -/
def Obligations.EngineForms : Prop :=
  (∀ (s : State) (c : CeArg) (ra rb rq : Nat) (d t : Tile),
    let a := s.me.xGet c.a
    let b := s.me.xGet c.b
    let v := s.me.xGet c.c
    let r := field v 0 13
    let n := field v 13 13
    let entry := fun (arg : CeArg) => arg.qe = true → qRoom s arg.q = none
    let mine := (s.commandsOf s.cur).length
    let joins := fun (i : Instr) (arg : CeArg) (u : State) => entry arg →
      (mine < 8 → exec i s = .next u) ∧ (8 ≤ mine → exec i s = .next (s.endStall .engineQueue))
    let queued := fun (op : CeOp) (a b v : Nat) (arg : CeArg) =>
      let e := if arg.qe then s.newEntry arg.q 0 [] (if arg.rel then some s.me.seq else none) else (s, 0)
      let cl := s.myCluster
      let tiles := tilesOf cl.tiles op a b
      let cmd : CeCmd := { id := cl.ceId, sid := s.cur, grp := s.me.grp, place := s.placeOf s.cur, launch := s.me.launch, ctx := s.me.ctx, seq := s.me.seq, op := op, a := a, b := b, c := v, sc := arg.sc, acq := arg.acq, rel := arg.rel, q := arg.q, tag := e.2, qe := arg.qe, dst := tiles.1, src := tiles.2, word := s.ceWord }
      e.1.setMyCluster { cl with ceq := cl.ceq ++ [cmd], ceId := cl.ceId + 1 }
    let pairs := fun (t : Tile) => t.inScratch && t.ety.width == d.ety.width && (if t.ety.isMx || d.ety.isMx then t.ety == d.ety else true)
    let shape := 1 ≤ r ∧ r ≤ 4096 ∧ 1 ≤ n ∧ n ≤ 4096
    let plain := fun (qe : Bool) => ({ a := 0, b := 0, c := 0, sc := .st, acq := false, rel := false, q := rq, qe := qe } : CeArg)
    (formOk s (.cp c) = true → refCheck s a r n Tile.inScratch = .ok d → refCheck s b r n pairs = .ok t → shape → v < 2 ^ 26 →
      joins (.cp c) c (queued .cp a b v c)) ∧
    (formOk s (.cpg c) = true → v < 2 ^ 32 → rangeCheck a v 1 = none → rangeCheck b v 1 = none → joins (.cpg c) c (queued .cpg a b v c)) ∧
    (formOk s (.cps c) = true → refCheck s a r n Tile.inScratch = .ok t → shape → field v 27 5 = 0 → n * t.ety.width % 8 = 0 →
      cpsRow t n ≤ field v 32 32 → field v 32 32 % max 1 (t.ety.width / 8) = 0 →
      rangeCheck b ((r - 1) * field v 32 32 + cpsRow t n) (max 1 (t.ety.width / 8)) = none → joins (.cps c) c (queued .cps a b v c)) ∧
    (formOk s (.stage c) = true → refCheck s a r 0 (fun t => t.level == .bstack && refCol a == 0) = .ok t → v < 2 ^ 14 →
      (t.ety.isMx = true → bit v 13 = false ∧ r % 32 = 0 ∧ refRow a % 32 = 0) → rangeCheck b (stageBytes t (bit v 13) r) 1 = none →
      joins (.stage c) c (queued .stage a b v c)) ∧
    (formOk s (.sealRec c) = true → v < 2 ^ 49 → rangeCheck a (80 + field v 32 17) 64 = none →
      rangeCheck b (max (field v 32 17) 1) 64 = none → joins (.sealRec c) c (queued .sealRec a b v c)) ∧
    (formOk s (.openRec c) = true → v < 2 ^ 32 → rangeCheck a 64 64 = none → rangeCheck b 1 64 = none → joins (.openRec c) c (queued .openRec a b v c)) ∧
    (∀ qe, formOk s (.meas ra rb rq qe) = true → rangeCheck (s.me.xGet ra) 1 64 = none → joins (.meas ra rb rq qe) (plain qe) (queued .meas (s.me.xGet ra) (s.me.xGet rb % 2 ^ 32) 0 (plain qe))) ∧
    (∀ qe, formOk s (.ckpt ra rq qe) = true → rangeCheck (s.me.xGet ra) 1 64 = none → joins (.ckpt ra rq qe) (plain qe) (queued .ckpt (s.me.xGet ra) 0 s.nextArrival (plain qe)))) ∧
  ((∀ (s : State) (a b level : Nat),
    let va := s.me.xGet a
    let n := min (s.me.xGet b % 2 ^ 32) (2 ^ 26)
    let ps := if n = 0 then [] else (s.ctx s.me.ctx).pagesOf va n
    let d := s.die (dieOf s.cur)
    let room := 64 - d.hints.length
    let page := fun (op : Nat) (p : Nat × Option Nat) =>
      let lo := max va (65536 * p.1)
      let hi := min (va + n) (65536 * (p.1 + ((p.2.map fun e => pageGranules (pteSize e)).getD 1)))
      ({ ctx := s.me.ctx, cluster := clusterOf s.cur, sid := s.cur, op := op, lv := level, va := lo, len := hi - lo } : Hint)
    let after := fun (op : Nat) => s.setDie (dieOf s.cur)
      { d with hints := d.hints ++ (ps.take room).map (page op), hintDrops := (d.hintDrops + (ps.length - room)) % 2 ^ 64 }
    (formOk s (.pf a b level) = true → exec (.pf a b level) s = .next (after 0)) ∧
    (formOk s (.res a b level) = true → exec (.res a b level) s = .next (after 1))) ∧
  (∀ (s : State) (h : Hint) (rest : List Hint) (g e : Nat),
    let die := h.cluster / 6
    let c := s.ctx h.ctx
    let lines := pageLines (g, e) h.va h.len
    let entry : TlbEntry := { ctx := h.ctx, page := g, size := pteSize e, leaf := e }
    let pa := fun (l : Nat) => frameOf g e (64 * l)
    let t := s.runHint die
    (s.die die).hints = h :: rest →
    (c.leaf h.va = none → t = s.setDie die { s.die die with hints := rest, hintDrops := ((s.die die).hintDrops + 1) % 2 ^ 64 }) ∧
    (c.leaf h.va = some (g, e) → c.hintable (g, some e) = true → t.strands = s.strands ∧ t.mem = { s.mem with cache := t.mem.cache } ∧
      (h.op = 0 → (t.die die).hints = rest ∧ entry ∈ (t.die die).tlb ∧ (h.lv ≠ 0 → entry ∈ (t.cluster h.cluster).tlb) ∧
        (h.lv < 2 ∨ pteState e = pgWeight → t.mem = s.mem) ∧
        (2 ≤ h.lv → pteState e ≠ pgWeight → s.mem.cache.length + lines.length ≤ cacheLines → ∀ l ∈ lines,
          s.isLpddr (pa l) = true ∨ isHost (pa l) = true → ∃ x, SMap.find t.mem.cache (pa l / 64) = some x ∧
            x.slot = c.keyId ∧ x.prio = if h.lv = 2 then 1 else 3)) ∧
      (h.op = 1 → (t.die die).hints = rest ∧
        (h.lv = 1 → c.pins.length + lines.length ≤ 2 ^ 20 → ∀ l, l ∈ lines ∨ l ∈ c.pins → l ∈ (t.ctx h.ctx).pins) ∧
        (h.lv = 3 → (t.ctx h.ctx).pins = c.pins.filter fun l => !lines.contains l) ∧
        (h.lv = 0 ∨ h.lv = 2 → (t.ctx h.ctx).pins = c.pins ∧ ∀ l ∈ lines, ∀ x,
          SMap.find t.mem.cache (pa l / 64) = some x → x.prio = if h.lv = 2 then 0 else 1)))))

/-- R365, R368 to R370: a command begins once the strand's earlier ones have, an engine is free, its acquire is met and the turn of
its strand has come; a begun command runs to its end, leaves the queue, and posts its status, poison and byte count to the entry
that waits for it. R371: a `cpg` within one line, whose ranges do not overlap upwards, writes the bytes that it read, with their
poison, and counts them in bits; an access that is denied ends it with nothing written. -/
def Obligations.EngineEvents : Prop :=
  (∀ (s : State) (k j : Nat) (cmd : CeCmd), (s.cluster k).ceq[j]? = some cmd → s.power.kiln = .running →
    let cmd1 := { cmd with begun := true, beganAt := s.tick }
    let s1 := s.setCe k cmd1
    let s2 := s1.setCluster k { s1.cluster k with rr := cmd.sid % 64 }
    let copy := cmd.op = .cp ∨ cmd.op = .cpg ∨ cmd.op = .cps ∨ cmd.op = .stage
    let ends := fun (t : State) => exec (.ceCommandComplete k j) s = .next (t.settleClosing cmd.ctx)
    let begins := s.mayBegin k cmd = true ∧ s.engineTurn k cmd = true
    let goes := cmd.begun = true ∧ s.stands k cmd = false
    (¬ begins → exec (.ceCommandBegin k j) s = .next s) ∧
    (begins → cmd.op ≠ .ckpt → exec (.ceCommandBegin k j) s =
      .next ((runCopy s2 k cmd1 fun i => Config.movedEarly (s.tick + i)).kept k cmd1).bump) ∧
    (begins → cmd.op = .ckpt → exec (.ceCommandBegin k j) s = .next (s.beginCkpt k cmd)) ∧
    (¬ goes ∨ s.sealedBefore cmd = true → exec (.ceCommandComplete k j) s = .next s) ∧
    (goes → copy → ends (s.endCopy k cmd ((runCopy s k cmd fun _ => true).toRun k cmd))) ∧
    (goes → s.sealedBefore cmd = false → cmd.op = .sealRec ∨ cmd.op = .openRec → ends (s.endSealed k cmd)) ∧
    (goes → cmd.op = .meas → ends (s.endMeas k cmd)) ∧
    (goes → cmd.op = .ckpt → ends (s.endCkpt k cmd)) ∧
    (∀ (t : State) (st : Status) (p : Bool) (n sid : Nat), let u := s.endCopy k cmd (.done t st p n);
      (u.cluster k).ceq = (t.cluster k).ceq.filter (fun c => c.id != cmd.id) ∧
      (cmd.qe = true → t.bankAt cmd.grp cmd.place = some sid → (t.strand sid).awaits cmd.q cmd.tag = true →
        ∃ e ∈ ((u.strand sid).qGet cmd.q).entries, e.tag = cmd.tag ∧ e.arrived = true ∧
          e.data = BitVec.ofNat 4096 (st.code + 2 ^ 8 * ofBit p + 2 ^ 32 * min n (2 ^ 32 - 1))))) ∧
  (∀ (s : State) (k : Nat) (cmd : CeCmd) (bs : List Byte) (p : Bool), cmd.op = .cpg → 0 < cmd.c → cmd.a % 64 + cmd.c ≤ 64 →
    cmd.moved = [] → cmd.p = false → cmd.n = 0 → ¬ (cmd.b < cmd.a ∧ cmd.a < cmd.b + cmd.c) →
    s.readRange (s.cmdReader k cmd) cmd.ctx false (s.cmdBound cmd) cmd.b cmd.c (lid := some cmd.launch) = .bytes bs p →
    bs.length = cmd.c →
    let x := runCopy s k cmd fun _ => true
    let s1 := (s.cmdTouches cmd cmd.b cmd.c false).openRange cmd.ctx (s.cmdBound cmd) cmd.b cmd.c
    let line := cmd.a / 64 * 64
    let gap := fun (n : Nat) => List.replicate n (none : Option Byte)
    let data := gap (cmd.a % 64) ++ bs.map some ++ gap (64 - cmd.a % 64 - cmd.c)
    s1.peerRefuses cmd.ctx cmd.a cmd.c = none →
    (s1.probeWrite (engineOf k) cmd.ctx false cmd.a cmd.c = none →
      x.s = (s1.writeSome (s1.cmdAgent cmd) cmd.level cmd.ctx line data p (!p && decide (64 ≤ cmd.c)) cmd.tag_).cmdTouches cmd line 64 true ∧
      x.n = 8 * cmd.c ∧ x.p = p ∧ x.denied = false) ∧
    (∀ va, s1.probeWrite (engineOf k) cmd.ctx false cmd.a cmd.c = some (true, va) →
      x.s = s1.deniedFor cmd va true ∧ x.denied = true ∧ x.n = 0))

/-- R345, R373: `open` refuses a record whose counter is not the next (REPLAY) or whose tag is wrong (TAGFAIL, counted on the
channel), and otherwise goes on to write the plaintext, each line as poisoned as its ciphertext; once all lines are written the
channel's counter has advanced. What `seal` makes, `open` with the same key opens. -/
def Obligations.SealedRecords : Prop :=
  (∀ (s : State) (k : Nat) (cmd : CeCmd) (h bs : List Byte) (q : Bool) (ch : Channel),
    let c := s.ctx cmd.ctx
    let chan := ofBytes (h.take 4)
    let ctr := ofBytes ((h.drop 4).take 8)
    let len := ofBytes ((h.drop 12).take 4)
    let read := fun a n => s.readRange (s.cmdReader k cmd) cmd.ctx false (s.cmdBound cmd) a n (lid := some cmd.launch)
    let s1 := (s.cmdTouches cmd cmd.a (80 + len) false).openRange cmd.ctx (s.cmdBound cmd) cmd.a (80 + len)
    let bad := s.badLines k cmd (cmd.a + 64) len
    let plain := gcmOpen (keyBytes ch.key) (beBytes chan 4 ++ beBytes ctr 8) h (bs.take len) (bs.drop len)
    c.world = true → c.allState cmd.a 64 pgSealed = true → read cmd.a 64 = .bytes h false → chan = cmd.c → bit chan 31 = false →
    len % 64 = 0 → 64 ≤ len → len ≤ 65536 → (∀ b ∈ h.drop 16, b = 0) → c.channel chan = some ch →
    (ch.failures = 16 → checkOpen s k cmd = .stop s .tagfail) ∧
    (ch.failures ≠ 16 → ctr ≠ ch.e → checkOpen s k cmd = .stop s .replay) ∧
    (ch.failures ≠ 16 → ctr = ch.e → ch.e < 2 ^ 64 - 1 → cmd.a + 80 + len ≤ 2 ^ 52 → read (cmd.a + 64) (len + 16) = .bytes bs q →
      (plain = none → checkOpen s k cmd =
        .stop (s1.setCtx cmd.ctx ((s1.ctx cmd.ctx).setChannel { ch with failures := ch.failures + 1 })) .tagfail) ∧
      (∀ p, plain = some p → c.underKey cmd.b len = true → s1.probeWrite (engineOf k) cmd.ctx false cmd.b len = none →
        checkOpen s k cmd = .pass s1 p bad))) ∧
  (∀ (s : State) (k : Nat) (cmd : CeCmd),
    (cmd.op = .openRec → cmd.out = none → ∀ t st, checkOpen s k cmd = .stop t st →
      s.endSealed k cmd = s.endCopy k cmd (.done t st false 0)) ∧
    (cmd.op = .sealRec → cmd.out = none → ∀ t st, checkSeal s k cmd = .stop t st →
      s.endSealed k cmd = s.endCopy k cmd (.done t st false 0)) ∧
    (∀ bs bad ch, cmd.out = some (bs, bad) →
      let x := s.runLines k cmd bs bad fun _ => true
      let c := x.s.ctx cmd.ctx
      x.stopped = false → c.channel (cmd.c % 2 ^ 32) = some ch → s.endSealed k cmd = s.endCopy k cmd
        (.done (x.s.setCtx cmd.ctx (c.setChannel { ch with e := ch.e + 1 })) .ok x.p ((x.n + 7) / 8)))) ∧
  (∀ key iv aad p : List Byte, key.length = 32 → iv.length = 12 →
    gcmOpen key iv aad (gcmSeal key iv aad p).1 (gcmSeal key iv aad p).2 = some p)

/-! ### Collectives -/

/-- R474, R477: `col` joins the collective engine's queue, after the checks of its addresses; the engine's turn begins, steps or
completes a command; a command that a refused descriptor ends posts FAULT. R425, R429, R430: the domain barrier completes when every
other member's arrival is here: the command posts OK with the generation, and the next opens; until then nothing changes. R476: what
one fold step of a reduction gives: the low bits of an integer sum, the lesser or the greater, or the floating-point sum rounded to
nearest even; the chunk that a member sends in one step is the one that the next member receives. -/
def Obligations.Collectives : Prop :=
  ((∀ (s : State) (op : ColOp) (c : CeArg),
    let a := s.me.xGet c.a
    let b := s.me.xGet c.b
    let v := s.me.xGet c.c
    let e := if c.qe then s.newEntry c.q 0 [] (if c.rel then some s.me.seq else none) else (s, 0)
    let cmd : ColCmd := { id := s.link.colNext, sid := s.cur, grp := s.me.grp, place := s.placeOf s.cur, launch := s.me.launch, ctx := s.me.ctx, seq := s.me.seq, op := op, a := a, b := b, c := v, sc := c.sc, acq := c.acq, rel := c.rel, q := c.q, tag := e.2, qe := c.qe }
    (formOk s (.col op c) = true → v < 2 ^ 52 → op = .barrier ∨ (a < 2 ^ 52 ∧ b < 2 ^ 52) → v % 64 = 0 →
      (c.qe = true → qRoom s c.q = none) → (s.colsOf s.cur).length < 4 →
      exec (.col op c) s =
        .next { e.1 with link := { e.1.link with cols := s.link.cols ++ [cmd], colNext := s.link.colNext + 1 } }) ∧
    (formOk s (.col op c) = true → 2 ^ 52 ≤ v → exec (.col op c) s = .next (s.endTrap 0x06 v))) ∧
  (∀ (s : State) (k : Nat) (c : ColCmd), s.link.cols[k]? = some c → s.power.kiln = .running →
    let fails := s.finishCol { c with begun := true } .fault 0 0xFFFF 0
    (c.begun = false → s.colMayBegin c = false → exec (.colCommandComplete k) s = .next (s.settleClosing c.ctx)) ∧
    (c.begun = false → s.colMayBegin c = true → (s.ctx c.ctx).world = true →
      exec (.colCommandComplete k) s = .next (fails.settleClosing c.ctx)) ∧
    (c.begun = false → s.colMayBegin c = true → exec (.colCommandComplete k) s = .next ((s.colBegin c).settleClosing c.ctx)) ∧
    (c.begun = true → exec (.colCommandComplete k) s = .next ((s.colTurn c).settleClosing c.ctx)) ∧
    fails.link.cols = s.link.cols.filter fun (x : ColCmd) => x.id != c.id)) ∧
  (∀ (s : State) (i : Nat) (c : ColCmd), s.barrierCmd i = some c → (s.comm i).state = .opened → s.power.kiln = .running →
    (s.allHere c = false → exec (.domainBarrierComplete i) s = .next s) ∧
    (s.allHere c = true → ∃ t, exec (.domainBarrierComplete i) s = .next t ∧ (t.comm i).gen = ((s.comm i).gen + 1) % 2 ^ 32 ∧
      t.link.cols = s.link.cols.filter fun (x : ColCmd) => x.id != c.id)) ∧
  ((∀ v x : Nat, colFold ElemType.s32.code 0 v x = low (sx 32 v + sx 32 x) 32 ∧
    colFold ElemType.s32.code 1 v x = low (min (sx 32 v) (sx 32 x)) 32 ∧
    colFold ElemType.s32.code 2 v x = low (max (sx 32 v) (sx 32 x)) 32 ∧
    colFold ElemType.f32.code 0 v x = (addF fmtF32 .rne false (decodeF fmtF32 v) (decodeF fmtF32 x)).1) ∧
  (∀ (c : ColCmd) (n p step : Nat), 0 < n → p < n → c.receives n ((p + 1) % n) step = c.sends n p step) ∧
  (∀ (c : ColCmd) (n p : Nat), 1 < n → p < n → c.op = .allReduce → c.receives n p (n - 1) = p))

/-! ### Queues, work items, launches -/

/-- R29, R346 to R348, R502: a tail write is latched and wakes; a queue that is OFF turns ON where its checks hold and otherwise has
CFGERR, and before bring-up stage 8 only takes its fields (the model's choice, log 20); one that is not OFF takes nothing of an
enable but EN and turns OFF at a disable; a completion queue likewise, and a refused enable marks the command queues that name it; a
write of CHEAD frees room. R346, R461, R464, R490, R499, R500: register writes reach AGE and RESERVE, PTO and KAI within their
bounds, GATEIDLE and DETLIM, a queue's base while it is OFF, SNAPCMP, SNAPADDR and the indices of the management interface; a
register that is not listed ignores a write, and while the interface is locked or runs AGE, RESERVE, PTO, KAI, GATEIDLE and DETLIM
are held (the choice of registers is the model's, log 30); the management target takes a dynamic address. -/
def Obligations.Registers : Prop :=
  (∀ (s : State) (q v : Nat), q < 64 →
    let c := s.queue q
    let on := { c with en := true }
    let off := { c with en := false }
    let d := on.withCfg v
    let k := s.cq q
    let kOn := { k with en := true }
    let kOff := { k with en := false }
    let e := kOn.withCfg v
    let behind := (v % 2 ^ 32 + 2 ^ 32 - c.head) % 2 ^ 32
    (∃ t, exec (.qtailWrite q v) s = .next t ∧ (t.queue q).tail = v % 2 ^ 32 ∧ (t.queue q).head = c.head ∧
      (t.queue q).state = (if c.state = .on ∧ 2 ^ c.log2n < behind then .error else c.state) ∧
      t.power.wakes = s.power.wakes + 1 ∧ t.mem = s.mem ∧ ∀ n, n ≠ q → t.queue n = s.queue n) ∧
    (s.queueOk q d = true ↔ d.base.toNat % 128 = 0 ∧ 4 ≤ d.log2n ∧ d.weight ≠ 0 ∧ (q = 0 → d.ctx = 0) ∧
      (q ≠ 0 → d.ctx ≠ 0 ∧ s.usable d.ctx = true) ∧ (s.cq d.cq).on = true ∧ (s.cq d.cq).ctx = d.ctx) ∧
    (s.power.stage = 8 → c.state = .off → s.queueOk q d = true → exec (.queueEnable q v) s =
      .next (s.setQueue q ({ d with state := .on, cqfull := (s.cq d.cq).full }.checked))) ∧
    (s.power.stage = 8 → c.state = .off → s.queueOk q d = false →
      exec (.queueEnable q v) s = .next (s.setQueue q { d with cfgerr := true })) ∧
    (s.power.stage ≠ 8 → c.state = .off → exec (.queueEnable q v) s = .next (s.setQueue q d)) ∧
    (c.state ≠ .off → exec (.queueEnable q v) s = .next (s.setQueue q on)) ∧
    (c.state ≠ .off → exec (.queueDisable q v) s = .next (s.setQueue q { off with state := .off })) ∧
    (c.state = .off → exec (.queueDisable q v) s = .next (s.setQueue q (off.withCfg v))) ∧
    (s.power.stage = 8 → k.on = false → s.cqOk e = true →
      exec (.cqEnable q v) s = .next ((s.setCq q { e with on := true }).flushCq q)) ∧
    (s.power.stage = 8 → k.on = false → s.cqOk e = false → ∃ t, exec (.cqEnable q v) s = .next t ∧ (t.cq q) = e ∧ t.mem = s.mem ∧
      ∀ n, n < 64 → t.queue n = if (s.queue n).cq = q then { s.queue n with cfgerr := true } else s.queue n) ∧
    (s.power.stage ≠ 8 → k.on = false → exec (.cqEnable q v) s = .next (s.setCq q e)) ∧
    (k.on = true → exec (.cqEnable q v) s = .next (s.setCq q kOn)) ∧
    (k.on = true → exec (.cqDisable q v) s = .next ((s.setCq q { kOff with on := false }).flushCq q)) ∧
    (k.on = false → exec (.cqDisable q v) s = .next (s.setCq q (kOff.withCfg v))) ∧
    exec (.cheadWrite q v) s = .next ((s.setCq q { k with head := v % 2 ^ 32 }).flushCq q)) ∧
  (∀ (s : State) (v q space addr : Nat),
    let w := fun (space addr : Nat) => exec (.registerWrite space addr v) s
    let held := s.sec.tdi = .locked ∨ s.sec.tdi = .run
    (held → w 0 0x1000 = .next s ∧ w 0 0x1008 = .next s ∧ w 0 0x1028 = .next s) ∧
    (¬ held → w 0 0x1000 = .next (State.settleAged { s with cmd := { s.cmd with age := v % 2 ^ 32, reserve := min 6 (v / 2 ^ 32 % 8) } })) ∧
    (¬ held → w 0 0x1008 = .next { s with link := { s.link with pto := max 100 (min 1000000 (v % 2 ^ 32)), kai := max 10 (v / 2 ^ 32 % 2 ^ 16) } }) ∧
    (¬ held → w 0 0x1028 = .next { s with power := { s.power with gateIdle := v % 2 ^ 16, detLim := v / 2 ^ 16 % 2 ^ 16 } }) ∧
    (q < 64 → (s.queue q).state = .off →
      w 0 (0x10000 + 64 * q) = .next (s.setQueue q { s.queue q with base := BitVec.ofNat 64 v })) ∧
    (q < 64 → (s.queue q).state ≠ .off → w 0 (0x10000 + 64 * q) = .next s) ∧
    (q < 64 → (s.cq q).on = false → w 0 (0x20000 + 64 * q) = .next (s.setCq q { s.cq q with base := BitVec.ofNat 64 v })) ∧
    (w 1 0x158 = .next { s with power := { s.power with snapCmp := v % 2 ^ 64 } }) ∧
    (w 1 0x160 = .next { s with power := { s.power with snapAddr := v % 2 ^ 64 } }) ∧
    (w 1 0x170 = .next { s with power := { s.power with wearAddr := v % 2 ^ 23 } }) ∧
    (w 1 0x180 = .next { s with power := { s.power with mcIdx := v % 2 ^ 11 } }) ∧
    (s.sec.debug ≠ 2 → w 1 0x1A0 = .next s) ∧
    (s.sec.debug = 2 → w 1 0x1A0 = .next { s with power := { s.power with dbgSid := v % 2 ^ 12 } }) ∧
    (w 0 0x1020 = .next s) ∧ (∃ t, w space addr = .next t ∧ t.mem = s.mem ∧ t.strands = s.strands ∧ t.cores = s.cores) ∧
    exec (.dynamicAddressAssign addr) s = .next { s with power := { s.power with i3cAddr := addr % 128 } })

/-- R349 to R351, R358, R359, R362, R363: the item at the head of the queue that is next is read: HEAD and the launch identity advance, an
administrative command joins its list, another becomes a launch, which ends FAULT where it is not valid; one that cannot be read now
stays. A batch item is marked aged after AGE. A passed deadline ends an item that has not started LATE, and of another discards what has
not started. A task whose charge reaches BUDGET stops to run again, or ends its item with BUDGET once it has stopped. -/
def Obligations.WorkItems : Prop :=
  ∀ (s : State) (q lid gid : Nat),
    let c := s.queue q
    let pa := queueAddr c.loc c.base + 128 * (c.head % 2 ^ c.log2n)
    let w := ofBytes (s.mem.bytesFor (Reader.of agentCp s.tick) pa 128)
    let bad := s.mem.poisonIn (Reader.of agentCp s.tick) pa 128
    let id := s.cmd.launchNext
    let l := s.launch lid
    let here := (SMap.find s.cmd.launches lid).isSome = true
    let ticks := s.power.kiln = .running ∧ s.power.lost = false ∧ s.power.off = false
    let woken := fun (t : State) => { t with power := { t.power with wakes := t.power.wakes + 1 } }
    let g := s.group gid
    let m := s.launch g.launch
    let on := (SMap.find s.cmd.groups gid).isSome = true ∧ g.occupies = true ∧ m.status = none
    let overDue := on ∧ g.overrun = false ∧ m.budget ≠ 0 ∧ m.budget ≤ g.charged
    let exceeds := s.setGroup gid { g.requested with overrun := true }
    let again := s.setGroup gid { g.requested with rerun := true, charged := 0 }
    let ends := fun (t : State) => t.endLaunches [g.launch] .budget (t.budgetEsc g)
    (s.nextQueue = some q → s.power.lost = false → ∃ t, exec (.workItemRead q) s = .next t ∧ (t.queue q).head = (c.head + 1) % 2 ^ 32 ∧
      t.cmd.launchNext = id + 1 ∧ t.cmd.readPtr = (q + 1) % 64 ∧ t.mem = s.mem ∧
      (q = 0 → itemBytes w 0 1 = 1 → bad = false → t.cmd.admin = s.cmd.admin ++ [w + 2 ^ 1024 * id] ∧ t.cmd.launches = s.cmd.launches) ∧
      (q ≠ 0 ∨ itemBytes w 0 1 ≠ 1 → (t.launch id).item = w ∧ (t.launch id).queue = q ∧ (t.launch id).ctx = c.ctx ∧
        (t.launch id).status =
          (if itemBad w q = true ∨ bad = true ∨ (s.ctx c.ctx).state = .broken then some .fault else none))) ∧
    (s.nextQueue ≠ some q → exec (.workItemRead q) s = .next s) ∧
    (here → exec (.itemAged lid) s = .next (s.setLaunch lid { l with aged := s.ages l })) ∧
    (s.ages l = true ↔ l.cls = 1 ∧ l.status = none ∧ s.cmd.age ≠ 0 ∧ l.readAt + 1000 * s.cmd.age ≤ s.power.dtime) ∧
    (here → l.status = none → s.late l = true → ticks → l.started = 0 →
      exec (.deadlinePass lid) s = .next (woken (s.endLaunches [lid] .late {}))) ∧
    (here → l.status = none → s.late l = true → ticks → l.started ≠ 0 → exec (.deadlinePass lid) s =
      .next (woken (((s.setLaunch lid { l with deadlineHit := true }).discardPreloads lid false).settleLaunch lid))) ∧
    (s.late l = false → exec (.deadlinePass lid) s = .next s) ∧ (¬ ticks → exec (.deadlinePass lid) s = .next s) ∧
    (overDue → m.cls ≠ 0 → g.rerun = false → g.state ≠ .draining →
      exec (.budgetExpiry gid) s = .next (again.setLaunch g.launch { m with reruns := m.reruns ++ [gid] })) ∧
    (overDue → m.cls = 0 ∨ g.rerun = true → exec (.budgetExpiry gid) s = .next (if s.groupStopped g then ends exceeds else exceeds)) ∧
    (on → g.overrun = true → exec (.budgetExpiry gid) s = .next (if s.groupStopped g then ends s else s)) ∧
    (g.charged < m.budget → g.overrun = false → exec (.budgetExpiry gid) s = .next s) ∧
    (l.status = none → ∀ st e, ((s.endLaunches [lid] st e).launch lid).status = some st ∧
      ((s.endLaunches [lid] st e).launch lid).esc = e ∧ ((s.endLaunches [lid] st e).launch lid).tend = s.power.dtime)

/-- R331, R333, R355, R381 to R385: a launch that may run has its kernel staged, and read and checked by the launch that named it
first; one whose STRICT wait failed ends ABORT; a good object is measured by its SHA3-256 digest, into the context chain too, a bad one
ends FAULT; code goes into a half of a core of the group, under the one load identifier of its load. -/
def Obligations.KernelLoads : Prop :=
  ∀ (s : State) (lid core k gid h : Nat) (r : KernelRec) (g : Group) (bs : List Byte),
    let l := s.launch lid
    let va := l.it 8 8
    let wants := fun (e : Nat × Group) => e.2.launch == lid && e.2.state == .waking && e.2.cluster == core / 8 &&
      e.2.placements.any (fun p => p.core == core % 8) && (SMap.find e.2.halves (core % 8)).isNone &&
      !(s.ctx e.2.ctx).parked
    let measured := (s.setKernel k { s.kernel k with state := .measured, bytes := bs, digest := sha3 bs }).measureLoad l.ctx bs
    ((SMap.find s.cmd.launches lid).isSome = true → l.kernel = none → s.acts = true →
      (s.mustAbort l = true → exec (.kernelRead lid) s = .next (s.endLaunches [lid] .abort {})) ∧
      (s.eligible l = true →
        (s.kernelAt l.ctx va = none → exec (.kernelRead lid) s = .next (s.stageKernel l.ctx va lid)) ∧
        (s.kernelAt l.ctx va = some (k, r) → r.state ≠ .staged →
          exec (.kernelRead lid) s = .next (s.setLaunch lid { l with kernel := some k })) ∧
        (s.kernelAt l.ctx va = some (k, r) → r.state = .staged → s.reads lid r = false → exec (.kernelRead lid) s = .next s) ∧
        (s.kernelAt l.ctx va = some (k, r) → r.state = .staged → s.reads lid r = true → (s.ctx l.ctx).world = false →
          exec (.kernelRead lid) s = .next (s.finishRead lid k false va (s.readPlain l.ctx va))) ∧
        (s.kernelAt l.ctx va = some (k, r) → r.state = .staged → s.reads lid r = true → (s.ctx l.ctx).world = true →
          exec (.kernelRead lid) s = .next (s.finishRead lid k true va (s.readEnvelope l.ctx va))))) ∧
    (s.acts = false → exec (.kernelRead lid) s = .next s) ∧
    (objectOk bs = true → s.finishRead lid k false va (.object bs) =
      measured.setLaunch lid { measured.launch lid with kernel := some k }) ∧
    (∀ c, SMap.find s.ctxs l.ctx = some c → (measured.ctx l.ctx).chain = sha3 (c.chain ++ le 1 1 ++ le bs.length 8 ++ sha3 bs)) ∧
    (objectOk bs = false → s.finishRead lid k false va (.object bs) = (s.dropKernel k).endLaunches [lid] .fault {}) ∧
    (s.acts = true → s.cmd.groups.find? wants = some (gid, g) → s.group gid = g → s.mayLoad core g.ctx = true →
      s.loadHalf core g.kernel g.ctx = some h → ∃ t, exec (.kernelLoad lid core) s = .next t ∧ t.mem = s.mem ∧
      ((t.core core).halfAt h).kernel = some g.kernel ∧ ((t.core core).halfAt h).ctx = g.ctx ∧
      (t.core core).ownership = (if (s.ctx g.ctx).world then .owned g.ctx else .opened) ∧
      SMap.find (t.group gid).halves (core % 8) = some h ∧
      (((s.core core).halfAt h).kernel ≠ some g.kernel → ((t.core core).halfAt h).loadId = g.loadId.getD s.cmd.loadNext ∧
        (t.group gid).loadId = some (g.loadId.getD s.cmd.loadNext))) ∧
    (s.acts = true → s.cmd.groups.find? wants = none → exec (.kernelLoad lid core) s = .next s)

/-- R299, R302, R358, R387, R394, R402, R403: a free cluster takes the next task of the item that is chosen as a WAKING group; a
preload puts one into the shadow sets of a busy cluster; set-up starts the group, its strands with no register valid,
unless its deadline has passed. -/
def Obligations.Dispatching : Prop :=
  ∀ (s : State) (k lid gid : Nat) (cmd : CmdState) (r : State) (p : Placement),
    let u := s.sweepStrict
    let l := u.launch lid
    let kid := l.kernel.getD 0
    let o := (u.kernel kid).bytes
    let chosen := k < 48 ∧ s.acts = true ∧ u.rerunItem = none ∧ u.pick k = some (lid, cmd)
    let ready := { r with cmd := { r.cmd with turnsUsed := cmd.turnsUsed, lastQueue := cmd.lastQueue } }
    let spare := ((kPlaces o).all fun p => (u.loadHalf (coreAt k p.core) kid l.ctx).isSome) = true
    let g := s.group gid
    let go := (SMap.find s.cmd.groups gid).isSome = true ∧ g.state = .waking ∧ s.acts = true ∧ (s.ctx g.ctx).parked = false ∧
      (g.placements.all fun p => (SMap.find g.halves p.core).isSome) = true ∧
      (placeDecls (g.taken ++ (s.cluster g.cluster).allTiles) (kDecls (s.kernel g.kernel).bytes)).isSome = true
    (chosen → u.takes k l.ctx (kPlaces o) (kDecls o) = true → u.readyLaunch lid = (r, true) → ∃ t, exec (.taskDispatch k) s = .next t ∧
      t = ((ready.foreignCores k l.ctx).foldl State.beginDrain (ready.alignSets k)).newGroup lid k .waking ∧
      (t.group r.cmd.groupNext).state = .waking ∧ (t.group r.cmd.groupNext).launch = lid ∧ (t.group r.cmd.groupNext).cluster = k ∧
      t.cmd.groupNext = r.cmd.groupNext + 1) ∧
    (chosen → u.takes k l.ctx (kPlaces o) (kDecls o) = true → u.readyLaunch lid = (r, false) → exec (.taskDispatch k) s = .next r) ∧
    (chosen → u.takes k l.ctx (kPlaces o) (kDecls o) = false → exec (.taskDispatch k) s = .next u) ∧
    (s.acts = false → exec (.taskDispatch k) s = .next s) ∧
    (chosen → u.mayPreload k l.ctx (kPlaces o) (kDecls o) = true → spare → u.readyLaunch lid = (r, true) →
      ∃ t, exec (.preload k) s = .next t ∧ (t.group r.cmd.groupNext).state = .preloaded ∧ (t.group r.cmd.groupNext).launch = lid ∧
        (t.group r.cmd.groupNext).cluster = k) ∧
    (chosen → u.mayPreload k l.ctx (kPlaces o) (kDecls o) = false → exec (.preload k) s = .next u) ∧
    (go → s.late (s.launch g.launch) = true → exec (.groupStart gid) s = .next (s.passDeadline g.launch)) ∧
    (go → s.late (s.launch g.launch) = false → ∃ t, exec (.groupStart gid) s = .next t ∧ t.mem = s.mem ∧ (t.group gid).state = .running ∧
      (t.launch g.launch).started = (s.launch g.launch).started + 1 ∧
      (t.group gid).strands = g.placements.map (s.bankOf g.cluster false) ∧
      (g.placements = [p] → p.set = 0 → let x := t.strand (s.bankOf g.cluster false p)
        x.life = .live ∧ x.begun = true ∧ x.next = p.entry ∧ x.ctx = g.ctx ∧ x.xv = 0 ∧ x.vv = 0 ∧ x.pv = 0 ∧ x.cv = 0 ∧ x.sbc = 0 ∧
          x.hnd = false ∧ x.fmt = 0x2900 ∧ x.flags = 0 ∧ x.dbuf = [] ∧ x.q = [])) ∧
    (g.state ≠ .waking → exec (.groupStart gid) s = .next s)

/-- R335 to R338, R355, R356, R393: stage 9 hashes the results of a launch that ended OK, signs a hallmark where one is asked for,
writes it, and closes with the record and the token; launches go through it in the order of their statuses, each once its writes are
performed. -/
def Obligations.LaunchCompletion : Prop :=
  ∀ (s : State) (lid va : Nat) (st : Status) (bufs : List (Nat × Nat × List Byte)),
    let l := s.launch lid
    let turn := s.cmd.statusOrder.head? = some lid ∧ s.power.off = false ∧ s.writesDone lid = true ∧ l.status = some st
    let go := exec (.launchComplete lid) s
    let made := dsaSign identityKey (beBytes 0x4F445648_4C4D4B31 8) l.hmBody (secretKey s.tick)
    (turn → l.stage9 = 0 → st ≠ .ok → go = .next (s.measureLaunch lid st [])) ∧
    (turn → l.stage9 = 0 → st = .ok → s.results l = .done bufs → go = .next (s.measureLaunch lid .ok bufs)) ∧
    (turn → l.stage9 = 0 → st = .ok → s.results l = .failed → go = .next (s.measureLaunch lid .fault [])) ∧
    (turn → l.stage9 = 0 → st = .ok → s.results l = .held va → go = .next (s.cpPark l.ctx va lid false)) ∧
    (turn → l.stage9 ≠ 0 → l.wantsHm = false → go = .next (s.closeLaunch lid)) ∧
    (turn → l.stage9 ≠ 0 → l.wantsHm = true → l.hmSigned = false → go = .next s) ∧
    (turn → l.stage9 ≠ 0 → l.wantsHm = true → l.hmSigned = true → s.hallmarkWay l = none →
      go = .next ((s.writeRange agentCp 7 l.ctx (l.it 64 8) l.hmBody false).closeLaunch lid)) ∧
    (turn → l.stage9 ≠ 0 → l.wantsHm = true → l.hmSigned = true → s.hallmarkWay l = some (true, va) →
      go = .next ((s.setLaunch lid { l with hmLost := true }).closeLaunch lid)) ∧
    (turn → l.stage9 ≠ 0 → l.wantsHm = true → l.hmSigned = true → s.hallmarkWay l = some (false, va) →
      go = .next (s.cpPark l.ctx va lid true)) ∧
    (s.cmd.statusOrder.head? ≠ some lid → go = .next s) ∧ (s.writesDone lid = false → go = .next s) ∧
    ((s.measureLaunch lid st bufs).launch lid).status = some st ∧ ((s.measureLaunch lid st bufs).launch lid).stage9 = 1 ∧
    ((s.measureLaunch lid st bufs).sec.signQ = if l.wantsHm then s.sec.signQ ++ [lid] else s.sec.signQ) ∧
    ((s.closeLaunch lid).cmd.statusOrder = s.cmd.statusOrder.drop 1) ∧
    (s.sec.signQ.head? = some lid → s.power.off = false → made = none → exec (.hallmarkSign lid) s = .next s.bump) ∧
    (∀ sig, s.sec.signQ.head? = some lid → s.power.off = false → made = some sig → ∃ t, exec (.hallmarkSign lid) s = .next t ∧
      (t.launch lid).hmBody = l.hmBody ++ sig ∧ (t.launch lid).hmSigned = true ∧ t.sec.signQ = s.sec.signQ.drop 1 ∧ t.mem = s.mem) ∧
    (s.sec.signQ.head? ≠ some lid → exec (.hallmarkSign lid) s = .next s)

/-! ### Administrative commands -/

/-- R298, R299, R326, R327, R335, R341, R343, R352: CREATE opens a context, a protected one under the lowest EMPTY key slot,
unless debug is unlocked or no slot is EMPTY; DESTROY closes one; PARK writes a world's keys, wrapped, and frees its slot;
UNPARK takes them back; what needs the security controller waits for its earlier requests; RELOCK locks debug. A command leaves the list
with its record. -/
def Obligations.ContextCommands : Prop :=
  ∀ (s : State) (ctx policy root save len blob tag n : Nat) (world : Bool),
    let s1 := { s with sec := { s.sec with creations := s.sec.creations + 1 } }
    let ok := s1.createOk ctx world root save len
    let make := exec (.create ctx world policy root save len tag) s
    let idle := s.sec.signQ = []
    let c := s.ctx ctx
    let gen := SMap.get s.sec.gens ctx 0 + 1
    (ok = false → world = false ∨ idle → make = .next (s1.adminFault tag)) ∧ (world = true → ¬ idle → make = .next s) ∧
    (ok = true → world = false → make = .next ((s1.openCtx ctx false policy root save len 0 0).adminOk tag)) ∧
    (ok = true → world = true → idle → s.sec.debug ≠ 0 → make = .next (s1.adminEnd 0x0B tag 0)) ∧
    (ok = true → world = true → idle → s.sec.debug = 0 → s1.emptySlot = none → make = .next (s1.adminEnd 0x0A tag 0)) ∧
    (ok = true → world = true → idle → s.sec.debug = 0 → s1.emptySlot = some n →
      let s2 := { s1 with sec := { s1.sec with keyNext := s.sec.keyNext + 1 } }
      make = .next (((s2.fillSlot n ctx s.sec.keyNext).openCtx ctx true policy root save len n s.sec.keyNext).adminOk tag)) ∧
    (s1.emptySlot = some n → 1 ≤ n ∧ n < 64 ∧ SMap.find s.sec.slots n = none ∧ ∀ m, 1 ≤ m → m < n → SMap.find s.sec.slots m ≠ none) ∧
    (let x := (s1.openCtx ctx world policy root save len n blob).ctx ctx;
      x.state = .opened ∧ x.world = world ∧ x.root = root ∧ x.pages = [] ∧ x.slot = n ∧ x.keyId = blob ∧
        x.chain = sha3 (le 0x43 1 ++ le ctx 2 ++ le (if world then 1 else 0) 1 ++ deviceId ++ le (s.sec.creations + 1) 8)) ∧
    (SMap.find s.ctxs ctx = none → exec (.destroy ctx tag) s = .next (s.adminFault tag)) ∧
    (∀ x, SMap.find s.ctxs ctx = some x → x.state ≠ .closing →
      exec (.destroy ctx tag) s = .next (((s.closeCtx ctx).settleClosing ctx).adminOk tag)) ∧
    (∀ x, SMap.find s.ctxs ctx = some x → x.state = .closing → exec (.destroy ctx tag) s = .next (s.adminOk tag)) ∧
    (s.parkOk ctx = true → blob + 256 ≤ 2 ^ 51 → s.link.hostUp = true → idle →
      let s2 := { s with sec := { s.sec with gens := SMap.insert s.sec.gens ctx gen, slots := SMap.erase s.sec.slots c.slot }, mem := (s.mem.dropSlot c.keyId).write agentCp 7 (2 ^ 51 + blob) (parkBlob ctx c.slot gen c.keyId) false 0 }
      exec (.park ctx blob tag) s = .next ((s2.setCtx ctx { c with parked := true }).adminOk tag)) ∧
    (s.parkOk ctx = false → exec (.park ctx blob tag) s = .next (s.adminFault tag)) ∧
    (s.usable ctx = true → c.parked = true → blob + 256 ≤ 2 ^ 51 → s.link.hostUp = true → idle →
      let good := s.mem.bytesFor (Reader.of agentCp s.tick) (2 ^ 51 + blob) 256 = parkBlob ctx c.slot (SMap.get s.sec.gens ctx 0) c.keyId
      (¬ good → exec (.unpark ctx blob tag) s = .next (s.adminFault tag)) ∧
      (good → s.emptySlot = none → exec (.unpark ctx blob tag) s = .next (s.adminEnd 0x0A tag 0)) ∧
      (good → s.emptySlot = some n → exec (.unpark ctx blob tag) s =
        .next (((s.fillSlot n ctx c.keyId).setCtx ctx { c with parked := false, slot := n }).adminOk tag))) ∧
    exec (.relock tag) s = .next (s.lockDebug.adminOk tag) ∧ s.lockDebug.sec.debug = 0 ∧
    (∀ st, (s.adminEnd st tag n).cmd.admin = s.cmd.admin.drop 1)

/-- R113, R352, R364, R470: FORCE sets or releases a context's forced 24k, and on the cores of its standing groups the state follows what
the contexts that run there ask for; CANCEL ends its open launches
with a queue and a TAG as ABORT and counts them, EPWIN and EPRING set a window and a ring that no other context holds. -/
def Obligations.OtherCommands : Prop :=
  ∀ (s : State) (ctx queue target window dest ring log2s base tag : Nat) (on wake : Bool),
    let gs := s.standing.filter fun g => g.ctx == ctx
    let asked := s.setCtx ctx { s.ctx ctx with force := on }
    let wins := { s with link := { s.link with windows := SMap.insert s.link.windows window { ctx := ctx, enabled := on, dest := dest, ring := ring } } }
    let freeWin := (SMap.find s.link.windows window).all (fun w => w.ctx == ctx) = true
    let freeRing := (SMap.find s.link.rings ring).all (fun r => r.ctx == ctx) = true
    let rings := fun (m : SMap EpRing) => { s with link := { s.link with rings := m } }
    (s.usable ctx = false → exec (.force ctx on tag) s = .next (s.adminFault tag)) ∧
    (s.usable ctx = true → ∃ t : State, exec (.force ctx on tag) s = .next (t.adminOk tag) ∧ t.mem = s.mem ∧ (t.ctx ctx).force = on ∧
      (∀ n, n ∈ gs.flatMap Group.cores → (t.core n).force = asked.forceAsked n) ∧
      (on = true → ∀ n, n ∈ gs.flatMap Group.cores → (t.core n).force = true) ∧ (∀ n, n ∉ gs.flatMap Group.cores → t.core n = s.core n)) ∧
    (s.usable ctx = true → 0 < queue → queue < 64 → exec (.cancel ctx queue target tag) s =
      .next ((s.endLaunches (s.cancelled ctx queue target) .abort {}).adminEnd 0 tag (s.cancelled ctx queue target).length)) ∧
    (s.usable ctx = true → queue = 0 ∨ 64 ≤ queue → exec (.cancel ctx queue target tag) s = .next (s.adminFault tag)) ∧
    (s.usable ctx = true → freeWin → window < 256 → dest < 4096 → ring < 64 →
      exec (.epwin ctx window on dest ring tag) s = .next (wins.adminOk tag)) ∧
    (¬ freeWin → exec (.epwin ctx window on dest ring tag) s = .next (s.adminFault tag)) ∧
    (s.usable ctx = true → freeRing → ring < 64 → 0 < log2s → log2s ≤ 12 → base % 64 = 0 → base < 2 ^ 52 →
      exec (.epring ctx ring log2s wake base tag) s =
        .next ((rings (SMap.insert s.link.rings ring { ctx := ctx, log2s := log2s, wake := wake, base := base })).adminOk tag)) ∧
    (s.usable ctx = true → freeRing → ring < 64 → base % 64 = 0 → base < 2 ^ 52 →
      exec (.epring ctx ring 0 wake base tag) s = .next ((rings (SMap.erase s.link.rings ring)).adminOk tag)) ∧
    (12 < log2s → exec (.epring ctx ring log2s wake base tag) s = .next (s.adminFault tag))

/-! ### Pages and weight regions -/

/-- R437, R438, R440 to R446: MAP installs its entries and UNMAP removes them once the accesses under the old ones are performed:
translations leave the TLBs, faults are resolved, parked accesses replay or fail; MIGRATE marks its page and the end of the copy
gives it the new frame; a walk fills the TLBs. Operands that do not hold end a command FAULT with nothing else changed. R435, R438:
after a MAP each of its pages has the entry that its operands give, a frame of its own, and every page outside the range stays. -/
def Obligations.PageCommands : Prop :=
  (∀ (s : State) (m : MapArg) (ctx size va pa count tag die cluster base e : Nat) (x : Migration),
    let g := m.va / 65536
    let n := m.count * pageGranules m.size
    let h := va / 65536
    let k := count * pageGranules size
    let c := s.ctx ctx
    let len := pageGranules size
    let aside := s.setCtx ctx { c with pages := SMap.insert c.pages h (pteWithState e 2) }
    let marked := { aside with migrations := s.migrations ++ [({ ctx := ctx, va := va, size := size, pa := pa } : Migration)] }
    let copied := s.moveFrame c.keyId (s.foldPa (ptePa e)) (s.foldPa x.pa) (65536 * pageGranules x.size)
    let moved := { copied with migrations := copied.migrations.filter fun y => !(y.ctx == ctx && y.va == va) }
    let landed := (moved.setCtx ctx { c with pages := SMap.insert c.pages h (pteWithPa (pteWithState e 0) x.pa) }).writeRun ctx [va]
    let vas := pageRun m.va m.size m.count
    let tables := s.tablesFor m.ctx m.size vas
    let unpinned := { s with mem := s.mem.unpin (s.pinnedIn ctx h k) }
    let d := s.die die
    let done := s.setDie die { d with walks := d.walks.filter fun y => !(y.ctx == ctx && y.page == h) }
    let walk := d.walks.find? fun y => y.ctx == ctx && y.page == h
    (s.mapOk m = true → s.inFlight m.ctx g n = false → ∀ t, tables = some t → exec (.map m) s = .next
      ((((((t.setCtx m.ctx ((t.ctx m.ctx).install m)).writeRun m.ctx vas).tlbDrop m.ctx g n).resolve m.ctx g n).replay m.ctx g n).adminOk m.tag)) ∧
    (s.mapOk m = true → s.inFlight m.ctx g n = false → tables = none → exec (.map m) s = .next (s.adminFault m.tag)) ∧
    (s.mapOk m = true → s.inFlight m.ctx g n = true → exec (.map m) s = .next s) ∧
    (s.mapOk m = false → exec (.map m) s = .next (s.adminFault m.tag)) ∧
    (s.unmapOk ctx size va count = true → s.inFlight ctx h k = false → exec (.unmap ctx size va count tag) s = .next
      ((((((unpinned.setCtx ctx (c.uninstall h k)).writeRun ctx (pageRun va size count)).tlbDrop ctx h k).resolve ctx h k).failParked
        ctx h k).adminOk tag)) ∧
    (s.unmapOk ctx size va count = false → exec (.unmap ctx size va count tag) s = .next (s.adminFault tag)) ∧
    (s.migrateOk ctx size va pa = true → s.inFlight ctx h len = false → c.pageAt size va = some e →
      exec (.migrate ctx size va pa tag) s = .next ((marked.tlbDrop ctx h len).adminOk tag)) ∧
    (s.migrateOk ctx size va pa = false → exec (.migrate ctx size va pa tag) s = .next (s.adminFault tag)) ∧
    (s.migrations.find? (fun y => y.ctx == ctx && y.va == va) = some x → c.pageAt x.size va = some e →
      exec (.migrateCopyDone ctx va) s = .next (((landed.tlbDrop ctx h (pageGranules x.size)).resolve ctx h (pageGranules x.size)).replay
        ctx h (pageGranules x.size))) ∧
    (peerOf (s.foldPa (ptePa e)) = none → peerOf (s.foldPa x.pa) = none →
      copied = { s with mem := s.mem.copyFrame (s.foldPa (ptePa e)) (s.foldPa x.pa) (65536 * pageGranules x.size) }) ∧
    (s.migrations.find? (fun y => y.ctx == ctx && y.va == va) = none → exec (.migrateCopyDone ctx va) s = .next s) ∧
    (walk = none → exec (.pageWalkComplete ctx va die cluster) s = .next s) ∧
    (s.walkOpen die c va = false → exec (.pageWalkComplete ctx va die cluster) s = .next s) ∧
    (∀ w, walk = some w → s.walkOpen die c va = true → done.walkBad c va = true →
      exec (.pageWalkComplete ctx va die cluster) s = .next (done.breakCtx ctx)) ∧
    (∀ w, walk = some w → s.walkOpen die c va = true → done.walkBad c va = false → c.leaf va = some (base, e) →
      let entry : TlbEntry := { ctx := ctx, page := base, size := pteSize e, leaf := e }
      ∃ t, exec (.pageWalkComplete ctx va die cluster) s = .next t ∧ t.mem = s.mem ∧ entry ∈ (t.die die).tlb ∧
        (∀ x ∈ w.clusters, entry ∈ (t.cluster x).tlb) ∧ ∀ y ∈ (t.die die).walks, ¬ (y.ctx = ctx ∧ y.page = h)) ∧
    (∀ d y, y ∈ ((s.tlbDrop ctx h k).die d).tlb ↔ y ∈ (s.die d).tlb ∧ (y.ctx ≠ ctx ∨ h + k ≤ y.page ∨ y.page + pageGranules y.size ≤ h))) ∧
  (∀ (c : Ctx) (m : MapArg) (i : Nat), i < m.count →
    let n := pageGranules m.size
    let g := m.va / 65536
    SMap.find (c.install m).pages (g + n * i) = some (pteOf m.size m.state (bit m.perm 0) (bit m.perm 1) (bit m.perm 2) (bit m.perm 3)
      (if m.state = 1 then 0 else m.pa + 65536 * n * i) m.wreg) ∧
    ∀ p, p < g ∨ g + m.count * n ≤ p → SMap.find (c.install m).pages p = SMap.find c.pages p)

/-- R447 to R452: WREG defines a region; WBEGIN opens its transaction, WCOMMIT puts COMMIT into the journal and then makes the
version current with its digest, WABORT gives every copy its version before; WPAGE writes granules in ascending order while the
transaction is OPEN, but not in a kiln hold, and goes on from the granule whose source it had to wait for; CKCFG sets the tracked
window, and clears the dirty bits where it moves. R454, R455: the snapshot turns dirty bits into pending bits and increments GEN; a
granule streamed is copied to the area, loses its pending bit, and its parked writes replay; a page of the area that denies a write
fails the checkpoint. -/
def Obligations.WeightsAndCheckpoints : Prop :=
  (∀ (s : State) (ctx region delta va src count base len tag : Nat),
    let r := s.region ctx region
    let c := s.ctx ctx
    let idle := s.txIs ctx region (· == .idle)
    let opened := s.txIs ctx region (· == .opened)
    let gran := (List.range count).map fun i => (i, va / 65536 + i)
    let reads := fun (i : Nat) => s.cpRead ctx (src + 65536 * i) 65536
    let pages := va % 65536 = 0 ∧ 0 < count ∧ count ≤ 65536 ∧ ∀ i < count, ∃ b e, c.leaf (va + 65536 * i) = some (b, e) ∧
      pteState e = 5 ∧ pteWreg e = region
    let new := if len = 0 then none else some (base, len)
    let free := s.power.kiln ≠ .held
    (s.wregOk ctx region delta = true → exec (.wreg ctx region delta tag) s = .next ((s.setRegion ctx region { delta := delta }).adminOk tag)) ∧
    (s.wregOk ctx region delta = false → exec (.wreg ctx region delta tag) s = .next (s.adminFault tag)) ∧
    (idle = true → s.boundLaunch ctx region (fun v => decide (v < r.current)) = false →
      exec (.wbegin ctx region tag) s = .next ((s.setRegion ctx region { r with tx := .opened, written := [] }).adminOk tag)) ∧
    (idle = false → exec (.wbegin ctx region tag) s = .next (s.adminFault tag)) ∧
    (free → opened = true → r.commit = false → pages → ∀ t b n, s.wpageRun ctx region src s.cmd.wpageDone (gran.drop s.cmd.wpageDone) = (t, b, n) →
      exec (.wpage ctx region va src count tag) s = .next (match b with
        | .ok => (t.setWpage 0).adminOk tag
        | .fault => (t.setWpage 0).adminFault tag
        | .park a => (t.setWpage n).cpPark ctx a 0 false)) ∧
    (∀ i g rest n, (∀ a, reads i = .park a → s.wpageRun ctx region src n ((i, g) :: rest) = (s, .park a, n)) ∧
      ∀ bs, reads i = .bytes bs false →
        let u := (s.openRange ctx (fun x => (s.region ctx x).current) (src + 65536 * i) 65536).writeGranule ctx region g bs
        s.wpageRun ctx region src n ((i, g) :: rest) = if u.2 then (u.1, .fault, n) else u.1.wpageRun ctx region src (n + 1) rest) ∧
    (free → opened = true → r.commit = true → exec (.wpage ctx region va src count tag) s = .next ((s.setWpage 0).adminFault tag)) ∧
    (free → opened = false → exec (.wpage ctx region va src count tag) s = .next ((s.setWpage 0).adminFault tag)) ∧
    (¬ free → exec (.wpage ctx region va src count tag) s = .next s) ∧
    (opened = true → r.commit = false → exec (.wcommit ctx region tag) s = .next (s.setRegion ctx region { r with commit := true })) ∧
    (opened = true → r.commit = true → exec (.wcommit ctx region tag) s = .next ((s.setRegion ctx region { r with
      current := r.current + 1, tx := .idle, commit := false, written := [],
      digest := s.regionDigest ctx region (r.current + 1) }).adminOk tag)) ∧
    (opened = false → exec (.wcommit ctx region tag) s = .next (s.adminFault tag)) ∧
    (s.txIs ctx region (· != .idle) = true → exec (.wabort ctx region tag) s =
      .next ((s.setRegion ctx region r.rollBack).adminOk tag)) ∧
    (idle = true → exec (.wabort ctx region tag) s = .next (s.adminFault tag)) ∧
    (s.usable ctx = true → base % 2 ^ 30 = 0 → len ≤ 4096 → base + len * 2 ^ 30 ≤ 2 ^ 52 → exec (.ckcfg ctx base len tag) s =
      .next ((s.setCtx ctx { c with window := new, dirty := if c.window = new then c.dirty else [] }).adminOk tag)) ∧
    (base % 2 ^ 30 ≠ 0 → exec (.ckcfg ctx base len tag) s = .next (s.adminFault tag))) ∧
  (∀ (s : State) (ctx granule : Nat) (p : Ckpt) (bs : List Byte) (bad : Bool), (s.ctx ctx).ckpt = some p → s.power.kiln = .running →
    let c := s.ctx ctx
    let n := c.dirty.length
    let q := { p with taken := true, number := c.ckptGen + 1, manifest := c.dirty, time := s.power.dtime }
    let snap := s.setCtx ctx { c with pending := c.dirty, dirty := [], ckptGen := c.ckptGen + 1, ckpt := some q }
    let due := p.taken = false ∧ p.failed = false ∧ p.cmds ≠ [] ∧ s.ckptWaits p.launch p.gen = false ∧ s.allArrived p.launch p.gen = true
    let dst := p.area + ckptHead p.manifest.length + 65536 * p.manifest.idxOf granule
    let turn := p.taken = true ∧ p.failed = false ∧ p.manifest.contains granule = true ∧ c.pending.contains granule = true ∧
      (s.writeParked ctx granule = true ∨ ∀ g ∈ p.manifest, c.pending.contains g = true → s.writeParked ctx g = false)
    let eng := engineOf ((p.cmds.head?.map (·.1)).getD 0)
    let read := s.readRange (Reader.of eng s.tick) ctx false (fun r => SMap.get (s.launch p.launch).versions r 0) (65536 * granule) 65536
    (due → ckptHead n + 65536 * n ≤ p.capacity → exec (.ckptSnapshot ctx) s = .next snap) ∧
    (due → p.capacity < ckptHead n + 65536 * n → exec (.ckptSnapshot ctx) s = .next (snap.failCkpt ctx q)) ∧
    (s.allArrived p.launch p.gen = false → exec (.ckptSnapshot ctx) s = .next s) ∧
    (turn → read = .bytes bs bad → s.probeWrite eng ctx false dst 65536 = none →
      let t := s.writeRange eng 7 ctx dst bs bad
      let d := t.ctx ctx
      exec (.ckptGranuleStreamed ctx granule) s =
        .next ((t.setCtx ctx { d with pending := d.pending.filter (· != granule) }).unprotect ctx [granule])) ∧
    (∀ a, turn → read = .bytes bs bad → s.probeWrite eng ctx false dst 65536 = some (true, a) →
      exec (.ckptGranuleStreamed ctx granule) s = .next (s.failCkpt ctx p)) ∧
    (c.pending.contains granule = false → exec (.ckptGranuleStreamed ctx granule) s = .next s))

/-! ### Swaps, images, cores -/

/-- R310 to R318, R363, R399, R404: a pre-emption stops a foreground group; each core whose strands have stopped swaps its sets with the
shadow's, and with all cores swapped the tile tables change places; a shadowed group is imaged where the save area has room, and restored
on a cluster that can take it, as its images give it, or such a cluster's cores begin to drain for it; an image that fails its checks faults the launch. -/
def Obligations.SwapsAndImages : Prop :=
  ∀ (s : State) (k a b c gid room : Nat) (g h : Group) (imgs : List (List Byte)),
    let on := s.swapsGo k = true
    let stops := g.state = .switching ∧ g.overrun = false ∧ twoSet g.placements = false
    let w := s.group gid
    let ts := (s.cluster w.cluster).shadow
    let l := s.groupImages w ts room
    let quiet := (w.strands.all s.queuesQuiet) = true
    let here := (List.range 48).filter (s.canRestore w)
    let soon := (List.range 48).filter (s.couldRestore w)
    let room0 := fun (g : Group) => twoSet g.placements = false ∨ (s.saveRoom g.ctx (g.imageSize (s.cluster k).tiles)).isSome = true
    let out := (SMap.find s.cmd.groups gid).isSome = true ∧ w.state = .shadowed ∧ s.acts = true
    let back := (SMap.find s.cmd.groups gid).isSome = true ∧ w.state = .imaged ∧ s.acts = true
    (s.foreOf k = some (a, g) → room0 g → exec (.preemptRequest k) s = .next (s.setGroup a g.requested)) ∧
    (s.foreOf k = some (a, g) → ¬ room0 g → exec (.preemptRequest k) s = .next s) ∧
    (¬ on → exec (.bankSwapComplete k) s = .next s) ∧
    (g.state = .running → g.requested = { g with state := .switching }) ∧
    (s.foreOf k = none → exec (.preemptRequest k) s = .next s) ∧
    (on → s.foreOf k = some (a, g) → stops → s.shadowOf k = some (b, h) → h.state ≠ .retained → exec (.bankSwapComplete k) s =
      .next (if h.entering then s.swapStep k (some a) (some b) else s.enter b)) ∧
    (on → s.foreOf k = some (a, g) → stops → s.shadowOf k = none →
      exec (.bankSwapComplete k) s = .next (s.swapStep k (some a) none)) ∧
    (on → s.foreOf k = none → s.shadowOf k = some (b, h) → h.state ≠ .retained → exec (.bankSwapComplete k) s =
      .next (if h.entering then s.swapStep k none (some b) else s.enter b)) ∧
    (on → s.foreOf k = some (a, g) → g.state = .running → twoSet g.placements = true →
      exec (.bankSwapComplete k) s = .next (s.swapSecond a)) ∧
    (s.coreStopped a c = false → s.trySwap k (some a) (some b) c = s) ∧
    (s.coreStopped a c = true → (s.cluster k).swapped.contains c = false → ownersMeet (s.group a) (s.group b) c = false →
      s.trySwap k (some a) (some b) c = s.swapCore k (some a) (some b) c) ∧
    (((s.swapCore k (some a) (some b) c).core (8 * k + c)).fgSet = 1 - (s.core (8 * k + c)).fgSet) ∧
    (let t := s.endSwap k (some a) (some b);
      (t.cluster k).tiles = (s.cluster k).shadow ∧ (t.cluster k).shadow = (s.cluster k).tiles ∧
        (a ≠ b → (t.group a).state = .shadowed)) ∧
    (out → quiet → s.saveRoom w.ctx (w.imageSize ts) = some room → s.saveOpen w.ctx l = true → exec (.imageWrite gid) s =
      .next ((s.writeImages w.ctx l).leaveCluster gid room (w.imageSize ts) ts false)) ∧
    (out → s.saveRoom w.ctx (w.imageSize ts) = none → exec (.imageWrite gid) s = .next s) ∧
    (out → ¬ quiet → exec (.imageWrite gid) s = .next s) ∧
    (back → s.mayReturn gid = true → here ≠ [] → ∃ j, s.canRestore w j = true ∧ j < 48 ∧
      exec (.imageRestore gid) s = .next (s.restore gid j).bump) ∧
    (back → s.mayReturn gid = true → here = [] → soon ≠ [] → ∃ j, s.couldRestore w j = true ∧ j < 48 ∧
      exec (.imageRestore gid) s = .next (s.drainFor w j).bump) ∧
    (back → s.mayReturn gid = false ∨ (here = [] ∧ soon = []) → exec (.imageRestore gid) s = .next s) ∧
    (s.readImages w = some (some imgs) → s.restore gid k = (s.restoreOn gid k imgs).getD s) ∧
    (s.readImages w = none → s.restore gid k = s) ∧
    (s.readImages w = some none → (s.launch w.launch).status = none → ((s.restore gid k).launch w.launch).status = some .fault)

/-- R319, R320, R328, R386, R400: a core without strands is gated and presents zeros; cores whose strands all wait are retained together
with their groups; retained cores wake together, or their work items are LOST where an image fails its checks; a drained core, on which no
engine works any more, is CLEAN, with nothing left in it. -/
def Obligations.CorePower : Prop :=
  ∀ (s : State) (n : Nat),
    let c := s.core n
    let ss := s.strandsOn n
    let cores := s.gateSet n
    let gs := s.groupsOver n cores
    let saved := cores.filter fun m => (s.core m).saved
    let asleep := s.groupsOver n saved
    let may := n < 384 ∧ s.power.lost = false ∧ s.power.off = false ∧ s.power.kiln = .running ∧ c.ownership ≠ .draining ∧ c.on = true
    let wakes := c.on = false ∧ c.saved = true ∧ s.power.lost = false ∧ s.power.off = false ∧ saved ≠ []
    let good := saved.all s.retentionGood
    let drained := s.setCore n { c.gated with on := c.on, ownership := .clean }
    (may → ss = [] → s.coreClaimed n = false →
      exec (.coreGate n) s = .next (((s.setCore n c.gated).settleResident).settleDie (n / 48))) ∧
    (may → s.coreClaimed n = true → s.mayRetain cores gs = true → exec (.coreGate n) s =
      .next (((gs.foldl State.retainGroup (cores.foldl State.retain s)).settleResident).settleDie (n / 48))) ∧
    (may → s.coreClaimed n = true → s.mayRetain cores gs = false → exec (.coreGate n) s = .next s) ∧
    (s.mayRetain cores gs = true → s.power.gateIdle ≠ 0 ∧ s.power.gateIdle < s.power.expected ∧ ∀ m ∈ cores, ∀ x ∈ s.strandsOn m,
      (s.strand x).waits = true ∧ (s.strand x).stopped = true ∧ s.queuesQuiet x = true) ∧
    (c.on = false → exec (.coreGate n) s = .next s) ∧
    (wakes → exec (.coreWake n) s = .next (if !good then s.loseCores saved asleep
      else if s.mayWake asleep then (s.wake saved asleep).setDie (n / 48) { s.die (n / 48) with off := false } else s)) ∧
    (∀ m ∈ saved, ((s.wake saved asleep).core m).on = true ∧ ((s.wake saved asleep).core m).saved = false) ∧
    (∀ m ∈ asleep, (s.launch (s.group m).launch).status = none →
      ((s.loseCores saved asleep).launch (s.group m).launch).status = some .lost) ∧
    (c.on = true → exec (.coreWake n) s = .next s) ∧
    (c.gated.on = false ∧ c.gated.sp = [] ∧ c.gated.bst = [] ∧ c.gated.acc = [] ∧ c.gated.accv = 0 ∧ c.gated.mstore = [] ∧
      c.gated.half0 = {} ∧ c.gated.half1 = {} ∧ c.gated.owner = none ∧ c.gated.ownership = c.ownership) ∧
    (s.coreWorked n = true → exec (.coreDrainComplete n) s = .next s) ∧
    (c.ownership = .draining → s.coreEmpty n = true → s.coreWorked n = false → ∃ t : State, exec (.coreDrainComplete n) s = .next t.settleResident.settleAll ∧
      t.mem = s.mem ∧ t.strands = s.strands ∧ t.core n = drained.core n ∧ (drained.core n).ownership = .clean ∧ (drained.core n).sp = [] ∧
      (drained.core n).bst = [] ∧ (drained.core n).acc = [] ∧ (drained.core n).half0 = {} ∧ (drained.core n).half1 = {} ∧
      (∀ e ∈ (t.cluster (n / 8)).tiles ++ (t.cluster (n / 8)).shadow, e.2.core ≠ n % 8) ∧ ∀ m, m ≠ n → t.core m = s.core m) ∧
    (c.ownership ≠ .draining → exec (.coreDrainComplete n) s = .next s)

/-- R321, R322, R502: after the warning, once every strand has stopped, everything is saved and the package is off, with no core on and
no group RUNNING or SHADOWED; power returns with bring-up at stage 0, the links down and no group resumed that may not be; a stage of bring-up
completes, or fails with an ERR. -/
def Obligations.PowerCycle : Prop :=
  ∀ s : State,
    let lost := { s with power := { s.power with lost := true } }
    (s.power.off = false → exec .powerLossWarning s = .next (if lost.saveReady then lost.saveAll else lost)) ∧
    (lost.saveReady = true → ∀ e ∈ s.strands, e.2.stopped = true ∧ lost.queuesQuiet e.1 = true) ∧
    (lost.saveAll.power.off = true ∧ (∀ n, (lost.saveAll.core n).on = false) ∧
      ∀ e ∈ lost.saveAll.cmd.groups, e.2.state ≠ .running ∧ e.2.state ≠ .shadowed) ∧
    (s.power.off = false → exec .powerReturn s = .next s) ∧
    (s.power.off = true → ∃ t, exec .powerReturn s = .next t ∧ t.power.off = false ∧ t.power.lost = false ∧ t.power.stage = 0 ∧
      t.power.err = 0 ∧ t.power.kiln = .running ∧ s.power.dtime ≤ t.power.dtime ∧ t.sec.spdm = none ∧ t.link.hostUp = false ∧
      t.link.ports = [] ∧ t.link.cols = [] ∧ (∀ k, (t.cluster k).ceq = [] ∧ (t.cluster k).tlb = []) ∧
      ∀ gid g, SMap.find s.cmd.groups gid = some g → g.ran = true → g.state = .imaged ∨ s.mayResume gid = false →
        (s.launch g.launch).status = none → (t.launch g.launch).status = some .lost) ∧
    (s.power.stage < 8 → s.power.err = 0 → s.power.off = false → s.power.lost = false → ∃ t, exec .bringUp s = .next t ∧
      ((t.power.stage = s.power.stage + 1 ∧ t.power.err = 0) ∨ (t.power.stage = s.power.stage ∧ 1 ≤ t.power.err ∧ t.power.err < 256))) ∧
    (8 ≤ s.power.stage → exec .bringUp s = .next s) ∧
    ((s.stageDone 7).link.hostUp = true ∧ (s.stageDone 8).power.tripped = none ∧ (s.stageDone 3).sec.debug = 0 ∧
      ∀ n < 17, ((s.stageDone 4).ucie n).state = .active)

/-! ### Clocks, heat, errors -/

/-- R481 to R485: a target is rounded down to 25 MHz within 500 to 1800 and starts a hop; the hop locks, lowers and ends, and a
droop abandons or pauses it, until 20 microseconds have passed without one; at the sixteenth abandon it is given up; the current
controller raises the level of a die at once and, after 10 microseconds of low current, lowers it by one, not below 2 while the die is
throttled. -/
def Obligations.ClockHops : Prop :=
  ∀ (s : State) (n v current : Nat), n < 8 →
    let d := s.die n
    let put := fun (d : Die) => Host.Outcome.next (φ := Fault) (ρ := Refusal) (s.setDie n d)
    let tgt := max 500 (min 1800 (v % 2 ^ 11 / 25 * 25))
    let w := { d with tgt := tgt, hopFail := d.hopFail && !bit v 32 }
    let shaken := { d with stretch := true, lastDroop := some s.power.dtime }
    let left := { shaken with hop := .abandoned, abn := min 255 (d.abn + 1) }
    let low := ∃ t, d.calmSince = some t ∧ t + 10000 ≤ s.power.dtime
    let limit := Config.currentLimit
    let asked := if limit < current then 4 else if 97 * limit < 100 * current then 3 else if 92 * limit < 100 * current then 2
      else if 85 * limit < 100 * current then 1 else 0
    (d.hop = .none → s.power.kiln = .running → tgt ≠ d.cur → exec (.dieclkTgtWrite n v) s =
      put { w with hop := .locking, hopTgt := tgt, abn := 0, raised := max d.raised tgt }) ∧
    (d.hop ≠ .none ∨ s.power.kiln ≠ .running ∨ tgt = d.cur → exec (.dieclkTgtWrite n v) s = put w) ∧
    (s.power.kiln = .running →
      (d.hop = .locking → exec (.hopPllLock n) s = put { d with cur := d.hopTgt, hop := .lowering }) ∧
      (d.hop = .lowering → d.tgt = d.cur → exec (.hopComplete n) s = put { d with hop := .none, raised := d.cur }) ∧
      (d.hop = .lowering → d.tgt ≠ d.cur → exec (.hopComplete n) s =
        put { d with hop := .locking, hopTgt := d.tgt, abn := 0, raised := max d.cur d.tgt }) ∧
      (s.quiet n = true → d.hop = .abandoned → exec (.hopRetry n) s = put { d with hop := .locking }) ∧
      (s.quiet n = true → d.hop = .paused → exec (.hopRetry n) s = put { d with hop := .lowering }) ∧
      (d.hop = .none → exec (.hopPllLock n) s = .next s ∧ exec (.hopComplete n) s = .next s ∧ exec (.hopRetry n) s = .next s)) ∧
    (d.hop = .locking → d.abn + 1 < 16 → exec (.droopDetect n) s = put left) ∧
    (d.hop = .locking → 16 ≤ d.abn + 1 → exec (.droopDetect n) s =
      .next (((s.setDie n left).setDie n { left with hop := .none, tgt := left.cur, hopFail := true }).machineCheck 7 n 0xFFFF 0 0)) ∧
    (d.hop = .lowering → d.hopTgt < d.raised → exec (.droopDetect n) s = put { shaken with hop := .paused }) ∧
    (d.hop = .none → exec (.droopDetect n) s = put shaken) ∧
    (s.quiet n = false → exec (.hopRetry n) s = .next s) ∧
    (s.quiet n = true ↔ d.stretch = false ∧ ∀ t, d.lastDroop = some t → t + 20000 ≤ s.power.dtime) ∧
    (exec (.droopStretchEnd n) s = put { d with stretch := false }) ∧
    (exec (.currentLevelRaise n current) s = put ({ d with amps := current }.atLevel (max d.level asked) s.power.dtime)) ∧
    ((d.atLevel v current).level = v) ∧
    (s.power.kiln ≠ .held → d.throttle = false ∨ 2 < d.level → low → exec (.currentLevelLower n) s =
      put (d.atLevel (d.level - 1) s.power.dtime)) ∧
    (¬ low → exec (.currentLevelLower n) s = .next s) ∧
    (d.throttle = true → d.level ≤ 2 → exec (.currentLevelLower n) s = .next s) ∧
    (d.split = (if d.level = 0 then 1 else if d.level = 1 then 2 else 4) ∧ d.mask = (if d.level < 3 then 0 else if d.level = 3 then 2 else 3))

/-- R487 to R490: a sensor at 95 °C throttles its die to level 2; at 105 °C a kiln hold begins, which is entered once every strand
has stopped and ends with every sensor at 90 °C or below, after 1 ms at least; at 115 °C the record of the trip is made, and the
save runs once every strand has stopped;
each of the three events reads its sensor so;
forced 24k of a core runs out. -/
def Obligations.HeatAndHolds : Prop :=
  ∀ (s : State) (n temp core : Nat), n < 36 →
    let u := s.readSensor n temp
    let hot := fun (k : Nat) => (List.range 4).any fun i => decide (1520 ≤ (s.setTemp n temp).temp (4 * k + i))
    let held := { u with power := { u.power with kiln := .entering, kilnSince := s.power.dtime, holds := (s.power.holds + 1) % 2 ^ 16 } }
    let noted := if u.power.tripped.isSome then u else
      { u with power := { u.power with tripped := some (u.checkBytes 5 (if n < 32 then n / 4 else 8 + (n - 32) / 2) 0xFFFF 0 0) } }.trigger 2 5
    let trip := { noted with power := { noted.power with lost := true } }
    let cool := ∀ i < 36, s.temp i ≤ 1440
    let c := s.core core
    let reads := fun (o : Host.Outcome State Fault Refusal) =>
      (u.temp n < 1680 → o = .next u) ∧ (u.temp n < 1840 → s.power.kiln ≠ .running → o = .next u) ∧
      (1680 ≤ u.temp n → u.temp n < 1840 → s.power.kiln = .running → o = .next held.settleHold) ∧
      (1840 ≤ u.temp n → s.power.off = false → o = .next (if trip.saveReady then trip.saveAll else trip))
    reads (exec (.thermalThrottle n temp) s) ∧ reads (exec (.kilnHoldStart n temp) s) ∧ reads (exec (.thermalTrip n temp) s) ∧ (u.temp n = sx 16 (temp % 2 ^ 16)) ∧
    (n < 32 → (u.die (n / 4)).throttle = hot (n / 4) ∧ (u.die (n / 4)).level = (if hot (n / 4) then max 2 (s.die (n / 4)).level else (s.die (n / 4)).level)) ∧
    ((s.power.kiln = .entering → s.allStopped = true → s.settleHold = { s with power := { s.power with kiln := .held } }) ∧
      (s.allStopped = false → s.settleHold = s)) ∧
    (s.power.kiln = .held → cool → s.power.kilnSince + 1000000 ≤ s.power.dtime → ∃ t, exec .kilnHoldEnd s = .next t ∧
      t.power = { s.power with kiln := .running } ∧ t.mem = s.mem ∧ t.strands = s.strands) ∧
    (¬ cool → exec .kilnHoldEnd s = .next s) ∧
    (∀ t, c.forceUntil = some t → t ≤ s.power.dtime → exec (.force24kExpiry core) s = .next (s.setCore core { c with forceUntil := none })) ∧
    (c.forceUntil = none → exec (.force24kExpiry core) s = .next s)

/-- R440, R492 to R496: a line that fails its check is poisoned, at its home or on its way (the model's choice between them is free, log 28),
with a LINECHK record; an uncorrectable error poisons a
line or a scale byte of a scratchpad or of a B-stack, a line of memory and its page, drops a cached line, or faults the groups concerned; the sixteenth corrected error
of a frame within an hour raises CECOUNT. A record joins the ring of 256. -/
def Obligations.ErrorReports : Prop :=
  ∀ (s : State) (addr core line sid frame : Nat),
    let owned := s.core core
    let dirty := (SMap.find s.mem.cache (addr / 64)).any (·.dirty)
    let gone := { s with mem := { s.mem with cache := SMap.erase s.mem.cache (addr / 64) } }.bump
    let bad := gone.mem.poisonLine (addr / 64)
    let now := s.power.dtime
    let ts := now :: (SMap.get s.power.corrected frame []).filter fun t => decide (now < t + 3600000000000)
    let err := fun (p : ErrorPlace) => exec (.uncorrectableError p) s
    let ls := fun (gs : List Nat) => (gs.foldl (fun l g => insertNat l (s.group g).launch) []).filter fun l => (s.launch l).status == none
    let core9 := fun (n : Nat) (gs : List Nat) => Host.Outcome.next (φ := Fault) (ρ := Refusal)
      ((s.endLaunches (ls gs) .fault {}).machineCheck 9 n (match gs.foldl (fun l g => insertNat l (s.group g).ctx) [] with
        | [x] => x
        | _ => 0xFFFF) 0 0)
    let fails := fun (m : Mem) => ({ s with mem := m }.lineCheckRecord (s.ctxAt addr) addr).bump
    let atHome := s.mem.poisonLine (addr / 64)
    let onWay := { s.mem with transit := insertNat s.mem.transit (addr / 64) }
    (exec (.lineCheckFail addr) s = .next (fails atHome) ∨ exec (.lineCheckFail addr) s = .next (fails onWay)) ∧
    (addr / 64 ∈ (s.mem.poisonLine (addr / 64)).poison) ∧
    (err (.scratchpad core line) = .next (s.setCore core { owned with spPoison := insertNat owned.spPoison line })) ∧
    (err (.bstack core line) = .next (s.setCore core { owned with bPoison := insertNat owned.bPoison line })) ∧
    (err (.padScale core line) = .next (s.setCore core { owned with scaleBad := insertNat owned.scaleBad line })) ∧
    (err (.stackScale core line) = .next (s.setCore core { owned with bScaleBad := insertNat owned.bScaleBad line })) ∧
    (∀ e ∈ [ErrorPlace.registerFile sid, .deliveryBuffer sid, .storeBuffer sid],
      err e = core9 (sid / 8) (if (s.strand sid).life = .unalloc then [] else [(s.strand sid).grp])) ∧
    (∀ o, owned.owner = some o → err (.accFile core) = core9 core [(s.strand o).grp] ∧ err (.microstore core) = core9 core [(s.strand o).grp]) ∧
    (err (.imem core) = core9 core (s.groupsOn core)) ∧
    (dirty = false → err (.cacheLine addr) = .next gone) ∧
    (dirty = true → ∃ t, err (.cacheLine addr) = .next t ∧ (t = { gone with mem := bad } ∨
      t = { gone with mem := { bad with keys := SMap.insert bad.keys (addr / 64) (2 ^ 64) } }.machineCheck 1 0xFFFF 0xFFFF (addr / 64 * 64) 0)) ∧
    (err (.lpddrLine addr) = .next (s.frameError addr)) ∧ (err (.mramLine addr) = .next (s.frameError addr)) ∧
    (ts.length < 16 → exec (.correctedError frame) s =
      .next { s with power := { s.power with corrected := SMap.insert s.power.corrected frame ts } }) ∧
    (16 ≤ ts.length → exec (.correctedError frame) s =
      .next ({ s with power := { s.power with corrected := SMap.erase s.power.corrected frame } }.machineCheck 6 0xFFFF
        (s.ctxAt (65536 * frame)) (65536 * frame) 0)) ∧
    (∀ kind src ctx a band, let t := s.machineCheck kind src ctx a band
      t.power.mcCount = s.power.mcCount + 1 ∧ SMap.find t.power.mcRing (s.power.mcCount % 256) = some (recordBytes 64
        [(2, 1, 0xFD), (3, 1, kind), (4, 2, src), (6, 2, ctx), (8, 8, a), (16, 8, now), (24, 4, SMap.get s.power.mcSuppressed kind 0), (28, 1, band)]))

/-! ### Links -/

/-- R459, R462 to R464: a UCIe link retrains; the third failed retrain within a second fails it, and a link of a compute die takes
the die out of service; what a retrain held goes on; the host port goes down, fails its accesses 50 ms later and returns, with the records that waited for it; a port is enabled, trains, comes up
with both lanes and degrades with one; SYSID is written while every port is DOWN. -/
def Obligations.LinkStates : Prop :=
  ∀ (s : State) (n v lane table index : Nat),
    let u := s.ucie n
    let p := s.port n
    let now := s.power.dtime
    let fails := now :: u.fails.filter fun t => decide (now < t + 1000000000)
    let failed := s.setUcie n { state := .failed, fails := fails }
    let l := s.link
    let q := if lane = 0 then { p with lane0 := true } else { p with lane1 := true }
    let r := if lane = 0 then { p with lane0 := false } else { p with lane1 := false }
    let keep := fun (x : Port) => Host.Outcome.next (φ := Fault) (ρ := Refusal) { s with link := { l with ports := SMap.insert l.ports n x } }
    let upOr := fun (st : PortState) (t : State) => ∃ nbr, nbr < 4096 ∧ t = (s.setPort n { q with state := st, nbr := nbr }).bump
    let alone := fun (t : State) => ∃ nbr, nbr < 4096 ∧ t = (s.setPort n { p with state := .degraded, nbr := nbr }).bump
    (u.state = .active → exec (.ucieRetrain n) s = .next (s.setUcie n { u with state := .retrain })) ∧
    (u.state = .retrain → exec (.ucieRetrainComplete n true) s = .next (s.setUcie n { u with state := .active }).deliverHeld) ∧
    (u.state = .retrain → fails.length < 3 → exec (.ucieRetrainComplete n false) s = .next (s.setUcie n { u with fails := fails })) ∧
    (u.state = .retrain → 3 ≤ fails.length → exec (.ucieRetrainComplete n false) s =
      .next (if n < 16 then failed.failDie (n / 2) else failed.machineCheck 4 8 0xFFFF 0 0)) ∧
    (l.hostUp = true → exec .hostLinkDown s = .next { s with link := { l with hostUp := false, hostDownSince := now, hostFailed := false } }) ∧
    (l.hostUp = false → l.hostFailed = false → l.hostDownSince + 50000000 ≤ now → exec .hostLinkTimeout s =
      .next ({ s with link := { l with hostFailed := true } }.failFrames isHost)) ∧
    (l.hostUp = true → exec .hostLinkTimeout s = .next s) ∧
    (exec .hostLinkReturn s = .next ((SMap.keys s.cmd.cqs).foldl State.flushCq { s with link := { l with hostUp := true, hostFailed := false } })) ∧
    (n < 8 → bit v 3 = true → p.state = .down ∨ p.state = .failed → exec (.portEnable n v) s =
      .next (s.setPort n { p with state := .training, en := true, trn := 0, lane0 := false, lane1 := false, since := now })) ∧
    (n < 8 → bit v 3 = false → exec (.portDisable n v) s =
      .next (s.setPort n { p with state := .down, en := false, nbr := 0, lane0 := false, lane1 := false })) ∧
    (p.state = .training → q.lane0 = true → q.lane1 = true → ∃ t, exec (.portLaneLock n lane) s = .next t ∧ upOr .up t) ∧
    (p.state = .training → q.lane0 = false ∨ q.lane1 = false → exec (.portLaneLock n lane) s = keep q) ∧
    (p.state = .degraded → q.lane0 = true → q.lane1 = true → exec (.portLaneLock n lane) s = .next (s.setPort n { q with state := .up })) ∧
    (p.state = .up → p.lane0 = true → p.lane1 = true → exec (.portLaneLoss n lane) s = .next (s.setPort n { r with state := .degraded })) ∧
    (p.state = .degraded → r.lane0 = false → r.lane1 = false → exec (.portLaneLoss n lane) s =
      .next (s.setPort n { r with state := .training, nbr := 0, since := now })) ∧
    (p.state = .training → p.lane0 = true ∨ p.lane1 = true → p.since + 100000000 ≤ now →
      ∃ t, exec (.portTrainTimeout n) s = .next t ∧ alone t) ∧
    (p.state = .training → p.lane0 = false → p.lane1 = false → p.since + 500000000 ≤ now → exec (.portTrainTimeout n) s =
      .next (s.setPort n { p with trn := min 255 (p.trn + 1), since := now, state := if 3 ≤ p.trn + 1 then .failed else .training })) ∧
    ((∀ m < 8, (s.port m).state = .down) → s.sec.tdi ≠ .locked → s.sec.tdi ≠ .run → exec (.sysidWrite v) s = .next { s with link := { l with sysid := v % 4096 } }) ∧
    (∀ m < 8, (s.port m).state ≠ .down → exec (.sysidWrite v) s = .next s) ∧
    (exec (.routeTableUpdate table index v) s =
      .next { s with link := { l with routes := SMap.insert l.routes (4096 * table + index) v } }.postStatus)

/-- R465 to R467, R470 to R473, R478, R488: a packet within 256 of the number expected is held and what is in sequence passed on, and
each is acknowledged with the number expected, the map of the packets held and the echo of its mark; an acknowledgement releases packets, sends
again what its map shows missing, and once in a round-trip time the rate follows the marks; a timer of four round-trip times sends again and halves the
rate; silence aborts communicators and fails the accesses to the peer; a peer's request is served while the links of its route carry it, and answered; an endpoint packet goes to its
ring, a wake event where the ring's wake bit is set; the host writes device memory. -/
def Obligations.Transport : Prop :=
  ∀ (s : State) (src flow seq ack addr ring window off : Nat) (mark poison whole : Bool) (body : PacketBody) (op : RemoteOp) (o : AmoOp) (sg : Bool)
    (data cmp : List Byte),
    let cls := flow % 4
    let k := 4 * src + cls
    let near := (s.arrivalWake body).hear src
    let woken := if mark then near.atPort src (fun p => { p with marked := p.marked + 1 }) else near
    let f := woken.flow k
    let now := s.power.dtime
    let heard := s.hear src
    let y := heard.flow k
    let acked := fun (t : State) => t.setFlow k { t.flow k with ack := some ((t.flow k).ackOf mark) }
    let out := y.unacked.takeWhile fun (p : Sent) => decide (seqAfter (ack % 2 ^ 32) p.seq ≤ 256) && decide (0 < seqAfter (ack % 2 ^ 32) p.seq)
    let far := 256 ≤ (seq + 2 ^ 32 - f.expect % 2 ^ 32) % 2 ^ 32 ∨ f.held.any (fun (p : Sent) => p.seq == seq) = true
    let p := SMap.get s.link.peers src {}
    let silent := { s with link := { s.link with peers := SMap.insert s.link.peers src { p with silent := true } } }
    let left := (List.range 16).foldl (fun s i => s.loseMember i src) silent
    let lost := fun (a : Ask) => if a.peer = src then { a with own := false } else a
    let down := { left with link := { left.link with asks := left.link.asks.map lost } }
    let line := s.openLine 0xFFFF 0 addr
    let answered := fun (t : State) (bs : List Byte) => t.sendPacket src 1 (.request op addr bs)
    let read := s.readLine (Reader.of agentPeer s.tick) 0 addr data.length
    let casAt := line.atomicAt agentPeer 0 7 addr (.cas sg) data cmp false
    let fits := data.length ≤ 64 - addr % 64
    let atomic := line.atomicAt agentPeer 0 7 addr (.amo o sg) data [] false
    let have_ := s.link.packets.find? fun (p : EpPacket) => !p.sealed && p.launch == hostPacketLaunch && p.window == window
    let len := (have_.map fun (p : EpPacket) => p.data.length).getD 0
    let g := s.flow k
    let due := g.expired now
    let timer := max 8000 (min 1000000 (4 * g.srtt))
    (body ≠ .keepalive → ¬ far → exec (.packetArrive src flow seq mark body) s =
      .next (acked ((woken.setFlow k { f with held := f.held ++ [{ seq := seq, body := body }] }).deliverFlow src cls 256))) ∧
    (body = .keepalive → exec (.packetArrive src flow seq mark body) s = .next woken) ∧
    (body ≠ .keepalive → far → exec (.packetArrive src flow seq mark body) s = .next (acked woken)) ∧
    (f.ackOf mark).cum = f.expect ∧ (f.ackOf mark).mark = mark ∧
    (∀ i < 256, bit (f.ackOf mark).map i = f.held.any fun (p : Sent) => seqAfter p.seq f.expect == i + 1) ∧
    (SMap.get woken.link.peers src {}).silent = false ∧
    (let z := { y with unacked := y.unacked.drop out.length, srtt := y.measure out now, acked := y.acked + out.length,
                       marks := y.marks + if mark then out.length else 0 }
      let z := z.turn (heard.portRate z.port) now
      let again := missingPackets (ack % 2 ^ 32) (ack / 2 ^ 32) z.unacked
      let w := if again = [] then heard.setFlow k z else heard.resend k (heard.route src (z.again again now)) again.length
      exec (.ackArrive src flow ack mark) s =
        .next ((if cls = 2 then out.foldl (fun u _ => u.performEp src) w else w).drainOutbox src cls)) ∧
    (∀ port at_, g.turnAt + g.srtt ≤ at_ → g.acked ≠ 0 →
      (g.marks = 0 → g.turn port at_ = { g with rate := min port (g.rate + 2000), turnAt := at_, acked := 0 }) ∧
      (g.marks ≠ 0 → let alpha := (15 * g.alpha + 65536 * g.marks / g.acked) / 16
        g.turn port at_ = { g with alpha := alpha, rate := max 500 (g.rate - g.rate * alpha / 131072), turnAt := at_, marks := 0, acked := 0 })) ∧
    (∀ port at_, at_ < g.turnAt + g.srtt → g.turn port at_ = g) ∧
    (∀ q ∈ g.unacked, q ∈ due ↔ q.time + timer ≤ now) ∧
    (due ≠ [] → exec (.retransmitTimeout src flow) s =
      .next (s.resend k { s.route src (g.again due now) with rate := max 500 (g.rate / 2) } due.length)) ∧
    (due = [] → exec (.retransmitTimeout src flow) s = .next s) ∧
    (s.outstanding src = true → s.power.kiln = .running → p.sentAt + 1000 * s.link.kai ≤ s.power.dtime →
      exec (.keepalive src) s = .next { s with link := { s.link with peers := SMap.insert s.link.peers src { p with sentAt := s.power.dtime } } }) ∧
    (s.outstanding src = false → exec (.keepalive src) s = .next s) ∧
    (p.silent = false → s.outstanding src = true → p.heard + 1000 * s.link.pto ≤ s.power.dtime → exec (.peerSilent src) s =
      .next ((if down.link.sysid / 64 = src / 64 then down.failFrames (fun pa => peerOf pa == some (src % 64)) else down).postStatus)) ∧
    (s.outstanding src = false → exec (.peerSilent src) s = .next s) ∧
    (∀ i < 16, (s.comm i).state = .opened → (s.comm i).members.contains src = true → (down.comm i).state = .aborted) ∧
    (s.routeOpen agentPeer addr = true → exec (.remoteRequest src op addr data) s = .next (s.serveRemote src op addr data)) ∧
    (s.routeOpen agentPeer addr = false → exec (.remoteRequest src op addr data) s = .next s) ∧
    (fits → s.isLpddr addr = true ∨ isWeight addr = true → op = .read →
      s.serveRemote src op addr data = answered line (if read.2 then [] else read.1)) ∧
    (s.isLpddr addr = false → op ≠ .read → s.serveRemote src op addr data = answered s []) ∧
    (fits → s.isLpddr addr = true → op = .write poison whole → s.serveRemote src op addr data =
      answered { s with mem := s.mem.write agentPeer 7 addr data poison 0 whole } data) ∧
    (fits → s.isLpddr addr = true → op = .amo o sg →
      s.serveRemote src op addr data = answered atomic.1 (if atomic.2.2.1 then [] else atomic.2.1)) ∧
    (fits → s.isLpddr addr = true → op = .cas sg cmp →
      s.serveRemote src op addr data = answered casAt.1 (if casAt.2.2.1 then [] else casAt.2.1)) ∧
    (s.ringWaits ring data.length = true → exec (.epPacketArrive src ring data) s = .next s) ∧
    (s.ringWaits ring data.length = false → ∀ t, (s.ringWake ring).ringWrite ring data = some t →
      exec (.epPacketArrive src ring data) s = .next t) ∧
    (s.ringWaits ring data.length = false → (s.ringWake ring).ringWrite ring data = none → exec (.epPacketArrive src ring data) s =
      .next ((s.ringWake ring).countDrop src)) ∧
    (∀ r, SMap.find s.link.rings ring = some r →
      (s.ringWake ring).power.wakes = s.power.wakes + if r.wake then 1 else 0) ∧ (s.countDrop src).link.lsbDrops = s.link.lsbDrops + 1 ∧
    (len + data.length ≤ 4096 → (SMap.find s.link.windows window).any (·.enabled) = true → have_.isSome = true ∨ s.openPackets < 256 →
      exec (.hostEndpointWrite window off data) s =
        .next (s.appendPacket hostPacketLaunch 0 hostPacketPlace window data (bit off 6)).1) ∧
    (4096 < len + data.length → exec (.hostEndpointWrite window off data) s = .next s) ∧
    (s.link.hostUp = true → s.routeOpen agentHost addr = true → s.isLpddr addr = true → fits →
      let t := if data.length = 64 then s else line
      exec (.hostMemoryAccess true addr data) s = .next { t with mem := t.mem.write agentHost 7 addr data false 0 } ∧
        exec (.hostMemoryAccess false addr data) s = .next line) ∧
    (s.link.hostUp = false ∨ s.routeOpen agentHost addr = false → ∀ w, exec (.hostMemoryAccess w addr data) s = .next s)

/-! ### Security and debug -/

/-- R333, R340 to R344, R461: the TDI's states and what its end does to worlds; a session has a fresh envelope count; a channel is
installed once, 16 at most in a context; a challenge serves one check of a token, after the requests before it, and a good token raises the debug
state until it expires. -/
def Obligations.SecurityStates : Prop :=
  ∀ (s : State) (ctx chan key : Nat) (token : List Byte),
    let c := s.ctx ctx
    let used := s.ctxs.any fun e => e.2.channels.any fun (x : Channel) => x.id == chan
    let t := s.sec.tdi
    let level := ofBytes ((token.drop 6).take 1)
    let expiry := ofBytes ((token.drop 72).take 8)
    let spent := { s with sec := { s.sec with challenge := none } }
    (t = .unlocked → exec .lockInterface s = .next (s.setTdi .locked)) ∧ (t ≠ .unlocked → exec .lockInterface s = .next s) ∧
    (t = .locked → exec .startInterface s = .next (s.setTdi .run)) ∧ (t ≠ .locked → exec .startInterface s = .next s) ∧
    (t = .locked ∨ t = .run → exec .stopInterface s = .next (s.setTdi .unlocked).closeWorlds ∧
      exec .tdiError s = .next (s.setTdi .error).closeWorlds) ∧
    (∀ n x y, SMap.find s.ctxs n = some x → x.world = true → SMap.find s.closeWorlds.ctxs n = some y → y.state = .closing) ∧
    (t = .error → exec .stopInterface s = .next (s.setTdi .unlocked) ∧ exec .tdiError s = .next s) ∧
    (∃ key, exec .spdmKeyExchange s = .next ({ s with sec := { s.sec with spdm := some key, lastN := none } }.bump)) ∧
    (c.world = true → s.sec.spdm ≠ none → used = false → c.channels.length < 16 → chan < 2 ^ 32 →
      exec (.channelInstall ctx chan key) s = .next (s.setCtx ctx { c with channels := c.channels ++ [{ id := chan, key := key }] })) ∧
    (c.world = false ∨ used = true ∨ 16 ≤ c.channels.length → exec (.channelInstall ctx chan key) s = .next s) ∧
    (∃ x, x < 2 ^ 256 ∧ exec .debugChallenge s = .next ({ s with sec := { s.sec with challenge := some x } }.bump)) ∧
    (s.sec.signQ = [] → exec (.debugUnlock token) s = .next (if s.tokenGood token then spent.unlock level expiry else spent)) ∧
    (s.sec.signQ ≠ [] → exec (.debugUnlock token) s = .next s) ∧
    (s.sec.challenge = none → s.tokenGood token = false) ∧
    ((spent.unlock level expiry).sec.debug = max s.sec.debug level ∧ (spent.unlock level expiry).sec.expiry = expiry) ∧
    (s.sec.debug ≠ 0 → s.sec.expiry ≤ s.power.dtime → exec .debugExpiry s = .next s.lockDebug) ∧
    (s.sec.debug = 0 ∨ s.power.dtime < s.sec.expiry → exec .debugExpiry s = .next s) ∧
    (s.lockDebug.sec.debug = 0 ∧ ∀ n, (s.lockDebug.strand n).debugHalt = false)

/-- R497, R501: at level 2 the debugger halts, steps and resumes a strand of a core that no world owns, and reads and writes the
memory of an unprotected context; at another level its commands do nothing, and a strand of an owned core is refused. A trigger
latches the snapshot where it is armed. -/
def Obligations.Debugger : Prop :=
  ∀ (s : State) (v pa : Nat) (bad track : Bool),
    let sid := s.power.dbgSid
    let st := s.strand sid
    let may := s.sec.debug = 2 ∧ (s.core (coreOf sid)).isOwned = false ∧ st.life ≠ .unalloc
    let put := fun (x : Strand) (steps : Nat) => { s.setStrand sid x with power := { s.power with dbgRefused := false, dbgSteps := steps } }
    let refused := { s with power := { s.power with dbgRefused := true } }
    let ctx := field s.power.dbgVa 52 10
    let va := s.power.dbgVa % 2 ^ 52
    let quiet := { s with power := { s.power with dbgRefused := false, dbgErr := false } }
    let latest := fun (r : Nat) => (SMap.get (s.ctx ctx).regions r {}).current
    let armed := s.power.snapArm = true ∧ s.power.snapDone = false
    (may → exec .debugHalt s = .next (put { st with debugHalt := true, debugSteps := 0 } 0)) ∧
    (may → st.debugHalt = true → exec .debugStep s = .next (put { st with debugSteps := 1 } s.power.dbgSteps)) ∧
    (may → exec .debugResume s = .next (put { st with debugHalt := false, debugSteps := 0 } s.power.dbgSteps)) ∧
    (s.sec.debug ≠ 2 → exec .debugHalt s = .next s ∧ exec .debugStep s = .next s ∧ exec .debugResume s = .next s ∧
      exec .debugMemRead s = .next s ∧ exec (.debugMemWrite v) s = .next s) ∧
    (s.sec.debug = 2 → (s.core (coreOf sid)).isOwned = true →
      exec .debugHalt s = .next refused ∧ exec .debugStep s = .next refused ∧ exec .debugResume s = .next refused) ∧
    (s.sec.debug = 2 → s.debugDenied ctx va false = none → quiet.transIn (s.ctx ctx) va false false latest = .ok pa bad track →
      exec .debugMemRead s = .next { quiet with power := { quiet.power with
        dbgData := ofBytes (quiet.readLine (Reader.of agentHost s.tick) (s.ctx ctx).keyId pa 8).1 } }) ∧
    (s.sec.debug = 2 → s.debugDenied ctx va true = none → exec (.debugMemWrite v) s =
      .next ({ quiet with power := { quiet.power with dbgData := v % 2 ^ 64 } }.writeLine agentCp 7 ctx va (toBytes v 8) false)) ∧
    (∀ w, s.sec.debug = 2 → (s.ctx ctx).world = true → s.debugDenied ctx va w = some true) ∧
    (exec (.snapArm v) s = .next { s with power := if bit v 0
      then { s.power with snapSrc := v / 4 % 4, snapCode := v / 256 % 256, snapArm := true, snapDone := false, snap := none }
      else { s.power with snapSrc := v / 4 % 4, snapCode := v / 256 % 256, snapArm := false } }) ∧
    (armed → exec .snapTrigger s = .next s.latch) ∧ (¬ armed → exec .snapTrigger s = .next s) ∧
    (armed → s.power.snapSrc = 3 → s.power.snapCmp ≤ s.power.dtime → exec .snapcmpMatch s = .next s.latch) ∧
    (¬ armed → exec .snapcmpMatch s = .next s) ∧ s.latch.power.snapDone = true ∧ s.latch.power.snapArm = s.power.snapArm ∧
    s.latch.power.snap = some { tick := s.tick, groups := s.cmd.groups, strands := s.strands, cores := s.cores, clusters := s.clusters, dies := s.dies, ports := s.link.ports, packets := s.link.packets, temps := s.power.temps }

/-! ### Frames and invariants -/

/-- The values that the rules give for reset (R111, R302, R340, R358, R464, R466, R481, R490, R500, R502): the package at stage 0
of bring-up, its queues OFF, FMT 0x2900, clocks at 1500 MHz, debug locked, the TDI unlocked, the ports DOWN, no context and
no core powered. The model's own choices stand beside them: DTIME 0 (log 9) and memory with nothing listed (log 6), so that it has its
canonical form. -/
def Obligations.ResetState : Prop :=
  let s := State.reset
  s.power.stage = 0 ∧ s.power.err = 0 ∧ s.power.dtime = 0 ∧ s.power.gateIdle = 50 ∧ s.power.detLim = 64 ∧ s.power.i3cAddr = 0x4E ∧
  s.cmd.age = 10000 ∧ s.cmd.reserve = 0 ∧ s.link.pto = 2000 ∧ s.link.kai = 250 ∧ s.link.sysid = 0 ∧ s.sec.debug = 0 ∧
  s.sec.tdi = .unlocked ∧ s.ctxs = [] ∧ s.mem.cells = [] ∧ s.memWf ∧
  (∀ n, (s.queue n).state = .off ∧ (s.cq n).on = false) ∧ (∀ n, (s.die n).cur = 1500 ∧ (s.die n).tgt = 1500) ∧
  (∀ n, (s.port n).state = .down) ∧ (∀ n, (s.core n).on = false ∧ (s.core n).ownership = .clean) ∧
  ∀ n, (s.strand n).life = .unalloc ∧ (s.strand n).fmt = 0x2900 ∧ (s.strand n).hnd = false

/-- R36, R40, R57: the frame of the forms whose results pass through the delivery buffer: where one goes on, no register, flag, count,
queue or loop of its strand, no other strand, core, tile, page or byte of memory changes; its results only join the buffer. -/
def Obligations.PostingFrames : Prop :=
  ∀ (i : Instr) (s t : State), Instr.posts i = true → exec i s = .next t → s.iss.ended = none → t.iss.ended = none → s.onlyPosts t

/-- R35, R57, R293: the frame of the other forms of the S, XF, LD, ST, SY and AD slots: where one goes on, every byte of memory
reads as before, since a store only joins its queue; every other strand is as it was, and so are the registers, the flags, the
status and the trap registers, the count and the handler bit of its own. -/
def Obligations.SlotFrames : Prop :=
  ∀ (i : Instr) (s t : State), exec i s = .next t → s.iss.ended = none → t.iss.ended = none →
    (match i with
      | .br .. | .call .. | .halloc .. | .hfree .. | .trpush .. | .trpop .. | .trcfg .. | .stSp .. | .mcall .. | .mark .. | .lset ..
      | .lbrk .. | .lrot | .spred .. | .lgate .. | .wake .. | .qbind .. | .qfree .. | .resm .. | .renorm .. | .retab .. | .retload ..
      | .ldG .. | .gath .. | .amo .. | .cas .. | .stG .. | .scat .. | .qout .. | .epSt .. => True
      | _ => False) →
    t.mem = s.mem ∧ (∀ (r : Reader) a, t.mem.byteFor r a = s.mem.byteFor r a) ∧ (∀ n, n ≠ s.cur → t.strand n = s.strand n) ∧
    t.me.x = s.me.x ∧ t.me.v = s.me.v ∧ t.me.p = s.me.p ∧ t.me.c = s.me.c ∧ t.me.b = s.me.b ∧ t.me.mp = s.me.mp ∧
    t.me.ag = s.me.ag ∧ t.me.fmt = s.me.fmt ∧ t.me.flags = s.me.flags ∧ t.me.carat = s.me.carat ∧ t.me.tcause = s.me.tcause ∧
    t.me.tbundle = s.me.tbundle ∧ t.me.sbc = s.me.sbc ∧ t.me.hnd = s.me.hnd ∧ t.sec = s.sec ∧ t.ctxs = s.ctxs

/-- R416 and the form of memory: from every state whose memory has its canonical form, a step that goes on leaves memory in it. -/
def Obligations.MemoryForm : Prop :=
  ∀ s t : State, s.memWf → step s = .next t → t.memWf
end

