-- ==== Sys2Proof/Laws/Link.lean ====
section
/-! SUPPORT. What the transport leaves alone: packets that are sent, or wait, change the link alone (R465, R466). -/

namespace Sys2Proof.Machine

theorem State.watch_link (s : State) (dest : Nat) : s.watch dest = { s with link := (s.watch dest).link } := by
  unfold State.watch; split <;> rfl

theorem State.sendPacket_link (s : State) (dest cls : Nat) (body : PacketBody) :
    s.sendPacket dest cls body = { s with link := (s.sendPacket dest cls body).link } := by
  unfold State.sendPacket
  rw [State.watch_link]
  dsimp only
  split <;> rfl

/-- The packets that waited, sent one after another, change the link alone. -/
theorem State.flushOutbox_link (s : State) : s.flushOutbox = { s with link := s.flushOutbox.link } := by
  have sent (l : List (Nat × Nat × PacketBody)) : ∀ t : State,
      l.foldl (fun s o => s.sendPacket o.1 o.2.1 o.2.2) t =
        { t with link := (l.foldl (fun s o => s.sendPacket o.1 o.2.1 o.2.2) t).link } := by
    induction l with
    | nil => exact fun _ => rfl
    | cons o l ih =>
      intro t
      rw [List.foldl_cons, ih, State.sendPacket_link]
  unfold State.flushOutbox
  rw [sent]

@[simp] theorem State.flushOutbox_power (s : State) : s.flushOutbox.power = s.power := by rw [State.flushOutbox_link]
@[simp] theorem State.flushOutbox_mem (s : State) : s.flushOutbox.mem = s.mem := by rw [State.flushOutbox_link]
@[simp] theorem State.flushOutbox_strands (s : State) : s.flushOutbox.strands = s.strands := by rw [State.flushOutbox_link]

end Sys2Proof.Machine
end

