-- ==== Sys2Proof/Laws/Map.lean ====
section
/-! SUPPORT. Laws of sparse maps: what is read after a write, and the canonical form. -/

namespace Sys2Proof.Machine

variable {α : Type}

@[simp] theorem SMap.find_nil (k : Nat) : SMap.find ([] : SMap α) k = none := rfl

theorem SMap.find_insert (m : SMap α) (k j : Nat) (v : α) :
    SMap.find (SMap.insert m k v) j = if k = j then some v else SMap.find m j := by
  induction m with
  | nil => simp [SMap.insert, SMap.find]
  | cons e m ih =>
    obtain ⟨a, w⟩ := e
    simp only [SMap.insert]
    split
    · simp [SMap.find]
    · split
      · subst_vars; simp only [SMap.find]; split <;> simp_all
      · simp only [SMap.find, ih]; split <;> split <;> simp_all

@[simp] theorem SMap.find_insert_same (m : SMap α) (k : Nat) (v : α) : SMap.find (SMap.insert m k v) k = some v := by
  simp [SMap.find_insert]

theorem SMap.find_insert_other {m : SMap α} {k j : Nat} {v : α} (h : j ≠ k) :
    SMap.find (SMap.insert m k v) j = SMap.find m j := by
  simp [SMap.find_insert, Ne.symm h]

@[simp] theorem SMap.get_insert_same (m : SMap α) (k : Nat) (v d : α) : SMap.get (SMap.insert m k v) k d = v := by
  simp [SMap.get]

theorem SMap.get_insert_other {m : SMap α} {k j : Nat} {v d : α} (h : j ≠ k) :
    SMap.get (SMap.insert m k v) j d = SMap.get m j d := by
  simp [SMap.get, SMap.find_insert_other h]

theorem SMap.find_erase (m : SMap α) (k j : Nat) :
    SMap.find (SMap.erase m k) j = if k = j then none else SMap.find m j := by
  induction m with
  | nil => simp [SMap.erase]
  | cons e m ih =>
    obtain ⟨a, w⟩ := e
    simp only [SMap.erase]
    split
    · rw [ih]; simp only [SMap.find]; split <;> simp_all
    · simp only [SMap.find, ih]; split <;> split <;> simp_all

theorem SMap.get_put [DecidableEq α] (m : SMap α) (k j : Nat) (v d : α) :
    SMap.get (SMap.put m k v d) j d = if k = j then v else SMap.get m j d := by
  unfold SMap.put SMap.get
  split
  · rw [SMap.find_erase]; split <;> simp_all
  · rw [SMap.find_insert]; split <;> simp_all

@[simp] theorem SMap.get_put_same [DecidableEq α] (m : SMap α) (k : Nat) (v d : α) :
    SMap.get (SMap.put m k v d) k d = v := by simp [SMap.get_put]

theorem SMap.get_put_other [DecidableEq α] {m : SMap α} {k j : Nat} {v d : α} (h : j ≠ k) :
    SMap.get (SMap.put m k v d) j d = SMap.get m j d := by simp [SMap.get_put, Ne.symm h]

/-! ### The canonical form -/

/-- Every listed key is above a bound. -/
def SMap.above (b : Nat) (m : SMap α) : Prop := ∀ e ∈ m, b < e.1

theorem SMap.wf_cons [DecidableEq α] (d : α) (a : Nat) (v : α) (m : SMap α) :
    SMap.wf d ((a, v) :: m) = true ↔ v ≠ d ∧ SMap.above a m ∧ SMap.wf d m = true := by
  induction m generalizing a v with
  | nil => simp [SMap.wf, SMap.above]
  | cons e m ih =>
    obtain ⟨b, w⟩ := e
    constructor
    · intro h
      simp only [SMap.wf, Bool.and_eq_true, bne_iff_ne, ne_eq, decide_eq_true_eq] at h
      refine ⟨h.1.1, ?_, h.2⟩
      intro e he
      rcases List.mem_cons.1 he with rfl | he
      · exact h.1.2
      · exact Nat.lt_trans h.1.2 (((ih b w).1 h.2).2.1 e he)
    · rintro ⟨hv, ha, hw⟩
      have := ha (b, w) (by simp)
      simp [SMap.wf, hv, this, hw]

theorem SMap.above_erase {b k : Nat} {m : SMap α} (h : SMap.above b m) : SMap.above b (SMap.erase m k) := by
  induction m with
  | nil => simpa [SMap.erase] using h
  | cons e m ih =>
    have ht : SMap.above b m := fun x hx => h x (List.mem_cons_of_mem _ hx)
    simp only [SMap.erase]
    split
    · exact ih ht
    · intro x hx
      rcases List.mem_cons.1 hx with rfl | hx
      · exact h _ (by simp)
      · exact ih ht x hx

theorem SMap.above_insert {b k : Nat} {v : α} {m : SMap α} (h : SMap.above b m) (hk : b < k) :
    SMap.above b (SMap.insert m k v) := by
  induction m with
  | nil => intro x hx; simp only [SMap.insert, List.mem_singleton] at hx; subst hx; exact hk
  | cons e m ih =>
    have ht : SMap.above b m := fun x hx => h x (List.mem_cons_of_mem _ hx)
    simp only [SMap.insert]
    split
    · intro x hx
      rcases List.mem_cons.1 hx with rfl | hx
      · exact hk
      · exact h x hx
    · split
      · intro x hx
        rcases List.mem_cons.1 hx with rfl | hx
        · exact hk
        · exact ht x hx
      · intro x hx
        rcases List.mem_cons.1 hx with rfl | hx
        · exact h _ (by simp)
        · exact ih ht x hx

theorem SMap.wf_erase [DecidableEq α] {d : α} {m : SMap α} (k : Nat) (h : SMap.wf d m = true) :
    SMap.wf d (SMap.erase m k) = true := by
  induction m with
  | nil => simpa [SMap.erase] using h
  | cons e m ih =>
    obtain ⟨a, v⟩ := e
    obtain ⟨hv, ha, hm⟩ := (SMap.wf_cons d a v m).1 h
    simp only [SMap.erase]
    split
    · exact ih hm
    · exact (SMap.wf_cons ..).2 ⟨hv, SMap.above_erase ha, ih hm⟩

theorem SMap.wf_insert [DecidableEq α] {d : α} {m : SMap α} {k : Nat} {v : α} (hv : v ≠ d) (h : SMap.wf d m = true) :
    SMap.wf d (SMap.insert m k v) = true := by
  induction m with
  | nil => simp [SMap.insert, SMap.wf, hv]
  | cons e m ih =>
    obtain ⟨a, w⟩ := e
    obtain ⟨hw, ha, hm⟩ := (SMap.wf_cons d a w m).1 h
    simp only [SMap.insert]
    split
    · rename_i hk
      exact (SMap.wf_cons ..).2 ⟨hv, by
        intro x hx
        rcases List.mem_cons.1 hx with rfl | hx
        · exact hk
        · exact Nat.lt_trans hk (ha x hx), h⟩
    · split
      · rename_i hk; subst hk; exact (SMap.wf_cons ..).2 ⟨hv, ha, hm⟩
      · exact (SMap.wf_cons ..).2 ⟨hw, SMap.above_insert ha (by omega), ih hm⟩

/-- A write keeps the canonical form. -/
theorem SMap.wf_put [DecidableEq α] {d : α} {m : SMap α} (k : Nat) (v : α) (h : SMap.wf d m = true) :
    SMap.wf d (SMap.put m k v d) = true := by
  unfold SMap.put
  split
  · exact SMap.wf_erase k h
  · exact SMap.wf_insert ‹_› h

theorem SMap.above_filter {b : Nat} {m : SMap α} (f : Nat × α → Bool) (h : SMap.above b m) :
    SMap.above b (m.filter f) := fun e he => h e ((List.mem_filter.1 he).1)

/-- A part of a map in canonical form is in canonical form. -/
theorem SMap.wf_filter [DecidableEq α] {d : α} {m : SMap α} (f : Nat × α → Bool) (h : SMap.wf d m = true) :
    SMap.wf d (m.filter f) = true := by
  induction m with
  | nil => simpa using h
  | cons e m ih =>
    obtain ⟨a, v⟩ := e
    obtain ⟨hv, ha, hm⟩ := (SMap.wf_cons d a v m).1 h
    simp only [List.filter_cons]
    split
    · exact (SMap.wf_cons ..).2 ⟨hv, SMap.above_filter f ha, ih hm⟩
    · exact ih hm

end Sys2Proof.Machine
end

