-- ==== Sys2Proof/Laws/Memory.lean ====
section
/-! SUPPORT. Bytes of memory: what is read after a write, and that every operation keeps the canonical form. -/

namespace Sys2Proof.Machine

@[simp] theorem cellGet_put_same (m : List Host.Cell) (a : Nat) (b : Byte) : cellGet (cellPut m a b) a = b := by
  simp [cellGet, cellPut]

theorem cellGet_put_other {m : List Host.Cell} {a c : Nat} {b : Byte} (h : c ≠ a) :
    cellGet (cellPut m a b) c = cellGet m c := by
  simp [cellGet, cellPut, SMap.get_put_other h]

/-- A run of bytes leaves every address outside it alone. -/
theorem cellGet_cellsPut_other {c : Nat} (bs : List (Option Byte)) {m : List Host.Cell} {a : Nat}
    (h : c < a ∨ a + bs.length ≤ c) : cellGet (cellsPut m a bs) c = cellGet m c := by
  induction bs generalizing m a with
  | nil => rfl
  | cons b bs ih =>
    simp only [List.length_cons] at h
    cases b with
    | none => exact ih (by omega)
    | some b =>
      simp only [cellsPut]
      rw [ih (by omega), cellGet_put_other (by omega)]

theorem cellPut_wf {m : List Host.Cell} (a : Nat) (b : Byte) (h : Memory.wf m = true) : Memory.wf (cellPut m a b) = true :=
  SMap.wf_put a b h

theorem cellsPut_wf (bs : List (Option Byte)) {m : List Host.Cell} (a : Nat) (h : Memory.wf m = true) :
    Memory.wf (cellsPut m a bs) = true := by
  induction bs generalizing m a with
  | nil => exact h
  | cons b bs ih =>
    cases b with
    | none => exact ih _ h
    | some b => exact ih _ (cellPut_wf a b h)

theorem Mem.land_wf {m : Mem} (w : NarrowWrite) (h : Memory.wf m.cells = true) : Memory.wf (m.land w).cells = true :=
  cellsPut_wf _ _ h

theorem Mem.foldl_land_wf (l : List NarrowWrite) {m : Mem} (h : Memory.wf m.cells = true) :
    Memory.wf (l.foldl Mem.land m).cells = true := by
  induction l generalizing m with
  | nil => exact h
  | cons w l ih => exact ih (Mem.land_wf _ h)

theorem Mem.retire_wf {m : Mem} (w : NarrowWrite) (h : Memory.wf m.cells = true) : Memory.wf (m.retire w).cells = true :=
  Mem.land_wf _ (Mem.foldl_land_wf _ h)

theorem Mem.settle_wf {m : Mem} (h : Memory.wf m.cells = true) : Memory.wf m.settle.cells = true := by
  suffices ∀ (l : List NarrowWrite) (m : Mem), Memory.wf m.cells = true →
      Memory.wf (l.foldl (fun m w => if w.tag.heads.any fun h => h.writes.any m.hidden then m else m.retire w) m).cells = true from
    this _ _ h
  intro l
  induction l with
  | nil => exact fun _ h => h
  | cons w l ih =>
    intro m h
    refine ih _ ?_
    dsimp only
    split
    · exact h
    · exact Mem.retire_wf _ h

theorem Mem.promote_wf {m : Mem} (wid level : Nat) (h : Memory.wf m.cells = true) :
    Memory.wf (m.promote wid level).cells = true := by
  unfold Mem.promote
  split
  · exact h
  · dsimp only
    split
    · exact h
    · split
      · exact Mem.settle_wf h
      · exact h

@[simp] theorem Mem.intoCache_cells (m : Mem) (line : Nat) (l : CacheLine) : (m.intoCache line l).cells = m.cells := by
  unfold Mem.intoCache
  dsimp only
  split
  · split <;> rfl
  · rfl

@[simp] theorem Mem.cached_cells (m : Mem) (key pa : Nat) (write : Bool) : (m.cached key pa write).cells = m.cells := by
  unfold Mem.cached
  split
  · rfl
  · simp

theorem Mem.writeSome_wf {m : Mem} (sid level pa : Nat) (bs : List (Option Byte)) (p : Bool) (key : Nat) (clears : Bool)
    (tag : WriteTag) (h : Memory.wf m.cells = true) : Memory.wf (m.writeSome sid level pa bs p key clears tag).cells = true := by
  rw [Mem.writeSome, Mem.cached_cells]; exact Mem.promote_wf _ _ h

theorem Mem.write_wf {m : Mem} (sid level pa : Nat) (bs : List Byte) (p : Bool) (key : Nat) (clears : Bool) (tag : WriteTag)
    (h : Memory.wf m.cells = true) : Memory.wf (m.write sid level pa bs p key clears tag).cells = true :=
  Mem.writeSome_wf _ _ _ _ _ _ _ _ h

theorem Mem.foldl_promote_wf (level : Nat) (l : List NarrowWrite) {m : Mem} (h : Memory.wf m.cells = true) :
    Memory.wf (l.foldl (fun m w => m.promote w.wid level) m).cells = true := by
  induction l generalizing m with
  | nil => exact h
  | cons w l ih => exact ih (Mem.promote_wf _ _ h)

theorem foldl_cellPut_wf {α : Type} (f : α → Nat) (g : α → Byte) (l : List α) {m : List Host.Cell} (h : Memory.wf m = true) :
    Memory.wf (l.foldl (fun m e => cellPut m (f e) (g e)) m) = true := by
  induction l generalizing m with
  | nil => exact h
  | cons w l ih => exact ih (cellPut_wf _ _ h)

theorem Mem.copyFrame_wf {m : Mem} (old new len : Nat) (h : Memory.wf m.cells = true) :
    Memory.wf (m.copyFrame old new len).cells = true := by
  unfold Mem.copyFrame
  exact foldl_cellPut_wf _ _ _ (SMap.wf_filter _ (Mem.foldl_promote_wf _ _ h))

end Sys2Proof.Machine
end

