-- ==== Sys2Proof/Laws/State.lean ====
section
/-! SUPPORT. What each update of the state leaves as it was, and what is read after it. -/

namespace Sys2Proof.Machine

@[simp] theorem State.setStrand_cores (s : State) (n : Nat) (v : Strand) : (s.setStrand n v).cores = s.cores := rfl
@[simp] theorem State.setStrand_clusters (s : State) (n : Nat) (v : Strand) : (s.setStrand n v).clusters = s.clusters := rfl
@[simp] theorem State.setStrand_dies (s : State) (n : Nat) (v : Strand) : (s.setStrand n v).dies = s.dies := rfl
@[simp] theorem State.setStrand_ctxs (s : State) (n : Nat) (v : Strand) : (s.setStrand n v).ctxs = s.ctxs := rfl
@[simp] theorem State.setStrand_migrations (s : State) (n : Nat) (v : Strand) : (s.setStrand n v).migrations = s.migrations := rfl
@[simp] theorem State.setStrand_halts (s : State) (n : Nat) (v : Strand) : (s.setStrand n v).halts = s.halts := rfl
@[simp] theorem State.setStrand_mem (s : State) (n : Nat) (v : Strand) : (s.setStrand n v).mem = s.mem := rfl
@[simp] theorem State.setStrand_cmd (s : State) (n : Nat) (v : Strand) : (s.setStrand n v).cmd = s.cmd := rfl
@[simp] theorem State.setStrand_sec (s : State) (n : Nat) (v : Strand) : (s.setStrand n v).sec = s.sec := rfl
@[simp] theorem State.setStrand_link (s : State) (n : Nat) (v : Strand) : (s.setStrand n v).link = s.link := rfl
@[simp] theorem State.setStrand_power (s : State) (n : Nat) (v : Strand) : (s.setStrand n v).power = s.power := rfl
@[simp] theorem State.setStrand_boot (s : State) (n : Nat) (v : Strand) : (s.setStrand n v).boot = s.boot := rfl
@[simp] theorem State.setStrand_cur (s : State) (n : Nat) (v : Strand) : (s.setStrand n v).cur = s.cur := rfl
@[simp] theorem State.setStrand_iss (s : State) (n : Nat) (v : Strand) : (s.setStrand n v).iss = s.iss := rfl
@[simp] theorem State.setStrand_turns (s : State) (n : Nat) (v : Strand) : (s.setStrand n v).turns = s.turns := rfl
@[simp] theorem State.setStrand_tick (s : State) (n : Nat) (v : Strand) : (s.setStrand n v).tick = s.tick := rfl

@[simp] theorem State.setCore_strands (s : State) (n : Nat) (v : Core) : (s.setCore n v).strands = s.strands := rfl
@[simp] theorem State.setCore_clusters (s : State) (n : Nat) (v : Core) : (s.setCore n v).clusters = s.clusters := rfl
@[simp] theorem State.setCore_dies (s : State) (n : Nat) (v : Core) : (s.setCore n v).dies = s.dies := rfl
@[simp] theorem State.setCore_ctxs (s : State) (n : Nat) (v : Core) : (s.setCore n v).ctxs = s.ctxs := rfl
@[simp] theorem State.setCore_migrations (s : State) (n : Nat) (v : Core) : (s.setCore n v).migrations = s.migrations := rfl
@[simp] theorem State.setCore_halts (s : State) (n : Nat) (v : Core) : (s.setCore n v).halts = s.halts := rfl
@[simp] theorem State.setCore_mem (s : State) (n : Nat) (v : Core) : (s.setCore n v).mem = s.mem := rfl
@[simp] theorem State.setCore_cmd (s : State) (n : Nat) (v : Core) : (s.setCore n v).cmd = s.cmd := rfl
@[simp] theorem State.setCore_sec (s : State) (n : Nat) (v : Core) : (s.setCore n v).sec = s.sec := rfl
@[simp] theorem State.setCore_link (s : State) (n : Nat) (v : Core) : (s.setCore n v).link = s.link := rfl
@[simp] theorem State.setCore_power (s : State) (n : Nat) (v : Core) : (s.setCore n v).power = s.power := rfl
@[simp] theorem State.setCore_boot (s : State) (n : Nat) (v : Core) : (s.setCore n v).boot = s.boot := rfl
@[simp] theorem State.setCore_cur (s : State) (n : Nat) (v : Core) : (s.setCore n v).cur = s.cur := rfl
@[simp] theorem State.setCore_iss (s : State) (n : Nat) (v : Core) : (s.setCore n v).iss = s.iss := rfl
@[simp] theorem State.setCore_turns (s : State) (n : Nat) (v : Core) : (s.setCore n v).turns = s.turns := rfl
@[simp] theorem State.setCore_tick (s : State) (n : Nat) (v : Core) : (s.setCore n v).tick = s.tick := rfl

@[simp] theorem State.setCluster_strands (s : State) (n : Nat) (v : Cluster) : (s.setCluster n v).strands = s.strands := rfl
@[simp] theorem State.setCluster_cores (s : State) (n : Nat) (v : Cluster) : (s.setCluster n v).cores = s.cores := rfl
@[simp] theorem State.setCluster_dies (s : State) (n : Nat) (v : Cluster) : (s.setCluster n v).dies = s.dies := rfl
@[simp] theorem State.setCluster_ctxs (s : State) (n : Nat) (v : Cluster) : (s.setCluster n v).ctxs = s.ctxs := rfl
@[simp] theorem State.setCluster_migrations (s : State) (n : Nat) (v : Cluster) : (s.setCluster n v).migrations = s.migrations := rfl
@[simp] theorem State.setCluster_halts (s : State) (n : Nat) (v : Cluster) : (s.setCluster n v).halts = s.halts := rfl
@[simp] theorem State.setCluster_mem (s : State) (n : Nat) (v : Cluster) : (s.setCluster n v).mem = s.mem := rfl
@[simp] theorem State.setCluster_cmd (s : State) (n : Nat) (v : Cluster) : (s.setCluster n v).cmd = s.cmd := rfl
@[simp] theorem State.setCluster_sec (s : State) (n : Nat) (v : Cluster) : (s.setCluster n v).sec = s.sec := rfl
@[simp] theorem State.setCluster_link (s : State) (n : Nat) (v : Cluster) : (s.setCluster n v).link = s.link := rfl
@[simp] theorem State.setCluster_power (s : State) (n : Nat) (v : Cluster) : (s.setCluster n v).power = s.power := rfl
@[simp] theorem State.setCluster_boot (s : State) (n : Nat) (v : Cluster) : (s.setCluster n v).boot = s.boot := rfl
@[simp] theorem State.setCluster_cur (s : State) (n : Nat) (v : Cluster) : (s.setCluster n v).cur = s.cur := rfl
@[simp] theorem State.setCluster_iss (s : State) (n : Nat) (v : Cluster) : (s.setCluster n v).iss = s.iss := rfl
@[simp] theorem State.setCluster_turns (s : State) (n : Nat) (v : Cluster) : (s.setCluster n v).turns = s.turns := rfl
@[simp] theorem State.setCluster_tick (s : State) (n : Nat) (v : Cluster) : (s.setCluster n v).tick = s.tick := rfl

@[simp] theorem State.setDie_strands (s : State) (n : Nat) (v : Die) : (s.setDie n v).strands = s.strands := rfl
@[simp] theorem State.setDie_cores (s : State) (n : Nat) (v : Die) : (s.setDie n v).cores = s.cores := rfl
@[simp] theorem State.setDie_clusters (s : State) (n : Nat) (v : Die) : (s.setDie n v).clusters = s.clusters := rfl
@[simp] theorem State.setDie_ctxs (s : State) (n : Nat) (v : Die) : (s.setDie n v).ctxs = s.ctxs := rfl
@[simp] theorem State.setDie_migrations (s : State) (n : Nat) (v : Die) : (s.setDie n v).migrations = s.migrations := rfl
@[simp] theorem State.setDie_halts (s : State) (n : Nat) (v : Die) : (s.setDie n v).halts = s.halts := rfl
@[simp] theorem State.setDie_mem (s : State) (n : Nat) (v : Die) : (s.setDie n v).mem = s.mem := rfl
@[simp] theorem State.setDie_cmd (s : State) (n : Nat) (v : Die) : (s.setDie n v).cmd = s.cmd := rfl
@[simp] theorem State.setDie_sec (s : State) (n : Nat) (v : Die) : (s.setDie n v).sec = s.sec := rfl
@[simp] theorem State.setDie_link (s : State) (n : Nat) (v : Die) : (s.setDie n v).link = s.link := rfl
@[simp] theorem State.setDie_power (s : State) (n : Nat) (v : Die) : (s.setDie n v).power = s.power := rfl
@[simp] theorem State.setDie_boot (s : State) (n : Nat) (v : Die) : (s.setDie n v).boot = s.boot := rfl
@[simp] theorem State.setDie_cur (s : State) (n : Nat) (v : Die) : (s.setDie n v).cur = s.cur := rfl
@[simp] theorem State.setDie_iss (s : State) (n : Nat) (v : Die) : (s.setDie n v).iss = s.iss := rfl
@[simp] theorem State.setDie_turns (s : State) (n : Nat) (v : Die) : (s.setDie n v).turns = s.turns := rfl
@[simp] theorem State.setDie_tick (s : State) (n : Nat) (v : Die) : (s.setDie n v).tick = s.tick := rfl

@[simp] theorem State.setCtx_strands (s : State) (n : Nat) (v : Ctx) : (s.setCtx n v).strands = s.strands := rfl
@[simp] theorem State.setCtx_cores (s : State) (n : Nat) (v : Ctx) : (s.setCtx n v).cores = s.cores := rfl
@[simp] theorem State.setCtx_clusters (s : State) (n : Nat) (v : Ctx) : (s.setCtx n v).clusters = s.clusters := rfl
@[simp] theorem State.setCtx_dies (s : State) (n : Nat) (v : Ctx) : (s.setCtx n v).dies = s.dies := rfl
@[simp] theorem State.setCtx_migrations (s : State) (n : Nat) (v : Ctx) : (s.setCtx n v).migrations = s.migrations := rfl
@[simp] theorem State.setCtx_halts (s : State) (n : Nat) (v : Ctx) : (s.setCtx n v).halts = s.halts := rfl
@[simp] theorem State.setCtx_mem (s : State) (n : Nat) (v : Ctx) : (s.setCtx n v).mem = s.mem := rfl
@[simp] theorem State.setCtx_cmd (s : State) (n : Nat) (v : Ctx) : (s.setCtx n v).cmd = s.cmd := rfl
@[simp] theorem State.setCtx_sec (s : State) (n : Nat) (v : Ctx) : (s.setCtx n v).sec = s.sec := rfl
@[simp] theorem State.setCtx_link (s : State) (n : Nat) (v : Ctx) : (s.setCtx n v).link = s.link := rfl
@[simp] theorem State.setCtx_power (s : State) (n : Nat) (v : Ctx) : (s.setCtx n v).power = s.power := rfl
@[simp] theorem State.setCtx_boot (s : State) (n : Nat) (v : Ctx) : (s.setCtx n v).boot = s.boot := rfl
@[simp] theorem State.setCtx_cur (s : State) (n : Nat) (v : Ctx) : (s.setCtx n v).cur = s.cur := rfl
@[simp] theorem State.setCtx_iss (s : State) (n : Nat) (v : Ctx) : (s.setCtx n v).iss = s.iss := rfl
@[simp] theorem State.setCtx_turns (s : State) (n : Nat) (v : Ctx) : (s.setCtx n v).turns = s.turns := rfl
@[simp] theorem State.setCtx_tick (s : State) (n : Nat) (v : Ctx) : (s.setCtx n v).tick = s.tick := rfl

@[simp] theorem State.setGroup_strands (s : State) (n : Nat) (v : Group) : (s.setGroup n v).strands = s.strands := rfl
@[simp] theorem State.setGroup_cores (s : State) (n : Nat) (v : Group) : (s.setGroup n v).cores = s.cores := rfl
@[simp] theorem State.setGroup_clusters (s : State) (n : Nat) (v : Group) : (s.setGroup n v).clusters = s.clusters := rfl
@[simp] theorem State.setGroup_dies (s : State) (n : Nat) (v : Group) : (s.setGroup n v).dies = s.dies := rfl
@[simp] theorem State.setGroup_ctxs (s : State) (n : Nat) (v : Group) : (s.setGroup n v).ctxs = s.ctxs := rfl
@[simp] theorem State.setGroup_migrations (s : State) (n : Nat) (v : Group) : (s.setGroup n v).migrations = s.migrations := rfl
@[simp] theorem State.setGroup_halts (s : State) (n : Nat) (v : Group) : (s.setGroup n v).halts = s.halts := rfl
@[simp] theorem State.setGroup_mem (s : State) (n : Nat) (v : Group) : (s.setGroup n v).mem = s.mem := rfl
@[simp] theorem State.setGroup_sec (s : State) (n : Nat) (v : Group) : (s.setGroup n v).sec = s.sec := rfl
@[simp] theorem State.setGroup_link (s : State) (n : Nat) (v : Group) : (s.setGroup n v).link = s.link := rfl
@[simp] theorem State.setGroup_power (s : State) (n : Nat) (v : Group) : (s.setGroup n v).power = s.power := rfl
@[simp] theorem State.setGroup_boot (s : State) (n : Nat) (v : Group) : (s.setGroup n v).boot = s.boot := rfl
@[simp] theorem State.setGroup_cur (s : State) (n : Nat) (v : Group) : (s.setGroup n v).cur = s.cur := rfl
@[simp] theorem State.setGroup_iss (s : State) (n : Nat) (v : Group) : (s.setGroup n v).iss = s.iss := rfl
@[simp] theorem State.setGroup_turns (s : State) (n : Nat) (v : Group) : (s.setGroup n v).turns = s.turns := rfl
@[simp] theorem State.setGroup_tick (s : State) (n : Nat) (v : Group) : (s.setGroup n v).tick = s.tick := rfl

@[simp] theorem State.setLaunch_strands (s : State) (n : Nat) (v : Launch) : (s.setLaunch n v).strands = s.strands := rfl
@[simp] theorem State.setLaunch_cores (s : State) (n : Nat) (v : Launch) : (s.setLaunch n v).cores = s.cores := rfl
@[simp] theorem State.setLaunch_clusters (s : State) (n : Nat) (v : Launch) : (s.setLaunch n v).clusters = s.clusters := rfl
@[simp] theorem State.setLaunch_dies (s : State) (n : Nat) (v : Launch) : (s.setLaunch n v).dies = s.dies := rfl
@[simp] theorem State.setLaunch_ctxs (s : State) (n : Nat) (v : Launch) : (s.setLaunch n v).ctxs = s.ctxs := rfl
@[simp] theorem State.setLaunch_migrations (s : State) (n : Nat) (v : Launch) : (s.setLaunch n v).migrations = s.migrations := rfl
@[simp] theorem State.setLaunch_halts (s : State) (n : Nat) (v : Launch) : (s.setLaunch n v).halts = s.halts := rfl
@[simp] theorem State.setLaunch_mem (s : State) (n : Nat) (v : Launch) : (s.setLaunch n v).mem = s.mem := rfl
@[simp] theorem State.setLaunch_sec (s : State) (n : Nat) (v : Launch) : (s.setLaunch n v).sec = s.sec := rfl
@[simp] theorem State.setLaunch_link (s : State) (n : Nat) (v : Launch) : (s.setLaunch n v).link = s.link := rfl
@[simp] theorem State.setLaunch_power (s : State) (n : Nat) (v : Launch) : (s.setLaunch n v).power = s.power := rfl
@[simp] theorem State.setLaunch_boot (s : State) (n : Nat) (v : Launch) : (s.setLaunch n v).boot = s.boot := rfl
@[simp] theorem State.setLaunch_cur (s : State) (n : Nat) (v : Launch) : (s.setLaunch n v).cur = s.cur := rfl
@[simp] theorem State.setLaunch_iss (s : State) (n : Nat) (v : Launch) : (s.setLaunch n v).iss = s.iss := rfl
@[simp] theorem State.setLaunch_turns (s : State) (n : Nat) (v : Launch) : (s.setLaunch n v).turns = s.turns := rfl
@[simp] theorem State.setLaunch_tick (s : State) (n : Nat) (v : Launch) : (s.setLaunch n v).tick = s.tick := rfl

@[simp] theorem State.setMe_cores (s : State) (v : Strand) : (s.setMe v).cores = s.cores := rfl
@[simp] theorem State.setMe_clusters (s : State) (v : Strand) : (s.setMe v).clusters = s.clusters := rfl
@[simp] theorem State.setMe_dies (s : State) (v : Strand) : (s.setMe v).dies = s.dies := rfl
@[simp] theorem State.setMe_ctxs (s : State) (v : Strand) : (s.setMe v).ctxs = s.ctxs := rfl
@[simp] theorem State.setMe_migrations (s : State) (v : Strand) : (s.setMe v).migrations = s.migrations := rfl
@[simp] theorem State.setMe_halts (s : State) (v : Strand) : (s.setMe v).halts = s.halts := rfl
@[simp] theorem State.setMe_mem (s : State) (v : Strand) : (s.setMe v).mem = s.mem := rfl
@[simp] theorem State.setMe_cmd (s : State) (v : Strand) : (s.setMe v).cmd = s.cmd := rfl
@[simp] theorem State.setMe_sec (s : State) (v : Strand) : (s.setMe v).sec = s.sec := rfl
@[simp] theorem State.setMe_link (s : State) (v : Strand) : (s.setMe v).link = s.link := rfl
@[simp] theorem State.setMe_power (s : State) (v : Strand) : (s.setMe v).power = s.power := rfl
@[simp] theorem State.setMe_boot (s : State) (v : Strand) : (s.setMe v).boot = s.boot := rfl
@[simp] theorem State.setMe_cur (s : State) (v : Strand) : (s.setMe v).cur = s.cur := rfl
@[simp] theorem State.setMe_iss (s : State) (v : Strand) : (s.setMe v).iss = s.iss := rfl
@[simp] theorem State.setMe_turns (s : State) (v : Strand) : (s.setMe v).turns = s.turns := rfl
@[simp] theorem State.setMe_tick (s : State) (v : Strand) : (s.setMe v).tick = s.tick := rfl

@[simp] theorem State.setMyCore_strands (s : State) (v : Core) : (s.setMyCore v).strands = s.strands := rfl
@[simp] theorem State.setMyCore_clusters (s : State) (v : Core) : (s.setMyCore v).clusters = s.clusters := rfl
@[simp] theorem State.setMyCore_dies (s : State) (v : Core) : (s.setMyCore v).dies = s.dies := rfl
@[simp] theorem State.setMyCore_ctxs (s : State) (v : Core) : (s.setMyCore v).ctxs = s.ctxs := rfl
@[simp] theorem State.setMyCore_migrations (s : State) (v : Core) : (s.setMyCore v).migrations = s.migrations := rfl
@[simp] theorem State.setMyCore_halts (s : State) (v : Core) : (s.setMyCore v).halts = s.halts := rfl
@[simp] theorem State.setMyCore_mem (s : State) (v : Core) : (s.setMyCore v).mem = s.mem := rfl
@[simp] theorem State.setMyCore_cmd (s : State) (v : Core) : (s.setMyCore v).cmd = s.cmd := rfl
@[simp] theorem State.setMyCore_sec (s : State) (v : Core) : (s.setMyCore v).sec = s.sec := rfl
@[simp] theorem State.setMyCore_link (s : State) (v : Core) : (s.setMyCore v).link = s.link := rfl
@[simp] theorem State.setMyCore_power (s : State) (v : Core) : (s.setMyCore v).power = s.power := rfl
@[simp] theorem State.setMyCore_boot (s : State) (v : Core) : (s.setMyCore v).boot = s.boot := rfl
@[simp] theorem State.setMyCore_cur (s : State) (v : Core) : (s.setMyCore v).cur = s.cur := rfl
@[simp] theorem State.setMyCore_iss (s : State) (v : Core) : (s.setMyCore v).iss = s.iss := rfl
@[simp] theorem State.setMyCore_turns (s : State) (v : Core) : (s.setMyCore v).turns = s.turns := rfl
@[simp] theorem State.setMyCore_tick (s : State) (v : Core) : (s.setMyCore v).tick = s.tick := rfl

@[simp] theorem State.setMyCluster_strands (s : State) (v : Cluster) : (s.setMyCluster v).strands = s.strands := rfl
@[simp] theorem State.setMyCluster_cores (s : State) (v : Cluster) : (s.setMyCluster v).cores = s.cores := rfl
@[simp] theorem State.setMyCluster_dies (s : State) (v : Cluster) : (s.setMyCluster v).dies = s.dies := rfl
@[simp] theorem State.setMyCluster_ctxs (s : State) (v : Cluster) : (s.setMyCluster v).ctxs = s.ctxs := rfl
@[simp] theorem State.setMyCluster_migrations (s : State) (v : Cluster) : (s.setMyCluster v).migrations = s.migrations := rfl
@[simp] theorem State.setMyCluster_halts (s : State) (v : Cluster) : (s.setMyCluster v).halts = s.halts := rfl
@[simp] theorem State.setMyCluster_mem (s : State) (v : Cluster) : (s.setMyCluster v).mem = s.mem := rfl
@[simp] theorem State.setMyCluster_cmd (s : State) (v : Cluster) : (s.setMyCluster v).cmd = s.cmd := rfl
@[simp] theorem State.setMyCluster_sec (s : State) (v : Cluster) : (s.setMyCluster v).sec = s.sec := rfl
@[simp] theorem State.setMyCluster_link (s : State) (v : Cluster) : (s.setMyCluster v).link = s.link := rfl
@[simp] theorem State.setMyCluster_power (s : State) (v : Cluster) : (s.setMyCluster v).power = s.power := rfl
@[simp] theorem State.setMyCluster_boot (s : State) (v : Cluster) : (s.setMyCluster v).boot = s.boot := rfl
@[simp] theorem State.setMyCluster_cur (s : State) (v : Cluster) : (s.setMyCluster v).cur = s.cur := rfl
@[simp] theorem State.setMyCluster_iss (s : State) (v : Cluster) : (s.setMyCluster v).iss = s.iss := rfl
@[simp] theorem State.setMyCluster_turns (s : State) (v : Cluster) : (s.setMyCluster v).turns = s.turns := rfl
@[simp] theorem State.setMyCluster_tick (s : State) (v : Cluster) : (s.setMyCluster v).tick = s.tick := rfl

@[simp] theorem State.bump_strands (s : State) : (s.bump).strands = s.strands := rfl
@[simp] theorem State.bump_cores (s : State) : (s.bump).cores = s.cores := rfl
@[simp] theorem State.bump_clusters (s : State) : (s.bump).clusters = s.clusters := rfl
@[simp] theorem State.bump_dies (s : State) : (s.bump).dies = s.dies := rfl
@[simp] theorem State.bump_ctxs (s : State) : (s.bump).ctxs = s.ctxs := rfl
@[simp] theorem State.bump_migrations (s : State) : (s.bump).migrations = s.migrations := rfl
@[simp] theorem State.bump_halts (s : State) : (s.bump).halts = s.halts := rfl
@[simp] theorem State.bump_mem (s : State) : (s.bump).mem = s.mem := rfl
@[simp] theorem State.bump_cmd (s : State) : (s.bump).cmd = s.cmd := rfl
@[simp] theorem State.bump_sec (s : State) : (s.bump).sec = s.sec := rfl
@[simp] theorem State.bump_link (s : State) : (s.bump).link = s.link := rfl
@[simp] theorem State.bump_power (s : State) : (s.bump).power = s.power := rfl
@[simp] theorem State.bump_boot (s : State) : (s.bump).boot = s.boot := rfl
@[simp] theorem State.bump_cur (s : State) : (s.bump).cur = s.cur := rfl
@[simp] theorem State.bump_iss (s : State) : (s.bump).iss = s.iss := rfl
@[simp] theorem State.bump_turns (s : State) : (s.bump).turns = s.turns := rfl

@[simp] theorem State.post_cores (s : State) (l : Nat) (p : Pending) : (s.post l p).cores = s.cores := rfl
@[simp] theorem State.post_clusters (s : State) (l : Nat) (p : Pending) : (s.post l p).clusters = s.clusters := rfl
@[simp] theorem State.post_dies (s : State) (l : Nat) (p : Pending) : (s.post l p).dies = s.dies := rfl
@[simp] theorem State.post_ctxs (s : State) (l : Nat) (p : Pending) : (s.post l p).ctxs = s.ctxs := rfl
@[simp] theorem State.post_migrations (s : State) (l : Nat) (p : Pending) : (s.post l p).migrations = s.migrations := rfl
@[simp] theorem State.post_halts (s : State) (l : Nat) (p : Pending) : (s.post l p).halts = s.halts := rfl
@[simp] theorem State.post_mem (s : State) (l : Nat) (p : Pending) : (s.post l p).mem = s.mem := rfl
@[simp] theorem State.post_cmd (s : State) (l : Nat) (p : Pending) : (s.post l p).cmd = s.cmd := rfl
@[simp] theorem State.post_sec (s : State) (l : Nat) (p : Pending) : (s.post l p).sec = s.sec := rfl
@[simp] theorem State.post_link (s : State) (l : Nat) (p : Pending) : (s.post l p).link = s.link := rfl
@[simp] theorem State.post_power (s : State) (l : Nat) (p : Pending) : (s.post l p).power = s.power := rfl
@[simp] theorem State.post_boot (s : State) (l : Nat) (p : Pending) : (s.post l p).boot = s.boot := rfl
@[simp] theorem State.post_cur (s : State) (l : Nat) (p : Pending) : (s.post l p).cur = s.cur := rfl
@[simp] theorem State.post_iss (s : State) (l : Nat) (p : Pending) : (s.post l p).iss = s.iss := rfl
@[simp] theorem State.post_turns (s : State) (l : Nat) (p : Pending) : (s.post l p).turns = s.turns := rfl
@[simp] theorem State.post_tick (s : State) (l : Nat) (p : Pending) : (s.post l p).tick = s.tick := rfl

/-! ### Reading after an update -/

@[simp] theorem State.strand_setStrand_same (s : State) (n : Nat) (v : Strand) : (s.setStrand n v).strand n = v := by
  simp [State.strand, State.setStrand]
theorem State.strand_setStrand_other {s : State} {n m : Nat} {v : Strand} (h : m ≠ n) :
    (s.setStrand n v).strand m = s.strand m := by
  simp [State.strand, State.setStrand, SMap.get_insert_other h]
@[simp] theorem State.core_setCore_same (s : State) (n : Nat) (v : Core) : (s.setCore n v).core n = v := by
  simp [State.core, State.setCore]
theorem State.core_setCore_other {s : State} {n m : Nat} {v : Core} (h : m ≠ n) : (s.setCore n v).core m = s.core m := by
  simp [State.core, State.setCore, SMap.get_insert_other h]
@[simp] theorem State.cluster_setCluster_same (s : State) (n : Nat) (v : Cluster) : (s.setCluster n v).cluster n = v := by
  simp [State.cluster, State.setCluster]
theorem State.cluster_setCluster_other {s : State} {n m : Nat} {v : Cluster} (h : m ≠ n) :
    (s.setCluster n v).cluster m = s.cluster m := by
  simp [State.cluster, State.setCluster, SMap.get_insert_other h]
@[simp] theorem State.die_setDie_same (s : State) (n : Nat) (v : Die) : (s.setDie n v).die n = v := by
  simp [State.die, State.setDie]
theorem State.die_setDie_other {s : State} {n m : Nat} {v : Die} (h : m ≠ n) : (s.setDie n v).die m = s.die m := by
  simp [State.die, State.setDie, SMap.get_insert_other h]
@[simp] theorem State.ctx_setCtx_same (s : State) (n : Nat) (v : Ctx) : (s.setCtx n v).ctx n = v := by
  simp [State.ctx, State.setCtx]
theorem State.ctx_setCtx_other {s : State} {n m : Nat} {v : Ctx} (h : m ≠ n) : (s.setCtx n v).ctx m = s.ctx m := by
  simp [State.ctx, State.setCtx, SMap.get_insert_other h]
@[simp] theorem State.group_setGroup_same (s : State) (n : Nat) (v : Group) : (s.setGroup n v).group n = v := by
  simp [State.group, State.setGroup]
theorem State.group_setGroup_other {s : State} {n m : Nat} {v : Group} (h : m ≠ n) :
    (s.setGroup n v).group m = s.group m := by
  simp [State.group, State.setGroup, SMap.get_insert_other h]
@[simp] theorem State.launch_setLaunch_same (s : State) (n : Nat) (v : Launch) : (s.setLaunch n v).launch n = v := by
  simp [State.launch, State.setLaunch]
theorem State.launch_setLaunch_other {s : State} {n m : Nat} {v : Launch} (h : m ≠ n) :
    (s.setLaunch n v).launch m = s.launch m := by
  simp [State.launch, State.setLaunch, SMap.get_insert_other h]
@[simp] theorem State.me_setMe (s : State) (v : Strand) : (s.setMe v).me = v := by simp [State.me, State.setMe]
@[simp] theorem State.myCore_setMyCore (s : State) (v : Core) : (s.setMyCore v).myCore = v := by
  simp [State.myCore, State.setMyCore]
@[simp] theorem State.myCluster_setMyCluster (s : State) (v : Cluster) : (s.setMyCluster v).myCluster = v := by
  simp [State.myCluster, State.setMyCluster]

/-! ### Across kinds of agent -/

@[simp] theorem State.core_setStrand (s : State) (n : Nat) (v : Strand) (m : Nat) : (s.setStrand n v).core m = s.core m := rfl
@[simp] theorem State.cluster_setStrand (s : State) (n : Nat) (v : Strand) (m : Nat) : (s.setStrand n v).cluster m = s.cluster m := rfl
@[simp] theorem State.die_setStrand (s : State) (n : Nat) (v : Strand) (m : Nat) : (s.setStrand n v).die m = s.die m := rfl
@[simp] theorem State.ctx_setStrand (s : State) (n : Nat) (v : Strand) (m : Nat) : (s.setStrand n v).ctx m = s.ctx m := rfl
@[simp] theorem State.group_setStrand (s : State) (n : Nat) (v : Strand) (m : Nat) : (s.setStrand n v).group m = s.group m := rfl
@[simp] theorem State.launch_setStrand (s : State) (n : Nat) (v : Strand) (m : Nat) : (s.setStrand n v).launch m = s.launch m := rfl
@[simp] theorem State.strand_setCore (s : State) (n : Nat) (v : Core) (m : Nat) : (s.setCore n v).strand m = s.strand m := rfl
@[simp] theorem State.cluster_setCore (s : State) (n : Nat) (v : Core) (m : Nat) : (s.setCore n v).cluster m = s.cluster m := rfl
@[simp] theorem State.die_setCore (s : State) (n : Nat) (v : Core) (m : Nat) : (s.setCore n v).die m = s.die m := rfl
@[simp] theorem State.ctx_setCore (s : State) (n : Nat) (v : Core) (m : Nat) : (s.setCore n v).ctx m = s.ctx m := rfl
@[simp] theorem State.group_setCore (s : State) (n : Nat) (v : Core) (m : Nat) : (s.setCore n v).group m = s.group m := rfl
@[simp] theorem State.launch_setCore (s : State) (n : Nat) (v : Core) (m : Nat) : (s.setCore n v).launch m = s.launch m := rfl
@[simp] theorem State.strand_setCluster (s : State) (n : Nat) (v : Cluster) (m : Nat) : (s.setCluster n v).strand m = s.strand m := rfl
@[simp] theorem State.core_setCluster (s : State) (n : Nat) (v : Cluster) (m : Nat) : (s.setCluster n v).core m = s.core m := rfl
@[simp] theorem State.die_setCluster (s : State) (n : Nat) (v : Cluster) (m : Nat) : (s.setCluster n v).die m = s.die m := rfl
@[simp] theorem State.ctx_setCluster (s : State) (n : Nat) (v : Cluster) (m : Nat) : (s.setCluster n v).ctx m = s.ctx m := rfl
@[simp] theorem State.group_setCluster (s : State) (n : Nat) (v : Cluster) (m : Nat) : (s.setCluster n v).group m = s.group m := rfl
@[simp] theorem State.launch_setCluster (s : State) (n : Nat) (v : Cluster) (m : Nat) : (s.setCluster n v).launch m = s.launch m := rfl
@[simp] theorem State.strand_setDie (s : State) (n : Nat) (v : Die) (m : Nat) : (s.setDie n v).strand m = s.strand m := rfl
@[simp] theorem State.core_setDie (s : State) (n : Nat) (v : Die) (m : Nat) : (s.setDie n v).core m = s.core m := rfl
@[simp] theorem State.cluster_setDie (s : State) (n : Nat) (v : Die) (m : Nat) : (s.setDie n v).cluster m = s.cluster m := rfl
@[simp] theorem State.ctx_setDie (s : State) (n : Nat) (v : Die) (m : Nat) : (s.setDie n v).ctx m = s.ctx m := rfl
@[simp] theorem State.group_setDie (s : State) (n : Nat) (v : Die) (m : Nat) : (s.setDie n v).group m = s.group m := rfl
@[simp] theorem State.launch_setDie (s : State) (n : Nat) (v : Die) (m : Nat) : (s.setDie n v).launch m = s.launch m := rfl
@[simp] theorem State.strand_setCtx (s : State) (n : Nat) (v : Ctx) (m : Nat) : (s.setCtx n v).strand m = s.strand m := rfl
@[simp] theorem State.core_setCtx (s : State) (n : Nat) (v : Ctx) (m : Nat) : (s.setCtx n v).core m = s.core m := rfl
@[simp] theorem State.cluster_setCtx (s : State) (n : Nat) (v : Ctx) (m : Nat) : (s.setCtx n v).cluster m = s.cluster m := rfl
@[simp] theorem State.die_setCtx (s : State) (n : Nat) (v : Ctx) (m : Nat) : (s.setCtx n v).die m = s.die m := rfl
@[simp] theorem State.group_setCtx (s : State) (n : Nat) (v : Ctx) (m : Nat) : (s.setCtx n v).group m = s.group m := rfl
@[simp] theorem State.launch_setCtx (s : State) (n : Nat) (v : Ctx) (m : Nat) : (s.setCtx n v).launch m = s.launch m := rfl
@[simp] theorem State.strand_setGroup (s : State) (n : Nat) (v : Group) (m : Nat) : (s.setGroup n v).strand m = s.strand m := rfl
@[simp] theorem State.core_setGroup (s : State) (n : Nat) (v : Group) (m : Nat) : (s.setGroup n v).core m = s.core m := rfl
@[simp] theorem State.cluster_setGroup (s : State) (n : Nat) (v : Group) (m : Nat) : (s.setGroup n v).cluster m = s.cluster m := rfl
@[simp] theorem State.die_setGroup (s : State) (n : Nat) (v : Group) (m : Nat) : (s.setGroup n v).die m = s.die m := rfl
@[simp] theorem State.ctx_setGroup (s : State) (n : Nat) (v : Group) (m : Nat) : (s.setGroup n v).ctx m = s.ctx m := rfl
@[simp] theorem State.strand_setLaunch (s : State) (n : Nat) (v : Launch) (m : Nat) : (s.setLaunch n v).strand m = s.strand m := rfl
@[simp] theorem State.core_setLaunch (s : State) (n : Nat) (v : Launch) (m : Nat) : (s.setLaunch n v).core m = s.core m := rfl
@[simp] theorem State.cluster_setLaunch (s : State) (n : Nat) (v : Launch) (m : Nat) : (s.setLaunch n v).cluster m = s.cluster m := rfl
@[simp] theorem State.die_setLaunch (s : State) (n : Nat) (v : Launch) (m : Nat) : (s.setLaunch n v).die m = s.die m := rfl
@[simp] theorem State.ctx_setLaunch (s : State) (n : Nat) (v : Launch) (m : Nat) : (s.setLaunch n v).ctx m = s.ctx m := rfl
@[simp] theorem State.core_setMe (s : State) (v : Strand) (m : Nat) : (s.setMe v).core m = s.core m := rfl
@[simp] theorem State.cluster_setMe (s : State) (v : Strand) (m : Nat) : (s.setMe v).cluster m = s.cluster m := rfl
@[simp] theorem State.die_setMe (s : State) (v : Strand) (m : Nat) : (s.setMe v).die m = s.die m := rfl
@[simp] theorem State.ctx_setMe (s : State) (v : Strand) (m : Nat) : (s.setMe v).ctx m = s.ctx m := rfl
@[simp] theorem State.group_setMe (s : State) (v : Strand) (m : Nat) : (s.setMe v).group m = s.group m := rfl
@[simp] theorem State.launch_setMe (s : State) (v : Strand) (m : Nat) : (s.setMe v).launch m = s.launch m := rfl
@[simp] theorem State.strand_setMyCore (s : State) (v : Core) (m : Nat) : (s.setMyCore v).strand m = s.strand m := rfl
@[simp] theorem State.cluster_setMyCore (s : State) (v : Core) (m : Nat) : (s.setMyCore v).cluster m = s.cluster m := rfl
@[simp] theorem State.die_setMyCore (s : State) (v : Core) (m : Nat) : (s.setMyCore v).die m = s.die m := rfl
@[simp] theorem State.ctx_setMyCore (s : State) (v : Core) (m : Nat) : (s.setMyCore v).ctx m = s.ctx m := rfl
@[simp] theorem State.group_setMyCore (s : State) (v : Core) (m : Nat) : (s.setMyCore v).group m = s.group m := rfl
@[simp] theorem State.launch_setMyCore (s : State) (v : Core) (m : Nat) : (s.setMyCore v).launch m = s.launch m := rfl
@[simp] theorem State.strand_setMyCluster (s : State) (v : Cluster) (m : Nat) : (s.setMyCluster v).strand m = s.strand m := rfl
@[simp] theorem State.core_setMyCluster (s : State) (v : Cluster) (m : Nat) : (s.setMyCluster v).core m = s.core m := rfl
@[simp] theorem State.die_setMyCluster (s : State) (v : Cluster) (m : Nat) : (s.setMyCluster v).die m = s.die m := rfl
@[simp] theorem State.ctx_setMyCluster (s : State) (v : Cluster) (m : Nat) : (s.setMyCluster v).ctx m = s.ctx m := rfl
@[simp] theorem State.group_setMyCluster (s : State) (v : Cluster) (m : Nat) : (s.setMyCluster v).group m = s.group m := rfl
@[simp] theorem State.launch_setMyCluster (s : State) (v : Cluster) (m : Nat) : (s.setMyCluster v).launch m = s.launch m := rfl
@[simp] theorem State.strand_bump (s : State) (m : Nat) : (s.bump).strand m = s.strand m := rfl
@[simp] theorem State.core_bump (s : State) (m : Nat) : (s.bump).core m = s.core m := rfl
@[simp] theorem State.cluster_bump (s : State) (m : Nat) : (s.bump).cluster m = s.cluster m := rfl
@[simp] theorem State.die_bump (s : State) (m : Nat) : (s.bump).die m = s.die m := rfl
@[simp] theorem State.ctx_bump (s : State) (m : Nat) : (s.bump).ctx m = s.ctx m := rfl
@[simp] theorem State.group_bump (s : State) (m : Nat) : (s.bump).group m = s.group m := rfl
@[simp] theorem State.launch_bump (s : State) (m : Nat) : (s.bump).launch m = s.launch m := rfl
@[simp] theorem State.core_post (s : State) (l : Nat) (p : Pending) (m : Nat) : (s.post l p).core m = s.core m := rfl
@[simp] theorem State.cluster_post (s : State) (l : Nat) (p : Pending) (m : Nat) : (s.post l p).cluster m = s.cluster m := rfl
@[simp] theorem State.die_post (s : State) (l : Nat) (p : Pending) (m : Nat) : (s.post l p).die m = s.die m := rfl
@[simp] theorem State.ctx_post (s : State) (l : Nat) (p : Pending) (m : Nat) : (s.post l p).ctx m = s.ctx m := rfl
@[simp] theorem State.group_post (s : State) (l : Nat) (p : Pending) (m : Nat) : (s.post l p).group m = s.group m := rfl
@[simp] theorem State.launch_post (s : State) (l : Nat) (p : Pending) (m : Nat) : (s.post l p).launch m = s.launch m := rfl

/-! ### The delivery buffer -/

/-- A result joins the end of the issuing strand's delivery buffer, due `lat` bundles later, and nothing else changes (R36). -/
@[simp] theorem State.me_post (s : State) (lat : Nat) (p : Pending) :
    (s.post lat p).me = { s.me with dbuf := s.me.dbuf ++
      [{ p with due := s.me.count + lat, hnd := s.me.hnd, born := s.me.seq }] } := by
  simp [State.post]
theorem State.strand_post_other {s : State} {lat n : Nat} {p : Pending} (h : n ≠ s.cur) :
    (s.post lat p).strand n = s.strand n := by
  simp [State.post, State.setMe, State.strand_setStrand_other h]

end Sys2Proof.Machine
end

