-- ==== Sys2Proof/Laws/Slot.lean ====
section
/-! SUPPORT. What the frames of the forms come to: a slot's meaning, a V form's checks, a micro-operation; each always answers
a next state, and where its checks pass that of its own effect. -/

namespace Sys2Proof.Machine

/-! ### Slots -/

/-- A slot always goes on: its effect, a trap, a wait or a rollback is a next state (R42, R57). -/
theorem finish_next (s : State) (r : Res) : ∃ t, finish s r = .next t := by
  cases r <;> exact ⟨_, rfl⟩

theorem slotOp_next (i : Instr) (s : State) (f : State → Res) : ∃ t, slotOp i s f = .next t := by
  unfold slotOp
  split
  · exact ⟨_, rfl⟩
  · split
    · exact ⟨_, rfl⟩
    · exact finish_next ..

/-- Where a form stands well its own checks and effect follow. -/
theorem slotOp_ok {i : Instr} {s : State} {f : State → Res} (h : formOk s i = true) : slotOp i s f = finish s (f s) := by
  simp only [formOk, Bool.and_eq_true, Bool.not_eq_true'] at h
  have : slotBad s i = none := by simpa using h.1
  simp [slotOp, this, h.2]

@[simp] theorem finish_ok (s t : State) : finish s (.ok t) = .next t := rfl
@[simp] theorem finish_trap (s : State) (c i : Nat) : finish s (.trap c i) = .next (s.endTrap c i) := rfl
@[simp] theorem finish_stall (s : State) (w : Stall) : finish s (.stall w) = .next (s.endStall w) := rfl
@[simp] theorem finish_rollback (s : State) (i : Nat) : finish s (.rollback i) = .next (s.endRollback i) := rfl
@[simp] theorem finish_deferred (s : State) (c i u : Nat) : finish s (.deferred c i u) = .next (s.endDeferred c i u) := rfl

@[simp] theorem Res.bind_ok (s : State) (f : State → Res) : (Res.ok s).bind f = f s := rfl

/-! ### V forms -/

theorem vecOk_form {s : State} {i : Instr} {w : Nat} {extra : List Nat} (h : vecOk s i w extra = true) : formOk s i = true := by
  simp only [vecOk, Bool.and_eq_true] at h; exact h.1

theorem lgWait_none {s : State} {named : List Nat} (h : s.lanesOn named = true) : lgWait s named = none := by
  simp only [State.lanesOn, List.all_eq_true, beq_iff_eq] at h
  have h1 : (named.find? fun g => s.lgState g == .gated) = none := by
    rw [List.find?_eq_none]; intro g hg; simp [h g hg]
  have h2 : (named.find? fun g => s.lgState g != .on) = none := by
    rw [List.find?_eq_none]; intro g hg; simp [h g hg]
  simp [lgWait, h1, h2]

/-- Checks that all pass leave no stop (R58). -/
theorem lowestStop_none {α : Type} {l : List α} {f : α → Option Res} (h : ∀ n ∈ l, f n = none) : lowestStop (l.map f) = none := by
  unfold lowestStop
  induction l with
  | nil => rfl
  | cons a l ih =>
    simp only [List.map_cons, List.foldl_cons, h a (by simp)]
    exact ih fun n hn => h n (by simp [hn])

/-- Where its lanegroups are on and its entries are there, a V form goes on with its pops made (R205, R206). -/
theorem vecPre_ok {s : State} {i : Instr} {w : Nat} {extra : List Nat} (h : vecOk s i w extra = true) :
    vecPre i w extra s = .ok (s.popped i w) := by
  simp only [vecOk, vLanes, Bool.and_eq_true] at h
  obtain ⟨-, h⟩ := h
  unfold vecPre State.popped vPops
  cases hm : Instr.vMask i with
  | none => simp
  | some x =>
    obtain ⟨lgm, pr⟩ := x
    simp only [hm, vPops, vNamed, Bool.and_eq_true, List.all_eq_true, popOk, Option.isNone_iff_eq_none] at h ⊢
    obtain ⟨hl, hq⟩ := h
    have h1 : ∀ (l : List Nat) (f : Nat → Option Res), (∀ n ∈ l, f n = none) → l.findSome? f = none := by
      intro l f hf; exact List.findSome?_eq_none_iff.2 hf
    rw [lowestStop_none fun n hn => (hq n hn).1.1, lgWait_none hl, h1 _ _ fun n hn => (hq n hn).1.2, h1 _ _ fun n hn => (hq n hn).2]

theorem vecOp_ok {s : State} {i : Instr} {w : Nat} {extra : List Nat} {f : State → Res} (h : vecOk s i w extra = true) :
    vecOp i w extra s f = finish s (f (s.popped i w)) := by
  rw [vecOp, slotOp_ok (vecOk_form h), vecPre_ok h]; rfl

theorem vecOp_next (i : Instr) (w : Nat) (extra : List Nat) (s : State) (f : State → Res) : ∃ t, vecOp i w extra s f = .next t :=
  slotOp_next ..

/-- The pops of a form change the bundle being issued only. -/
theorem popped_eq (s : State) (i : Instr) (w : Nat) : s.popped i w = { s with iss := (s.popped i w).iss } := by
  unfold State.popped
  generalize vPops s i w = l
  induction l generalizing s with
  | nil => rfl
  | cons n l ih => rw [List.foldl_cons, ih]; rfl

@[simp] theorem popped_me (s : State) (i : Instr) (w : Nat) : (s.popped i w).me = s.me := by rw [popped_eq]; rfl
@[simp] theorem popped_myCore (s : State) (i : Instr) (w : Nat) : (s.popped i w).myCore = s.myCore := by rw [popped_eq]; rfl
@[simp] theorem popped_cur (s : State) (i : Instr) (w : Nat) : (s.popped i w).cur = s.cur := by rw [popped_eq]
@[simp] theorem popped_mem (s : State) (i : Instr) (w : Nat) : (s.popped i w).mem = s.mem := by rw [popped_eq]

theorem vecElem_ok {s : State} {i : Instr} {h : VHead} {lat : Nat} {f : Strand → Nat → Nat → Nat × Nat}
    (ok : vecOk s i h.ty.width = true) : vecElem i h lat f s = .next (s.vecOut i h lat (f s.me)) := by
  simp [vecElem, vecOp_ok ok, State.vecOut]

theorem vecPred_ok {s : State} {i : Instr} {h : VHead} {lat : Nat} {f : Strand → Nat → Nat → Bool × Nat}
    (ok : vecOk s i h.ty.width = true) : vecPred i h lat f s = .next (s.predResult i h lat (f s.me)) := by
  simp [vecPred, vecOp_ok ok, State.predResult]

/-! ### Micro-operations -/

theorem microOp_next (s : State) (f : MCall → State → MicroRes) : ∃ t, microOp s f = .next t := by
  unfold microOp
  repeat' split
  all_goals exact ⟨_, rfl⟩

/-- A micro-operation of a call that runs has its own effect. -/
theorem microOp_ok {s : State} {f : MCall → State → MicroRes} (h : callRuns s = true) :
    microOp s f = match f s.call s with
      | .next t => .next (s.nextWord t)
      | .jump t u => .next (t.setSeqr { t.seqr with upc := u })
      | .fault t c i =>
        .next ((t.onCall fun m => { m with faults := m.faults ++ [{ cause := c, info := i }] }).setSeqr
          { (t.onCall fun m => { m with faults := m.faults ++ [{ cause := c, info := i }] }).seqr with running := false })
      | .stay t => .next t := by
  simp only [callRuns, Bool.and_eq_true, Bool.not_eq_true', Option.isSome_iff_exists] at h
  obtain ⟨⟨m, hm⟩, hr⟩ := h
  cases e : f m s <;> simp [microOp, hm, hr, State.call, State.nextWord, e]

end Sys2Proof.Machine
end

