-- ==== Sys2Proof/Tests/Slice0.lean ====
section
/-! SUPPORT. Tests: terms that the encodings do not admit, words written out from the encodings, states that meet the hypotheses
of the statements, and results computed by hand from the rules. -/

namespace Sys2Proof.Tests

set_option Elab.async false

open Sys2Proof Sys2Proof.Machine

/-! ### Small states -/

/-- A strand of core 0 whose registers are all valid: x5 = 7, x6 = 100, x7 = 3, x8 = -7. -/
def st0 : Strand :=
  { life := .live, begun := true, grp := 1, ctx := 1, launch := 1, own := true, xv := BitVec.allOnes 64, vv := BitVec.allOnes 256,
    pv := BitVec.allOnes 128, cv := BitVec.allOnes 8, bv := BitVec.allOnes 4, mpv := BitVec.allOnes 8, lcv := BitVec.allOnes 4,
    agv := BitVec.allOnes 8, x := [(5, 7), (6, 100), (7, 3), (8, BitVec.ofInt 64 (-7))] }

/-- Core 0, whose units that strand owns. -/
def core0 : Core := { on := true, owner := some 0, accv := BitVec.allOnes 128 }

/-- The group and the launch of that strand. -/
def group0 : Group :=
  { state := .running, launch := 1, ctx := 1, placements := [{ core := 0, set := 0, strand := 0, own := true }], strands := [0] }

def cmd0 : CmdState := { groups := [(1, group0)], launches := [(1, { ctx := 1, bound := true, started := 1 })] }
def s0 : State := { strands := [(0, st0)], cores := [(0, core0)], cmd := cmd0 }

def onMe (f : Strand → Strand) : State := s0.setStrand 0 (f st0)
def onCore (f : Core → Core) : State := s0.setCore 0 (f core0)
def onPower (f : PowerState → PowerState) : State := { s0 with power := f s0.power }

/-- The state after an instruction. -/
def after (i : Instr) (s : State) : State :=
  match exec i s with
  | .next t => t
  | _ => {}

/-- The value that a result leaves in the delivery buffer. -/
def lastValue (s : State) : Nat := (s.me.dbuf.getLast?.map fun p => p.value.toNat).getD 0
/-- How a bundle ended, for a trap: slot, cause, information. -/
def trapOf (s : State) : Option (Nat × Nat × Nat) :=
  match s.iss.ended with
  | some (.trap slot cause info) => some (slot, cause, info)
  | _ => none

/-! ### Well-formedness: one term for each check, refused -/

def vh : VHead := { lgm := 1, pr := 0, d := 1, a := 2, ty := .f32 }
def ti : TileArg := { r := 1, h := 0, ag := 0, agv := false, ty := .n8, off := 0, lgm := 1 }
def ce : CeArg := { a := 1, b := 2, c := 3, sc := .st, acq := false, rel := false, q := 0, qe := false }

def illFormedS : List Instr :=
  [.emptyBundle false 8 false, .add .s64 64 0 0, .add .s64 0 0 64, .addI .s64 0 0 (2 ^ 36), .shlI .s64 0 0 64, .clz .s8 64 0,
   .sel .s8 0 0 0 8, .cmp .eq .s8 8 0 0, .movi 0 (2 ^ 36), .movhi 0 0 (2 ^ 28), .bfx .s64 0 0 1 64, .bfx .s64 0 0 0 0,
   .prep 4 (.index 0), .prep 0 (.index 2048), .prep 0 (.reg 64), .br 0 8 false, .trap 65536, .mfs 0 14, .setfmt 32 0, .setfmt 0 128,
   .setcar (.imm 4), .setcar (.reg 64), .time 64, .halloc .loc .s8 64 0, .hfree 64, .mbox 0 64]

def illFormedV : List Instr :=
  [.fadd { vh with lgm := 0 } 0, .fadd { vh with pr := 16 } 0, .fadd { vh with d := 32 } 0, .fadd { vh with a := 40 } 0,
   .fadd { vh with ty := .s8 } 0, .fadd vh 40, .fma vh 0 32, .fcmp .eq { vh with ty := .f16 } 0, .fclass vh 1024, .fscaleI vh 65536,
   .cvt { vh with ty := .mxf8 } .f32 false, .cvt vh .s8 true, .mxq { vh with ty := .mxf8 } 1 0 .bf16, .mxq vh 0 0 .f32,
   .mxdq vh 0 .mxf8, .mxdq { vh with d := 2, pr := 1 } 0 .mxf8, .bpq vh .f32, .iadd vh 0, .iabs { vh with ty := .n8 } false,
   .icmp .eq { vh with ty := .s8 } 0, .vmovi 1 0 0 .f64 0, .vmovi 1 0 0 .s8 256, .vshuf vh 9, .vshuf vh (4 + 16), .vext { vh with lgm := 3 } 0,
   .vins { vh with ty := .f64 } 1, .xcopy vh 0, .xbcast vh 8, .vred .sum { vh with ty := .s8 }, .pand 1 0 0 0 16, .vany 1 0 8 0,
   .pcnt 1 0 64 0, .accrd 1 0 0 .h 128 .f32, .accrd 1 0 0 .v 0 .f64, .accclr 1 0 .h 0 true, .acccvt 1 0 .h 0 .f32 .f32]

def illFormedU : List Instr :=
  [.mset 8 0, .mseti 0 (2 ^ 32), .mcall 64, .mstat 64, .mchk 8, .trpush 32 0, .trpop 0 16, .trcfg .f64, .resm 256 0, .retab 0 0 4,
   .retload 0 4, .ldSp { ti with off := 4096 }, .ldSp { ti with lgm := 0 }, .ldB { ti with ty := .s8 }, .ldG 8 0 .s8 .st .none 0,
   .ldG 0 0 .s8 .st .rel 0, .ldG 0 0 .s8 .co .none 0, .gath 0 32 .s8 .st .none 1, .amo .add 0 0 0 .s8 .st .none 0,
   .cas 0 0 0 64 .s32 .st .none 0, .qbind 0 8 .s8, .qfree 8, .stG true 32 0 .s8 .st .none 0 1, .stG false 0 0 .s8 .st .none 0 1,
   .stG false 0 0 .s8 .st .acq 0 0, .scat 0 32 .s8 .st .none 1, .epSt true 0 0 .s8 0 0, .qout 8 0 .s8 .st .none 0]

def illFormedC : List Instr :=
  [.cp { ce with q := 8 }, .cpg { ce with sc := .co }, .ckpt 64 0 false, .pf 0 0 4, .col .barrier ce, .meas 0 64 0 false, .mark 0 .st,
   .mark 4 .co, .lgate 0 .on, .lset 4 (.imm 0) 0 false false, .lset 0 (.imm 0) 0 true false, .lset 0 (.word 64) 0 false false,
   .lbrk 0 8 false, .agset 8 0, .agstr 0 4 0, .spred 7 0, .spred 15 1]

def illFormedM : List Instr :=
  [.aload 8 1, .aload 0 0, .aload 0 129, .planes 1, .planes 9, .limb 64, .pass 4, .accz 0, .accz 129, .accm 8, .mwait 0, .scale 8 0, .drain 0 3, .drain 0 32, .mloop (.imm 0), .mloop (.mp 8), .mend 512,
   .create 65536 false 0 0 0 0 0, .create 1 false 256 0 0 0 0, .destroy 1 (2 ^ 64), .park 1 (2 ^ 64) 0, .cancel 1 65536 0 0,
   .map { ctx := 1, size := 256, state := 0, perm := 0, wreg := 0, va := 0, pa := 0, count := 1, tag := 0 }, .unmap 1 0 0 (2 ^ 32) 0,
   .migrate 1 256 0 0 0, .wreg 1 256 0 0, .wbegin 1 256 0, .wpage 1 0 0 (2 ^ 64) 0 0, .ckcfg 1 0 (2 ^ 32) 0, .epwin 1 256 false 0 0 0,
   .epring 1 0 256 false 0 0]

theorem test_illFormed_refused : illFormedS.any Instr.wf = false ∧ illFormedV.any Instr.wf = false ∧ illFormedU.any Instr.wf = false ∧
    illFormedC.any Instr.wf = false ∧ illFormedM.any Instr.wf = false := by
  decide +kernel

/-! ### Words, field by field from the tables of R128 to R152 and R350 -/

/-- A bundle word of one slot: its presence bit in the header, and its field (R128). -/
def oneSlot (present lo field : Nat) : Nat := 2 ^ present + 2 ^ 10 + 2 ^ lo * field

def decodes (present lo cls field : Nat) (i : Instr) : Bool :=
  decodeTableWord 512 (oneSlot present lo field + cls) == some i

/-- Classes VF, MA, XR and GM of the header (R129). -/
def vf : Nat := 2 ^ 15
def ma : Nat := 2 ^ 16
def xr : Nat := 2 ^ 17
def gm : Nat := 2 ^ 18

/-- R137 to R139: `mulh.n32 x63, x1, x2`; `subI.s8 x1, x2, -1`; `prep b3, 2047`; `call b1, c2` with NEG; `mts x5, sr 13`;
`setfmt`; `halloc` of a BSTACK tile of .s8. -/
theorem test_words_s :
    decodes 0 32 0 (0x04 + 2 ^ 8 * 63 + 2 ^ 14 * 1 + 2 ^ 20 * 2 + 2 ^ 32 * 6) (.mulh .n32 63 1 2) = true ∧
    decodes 0 32 0 (0x42 + 2 ^ 8 * 1 + 2 ^ 14 * 2 + 2 ^ 28 * (2 ^ 36 - 1)) (.subI .s8 1 2 (2 ^ 36 - 1)) = true ∧
    decodes 0 32 0 (0x80 + 2 ^ 8 * 3 + 2 ^ 21 * 2047) (.prep 3 (.index 2047)) = true ∧
    decodes 0 32 0 (0x82 + 2 ^ 8 * 1 + 2 ^ 10 * 2 + 2 ^ 13) (.call 1 2 true) = true ∧
    decodes 0 32 0 (0xC3 + 2 ^ 14 * 5 + 2 ^ 20 * 13) (.mts 5 13) = true ∧
    decodes 0 32 0 (0xC4 + 2 ^ 26 * (0x0901 + 2 ^ 16 * 0xFF1F)) (.setfmt 0x0901 0xFF1F) = true ∧
    decodes 0 32 0 (0xC7 + 2 ^ 8 * 4 + 2 ^ 14 * 9 + 2 ^ 26 * 2) (.halloc .bstack .s8 4 9) = true ∧
    decodes 0 32 0 (0xC1) .rett = true := by
  decide +kernel

/-- R140 to R143: `fma` in V1, `icmp` immediate with its condition at 56:53, `vmovi`, `accrd` of a column, `xcopy` from g7. -/
theorem test_words_v :
    decodes 2 160 vf (0x04 + 2 ^ 8 * 0x80 + 2 ^ 20 * 31 + 2 ^ 26 * 32 + 2 ^ 32 * 39 + 2 ^ 38 * 3 + 2 ^ 44 * 9)
      (.fma { lgm := 0x80, pr := 0, d := 31, a := 32, ty := .f32 } 39 3) = true ∧
    decodes 1 96 vf (0xAE + 2 ^ 8 * 0xFF + 2 ^ 16 * 1 + 2 ^ 20 * 2 + 2 ^ 26 * 5 + 2 ^ 32 * 2 + 2 ^ 37 * 0xFFFF + 2 ^ 53 * 2)
      (.icmpI .lt { lgm := 0xFF, pr := 1, d := 2, a := 5, ty := .s32 } 0xFFFF) = true ∧
    decodes 1 96 vf (0x41 + 2 ^ 8 * 1 + 2 ^ 20 * 7 + 2 ^ 26 * 9 + 2 ^ 31 * 0x3F800000) (.vmovi 1 0 7 .f32 0x3F800000) = true ∧
    decodes 1 96 vf (0x60 + 2 ^ 8 * 3 + 2 ^ 20 * 4 + 2 ^ 26 * 1 + 2 ^ 28 * 127 + 2 ^ 35 * 9) (.accrd 3 0 4 .v 127 .f32) = true ∧
    decodes 1 96 (vf + xr) (0x48 + 2 ^ 8 * 2 + 2 ^ 20 * 1 + 2 ^ 26 * 3 + 2 ^ 44 * 9 + 2 ^ 49 * 7)
      (.xcopy { lgm := 2, pr := 0, d := 1, a := 3, ty := .f32 } 7) = true := by
  decide +kernel

/-- R144 to R148: `mseti`, `renorm` with RMS, `gath`, `cas.ar`, `st.g` of a v register, `qout`, `cps`, `col` all-reduce. -/
theorem test_words_units :
    decodes 3 224 ma (0x02 + 2 ^ 8 * 7 + 2 ^ 11 * 0xFFFFFFFF) (.mseti 7 0xFFFFFFFF) = true ∧
    decodes 4 272 xr (0x11 + 2 ^ 8 * 3 + 2 ^ 16 * 255 + 2 ^ 26) (.renorm 3 255 true) = true ∧
    decodes 5 304 gm (0x11 + 2 ^ 8 * 7 + 2 ^ 14 * 31 + 2 ^ 32 * 2 + 2 ^ 37 * 4 + 2 ^ 40 * 1 + 2 ^ 46 * 0xF0)
      (.gath 7 31 .s32 .pk .acq 0xF0) = true ∧
    decodes 5 304 gm (0x13 + 2 ^ 8 * 1 + 2 ^ 14 * 2 + 2 ^ 20 * 3 + 2 ^ 26 * 4 + 2 ^ 32 * 3 + 2 ^ 37 * 6 + 2 ^ 40 * 3 + 2 ^ 46 * 1023)
      (.cas 1 2 3 4 .s64 .sy .ar 1023) = true ∧
    decodes 6 360 gm (0x10 + 2 ^ 8 * 31 + 2 ^ 14 * 1 + 2 ^ 20 * 9 + 2 ^ 30 + 2 ^ 31 * 8 + 2 ^ 41 * 0x81)
      (.stG true 31 1 .f32 .st .none 8 0x81) = true ∧
    decodes 6 360 gm (0x20 + 2 ^ 8 * 7 + 2 ^ 14 * 1 + 2 ^ 28 * 2 + 2 ^ 25 * 5) (.qout 7 1 .s8 .dm .rel 0) = true ∧
    decodes 7 416 gm (0x03 + 2 ^ 8 * 1 + 2 ^ 14 * 2 + 2 ^ 20 * 3 + 2 ^ 26 * 2 + 2 ^ 30 + 2 ^ 35 * 5 + 2 ^ 38)
      (.cps { a := 1, b := 2, c := 3, sc := .cl, acq := false, rel := true, q := 5, qe := true }) = true ∧
    decodes 7 416 gm (0x20 + 2 ^ 8 * 1 + 2 ^ 14 * 2 + 2 ^ 20 * 3 + 2 ^ 31 * 2)
      (.col .reduceScatter { a := 1, b := 2, c := 3, sc := .st, acq := false, rel := false, q := 0, qe := false }) = true := by
  decide +kernel

/-- R149 to R152, R350, R352: `lgate`, `agstr`, `lset` of a rollback loop; `drain`, `mend`; UNMAP's words. -/
theorem test_words_control :
    decodes 8 464 0 (0x07 + 2 ^ 6 * 0xF0 + 2 ^ 14 * 2) (.lgate 0xF0 .gated) = true ∧
    decodes 9 488 0 (0x04 + 2 ^ 6 * 7 + 2 ^ 9 * 2 + 2 ^ 11 * 63) (.agstr 7 2 63) = true ∧
    decodes 9 488 0 (0x01 + 2 ^ 6 * 3 + 2 ^ 10 * 63 + 2 ^ 16 * 62 + 2 ^ 22 + 2 ^ 23) (.lset 3 (.imm 63) 62 true true) = true ∧
    decodeTableWord 128 (0x09 + 2 ^ 8 * 2 + 2 ^ 17 * 0x1E) = some (.drain 2 0x1E) ∧ decodeTableWord 128 (0x09 + 2 ^ 17 * 3) = none ∧
    decodeTableWord 128 (0x0C + 2 ^ 41 * 511) = some (.mend 511) ∧
    decodeTableWord 128 0 = none ∧ decodeTableWord 128 (0x0F + 2 ^ 50) = none := by
  decide +kernel

/-- Instructions at the ends of their operand ranges, which the encoder and the decoder carry. -/
def roundTrip : List Instr :=
  [.emptyBundle true 7 true, .add .n64 63 63 63, .bfi .s64 1 2 63 1, .movhi 63 0 (2 ^ 28 - 1), .vext { vh with d := 63, lgm := 128 } 15,
   .vshuf { vh with ty := .s8 } (63 * 16), .cvt { vh with ty := .s8 } .n8 true, .vmovi 255 15 31 .s8 255, .accclr 255 0 .h 0 true,
   .mcall 63, .trcfg .s8, .ldSp { ti with off := 4095, agv := true }, .amo .swap 7 63 63 .n64 .dm .ar 1023, .qfree 7, .ckpt 63 7 true,
   .mark 63 .sy, .halt, .spred 8 7, .mloop (.mp 7), .mloop (.imm 65535), .chk, .relock (2 ^ 64 - 1),
   .map { ctx := 1023, size := 3, state := 5, perm := 15, wreg := 255, va := 2 ^ 52, pa := 2 ^ 51, count := 65536, tag := 1 },
   .epring 1 63 12 true (2 ^ 52) 9]

theorem test_roundTrip :
    (roundTrip.all fun i => i.wf && (encode i).any fun e => decodeTableWord e.1 e.2 == some i) = true := by
  decide +kernel

/-! ### Hypotheses of the statements about forms, met -/

def sForms : List Instr :=
  [.add .s64 5 6 7, .addI .s64 5 6 7, .sub .s64 5 6 7, .subI .s64 5 6 7, .mul .s64 5 6 7, .mulI .s64 5 6 7, .mulh .s64 63 63 63,
   .min .s64 5 6 7, .minI .s64 5 6 7, .max .s64 5 6 7, .maxI .s64 5 6 7, .ext .s8 5 6, .div .s64 5 6 7, .rem .s64 5 6 7,
   .and .s8 0 1 2, .andI .s8 1 2 3, .or .s16 1 2 3, .orI .s16 1 2 3, .xor .n8 1 2 3, .xorI .n8 1 2 3, .andn .n16 1 2 3,
   .andnI .n16 1 2 3, .shl .s64 1 2 3, .shlI .s64 1 2 63, .shr .s64 1 2 3, .shrI .s64 1 2 63, .rotl .n8 1 2 3, .rotlI .n8 1 2 63,
   .clz .s64 1 2, .ctz .s64 1 2, .popc .s64 1 2, .bfx .s8 1 2 0 64, .bfi .s8 1 2 63 1, .movi 63 (2 ^ 36 - 1), .movhi 1 2 0,
   .sel .s64 1 2 3 7, .cmp .ge .s64 7 2 3, .cmpI .ge .s64 7 2 3, .prep 3 (.index 2047), .prep 0 (.reg 63), .br 0 0 false,
   .call 0 0 true, .call 0 0 false, .mfs 1 13, .mts 1 0, .mts 1 1, .mts 1 2, .mts 1 3, .mts 1 7, .mts 1 8, .mts 1 13, .setfmt 0x901 0xFF1F,
   .setcar (.imm 3), .setcar (.reg 1), .time 1, .mbox 1 63, .halloc .loc .s8 1 10, .hfree 9, .trap 65535]

theorem witness_sForms : (sForms.all fun i => i.wf && formOk s0 i) = true := by decide +kernel

/-- The two sides of a zero divisor, of a condition, of a call; the classes of state registers. -/
theorem witness_sCases :
    xIn .s64 s0 7 ≠ 0 ∧ xIn .s64 s0 9 = 0 ∧ formOk s0 (.div .s64 5 6 9) = true ∧ formOk s0 (.rem .s64 5 6 9) = true ∧
    s0.me.cGet 0 = true ∧ s0.me.cGet 7 = false ∧ (s0.me.cGet 0 != true) = false ∧ (s0.me.cGet 0 != false) = true := by
  decide +kernel

/-- x10 asks for a tile of one row and column of placement core 0; x11 for one that does not fit; x12 names no core. -/
def hands : State :=
  { onMe (fun st => { st with x := [(10, 0x10001), (11, 0x10001000), (12, 0x700010001), (13, 9), (14, 256)] }) with
    clusters := [(0, { tiles := [(9, { level := .loc, core := 0, rows := 1, cols := 1, ety := .s8, base := 0, pitch := 1 })] })] }

theorem witness_handles :
    (List.all [.halloc .loc .s8 1 10, .halloc .loc .f64 1 11, .halloc .shared .s8 1 12, .hfree 13, .hfree 14, .hfree 10] (formOk hands)) = true ∧
    hands.myCluster.freeHandle = some 0 ∧ (placeTile hands.myCluster.allTiles .loc 0 1 1 .s8).isSome = true ∧
    placeTile hands.myCluster.allTiles .loc 0 4096 4096 .f64 = none ∧
    ((hands.group 1).placements.any fun p => p.core == 7) = false ∧ (SMap.find hands.myCluster.tiles 9).isSome = true ∧
    hands.handleBusy 0 9 = false := by
  decide +kernel

/-- A handler for TRAPI, entered from outside a handler; a trap in a handler; no entry; both values of TBUNDLE[11]. -/
def trapped : State := onCore fun c => { c with half0 := { traps := [(0x0B, 40)] } }
def handler (tb : Word) : State := { onMe (fun st => { st with hnd := true, tbundle := tb }) with iss := { stop := true } }

theorem witness_traps :
    formOk trapped (.trap 1) = true ∧ (trapped.strand 0).hnd = false ∧ SMap.find (trapped.half 0).traps 0x0B = some 40 ∧
    SMap.find (s0.half 0).traps 0x0B = none ∧ ((handler 0).strand 0).hnd = true ∧ trapped.power.snapArm = false ∧
    formOk (handler 2048) .rett = true ∧ bit ((handler 2048).deliverHandler 0).me.tbundle.toNat 11 = true ∧
    formOk (handler 2047) .rett = true ∧ bit ((handler 2047).deliverHandler 0).me.tbundle.toNat 11 = false := by
  decide +kernel

/-- A call of a routine that is not there, a source without a valid bit, a load whose stage predicate is false; a trap ended a bundle. -/
def blank : State := onMe fun st => { st with xv := 0 }
def stageOff : State := onMe fun st => { st with md := true, pbase := 8, stages := 2, loops := [(3, { active := true, last := 9 })] }

theorem witness_formChecks :
    (slotFields (.mcall 0)).isSome = true ∧ (formIll s0 (.mcall 0)).isSome = true ∧
    (slotFields (.add .s64 1 5 6)).isSome = true ∧ formIll blank (.add .s64 1 5 6) = none ∧ offStage blank (.add .s64 1 5 6) = false ∧
    (badSource blank.me blank.myCore (.add .s64 1 5 6)).isSome = true ∧
    (slotFields (.ldSp ti)).isSome = true ∧ formIll stageOff (.ldSp ti) = none ∧ offStage stageOff (.ldSp ti) = true ∧
    (after (.trap 1) s0).iss.ended = some (.trap 0 0x0B 1) ∧ (after (.trap 1) s0).iss.consumed = none := by
  decide +kernel

def hf : VHead := { lgm := 255, pr := 15, d := 31, a := 1, ty := .f32 }
def hi : VHead := { hf with ty := .s32 }
def hp : VHead := { hf with d := 15 }
/-- One lanegroup, and a d below every bound. -/
def h1 : VHead := { hf with lgm := 128, pr := 0, d := 7 }

def vForms32 : List Instr :=
  [.fadd hf 2, .fsub hf 2, .fmul hf 2, .fma hf 2 3, .fms hf 2 3, .fnma hf 2 3, .fmin hf 2, .fmax hf 2, .fabs hf, .fneg hf, .fcpys hf 2,
   .fcmp .ge hp 2, .fclass hp 1023, .frecpe hf, .frsqe hf, .fscale hf 2, .fscaleI hf 65535, .fround .dyn hf, .cvt hf .f64 false,
   .cvt { hf with ty := .s32 } .s8 true, .mxq { hf with pr := 0, ty := .mxf4 } 2 3 .f32, .mxdq { hf with pr := 0, d := 30 } 2 .mxf8,
   .mxdq { hf with pr := 0, ty := .bf16 } 2 .mxi8, .bpq { hf with pr := 0, ty := .bp8 } .f32, .iadd hi 2, .iaddI hi 1, .isub hi 2, .isubI hi 1,
   .imul hi 2 true, .imad hi 2 3 false, .iadds hi 2, .isubs hi 2, .imin hi 2, .iminI hi 1, .imax hi 2, .imaxI hi 1, .iabs hi true, .iand hi 2,
   .iandI hi 1, .ior hi 2, .iorI hi 1, .ixor hi 2, .ixorI hi 1, .ishl hi 2 true, .ishlI hi 255, .ishr hi 2, .ishrI hi 255,
   .icmp .ge { hp with ty := .s32 } 2, .icmpI .ge { hp with ty := .s32 } 1, .ipopc hi, .vmov hf, .vmovi 255 15 31 .f32 1, .vbcast hf,
   .vsel hf 2 15, .vperm hf 2, .vshuf hf 0, .vext h1 15, .vins h1 15, .vred .sum hf, .pand 255 0 15 1 2, .por 255 0 15 1 2, .pxor 255 0 15 1 2,
   .pnot 255 0 15 1, .pmov 255 0 15 1, .vany 255 0 7 1, .vall 255 0 7 1, .pcnt 255 0 63 1, .accrd 255 0 31 .d 127 .f32,
   .accwr 255 0 31 .v 127 .f32, .accclr 255 0 .h 127 false, .accclr 255 0 .h 0 true, .acccvt 255 0 .h 127 .s32 .f32]

theorem witness_vForms : (vForms32.all fun i => i.wf && vecOk s0 i 32) = true := by decide +kernel

/-- A copy over the ring with none and with four in flight; both activities of a lane; a row of `acc` in use. -/
def ring4 : State := onMe fun st => { st with dbuf := List.replicate 4 { kind := .v, reg := 9, due := 99, ring := true } }
def rowBusy : State := onCore fun c => { c with calls := [{ sid := 0, idx := 0, mp := [], fmt := 0, grade := 0, rpl := false, busy := [127], seq := 0 }] }

theorem witness_vCases :
    vecOk s0 (.xcopy h1 3) 32 [3] = true ∧ vecOk s0 (.xbcast h1 3) 32 [3] = true ∧ (s0.me.dbuf.filter (·.ring)).length = 0 ∧
    vecOk ring4 (.xcopy h1 3) 32 [3] = true ∧ (ring4.me.dbuf.filter (·.ring)).length = 4 ∧
    elemActive 32 (s0.me.pGet 0 7) 15 = true ∧ elemActive 32 (s0.me.pGet 1 7) 15 = false ∧
    vecOk s0 (.vext { h1 with pr := 1 } 15) 32 = true ∧ vecOk s0 (.vins { h1 with pr := 1 } 15) 32 = true ∧
    (accRows .h 127 255).any s0.myCore.busyRow = false ∧ (accRows .h 127 255).any rowBusy.myCore.busyRow = true ∧
    vecOk rowBusy (.accrd 255 0 31 .h 127 .f32) 32 = true ∧ (List.range 128).any s0.myCore.busyRow = false := by
  decide +kernel

/-! ### Hypotheses about units, micro-operations and tiles, met -/

def call0 : MCall := { sid := 0, idx := 2, mp := [], fmt := 0x2900, grade := 1, rpl := false, busy := [], seq := 4 }
def calls (l : List MCall) : State := onCore fun c => { c with calls := l, routines := [(0, 0), (63, 500)] }
def callOn (m : MCall) (q : Sequencer) : State := onCore fun c => { c with calls := [m], seqr := q }

theorem witness_matrixCalls :
    (List.all [.mset 7 63, .mseti 0 1, .mcall 63, .mstat 1, .mchk 7] (formOk (calls []))) = true ∧
    (calls []).myCore.calls.length < 4 ∧ (calls []).me.dbuf = [] ∧ (calls []).myCore.running = none ∧
    formOk (calls [call0, call0, call0, call0]) (.mcall 0) = true ∧ (calls [call0, call0, call0, call0]).myCore.calls.length = 4 ∧
    formOk (callOn { call0 with started := true } { running := true }) (.mstat 1) = true ∧
    (callOn { call0 with started := true } { running := true }).myCore.running = some { call0 with started := true } ∧
    ((calls [call0]).core 0).owner = some 0 ∧ ((calls [call0]).core 0).calls.find? (fun m => !m.ended) = some call0 ∧
    (calls [call0]).unitsOn 0 = true ∧ startBlocks { calls [call0] with cur := 0 } call0 = none ∧
    ((callOn { call0 with started := true } { running := true }).core 0).seqr.running = true ∧
    ((calls [call0]).core 0).seqr.running = false ∧
    ((callOn { call0 with started := true } { running := true, railWait := true }).core 0).seqr.railWait = true := by
  decide +kernel

/-- A batch closed at bundle 90, seen from bundle 97; two closed batches; a batch under way. -/
def trClosed (n : Nat) (open_ : Option Batch) : State :=
  { onMe (fun st => { st with sbc := 97 }) with
    cores := [(0, { core0 with trClosed := List.replicate n { closed := 90 }, trOpen := open_ })] }

theorem witness_transposes :
    s0.lanesOn (List.range 8) = true ∧ (List.all [.trpush 31 14, .trpush 31 15, .trpop 31 15, .trcfg .f16] (formOk s0)) = true ∧
    (trClosed 1 none).lanesOn (List.range 8) = true ∧ formOk (trClosed 1 none) (.trpop 31 0) = true ∧
    (trClosed 1 none).myCore.trClosed.find? (·.gives 0 (trClosed 1 none).me.sbc) = some { closed := 90 } ∧
    (trClosed 1 none).myCore.trClosed.find? (·.gives 15 (trClosed 1 none).me.sbc) = some { closed := 90 } ∧
    formOk (trClosed 2 none) (.trpush 31 15) = true ∧ 2 ≤ (trClosed 2 none).myCore.trClosed.length ∧
    s0.myCore.trClosed.find? (·.gives 15 0) = none ∧ s0.myCore.trOpen = none ∧
    formOk (trClosed 0 (some {})) (.trcfg .f16) = true ∧ (trClosed 0 (some {})).myCore.trOpen ≠ none := by
  decide +kernel

/-- Handles 1 and 2 name matrices of one shape, 3 a table image; 9 is free. -/
def shape (rows cols base : Nat) (ety : ElemType) : Tile :=
  { level := .loc, core := 0, rows := rows, cols := cols, ety := ety, base := base, pitch := (cols * ety.width + 511) / 512 }
def tiles1 : List (Nat × Tile) := [(1, shape 3 16 0 .f32), (2, shape 3 16 8 .f32), (3, shape 49 64 16 .s8),
  (4, { shape 3 128 100 .s8 with level := .bstack }), (5, shape 1 128 110 .f32)]
def onTiles (f : Strand → Strand) (g : Core → Core) : State :=
  { strands := [(0, f st0)], cores := [(0, g core0)], cmd := cmd0, clusters := [(0, { tiles := tiles1 })] }
def withTiles : State := onTiles id id
def row0 : RowCmd := { op := .resm, ha := 1, hd := 2, seq := 0, issued := 0 }
def rowFull : State := onTiles id fun c => { c with rowq := [row0, row0, row0, row0] }
def rowSteps (step : Nat) : State := onTiles (fun st => { st with stall := some .halt }) fun c => { c with rowq := [{ row0 with step := step }] }

theorem witness_rowEngine :
    (List.all [.resm 1 2, .renorm 1 2 true, .retab 1 2 3, .retload 3 3, .resm 9 2, .retload 9 0] (formOk withTiles)) = true ∧
    rowTile withTiles 1 true = some (shape 3 16 0 .f32) ∧ rowTile withTiles 2 true = some (shape 3 16 8 .f32) ∧
    rowTile withTiles 3 false = some (shape 49 64 16 .s8) ∧ 8 * 3104 ≤ 49 * (64 * 8) ∧
    withTiles.myCore.denseByte (shape 49 64 16 .s8) 20 < 16 ∧
    ((List.range 11).all fun j => withTiles.myCore.denseByte (shape 49 64 16 .s8) (21 + j) == 0) = true ∧
    rowTile withTiles 9 true = none ∧ rowTile withTiles 9 false = none ∧
    formOk rowFull (.resm 1 2) = true ∧ rowFull.myCore.rowq.length = 4 ∧ rowTile rowFull 1 true = some (shape 3 16 0 .f32) ∧
    ((rowSteps 0).core 0).owner = some 0 ∧ (rowSteps 0).unitsOn 0 = true ∧ ((rowSteps 0).strand 0).stall = some .halt ∧
    ((rowSteps 0).core 0).rowq = [row0] ∧ row0.issued ≤ ((rowSteps 0).strand 0).sbc ∧
    SMap.find ((rowSteps 0).cluster 0).tiles 1 = some (shape 3 16 0 .f32) ∧ 0 + 1 < row0.op.steps (shape 3 16 0 .f32) ∧
    row0.op.steps (shape 3 16 0 .f32) ≤ 5 + 1 := by
  decide +kernel

/-- A call that runs, whose parameters name in turn: rows of the tile 1, strips of 4, a bank of MRAM, no column vector, the row 5
of 128 factors, 3 loops, no loops, a free handle. -/
def mps : List Nat := [1 + 9 * 2 ^ 32, 4, 2 ^ 63 + 2 ^ 51, 2 ^ 63, 5 + 9 * 2 ^ 32, 3, 0, 9 + 9 * 2 ^ 32]
def runs : Sequencer := { running := true, a := some 1, m := 2, loops := [(2, 7), (5, 3)] }
def micro0 (q : Sequencer) : State :=
  onTiles id fun c => { c with calls := [{ call0 with started := true, mp := mps }], seqr := q }

theorem witness_microControl :
    callRuns (micro0 runs) = true ∧
    descTile (micro0 runs) ((micro0 runs).call.param 0) .loc = some (shape 3 16 0 .f32) ∧ dMram ((micro0 runs).call.param 0) = false ∧
    dRow (1 + 9 * 2 ^ 32) < 3 ∧ dAr (1 + 9 * 2 ^ 32) + 128 ≤ 128 ∧ ((micro0 runs).call.param 3) = 2 ^ 63 ∧
    descTile (micro0 runs) ((micro0 runs).call.param 1) .bstack = some { shape 3 128 100 .s8 with level := .bstack } ∧
    dCol 4 < 128 ∧ dMram ((micro0 runs).call.param 1) = false ∧
    dMram ((micro0 runs).call.param 2) = true ∧ (dMramTy ((micro0 runs).call.param 2)).any mramType = true ∧
    descTile (micro0 runs) ((micro0 runs).call.param 4) .loc = some (shape 1 128 110 .f32) ∧ (micro0 runs).call.param 4 ≠ 2 ^ 63 ∧
    dCol (5 + 9 * 2 ^ 32) + 128 ≤ 128 ∧ 0 < (micro0 runs).call.param 5 % 2 ^ 32 ∧ (micro0 runs).call.param 6 % 2 ^ 32 = 0 ∧
    (micro0 runs).seqr.loops = [(2, 7), (5, 3)] ∧ (micro0 { runs with loops := [(1, 7)] }).seqr.loops = [(1, 7)] ∧
    callRuns (micro0 { runs with loops := [(1, 7)] }) = true ∧
    descTile (micro0 runs) ((micro0 runs).call.param 7) .loc = none := by
  decide +kernel

/-! ### Hypotheses about passes, tiles, memory and synchronization, met -/

def passTiles (counts : SMap Int) (q : Sequencer) : State :=
  { micro0 runs with
    clusters := [(0, { tiles := tiles1 ++ [(6, shape 2 64 120 .s8)] })],
    cores := [(0, { core0 with counts := counts, calls := [{ call0 with started := true, mp := mps }], seqr := q })] }
def passQ : Sequencer := { runs with a := some 6, b := some 4, force24 := true }
def stack4 : Tile := { shape 3 128 100 .s8 with level := .bstack }
/-- A call whose block at 0x10000 lies in a page of weights, resident or not. -/
def streams (pageState : Nat) : State := { passTiles [] { passQ with b := some (2 ^ 63 + 0x10000) } with
  ctxs := [(1, { state := .active, pages := [(1, pteOf 0 pageState true false false false 0x10000000000 0)] })] }
def isBytes : BlockRead → Bool | .bytes _ => true | _ => false
def isWait : BlockRead → Bool | .wait _ => true | _ => false
def isFault : BlockRead → Bool | .fault _ _ => true | _ => false

theorem witness_microAcc :
    callRuns (micro0 runs) = true ∧ (micro0 runs).seqr.a = some 1 ∧ (micro0 { runs with mode := some 2 }).seqr.mode = some 2 ∧
    callRuns (micro0 { runs with mode := some 2 }) = true ∧ (micro0 { runs with mode := some 2 }).seqr.a = some 1 ∧
    dAr 1 + 2 ≤ 128 ∧ (shape 3 16 0 .f32).ety.isPlain = true ∧ dCol (1 + 9 * 2 ^ 32) < 16 ∧ dAr (1 + 9 * 2 ^ 32) + 2 ≤ 64 ∧
    (passTiles [] { passQ with b := some (2 ^ 63) }).seqr.b = some (2 ^ 63) ∧ dMram (2 ^ 63) = true ∧
    callRuns (passTiles [] passQ) = true ∧ (passTiles [] passQ).seqr.b = some 4 ∧ dMram 4 = false ∧
    SMap.find (passTiles [] passQ).myCluster.tiles (dH 4) = some stack4 ∧
    ((List.range 3).all fun k => (readStrips .s8 passQ.pl passQ.lk).all fun st =>
      (passTiles [] passQ).myCore.planeCount stack4 k st.1 == 0) = true ∧
    0 ∈ (readStrips .s8 passQ.pl passQ.lk).map (·.1) ∧ (passTiles [(400, 1)] passQ).myCore.planeCount stack4 0 0 = 0 ∧
    SMap.get (passTiles [(400, 1)] passQ).myCore.counts (stripKey stack4 0 0) 0 = 1 ∧
    dRow (1 + 9 * 2 ^ 32) + 1 < 3 ∧ dCol (1 + 9 * 2 ^ 32) + 15 < 16 ∧ bit 0 4 = false ∧
    16 * (shape 3 16 0 .f32).ety.width ≤ 512 * (shape 3 16 0 .f32).pitch := by
  decide +kernel

theorem witness_microAcc_block :
    dMramTy (2 ^ 63 + 0x10000) = some .s8 ∧ dMram (2 ^ 63 + 0x10000) = true ∧ (streams pgWeight).seqr.b = some (2 ^ 63 + 0x10000) ∧
    isBytes (readBlock (streams pgWeight) .s8 0x10000) = true ∧ isWait (readBlock (streams pgNonres) .s8 0x10000) = true ∧
    isFault (readBlock (streams pgResident) .s8 0x10000) = true := by
  decide +kernel

theorem witness_passRuns :
    (match passOperands (passTiles [] passQ) (passTiles [] passQ).call (passTiles [] passQ).seqr with
      | .ok _ _ _ _ => true
      | _ => false) = true ∧
    (passTiles [] passQ).seqr.force24 = true ∧ (passTiles [] passQ).call.rpl = false ∧ passQ.grade false call0 = 0 ∧
    (passTiles [] passQ).myCore.rails = 0 ∧ (passTiles [] passQ).seqr.repeats < 3 ∧ 0 < ({ core0 with rails := 3 } : Core).rails ∧
    worstVector { beta := [], flags := 0, rho := [3, 7], tol := [5, 5] } = some (1, 7) ∧
    worstVector { beta := [], flags := 0, rho := [3, 5], tol := [5, 5] } = none ∧
    exposedPlane 3 8 7 = true ∧ exposedPlane 3 8 0 = false := by
  decide +kernel

/-- Whether a run detects a late transition is a free value: in each case one of the hypotheses of the statement holds. -/
theorem witness_passRuns_detections (s : State) :
    ((∀ k, Config.detections k = 0) → nominalHits (runDetections s) 0 = []) ∧
    (Config.detections (4 * s.tick + 3) ≠ 0 → nominalHits (runDetections s) 0 ≠ []) := by
  refine ⟨fun h => ?_, fun h => List.ne_nil_of_mem (a := 3) ?_⟩
  · simp only [nominalHits, runDetections, h, List.filter_eq_nil_iff]
    decide
  · simp [nominalHits, runDetections]
    omega

/-- Accesses to whole rows of tile 1 and to tile 4; poison on a line; a store in the bundle; a step of the row engine; a rollback
loop. -/
def acc1 : TileArg := { r := 31, h := 1, ag := 0, agv := false, ty := .f32, off := 0, lgm := 7 }
def acc4 : TileArg := { acc1 with h := 4, ty := .s8, lgm := 1 }
def poisoned : State := onTiles id fun c => { c with spPoison := [0] }
def twoSlots : State := { withTiles with iss := { ops := [(.st, .stSp acc1)] } }
def engineOn : State := onTiles (fun st => { st with sbc := 1 }) fun c => { c with rowq := [row0] }
def rolling : State :=
  onTiles (fun st => { st with rb := true, loops := [(3, { active := true, first := 0, last := 9 })] }) id

theorem witness_tileAccess :
    (List.all [.ldSp acc1, .ldB acc4, .stSp acc1, .ldSp { acc1 with h := 9 }] (formOk withTiles)) = true ∧
    (spMoves withTiles acc1).toOption.isSome = true ∧ (ldConflict withTiles ((spMoves withTiles acc1).toOption.getD [])) = none ∧
    withTiles.lanesOn (groups 7) = true ∧ (spMoves withTiles { acc1 with h := 9 }).toOption = none ∧
    formOk twoSlots (.ldSp acc1) = true ∧ (ldConflict twoSlots ((spMoves twoSlots acc1).toOption.getD [])).isSome = true ∧
    formOk poisoned (.ldSp acc1) = true ∧ poisoned.myCore.spPoison = [0] ∧ 0 ∈ moveLines ((spMoves poisoned acc1).toOption.getD []) ∧
    poisoned.me.inRollback poisoned.iss.idx = false ∧
    SMap.find withTiles.myCluster.tiles 4 = some { shape 3 128 100 .s8 with level := .bstack } ∧ tileIndex withTiles.me acc4 = 0 ∧
    64 * 0 < 64 * ({ shape 3 128 100 .s8 with level := .bstack } : Tile).lines ∧ localCore withTiles.cur = 0 ∧
    stConflict withTiles ((spMoves withTiles acc1).toOption.getD []) = none ∧ formOk engineOn (.stSp acc1) = true ∧
    (stConflict engineOn ((spMoves engineOn acc1).toOption.getD [])).isSome = true ∧
    formOk rolling (.stSp acc1) = true ∧ rolling.me.inRollback rolling.iss.idx = true ∧ rolling.lanesOn (groups 7) = true ∧
    (rowMoves (shape 3 16 0 .f32) acc1 0).toOption.isSome = true ∧ 0 < (shape 3 16 0 .f32).pitch ∧ 512 % acc1.ty.width = 0 := by
  decide +kernel

/-! A context with one resident page at 64 KiB, one endpoint page, a page that is not writable, and their translations. -/

def page (g state : Nat) (w ep : Bool) (pa : Nat) : Nat × Nat := (g, pteOf 0 state true w ep false pa 0)
def pages1 : SMap Nat := [page 1 0 true false 0x20000, page 2 0 false false 0x30000, page 3 0 true true (5 * 2 ^ 16), page 4 0 true false 0x50000]
def ctx1 : Ctx := { state := .active, pages := pages1 }
def tlb1 : List TlbEntry := (pages1.take 3).map fun e => ({ ctx := 1, page := e.1, size := 0, leaf := e.2 } : TlbEntry)
/-- x1 = 0x10000, x2 = 0x20000 (not writable), x3 in no page, x4 = 0x30040 (endpoint, sealing), x5 to be fetched, x6 above 52 bits;
v0 holds pairs of 0x10000. -/
def vmem (f : Strand → Strand) : State :=
  { onMe (fun st => f { st with x := [(1, 0x10000), (2, 0x20000), (3, 0x900000), (4, 0x30040), (5, 0x40000), (6, 2 ^ 52), (7, 0x10001)],
                                v := [(0, BitVec.ofNat 4096 (ofElems 64 (List.replicate 64 0x10000)))] }) with
    ctxs := [(1, ctx1)], dies := [(0, { tlb := tlb1 })] }
def vm : State := vmem id
def rows255 : List Nat := (pairAddrs vm.me 0 255).map fun p => p.2.2

theorem witness_globalLoads :
    globalCheck vm [0x10000] [0x10000] 512 8 false [] = none ∧ 0x10001 % (32 / 8) ≠ 0 ∧ vm.lanesOn [] = true ∧
    vm.rangeWaits vm.cur 0x40000 4 = true ∧ vm.rangeWaits vm.cur 0x20000 4 = false ∧ vm.deniedAt vm.cur 0x20000 4 true = some 0x20000 ∧
    (List.all [.ldG 7 1 .s8 .sy .acq 0, .gath 7 0 .s32 .st .none 255, .amo .add 7 1 2 .s64 .co .ar 0, .cas 7 1 2 3 .s32 .st .none 0,
      .qbind 7 7 .f64, .qfree 7] (formOk vm)) = true ∧
    qRoom vm 7 = none ∧ vm.me.lq.length < 32 ∧ vm.me.sq.length < 32 ∧
    globalCheck vm rows255 rows255 4 32 false (groups 255) = none ∧
    globalCheck vm [0x10000] [0x10000] 8 64 false [] = none ∧ globalCheck vm [0x10000] [0x10000] 8 64 true [] = none ∧
    globalAddr (vm.me.xGet 1) 0 64 = 0x10000 ∧
    formOk (vmem fun st => { st with q := [(7, { kind := .pattern })] }) (.ldG 7 1 .s8 .sy .acq 0) = true ∧
    ((vmem fun st => { st with q := [(7, { kind := .pattern })] }).me.qGet 7).kind = .pattern := by
  decide +kernel

def winOn (s : State) : State := { s with link := { s.link with windows := [(5, { ctx := 1, enabled := true, dest := 0, ring := 0 })] } }
def headIn : State := vmem fun st => { st with q := [(7, { kind := .explicit, entries := [{ tag := 0, arrived := true }] })] }

theorem witness_globalStores :
    (List.all [.stG true 0 1 .s8 .st .none 0 255, .stG false 1 1 .s64 .sy .rel 0 0, .scat 0 0 .s32 .st .none 255] (formOk vm)) = true ∧
    globalCheck vm [0x10000] ((groups 255).map fun g => 0x10000 + 64 * g) 64 8 true (groups 255) = none ∧
    globalCheck vm [0x10000] [0x10000] 8 64 true [] = none ∧
    globalCheck vm rows255 rows255 4 32 true (groups 255) = none ∧ rolling.me.inRollback rolling.iss.idx = true ∧ vm.me.sq.length < 32 ∧
    formOk headIn (.qout 7 1 .s8 .st .none 0) = true ∧ popAddress headIn 7 = none ∧ popWait headIn 7 = none ∧
    globalCheck headIn [0x10000] [0x10000] 512 8 true [] = none ∧
    formOk (winOn vm) (.epSt true 0 4 .s8 0 255) = true ∧ (winOn vm).needsWalk 0 1 0x30040 = false ∧
    (winOn vm).windowOf 1 0x30040 = some 5 ∧ (winOn vm).lanesOn (groups 255) = true ∧
    (SMap.find (winOn vm).link.windows 5).any (·.enabled) = true ∧ (winOn vm).openPackets < 256 ∧ (winOn vm).link.packets = [] := by
  decide +kernel

/-- A load that waits for its part, behind another, a store, an atomic. -/
def onePart (va : Nat) : Part := { va := va, len := 4, pa := some 0x20000, data := toBytes 9 4 }
def pair (op : AccOp) (n : Nat) : Access := { seq := n, ctx := 1, op := op, ord := .acq, parts := [onePart 0x10000] }
def oneAcc (op : AccOp) : Access := { seq := 2, ctx := 1, op := op, parts := [onePart 0x10000] }
def queued (lq sq : List Access) : State := vmem fun st => { st with lq := lq, sq := sq }

theorem witness_homeService :
    ((queued [oneAcc .load] []).strand 0).lq[0]? = some (oneAcc .load) ∧ mayServe [oneAcc .load] (oneAcc .load) (onePart 0x10000) = true ∧
    mayServe [pair .load 1, oneAcc .load] (oneAcc .load) (onePart 0x10000) = false ∧
    (queued [] []).power.kiln ≠ .held ∧ peerOf 0x20000 = none ∧ isHost 0x20000 = false ∧ mramSlice 0x20000 = none ∧
    mayServe [oneAcc .store] (oneAcc .store) (onePart 0x10000) = true ∧ (oneAcc .store).releases = false ∧
    (queued [] []).mem.narrow = [] ∧ atomicValue (.amo .add true) 32 5 9 0 = some 14 ∧
    (queued [] []).mem.bytesLast 0x20000 4 = toBytes 0 4 ∧
    mayServe [oneAcc (.amo .add true)] (oneAcc (.amo .add true)) (onePart 0x10000) = true ∧
    (queued [] []).mem.poisonLast (0x20000 / 64) = false ∧ (queued [] []).routeOpen 0 0x20000 = true ∧
    ((queued [oneAcc .load] []).strand 0).ahead 0 = [] ∧ (onePart 0x10000).returned = false ∧ (onePart 0x10000).level = 0 ∧ (queued [] []).mem.opens ((queued [] []).ctx 1).keyId 0x20000 = true := by
  decide +kernel

def back (p : Part) : Part := { p with returned := true }
def bound (n : Nat) : State := vmem fun st => { st with q := [(0, { kind := .pattern, gen := { base := 0x10000 }, entries := List.replicate n { tag := 0 } })] }
def waiting (r : Bool) : State := vmem fun st =>
  { st with q := [(7, { kind := .explicit, entries := [{ tag := 3 }] })],
            lq := [{ oneAcc .load with q := 7, tag := 3, parts := [{ onePart 0x10000 with returned := r }] }] }

theorem witness_streamEvents :
    (List.all [false, true] fun r => ((waiting r).strand 0).lq.all fun a => a.q == 7 && a.tag == 3 && a.parts.all (·.returned) == r) = true ∧
    (((waiting true).strand 0).qGet 7).entries[0]? = some { tag := 3 } ∧ (((waiting true).strand 0).qGet 7).kind = .explicit ∧
    (((bound 3).strand 0).qGet 0).entries.length = 3 ∧ ((bound 3).strand 0).life = .live ∧ ((bound 3).strand 0).stall = none ∧
    ((bound 0).strand 0).predict (((bound 0).strand 0).qGet 0).gen 0 = 0x10000 ∧ (bound 0).rangeWaits 0 0x10000 512 = false ∧
    ((bound 0).fetchEntry 0 0x10000).isSome = true ∧ (((bound 4).strand 0).qGet 0).entries.length = 4 ∧
    (((bound 4).strand 0).qGet 0).kind = .pattern ∧ (bound 0).power.kiln = .running := by
  decide +kernel

def marked (ms : List Marker) : State := onMe fun st => { st with markers := ms }
def joins (fs : List Deferred) (reached : Bool) : State :=
  { marked [{ queue := 2, sc := .st, seq := 9, reached := reached }] with
    cores := [(0, { core0 with calls := [{ call0 with started := true, ended := true, faults := fs }] })] }

theorem witness_markers :
    formOk s0 (.mark 63 .sy) = true ∧ (s0.me.markers.filter (·.queue == 0)).length < 4 ∧
    formOk (marked (List.replicate 4 { queue := 0, sc := .st, seq := 0 })) (.mark 1 .st) = true ∧
    ((marked (List.replicate 4 { queue := 0, sc := .st, seq := 0 })).me.markers.filter (·.queue == 0)).length = 4 ∧
    (marked [{ queue := 1, sc := .sy, seq := 0 }]).markerMet 0 { queue := 1, sc := .sy, seq := 0 } = true ∧
    (queued [] [oneAcc .store]).markerMet 0 { queue := 1, sc := .sy, seq := 9 } = false ∧
    formOk (marked [{ queue := 1, sc := .sy, seq := 0 }]) .join = true ∧
    formOk (marked [{ queue := 1, sc := .sy, seq := 0, reached := true }]) .join = true ∧
    formOk (joins [] true) .join = true ∧ (joins [] true).me.joinMarkers.any (·.queue == 2) = true ∧
    (joins [] true).me.joinMarkers.all (·.reached) = true ∧ (joins [] true).myCore.calls.all (fun m => m.sid == 0 && decide (m.seq ≤ 9)) = true ∧
    formOk (joins [⟨4, 7, 0⟩, ⟨1, 8, 0⟩] true) .join = true ∧
    (joins [⟨4, 7, 0⟩, ⟨1, 8, 0⟩] true).myCore.calls.all (fun m => m.faults.isEmpty) = false := by
  decide +kernel

/-- The strand in a launch whose generation 2 is open, with its last arrival in generation `g`. -/
def sup (g : Option Nat) (f : Strand → Strand) : State :=
  { onMe (fun st => f { st with arrival := g }) with
    cmd := { cmd0 with launches := [(1, { ctx := 1, bound := true, started := 1, barrier := .open_ 2 })] } }

theorem witness_barriers :
    formOk (sup none id) .ssarr = true ∧ (sup none id).myLaunch.barrier = .open_ 2 ∧
    formOk (sup (some 2) id) .ssarr = true ∧ (sup (some 2) id).genOpen 1 2 = true ∧ formOk (sup (some 1) id) .sswait = true ∧
    (sup (some 1) id).genOpen 1 1 = false ∧ formOk (sup (some 2) id) .sswait = true ∧
    ((sup (some 2) fun st => { st with arriving := some 4 }).strand 0).arriving = some 4 ∧
    (sup (some 2) id).enginesBusy 0 4 = false ∧ (sup (some 2) id).writesBelow 0 5 5 = false ∧ (sup (some 2) id).enginesBusy 0 5 = false ∧ (sup (some 2) id).link.cols = [] ∧
    (sup (some 2) id).allArrived 1 2 = true ∧ (sup (some 2) id).snapshotDue 1 2 = false ∧ (sup none id).allArrived 1 2 = false ∧
    formOk s0 .cbar = true ∧ s0.enginesBusy s0.cur s0.me.seq = false ∧ s0.writesBelow s0.cur s0.me.seq 3 = false ∧ s0.me.sq = [] ∧
    formOk (queued [] [oneAcc .store]) .cbar = true ∧ ((oneAcc .store).op != .epstore && !(oneAcc .store).doneAt 3) = true ∧
    (s0.strand 0).begun = true ∧ (s0.strand 0).life = .live ∧ (s0.group 1).strands = [0] ∧
    ((onMe fun st => { st with cbarGen := some 0 }).strand 0).cbarGen = some (s0.group 1).gen ∧ (s0.strand 0).cbarGen = none := by
  decide +kernel

/-- The bundle ends its issue group. -/
def stops (s : State) : State := { s with iss := { s.iss with stop := true } }
def retired : State := { onMe (fun st => { st with life := .halted }) with cur := 0 }

theorem witness_halting :
    formOk (stops s0) .halt = true ∧ s0.myCore.calls = [] ∧ s0.myCore.rowq = [] ∧ formOk (stops (calls [call0])) .halt = true ∧
    ((calls [call0]).myCore.calls.any fun m => m.sid == 0 && !m.ended) = true ∧
    ((onMe fun st => { st with halting := true }).strand 0).halting = true ∧ (onMe fun st => { st with halting := true }).drained 0 = true ∧
    (queued [] [oneAcc .store]).drained 0 = false ∧ (retired.group 1).state = .running ∧ (retired.group 1).strands = [0] ∧
    (retired.strand 0).life = .halted ∧ (s0.strand 0).life ≠ .halted := by
  decide +kernel

/-- Lanegroup 3 gated, lanegroup 4 waking; the level 1 of the loops active, or the level 3 as a modulo loop. -/
def lanes : State := onCore fun c => { c with lgs := [(3, .gated), (4, .waking)] }
def looping (lv : Nat) (md : Bool) : State :=
  onMe fun st => { st with md := md, loops := [(lv, { active := true, first := 0, last := 9, iter := 2 })], lc := [(lv, 5)] }

theorem witness_lanegroupsAndLoops :
    (List.all [.lgate 255 .on, .lgate 128 .drowsy, .lgate 1 .gated, .wake 255] (formOk lanes)) = true ∧
    SMap.get (lanes.core 0).lgs 4 .on = .waking ∧ SMap.get (lanes.core 0).lgs 3 .on = .gated ∧
    (List.all [.lset 2 (.imm 5) 63 false false, .lset 0 (.reg 7) 0 false false, .lset 3 (.imm 5) 3 true true, .lset 1 (.imm 0) 3 false false]
      (formOk (stops s0))) = true ∧ 0 < s0.me.xGet 7 % 2 ^ 32 ∧ s0.me.hnd = false ∧
    formOk (stops { s0 with clusters := [(0, { mailbox := [(63, 4)] })] }) (.lset 2 (.word 63) 0 false false) = true ∧
    ({ s0 with clusters := [(0, { mailbox := [(63, 4)] })] } : State).mailWord 63 = 4 ∧
    formOk (stops <| looping 1 false) (.lbrk 1 0 true) = true ∧ formOk (stops <| looping 1 false) (.lbrk 1 0 false) = true ∧
    ((looping 1 false).me.loop 1).active = true ∧ formOk (stops <| looping 3 true) (.lbrk 3 0 false) = true ∧
    ((looping 3 true).me.loop 3).active = true ∧ (looping 3 true).me.md = true ∧ (s0.me.cGet 0 != false) = true ∧
    (List.all [.agset 7 63, .agstr 7 3 63, .lrot, .spred 8 7] (formOk s0)) = true := by
  decide +kernel

def late (p : Pending) : State := onMe fun st => { st with sbc := 4, dbuf := [p] }
def result (due : Nat) : Pending := { kind := .x, reg := 63, due := due, value := 8, arrived := false }

theorem witness_delivery :
    ((late (result 4)).strand 0).dbuf[0]? = some (result 4) ∧ ((late { result 4 with ld := true }).strand 0).dbuf.length = 1 ∧
    ((late { result 4 with arrived := true }).strand 0).lateResult = false ∧
    ((late { result 4 with arrived := true }).strand 0).dbuf.filter ((late { result 4 with arrived := true }).strand 0).isDue =
      [{ result 4 with arrived := true }] ∧
    ((late (result 4)).strand 0).lateResult = true ∧
    ((late { result 5 with arrived := true }).strand 0).dbuf.filter ((late { result 5 with arrived := true }).strand 0).isDue = [] := by
  decide +kernel

/-! ### Hypotheses about engines, records and collectives, met -/

/-- A tile reference to tile 1 and to tile 2, a block of 3 x 16, a range in a page, a pitch of 64, a generation of lengths. -/
def ceState (xs : List (Nat × Word)) (n : Nat) : State :=
  { onTiles (fun st => { st with x := xs }) id with
    clusters := [(0, { tiles := tiles1, ceq := List.replicate n { id := 0, sid := 0, seq := 0, op := .cpg, a := 0, b := 0, c := 0, grp := 1 } })],
    ctxs := [(1, ctx1)] }
def cps0 : List (Nat × Word) := [(1, 1), (2, 2), (3, 3 + 2 ^ 13 * 16), (4, 0x10000), (5, 3 + 2 ^ 13 * 16 + 2 ^ 32 * 64), (6, 4), (7, 3), (8, 2 ^ 38), (9, 0)]
def ce123 (a b c : Nat) : CeArg := { a := a, b := b, c := c, sc := .sy, acq := true, rel := true, q := 7, qe := true }

theorem witness_engineForms :
    (List.all [.cp (ce123 1 2 3), .cpg (ce123 4 4 7), .cps (ce123 1 4 5), .stage (ce123 6 4 7), .sealRec (ce123 4 4 8), .openRec (ce123 4 4 9),
      .meas 4 7 7 true, .ckpt 4 7 true, .pf 4 7 3, .pf 4 7 1, .res 4 7 1, .res 4 7 0, .res 4 7 2, .res 4 7 3] fun i => formOk (ceState cps0 0) i && i.wf) = true ∧
    (refCheck (ceState cps0 0) 1 3 16 Tile.inScratch).toOption = some (shape 3 16 0 .f32) ∧
    (refCheck (ceState cps0 0) 2 3 16 fun t => t.inScratch && t.ety.width == 32).toOption = some (shape 3 16 8 .f32) ∧
    field (3 + 2 ^ 13 * 16) 0 13 = 3 ∧ field (3 + 2 ^ 13 * 16) 13 13 = 16 ∧ 3 + 2 ^ 13 * 16 < 2 ^ 26 ∧ qRoom (ceState cps0 0) 7 = none ∧
    ((ceState cps0 0).commandsOf 0).length < 8 ∧ rangeCheck 0x10000 3 1 = none ∧ cpsRow (shape 3 16 0 .f32) 16 ≤ 64 ∧
    field (3 + 2 ^ 13 * 16 + 2 ^ 32 * 64) 27 5 = 0 ∧ rangeCheck 0x10000 (2 * 64 + 64) 4 = none ∧
    (refCheck (ceState cps0 0) 4 3 0 fun t => t.level == .bstack && refCol 4 == 0).toOption = some { shape 3 128 100 .s8 with level := .bstack } ∧
    rangeCheck 0x10000 (stageBytes { shape 3 128 100 .s8 with level := .bstack } false 3) 1 = none ∧ rangeCheck 0x10000 (80 + 64) 64 = none ∧
    rangeCheck 0x10000 64 64 = none ∧ rangeCheck 0x10000 1 64 = none ∧ ((ceState cps0 8).commandsOf 0).length = 8 ∧ formOk (ceState cps0 8) (.cpg (ce123 4 4 7)) = true ∧
    ((ceState cps0 0).ctx 1).pagesOf 0x10000 3 = [page 1 0 true false 0x20000].map (fun e => (e.1, some e.2)) ∧
    ((ceState cps0 0).ctx 1).hintable (1, some (page 1 0 true false 0x20000).2) = true ∧
    ((ceState cps0 0).ctx 1).pagesOf 0x900000 3 = [(0x90, none)] ∧ ((ceState cps0 0).ctx 1).pins.length + (pageLines (page 1 0 true false 0x20000) 0x10000 3).length ≤ 2 ^ 20 ∧
    pteState (page 1 0 true false 0x20000).2 ≠ pgWeight := by
  decide +kernel

def ceCmd (op : CeOp) (begun : Bool) : CeCmd :=
  { id := 4, sid := 0, grp := 1, launch := 1, ctx := 1, seq := 0, op := op, a := 0x10040, b := 0x10000, c := 64, q := 7, tag := 3, qe := true, begun := begun }
def ceRun (cmd : CeCmd) : State :=
  { vmem (fun st => { st with q := [(7, { kind := .explicit, entries := [{ tag := 3 }] })] }) with clusters := [(0, { ceq := [cmd] })] }
/-- A command whose tiles are in their places. -/
def placed (op : CeOp) (begun : Bool) : CeCmd := { ceCmd op begun with dst := some (shape 3 16 0 .f32), src := some (shape 3 16 8 .f32) }
def gone : CeCmd := { ceCmd .cpg true with grp := 9 }
def moved (cmd : CeCmd) : State := (ceRun cmd).cmdTouches cmd cmd.b cmd.c false
/-- A `seal` that began before the one in question, on the same channel. -/
def laterSeal : CeCmd := { ceCmd .sealRec true with id := 5, beganAt := 5 }
def earlierSeal : State := { ceRun laterSeal with clusters := [(0, { ceq := [ceCmd .sealRec true, laterSeal] })] }

theorem witness_engineEvents :
    ((ceRun (ceCmd .cpg false)).cluster 0).ceq[0]? = some (ceCmd .cpg false) ∧ (ceRun (ceCmd .cpg false)).power.kiln = .running ∧
    (List.all [.cp, .cpg, .cps, .stage, .sealRec, .openRec, .meas, .ckpt] fun op =>
      (ceRun (placed op false)).mayBegin 0 (placed op false) && (ceRun (placed op false)).engineTurn 0 (placed op false) &&
        !(ceRun (placed op true)).stands 0 (placed op true)) = true ∧ (ceRun (ceCmd .cp true)).stands 0 (ceCmd .cp true) = true ∧
    (ceRun (ceCmd .cpg true)).mayBegin 0 (ceCmd .cpg true) = false ∧ ((ceRun (ceCmd .cpg true)).strand 0).awaits 7 3 = true ∧
    (ceRun (ceCmd .cpg true)).bankAt 1 0 = some 0 ∧ (ceRun (ceCmd .cpg false)).engineTurn 0 (ceCmd .cpg false) = true ∧
    (ceRun (ceCmd .sealRec true)).sealedBefore (ceCmd .sealRec true) = false ∧ (earlierSeal.cluster 0).ceq[1]? = some laterSeal ∧
    earlierSeal.sealedBefore laterSeal = true ∧
    gone.a % 64 + gone.c ≤ 64 ∧ ¬ (gone.b < gone.a ∧ gone.a < gone.b + gone.c) ∧ gone.moved = [] ∧ (ceRun gone).peerRefuses 1 gone.a 64 = none ∧
    (match (ceRun gone).readRange ((ceRun gone).cmdReader 0 gone) 1 false ((ceRun gone).cmdBound gone) 0x10000 64 (lid := some 1) with
     | .bytes bs p => decide (bs.length = 64) && !p
     | _ => false) = true ∧
    (moved gone).probeWrite ((moved gone).cmdAgent gone) 1 false 0x10040 64 = none ∧
    (moved { gone with a := 0x20000 }).probeWrite 0 1 false 0x20000 64 = some (true, 0x20000) := by
  decide +kernel

/-- The world 1 with a channel that expects record 5: a sealed page holds the header of a record, and what follows it. -/
def recHead : List Byte := toBytes (7 + 2 ^ 32 * 5 + 2 ^ 96 * 64) 64
/-- A body of 64 bytes, with its tag. -/
def recBody : List Byte := List.replicate 64 0 ++ [0x4E, 0xDE, 0x60, 0x61, 0x74, 0x7E, 0x44, 0xE6, 0x6A, 0x75, 0x8D, 0xFC, 0x92, 0x99, 0x7E, 0x2C]
def sealedPage (ch : Channel) (body : List Byte) : State :=
  { vmem id with
    ctxs := [(1, { ctx1 with world := true, channels := [ch],
                              pages := [page 1 4 false false 0x20000, page 2 0 true false 0x30000] })],
    mem := { cells := ((recHead ++ body).mapIdx fun i b => (0x20000 + i, b)).filter fun e => e.2 != 0 } }
def opening : CeCmd := { ceCmd .openRec true with a := 0x10000, b := 0x20000, c := 7 }
def chan7 : Channel := { id := 7, e := 5 }
def readOk (s : State) (a n : Nat) (bs : List Byte) : Bool :=
  match s.readRange (s.cmdReader 0 opening) 1 false (s.cmdBound opening) a n (lid := some 1) with
  | .bytes x p => x == bs && !p
  | _ => false

theorem witness_sealedRecords :
    ((sealedPage chan7 []).ctx 1).world = true ∧ ((sealedPage chan7 []).ctx 1).allState 0x10000 64 pgSealed = true ∧
    readOk (sealedPage chan7 []) 0x10000 64 recHead = true ∧ ofBytes (recHead.take 4) = opening.c ∧ bit 7 31 = false ∧
    ofBytes ((recHead.drop 12).take 4) = 64 ∧ (recHead.drop 16).all (· == 0) = true ∧ ofBytes ((recHead.drop 4).take 8) = 5 ∧
    ((sealedPage chan7 []).ctx 1).channel 7 = some chan7 ∧ ((sealedPage { chan7 with failures := 16 } []).ctx 1).channel 7 = some { chan7 with failures := 16 } ∧
    ((sealedPage { chan7 with e := 6 } []).ctx 1).channel 7 = some { chan7 with e := 6 } ∧ chan7.e < 2 ^ 64 - 1 ∧
    readOk (sealedPage chan7 []) 0x10040 80 (List.replicate 80 0) = true ∧
    ((sealedPage chan7 []).ctx 1).underKey 0x20000 64 = true ∧ (sealedPage chan7 []).probeWrite 0 1 false 0x20000 64 = none ∧
    (keyBytes 0).length = 32 ∧ (beBytes 7 4 ++ beBytes 5 8).length = 12 := by
  decide +kernel

theorem witness_sealedTags :
    gcmOpen (keyBytes 0) (beBytes 7 4 ++ beBytes 5 8) recHead (recBody.take 64) (List.replicate 16 0) = none ∧
    (gcmOpen (keyBytes 0) (beBytes 7 4 ++ beBytes 5 8) recHead (recBody.take 64) (recBody.drop 64)).isSome = true ∧
    readOk (sealedPage chan7 recBody) 0x10040 80 recBody = true := by
  decide +kernel

def col0 (op : ColOp) (begun : Bool) : ColCmd :=
  { id := 2, sid := 0, grp := 1, launch := 1, ctx := 1, seq := 0, op := op, a := 0, b := 0, c := 0x10000, begun := begun, comm := some 3, epoch := 4 }
def colState (world : Bool) (members : List Nat) (data : List ColData) (cs : List ColCmd) : State :=
  { vmem (fun st => { st with x := [(1, 0x10000), (2, 2 ^ 52)] }) with
    ctxs := [(1, { ctx1 with world := world })],
    link := { cols := cs, comms := [(3, { state := .opened, epoch := 4, ctx := 1, members := members })], colData := data } }

theorem witness_collectives :
    (List.all [.barrier, .allReduce, .reduceScatter, .allGather, .send, .receive] fun op => formOk (colState false [0] [] []) (.col op (ce123 1 1 1)))
      = true ∧ qRoom (colState false [0] [] []) 7 = none ∧ 0x10000 % 64 = 0 ∧ formOk (colState false [0] [] []) (.col .barrier (ce123 1 1 2)) = true ∧
    (colState false [0] [] [col0 .barrier false]).link.cols[0]? = some (col0 .barrier false) ∧
    (colState false [0] [] [col0 .barrier false]).colMayBegin (col0 .barrier false) = true ∧
    (colState true [0] [] [col0 .barrier false]).colMayBegin (col0 .barrier false) = true ∧
    ((colState true [0] [] []).ctx 1).world = true ∧
    (colState false [0] [] [{ col0 .barrier false with id := 1 }, col0 .barrier false]).colMayBegin (col0 .barrier false) = false ∧
    (colState false [0] [] [col0 .barrier true]).barrierCmd 3 = some (col0 .barrier true) ∧
    ((colState false [0] [] []).comm 3).state = .opened ∧ (colState false [0] [] []).power.kiln = .running ∧
    (colState false [0] [] [col0 .barrier true]).allHere (col0 .barrier true) = true ∧
    (colState false [0, 1] [] [col0 .barrier true]).allHere (col0 .barrier true) = false := by
  decide +kernel

/-! ### Hypotheses about queues, items, launches, met -/

def queues (f : CmdState → CmdState) : State := { s0 with ctxs := [(1, ctx1)], power := { stage := 8 }, cmd := f cmd0 }
def q5 (st : QueueState) : CmdQueue := { base := 0x1000, loc := true, log2n := 4, ctx := 1, weight := 1, cq := 5, state := st, tail := 1 }
def c5 (on : Bool) : CmplQueue := { base := 0x2000, loc := true, log2n := 4, ctx := 1, on := on }
def withQ (st : QueueState) (on : Bool) : State := queues fun c => { c with queues := [(5, q5 st)], cqs := [(5, c5 on)] }
/-- A value of QCFG that says the same of the queue again. -/
def qcfg : Nat := 2 + 4 * 2 ^ 4 + 2 ^ 8 + 2 ^ 18 + 5 * 2 ^ 26

theorem witness_registers :
    (withQ .off true).power.stage = 8 ∧ ((withQ .off true).queue 5).state = .off ∧ ((withQ .on true).queue 5).state ≠ .off ∧
    (withQ .off true).queueOk 5 (q5 .off) = true ∧ (withQ .off false).queueOk 5 (q5 .off) = false ∧
    ((withQ .off true).cq 5).on = true ∧ ((withQ .off false).cq 5).on = false ∧ (withQ .off false).cqOk (c5 false) = true ∧
    (withQ .off false).cqOk { c5 false with log2n := 3 } = false ∧ SMap.find (withQ .off false).cmd.queues 5 = some (q5 .off) ∧
    s0.sec.debug ≠ 2 ∧ ({ s0 with sec := { debug := 2 } } : State).sec.debug = 2 ∧ s0.power.stage ≠ 8 ∧ (s0.queue 5).state = .off ∧
    (s0.cq 5).on = false := by
  decide +kernel

theorem witness_queueFields :
    ((withQ .off true).queue 5).withCfg qcfg = q5 .off ∧
    (withQ .off true).queueOk 5 (((withQ .off true).queue 5).withCfg 0) = false ∧
    (withQ .off false).cqOk (((withQ .off false).cq 5).withCfg 0) = false := by
  decide +kernel

def launchIs (l : Launch) (g : Group) (t : Nat) : State :=
  { queues (fun c => { c with queues := [(5, q5 .on), (0, { q5 .on with ctx := 0, cq := 0, tail := 0 })], cqs := [(5, c5 true)], launches := [(1, l)], groups := [(1, g)] }) with
    power := { stage := 8, dtime := t } }
def item1 : Nat := 2 ^ (8 * 1) + 2 ^ (8 * 4) + 100 * 2 ^ (8 * 40)
def lone : Launch := { item := item1, queue := 5, ctx := 1, cls := 1, bound := true, started := 1 }

theorem witness_workItems :
    (launchIs lone group0 0).nextQueue = some 5 ∧ (launchIs lone group0 0).power.lost = false ∧
    s0.nextQueue ≠ some 5 ∧ (SMap.find (launchIs lone group0 20000000).cmd.launches 1).isSome = true ∧
    lone.status = none ∧ lone.cls = 1 ∧ (launchIs lone group0 20000000).cmd.age ≠ 0 ∧
    lone.readAt + 1000 * (launchIs lone group0 20000000).cmd.age ≤ (launchIs lone group0 20000000).power.dtime ∧
    (launchIs lone group0 0).late lone = true ∧ (launchIs lone group0 0).late { lone with item := item1 + (2 ^ 64 - 1) * 2 ^ (8 * 32) } = false ∧
    lone.started ≠ 0 ∧ ((launchIs lone group0 0).launch 1).budget = 100 ∧ group0.state = .running ∧ group0.overrun = false ∧
    (launchIs lone { group0 with charged := 100, rerun := true, strands := [] } 0).groupStopped { group0 with charged := 100, rerun := true, strands := [] } = true ∧
    group0.charged < 100 := by
  decide +kernel

theorem witness_deadlines :
    (launchIs lone group0 0).power.kiln = .running ∧ (launchIs lone group0 0).power.off = false ∧ ({ lone with started := 0 } : Launch).started = 0 ∧
    (launchIs { lone with started := 0 } group0 0).late { lone with started := 0 } = true ∧
    (onPower fun p => { p with kiln := .held }).power.kiln ≠ .running ∧
    SMap.find (launchIs lone { group0 with charged := 100 } 0).cmd.groups 1 = some { group0 with charged := 100 } ∧
    ({ group0 with charged := 100 } : Group).occupies = true ∧ ({ group0 with overrun := true } : Group).occupies = true ∧
    ({ group0 with charged := 100, rerun := true } : Group).occupies = true ∧ group0.rerun = false ∧ group0.state ≠ .draining ∧ lone.cls ≠ 0 ∧
    ((launchIs { lone with cls := 0 } group0 0).launch 1).cls = 0 := by
  decide +kernel

/-- Queue 0 with an administrative item before it. -/
def adminNext : State :=
  { queues (fun c => { c with queues := [(0, { q5 .on with ctx := 0, cq := 0 })], cqs := [(0, { c5 true with ctx := 0 })] }) with mem := { cells := [(0x1000, 1), (0x1004, 2), (0x1008, 6)] } }

theorem witness_adminItem :
    adminNext.nextQueue = some 0 ∧ itemBytes (ofBytes (adminNext.mem.bytesFor (Reader.of agentCp) 0x1000 128)) 0 1 = 1 ∧
    adminNext.mem.poisonIn (Reader.of agentCp) 0x1000 128 = false := by
  decide +kernel

/-- A code object of one placement, no tiles, no microprogram and one bundle. -/
def object : List Byte :=
  toBytes (0x4A424F43 + 2 ^ 32 + 2 ^ 48 + 2 ^ 56 + 2 ^ 96 * 384 + 2 ^ 128 * 128 + 2 ^ 160 * 192 + 2 ^ 192 * 192 + 2 ^ 224 * 256 + 2 ^ 256 * 320 + 2 ^ 512 + 2 ^ 640 * 384
    + 2 ^ 704 * 384 + 2 ^ (8 * 130) * 8 + 2 ^ (8 * 192) + 2 ^ (8 * 256) * (2 ^ 176 - 1)) 384
def kernel1 (st : KernelState) : KernelRec := { ctx := 1, addr := 0x10000, state := st, bytes := object }
def objCells : List Host.Cell := (object.mapIdx fun i b => (0x20000 + i, b)).filter fun e => e.2 != 0
def place0 : Placement := { core := 0, set := 0, strand := 0, own := true }
def loads (world : Bool) (l : Launch) (ks : List (Nat × KernelRec)) (gs : List (Nat × Group)) : State :=
  { ctxs := [(1, { ctx1 with world := world })], power := { stage := 8 }, mem := { cells := objCells },
    cmd := { launches := [(1, l)], kernels := ks, groups := gs, groupNext := 2 }, dies := [(0, { tlb := tlb1 })] }
def fresh : Launch := { item := 2 ^ (8 * 1) + 2 ^ (8 * 4) + 0x10000 * 2 ^ 64 + (2 ^ 64 - 1) * 2 ^ (8 * 32), queue := 5, ctx := 1, cls := 1 }
def strict : Launch := { fresh with item := fresh.item + 0xC000 * 2 ^ (8 * 80) }
def wakes (g : Group) : Group := { g with state := .waking, placements := [place0], kernel := 1, ctx := 1, launch := 1 }

theorem witness_object : objectOk object = true ∧ objectOk [] = false := by decide +kernel

theorem witness_kernelLoads :
    (SMap.find (loads false fresh [] []).cmd.launches 1).isSome = true ∧ fresh.kernel = none ∧ (loads false fresh [] []).acts = true ∧
    ({ loads false strict [] [] with ctxs := [(1, { ctx1 with tokens := [(0, (1, true))] })] } : State).mustAbort strict = true ∧
    (loads false fresh [] []).eligible fresh = true ∧ fresh.it 8 8 = 0x10000 ∧ (loads false fresh [] []).kernelAt 1 0x10000 = none ∧
    (loads false fresh [(1, kernel1 .measured)] []).kernelAt 1 0x10000 = some (1, kernel1 .measured) ∧
    (loads false fresh [(1, kernel1 .staged)] []).kernelAt 1 0x10000 = some (1, kernel1 .staged) ∧ ((loads true fresh [] []).ctx 1).world = true ∧
    s0.acts = false ∧ (loads false fresh [(1, kernel1 .bound)] [(1, wakes {})]).cmd.groups.find? (fun e => e.2.launch == 1 && e.2.state == .waking
      && e.2.cluster == 0 / 8 && e.2.placements.any (fun p => p.core == 0 % 8) && (SMap.find e.2.halves (0 % 8)).isNone) = some (1, wakes {}) ∧
    (loads false fresh [(1, kernel1 .bound)] [(1, wakes {})]).mayLoad 0 1 = true ∧
    (loads false fresh [(1, kernel1 .bound)] [(1, wakes {})]).loadHalf 0 1 1 = some 1 := by
  decide +kernel

theorem witness_kernelReaders :
    (loads false fresh [(1, { kernel1 .staged with reader := 1 })] []).reads 1 { kernel1 .staged with reader := 1 } = true ∧
    ({ loads false fresh [] [] with cmd := { launches := [(1, fresh), (2, fresh)] } } : State).reads 1 { kernel1 .staged with reader := 2 } = false ∧
    (loads false fresh [(1, kernel1 .bound)] [(1, wakes {})]).group 1 = wakes {} ∧
    ((loads false fresh [(1, kernel1 .bound)] [(1, wakes {})]).ctx 1).parked = false ∧
    ((((loads false fresh [(1, kernel1 .bound)] [(1, wakes {})]).core 0).halfAt 1).kernel != some 1) = true ∧
    (SMap.find (loads false fresh [] []).ctxs 1).isSome = true := by
  decide +kernel

def ready : Launch := { fresh with kernel := some 1, bound := true }
def dispatch (gs : List (Nat × Group)) : State := loads false ready [(1, kernel1 .measured)] gs
def busyFore : Group := { state := .running, placements := [place0] }

theorem witness_dispatching :
    (dispatch []).acts = true ∧ (dispatch []).sweepStrict.rerunItem = none ∧ ((dispatch []).sweepStrict.pick 47).map (·.1) = some 1 ∧
    ((dispatch []).sweepStrict.launch 1).kernel = some 1 ∧ ((dispatch []).sweepStrict.kernel 1).bytes = object ∧
    (dispatch []).sweepStrict.takes 47 1 (kPlaces object) (kDecls object) = true ∧ ((dispatch []).sweepStrict.readyLaunch 1).2 = true ∧
    ((loads false { ready with bound := false, item := fresh.item + 64 * 2 ^ (8 * 104) } [(1, kernel1 .measured)] []).sweepStrict.readyLaunch 1).2 = false ∧
    (loads false { ready with bound := false, item := fresh.item + 64 * 2 ^ (8 * 104) } [(1, kernel1 .measured)] []).sweepStrict.takes 47 1 (kPlaces object) (kDecls object)
      = true ∧
    ((loads false { ready with bound := false, item := fresh.item + 64 * 2 ^ (8 * 104) } [(1, kernel1 .measured)] []).sweepStrict.pick 47).map (·.1) = some 1 ∧
    (dispatch [(1, busyFore)]).sweepStrict.takes 0 1 (kPlaces object) (kDecls object) = false ∧
    ((dispatch [(1, busyFore)]).sweepStrict.pick 0).map (·.1) = some 1 ∧
    (dispatch [(1, busyFore)]).sweepStrict.mayPreload 0 1 (kPlaces object) (kDecls object) = true ∧
    ((kPlaces object).all fun p => ((dispatch [(1, busyFore)]).sweepStrict.loadHalf (coreAt 0 p.core) 1 1).isSome) = true ∧
    (dispatch []).sweepStrict.mayPreload 0 1 (kPlaces object) (kDecls object) = false ∧
    (wakes { halves := [(0, 1)] }).state = .waking ∧ (placeDecls ((dispatch []).cluster 0).allTiles (kDecls object)).isSome = true ∧
    ((wakes { halves := [(0, 1)] }).placements.all fun p => (SMap.find (wakes { halves := [(0, 1)] }).halves p.core).isSome) = true := by
  decide +kernel

def starting (l : Launch) : State := loads false l [(1, kernel1 .bound)] [(1, wakes { halves := [(0, 1)] })]
theorem witness_groupStart :
    (SMap.find (starting ready).cmd.groups 1).isSome = true ∧ (starting ready).acts = true ∧ ((starting ready).ctx 1).parked = false ∧
    ((starting ready).group 1).placements = [place0] ∧ place0.set = 0 ∧ ((starting ready).launch ((starting ready).group 1).launch) = ready ∧
    (placeDecls ((starting ready).cluster ((starting ready).group 1).cluster).allTiles
      (kDecls ((starting ready).kernel ((starting ready).group 1).kernel).bytes)).isSome = true ∧
    (starting ready).late ready = false ∧ (starting { ready with item := item1 }).late { ready with item := item1 } = true := by
  decide +kernel

def done (l : Launch) : State := { loads false l [] [] with cmd := { launches := [(1, l)], statusOrder := [1] }, sec := { signQ := [1] } }
def wantsSig (va : Nat) (sig : Bool) : Launch :=
  { item := 2 ^ 16 + va * 2 ^ (8 * 64), ctx := 1, status := some .ok, stage9 := 1, hmSigned := sig }

theorem witness_launchCompletion :
    (done { ctx := 1, status := some .fault }).cmd.statusOrder.head? = some 1 ∧ (done {}).power.off = false ∧
    (match (done { ctx := 1, status := some .ok }).results { ctx := 1, status := some .ok } with | .done _ => true | _ => false) = true ∧
    (match (done {}).results { ctx := 1, item := 2 ^ 48 + 0x900000 * 2 ^ (8 * 72) } with | .failed => true | _ => false) = true ∧
    (match ({ done {} with ctxs := [(1, { ctx1 with pages := [page 1 1 true false 0] })] } : State).results { ctx := 1, item := 2 ^ 48 + 0x10000 * 2 ^ (8 * 72) } with
     | .held _ => true | _ => false) = true ∧
    (wantsSig 0x10000 true).wantsHm = true ∧ ({ ctx := 1 } : Launch).wantsHm = false ∧ (wantsSig 0x10000 true).it 64 8 = 0x10000 ∧
    (done (wantsSig 0x10000 true)).hallmarkWay (wantsSig 0x10000 true) = none ∧
    (done (wantsSig 0x20000 true)).hallmarkWay (wantsSig 0x20000 true) = some (true, 0x20000) ∧ (done {}).writesDone 1 = true ∧
    ({ done {} with link := { cols := [{ col0 .barrier true with launch := 1 }] } } : State).writesDone 1 = false ∧
    s0.cmd.statusOrder.head? ≠ some 1 ∧ (done {}).sec.signQ.head? = some 1 ∧ s0.sec.signQ.head? ≠ some 1 := by
  decide +kernel

/-! ### Hypotheses about commands, pages and regions, met -/

/-- A package with 16 GiB of LPDDR6, a table pool at 8 GiB, one context of which `c` says more. -/
def pack (c : Ctx) : State :=
  { s0 with ctxs := [(1, c)], power := { stage := 8 }, boot := { lpddr := 2 ^ 34, poolBase := 2 ^ 33, poolBytes := 2 ^ 24 }, link := { hostUp := true },
            sec := { tdi := .run } }
def allSlots : SMap KeySlot := (List.range 63).map fun i => (i + 1, { ctx := 1, keyId := 1 })
def counted (s : State) : State := { s with sec := { s.sec with creations := s.sec.creations + 1 } }
def world1 : Ctx := { ctx1 with world := true, slot := 1, keyId := 3 }
/-- A parked world, with a write of the host that holds a blob. -/
def parked (blob : List Byte) : State :=
  { pack { world1 with parked := true } with
    mem := { narrow := [{ wid := 1, sid := agentHost, level := 7, addr := 2 ^ 51, data := blob.map some }] } }

theorem witness_contextCommands :
    (counted (pack ctx1)).createOk 2 true (2 ^ 33) 0 3574272 = true ∧ (counted (pack ctx1)).createOk 1 false (2 ^ 33) 0 3574272 = false ∧
    (counted (pack ctx1)).createOk 1023 false (2 ^ 33 + 2 ^ 24 - 65536) 0 3574272 = true ∧ (pack ctx1).sec.debug = 0 ∧
    (counted (pack ctx1)).emptySlot = some 1 ∧ ({ pack ctx1 with sec := { tdi := .run, slots := allSlots } } : State).emptySlot = none ∧
    (counted { pack ctx1 with sec := { tdi := .run, slots := allSlots } }).createOk 2 true (2 ^ 33) 0 3574272 = true ∧
    (counted { pack ctx1 with sec := { tdi := .run, debug := 1 } }).createOk 2 true (2 ^ 33) 0 3574272 = true ∧
    SMap.find (pack ctx1).ctxs 2 = none ∧ SMap.find (pack ctx1).ctxs 1 = some ctx1 ∧ ctx1.state ≠ .closing ∧
    SMap.find (pack { ctx1 with state := .closing }).ctxs 1 = some { ctx1 with state := .closing } ∧
    (pack world1).parkOk 1 = true ∧ (pack ctx1).parkOk 1 = false ∧ 0 + 256 ≤ 2 ^ 51 ∧ (pack world1).link.hostUp = true ∧
    (parked []).usable 1 = true ∧ ((parked []).ctx 1).parked = true := by
  decide +kernel

theorem witness_signsFirst :
    (pack world1).sec.signQ = [] ∧ ({ pack world1 with sec := { signQ := [9] } } : State).sec.signQ ≠ [] ∧ (parked []).sec.signQ = [] := by
  decide +kernel

/-- What such a write holds is read. -/
theorem parked_reads (d : List Byte) (n : Nat) (h : d.length = n) : (parked d).mem.bytesFor (Reader.of agentCp) (2 ^ 51) n = d := by
  apply List.ext_getElem
  · simp [Mem.bytesFor, h]
  · intro i h1 h2
    have lt : i < d.length := h2
    have word : NarrowWrite.inWord { wid := 1, sid := agentHost, level := 7, addr := 2 ^ 51, data := d.map some } ((2 ^ 51 + i) / 8) = true :=
      List.any_eq_true.2 ⟨i % 8, List.mem_range.2 (Nat.mod_lt _ (by decide)), by
        rw [show 8 * ((2 ^ 51 + i) / 8) + i % 8 = 2 ^ 51 + i by omega]
        simp [NarrowWrite.at?, lt]⟩
    have all : (parked d).mem.returned (Reader.of agentCp) ((2 ^ 51 + i) / 8) = (parked d).mem.narrow := by
      simp only [Mem.returned, Mem.history, parked, List.filter_cons, word]
      simp [Reader.mustSee, inScope]
    simp only [Mem.bytesFor, List.getElem_map, List.getElem_range, Mem.byteFor, all]
    simp [Mem.after, parked, NarrowWrite.at?, lt]

theorem witness_parkBlob :
    (parked (parkBlob 1 1 0 3)).mem.bytesFor (Reader.of agentCp) (2 ^ 51) 256 = parkBlob 1 1 0 3 ∧
    (parked (List.replicate 256 0)).mem.bytesFor (Reader.of agentCp) (2 ^ 51) 256 ≠ parkBlob 1 1 0 3 := by
  rw [parked_reads _ 256 (by decide +kernel), parked_reads _ 256 (by decide +kernel)]
  exact ⟨rfl, by decide +kernel⟩

theorem witness_unpark :
    (parked (parkBlob 1 1 0 3)).emptySlot = some 1 ∧ ((parked (parkBlob 1 1 0 3)).ctx 1).slot = 1 ∧ SMap.get (parked []).sec.gens 1 0 = 0 ∧
    ((parked (parkBlob 1 1 0 3)).ctx 1).keyId = 3 ∧ ({ parked [] with sec := { slots := allSlots } } : State).emptySlot = none := by
  decide +kernel

theorem witness_otherCommands :
    (pack ctx1).usable 1 = true ∧ (pack ctx1).usable 2 = false ∧
    (SMap.find ({ pack ctx1 with link := { windows := [(5, { ctx := 2, enabled := true, dest := 0, ring := 0 })] } } : State).link.windows 5).all
      (fun w => w.ctx == 1) = false ∧
    (SMap.find (pack ctx1).link.windows 255).all (fun w => w.ctx == 1) = true ∧ (SMap.find (pack ctx1).link.rings 63).all (fun r => r.ctx == 1) = true ∧
    (2 ^ 52 - 64) % 64 = 0 ∧ 2 ^ 52 - 64 < 2 ^ 52 := by
  decide +kernel

def map1 (va pa state count : Nat) : MapArg := { ctx := 1, size := 0, state := state, perm := 3, wreg := 0, va := va, pa := pa, count := count, tag := 0 }
def moving : Ctx := { ctx1 with pages := [page 1 2 true false 0x20000] }
def badRoot : State := { pack { ctx1 with root := 64 } with mem := { poison := [1] } }

theorem witness_pageCommands :
    (pack ctx1).mapOk (map1 0x100000 0x700000 0 2) = true ∧ (pack ctx1).inFlight 1 16 2 = false ∧
    (pack ctx1).mapOk (map1 0x100000 0 1 16) = true ∧
    (pack ctx1).mapOk (map1 0x100001 0x700000 0 2) = false ∧
    ({ queued [oneAcc .load] [] with boot := { lpddr := 2 ^ 34 } } : State).mapOk (map1 0x10000 0x700000 0 1) = true ∧
    ({ queued [oneAcc .load] [] with boot := { lpddr := 2 ^ 34 } } : State).inFlight 1 1 1 = true ∧
    (pack ctx1).unmapOk 1 0 0x10000 2 = true ∧ (pack ctx1).unmapOk 1 0 0x10000 0 = false ∧
    (pack ctx1).migrateOk 1 0 0x10000 0x800000 = true ∧ (ctx1.pageAt 0 0x10000).isSome = true ∧ (pack ctx1).migrateOk 1 0 0x900000 0x800000 = false ∧
    ({ pack moving with migrations := [{ ctx := 1, va := 0x10000, size := 0, pa := 0x800000 }] } : State).migrations.find?
      (fun y => y.ctx == 1 && y.va == 0x10000) = some { ctx := 1, va := 0x10000, size := 0, pa := 0x800000 } ∧
    (moving.pageAt 0 0x10000).isSome = true ∧ (pack ctx1).migrations = [] ∧ badRoot.walkBad (badRoot.ctx 1) 0x10000 = true ∧
    (pack ctx1).walkBad ctx1 0x10000 = false ∧ (ctx1.leaf 0x10000).isSome = true := by
  decide +kernel

def wpages : SMap Nat := [page 1 5 false false 0x10000000000, page 2 1 true false 0, page 3 0 true false 0x30000]
def wctx (tx : TxState) : Ctx := { ctx1 with pages := wpages, regions := [(0, { tx := tx })] }

theorem witness_weightCommands :
    (pack ctx1).wregOk 1 255 65536 = true ∧ (pack ctx1).wregOk 1 256 0 = false ∧ (pack (wctx .idle)).txIs 1 0 (· == .idle) = true ∧
    (pack (wctx .idle)).boundLaunch 1 0 (fun v => decide (v < 0)) = false ∧ (pack (wctx .opened)).txIs 1 0 (· == .idle) = false ∧
    (pack (wctx .opened)).txIs 1 0 (· == .opened) = true ∧ (pack (wctx .opened)).txIs 1 0 (· != .idle) = true ∧
    (pack (wctx .idle)).txIs 1 0 (· == .opened) = false ∧
    ((wctx .opened).leaf 0x10000).all (fun e => pteState e.2 == 5 && pteWreg e.2 == 0) = true ∧ ((wctx .opened).leaf 0x10000).isSome = true ∧
    (match (pack (wctx .opened)).cpRead 1 0x900000 65536 with | .park _ => false | _ => true) = true ∧
    (match (pack (wctx .opened)).cpRead 1 0x20000 65536 with | .park _ => true | _ => false) = true ∧
    (2 ^ 52 - 2 ^ 42) % 2 ^ 30 = 0 ∧ 2 ^ 52 - 2 ^ 42 + 4096 * 2 ^ 30 ≤ 2 ^ 52 := by
  decide +kernel

/-- A checkpoint of launch 1 at generation 2, of a granule that reads and of an area that denies, or takes, its writes. -/
def ckpt1 (area capacity : Nat) (taken : Bool) : Ckpt :=
  { launch := 1, gen := 2, area := area, capacity := capacity, taken := taken, manifest := if taken then [1] else [] }
def ckptState (k : Ckpt) (pages : SMap Nat) : State :=
  { sup (some 2) id with
    ctxs := [(1, { ctx1 with pages := pages, ckpt := some k, dirty := if k.taken then [] else [1], pending := if k.taken then [1] else [] })] }

theorem witness_checkpoints :
    ((ckptState (ckpt1 0 131072 false) pages1).ctx 1).ckpt = some (ckpt1 0 131072 false) ∧ (ckptState (ckpt1 0 0 false) pages1).power.kiln = .running ∧
    (ckptState (ckpt1 0 131072 false) pages1).allArrived 1 2 = true ∧ ckptHead 1 + 65536 * 1 ≤ 131072 ∧ 0 < ckptHead 1 + 65536 * 1 ∧
    s0.allArrived 1 2 = false ∧ ((ckptState (ckpt1 0 131072 true) pages1).ctx 1).pending.contains 1 = true ∧
    (ckptState (ckpt1 0 131072 true) pages1).writeParked 1 1 = false ∧
    (ckptState (ckpt1 0x10000 131072 true) pages1).probeWrite (engineOf 0) 1 false (0x10000 + ckptHead 1) 65536 = some (true, 0x20000) ∧
    (ckptState (ckpt1 0x30000 131072 true) pages1).probeWrite (engineOf 0) 1 false (0x30000 + ckptHead 1) 65536 = none ∧
    (ckptState (ckpt1 0 131072 false) pages1).ctxs.all (fun e => !e.2.pending.contains 1) = true := by
  decide +kernel

/-- A fold whose every step goes on with bytes ends with bytes. -/
theorem foldl_bytes {α : Type} (f : RangeRead → α → RangeRead) (l : List α)
    (h : ∀ x ∈ l, ∀ bs p, ∃ bs' p', f (RangeRead.bytes bs p) x = RangeRead.bytes bs' p') (bs : List Byte) (p : Bool) :
    ∃ bs' p', l.foldl f (RangeRead.bytes bs p) = RangeRead.bytes bs' p' := by
  induction l generalizing bs p with
  | nil => exact ⟨bs, p, rfl⟩
  | cons x l ih =>
    obtain ⟨b, q, e⟩ := h x (by simp) bs p
    rw [List.foldl_cons, e]
    exact ih (fun y hy => h y (by simp [hy])) b q

/-- A range is read where each of its lines is. -/
theorem readRange_bytes (s : State) (r : Reader) (ctx : Nat) (world : Bool) (bound : Nat → Nat) (va n via : Nat) (lid : Option Nat)
    (h : (cutLines va n).all (fun l => !((s.ctx ctx).parked || s.walkFails via ctx l.1) && match s.transIn (s.ctx ctx) l.1 false world bound with
      | .ok pa _ _ => !s.lostHome pa && s.reachable via pa
      | _ => false) = true) : ∃ bs p, s.readRange r ctx world bound va n via lid = .bytes bs p := by
  refine foldl_bytes _ _ (fun x hx bs p => ?_) [] false
  have hx := List.all_eq_true.1 h x hx
  rw [Bool.and_eq_true, Bool.not_eq_true'] at hx
  obtain ⟨open_, hx⟩ := hx
  split at hx
  · rename_i pa bad track e
    simp only [Bool.and_eq_true, Bool.not_eq_true'] at hx
    simp [open_, e, hx.1, hx.2]
  · simp at hx

theorem witness_granuleRead : ∃ bs bad, (ckptState (ckpt1 0x30000 131072 true) pages1).readRange (Reader.of (engineOf 0)) 1 false
    (fun r => SMap.get ((ckptState (ckpt1 0x30000 131072 true) pages1).launch 1).versions r 0) (65536 * 1) 65536 = .bytes bs bad :=
  readRange_bytes _ _ _ _ _ _ _ _ _ (by decide +kernel)

/-! ### Hypotheses about swaps, power, links and debug, met -/

def place1 : Placement := { core := 0, set := 1, strand := 0 }
def two (a : Group) (b : Option Group) (f : State → State) : State :=
  f { pack { ctx1 with saveBase := 0x10000, saveLen := 4194304 } with
      cmd := { cmd0 with groups := (1, a) :: (b.map fun g => (2, g)).toList, kernels := [(1, kernel1 .bound)], groupNext := 3 } }
def running1 : Group := { group0 with placements := [place0], strands := [] }
def shadowed1 : Group := { running1 with state := .shadowed }
def imaged1 : Group := { running1 with state := .imaged, kernel := 1, images := some (0x10000, 0) , placements := [] }

theorem witness_swapsAndImages :
    (two running1 none id).foreOf 0 = some (1, running1) ∧ running1.state = .running ∧ (two running1 none id).foreOf 47 = none ∧
    (two { running1 with state := .switching } (some shadowed1) id).foreOf 0 = some (1, { running1 with state := .switching }) ∧
    (two { running1 with state := .switching } (some shadowed1) id).groupStopped { running1 with state := .switching } = true ∧
    twoSet running1.placements = false ∧ (two { running1 with state := .switching } (some shadowed1) id).shadowOf 0 = some (2, shadowed1) ∧
    (two { running1 with state := .switching } none id).shadowOf 0 = none ∧ (two shadowed1 none id).foreOf 0 = none ∧
    (two shadowed1 none id).shadowOf 0 = some (1, shadowed1) ∧ twoSet [place0, place1] = true ∧
    (two { running1 with placements := [place0, place1] } none id).foreOf 0 = some (1, { running1 with placements := [place0, place1] }) ∧
    (SMap.find (two shadowed1 none id).cmd.groups 1).isSome = true ∧ (two shadowed1 none id).acts = true ∧
    shadowed1.strands.all (two shadowed1 none id).queuesQuiet = true ∧ (two { running1 with state := .switching } (some shadowed1) id).swapsGo 0 = true ∧
    (two { shadowed1 with placements := [] } none id).saveRoom 1 (({ shadowed1 with placements := [] } : Group).imageSize []) = some 0x10000 ∧
    (two { shadowed1 with placements := [] } none id).saveOpen 1 ((two { shadowed1 with placements := [] } none id).groupImages { shadowed1 with placements := [] } [] 0x10000)
      = true ∧
    ({ two shadowed1 none id with ctxs := [(1, ctx1)] } : State).saveRoom 1 (shadowed1.imageSize []) = none ∧
    (two imaged1 none id).canRestore imaged1 47 = true ∧ (two imaged1 none id).usable 1 = true ∧
    ((List.range 48).filter ((two imaged1 none fun s => { s with dies := (List.range 8).map fun i => (i, { failed := true }) }).canRestore imaged1)) = [] ∧
    (two imaged1 none id).mayReturn 1 = true ∧ (two imaged1 none id).readImages imaged1 = some (some []) ∧
    (two imaged1 none id).readImages { imaged1 with images := none } = some none ∧
    ({ two imaged1 none id with ctxs := [(1, { ctx1 with pages := [page 2 pgNonres true false 0x30000] })] } : State).readImages
      { imaged1 with saved := [st0], images := some (0x20000, 0) } = none ∧
    ((two imaged1 none id).launch 1).status = none := by
  decide +kernel

theorem witness_swapCores :
    (onMe fun st => { st with gpos := 3 }).coreStopped 1 0 = false ∧ (two running1 none id).coreStopped 1 0 = true ∧ ((two running1 none id).cluster 0).swapped.contains 0 = false ∧
    ownersMeet ((two running1 none id).group 1) ((two running1 none id).group 2) 0 = false ∧ shadowed1.state ≠ .retained ∧
    ({ two imaged1 none id with ctxs := [(1, { ctx1 with parked := true })] } : State).mayReturn 1 = false ∧
    ((two imaged1 none id).launch imaged1.launch).status = none ∧
    (two { shadowed1 with strands := [0] } none fun s => { s with strands := [(0, { st0 with lq := [oneAcc .load] })] }).queuesQuiet 0 = false := by
  decide +kernel

def drains (c : Core) : State := { pack ctx1 with strands := [], cores := [(5, c)], cmd := {} }
def idle (saved : Bool) : State :=
  { pack ctx1 with power := { (pack ctx1).power with expected := 100 },
                   strands := [(0, { st0 with stall := some .halt, life := if saved then .retained else .live })],
                   cores := [(0, { core0 with on := !saved, saved := saved })] }

theorem witness_corePower :
    ((drains { on := true }).core 5).on = true ∧ (drains { on := true }).strandsOn 5 = [] ∧ (drains { on := true }).coreClaimed 5 = false ∧
    (drains { on := true }).power.kiln = .running ∧ (idle false).strandsOn 0 = [0] ∧ (idle false).power.gateIdle ≠ 0 ∧
    ((idle false).strand 0).waits = true ∧ (idle false).queuesQuiet 0 = true ∧ ((idle false).group 1).state = .running ∧
    ((idle false).strand 0).grp = 1 ∧ ((idle true).core 0).on = false ∧ ((idle true).core 0).saved = true ∧ (idle true).strandsOn 0 = [0] ∧
    (idle false).coreClaimed 0 = true ∧ (idle false).gateSet 0 = [0] ∧ (idle false).groupsOver 0 [0] = [1] ∧
    (idle false).mayRetain [0] [1] = true ∧ ({ idle false with strands := [(0, st0)] } : State).mayRetain [0] [1] = false ∧
    ({ idle false with strands := [(0, st0)] } : State).coreClaimed 0 = true ∧ (idle true).gateSet 0 = [0] ∧
    (idle true).groupsOver 0 [0] = [1] ∧
    ((idle true).launch 1).status = none ∧ ((drains { ownership := .draining }).core 5).ownership = .draining ∧
    (drains { ownership := .draining }).coreEmpty 5 = true := by
  decide +kernel

def off1 : State :=
  { two { running1 with state := .retained } none id with power := { off := true, lost := true } }

theorem witness_powerCycle :
    s0.power.off = false ∧ ({ idle false with power := { lost := true } } : State).saveReady = true ∧ (onMe fun st => { st with gpos := 3 }).saveReady = false ∧
    off1.power.off = true ∧ SMap.find off1.cmd.groups 1 = some { running1 with state := .retained } ∧ off1.mayResume 1 = false ∧ (off1.launch 1).status = none ∧
    s0.power.stage < 8 ∧ s0.power.err = 0 ∧ s0.power.lost = false ∧ 8 ≤ (pack ctx1).power.stage := by
  decide +kernel

def dies1 (d : Die) : State := { s0 with dies := [(7, d)] }

theorem witness_clockHops :
    ((dies1 {}).die 7).hop = .none ∧ (dies1 {}).power.kiln = .running ∧ max 500 (min 1800 (2047 % 2 ^ 11 / 25 * 25)) ≠ ((dies1 {}).die 7).cur ∧
    max 500 (min 1800 (1500 % 2 ^ 11 / 25 * 25)) = ((dies1 {}).die 7).cur ∧
    ((dies1 { hop := .locking }).die 7).hop = .locking ∧ ((dies1 { hop := .lowering }).die 7).tgt = ((dies1 { hop := .lowering }).die 7).cur ∧
    ((dies1 { hop := .lowering, tgt := 500 }).die 7).tgt ≠ ((dies1 { hop := .lowering, tgt := 500 }).die 7).cur ∧
    ((dies1 { hop := .abandoned, abn := 15 }).die 7).abn < 16 ∧ 16 ≤ ((dies1 { hop := .abandoned, abn := 16 }).die 7).abn ∧
    ((dies1 { hop := .paused }).die 7).hop = .paused ∧
    ((dies1 { hop := .lowering, hopTgt := 500 }).die 7).hopTgt < ((dies1 { hop := .lowering, hopTgt := 500 }).die 7).raised ∧
    ((dies1 { throttle := true, level := 2 }).die 7).level ≤ 2 ∧ ((dies1 {}).die 7).throttle = false := by
  decide +kernel

theorem witness_abandons :
    ((dies1 { hop := .locking, abn := 14 }).die 7).abn + 1 < 16 ∧ 16 ≤ ((dies1 { hop := .locking, abn := 15 }).die 7).abn + 1 ∧
    ((dies1 { hop := .locking, abn := 15 }).die 7).hop = .locking := by
  decide +kernel

theorem witness_heatAndHolds :
    (s0.readSensor 35 1680).temp 35 = 1680 ∧ (s0.readSensor 0 65535).temp 0 = -1 ∧ (s0.readSensor 0 1840).temp 0 = 1840 ∧
    (onPower fun p => { p with kiln := .entering }).power.kiln = .entering ∧
    ({ onPower (fun p => { p with kiln := .entering }) with strands := [] } : State).allStopped = true ∧
    (onPower fun p => { p with kiln := .held, dtime := 1000000 }).power.kiln = .held ∧
    ((List.range 36).all fun i => decide ((onPower fun p => { p with kiln := .held }).temp i ≤ 1440)) = true ∧
    (onPower fun p => { p with temps := [(35, 1441)] }).temp 35 = 1441 ∧
    ((onCore fun c => { c with forceUntil := some 0 }).core 0).forceUntil = some 0 ∧ (s0.core 0).forceUntil = none := by
  decide +kernel

theorem witness_errorReports :
    (s0.strand 0).life ≠ .unalloc ∧ (s0.strand 1).life = .unalloc ∧ (s0.core 0).owner = some 0 ∧
    (s0.power.dtime :: (SMap.get s0.power.corrected 3 []).filter fun t => decide (s0.power.dtime < t + 3600000000000)).length < 16 ∧
    16 ≤ (0 :: (SMap.get (onPower fun p => { p with corrected := [(3, List.replicate 15 0)] }).power.corrected 3 []).filter
      fun t => decide (0 < t + 3600000000000)).length := by
  decide +kernel

theorem witness_cacheLines :
    (SMap.find ({ s0 with mem := { cache := [(3, { dirty := true })] } } : State).mem.cache (192 / 64)).any (·.dirty) = true ∧
    (SMap.find s0.mem.cache (192 / 64)).any (·.dirty) = false := by
  decide +kernel

def onLink (l : LinkState) (t : Nat) : State := { s0 with link := l, power := { s0.power with dtime := t } }

theorem witness_linkStates :
    ((onLink { ucie := [(16, { state := .active })] } 0).ucie 16).state = .active ∧
    ((onLink { ucie := [(0, { state := .retrain, fails := [5, 4] })] } 9).ucie 0).state = .retrain ∧
    3 ≤ (9 :: ([5, 4] : List Nat).filter fun t => decide (9 < t + 1000000000)).length ∧ (9 :: ([] : List Nat)).length < 3 ∧
    (onLink { hostUp := true } 0).link.hostUp = true ∧ (onLink {} 50000000).link.hostFailed = false ∧
    (onLink {} 50000000).link.hostDownSince + 50000000 ≤ 50000000 ∧ bit 8 3 = true ∧ bit 0 3 = false ∧ ((onLink {} 0).port 7).state = .down ∧
    ((onLink { ports := [(7, { state := .training, lane0 := true })] } 100000000).port 7).state = .training ∧
    ((onLink { ports := [(7, { state := .training })] } 500000000).port 7).lane0 = false ∧
    ((onLink { ports := [(7, { state := .degraded, lane0 := true })] } 0).port 7).state = .degraded ∧
    ((onLink { ports := [(7, { state := .degraded, lane0 := true })] } 0).port 7).lane1 = false ∧
    ((onLink { ports := [(7, { state := .up, lane0 := true, lane1 := true })] } 0).port 7).state = .up ∧
    ((List.range 8).all fun m => ((onLink { ports := [(7, { state := .up })] } 0).port m).state == .down) = false := by
  decide +kernel

def flows1 : List (Nat × Flow) := [(8, { unacked := [{ seq := 0, body := .keepalive }], expect := 5 })]
def ringPages : SMap Nat := [page 1 0 true false 0x20000]
def ringState (tail : Nat) : State :=
  { pack { ctx1 with pages := ringPages } with
    link := { hostUp := true, rings := [(3, { ctx := 1, log2s := 2, wake := false, base := 0x10000 })], windows := [(5, { ctx := 1, enabled := true, dest := 0, ring := 3 })] }
    mem := { cells := if tail = 0 then [] else [(0x20000, BitVec.ofNat 8 tail)] } }

theorem witness_transport :
    (5 + 2 ^ 32 - ((onLink { flows := flows1 } 0).flow 8).expect % 2 ^ 32) % 2 ^ 32 < 256 ∧
    256 ≤ (4 + 2 ^ 32 - ((onLink { flows := flows1 } 0).flow 8).expect % 2 ^ 32) % 2 ^ 32 ∧ ((onLink { flows := flows1 } 0).flow 8).unacked ≠ [] ∧
    ((onLink { flows := flows1 } 0).flow 0).unacked = [] ∧ (onLink { flows := flows1 } 0).outstanding 2 = true ∧ s0.outstanding 2 = false ∧
    0 + 1000 * (onLink { flows := flows1 } 2000000).link.kai ≤ (onLink { flows := flows1 } 2000000).power.dtime ∧
    0 + 1000 * (onLink { flows := flows1 } 2000000).link.pto ≤ (onLink { flows := flows1 } 2000000).power.dtime ∧
    (pack ctx1).isLpddr 0 = true ∧ (pack ctx1).isLpddr (2 ^ 34) = false ∧ (pack ctx1).link.hostUp = true ∧
    ((ringState 0).ringWrite 3 []).isSome = true ∧ ((ringState 4).ringWrite 3 []).isNone = true ∧
    (SMap.find (ringState 0).link.windows 5).any (·.enabled) = true ∧ (ringState 0).openPackets < 256 ∧ (ringState 0).link.packets = [] := by
  decide +kernel

theorem witness_routes :
    (pack ctx1).routeOpen agentPeer 0 = true ∧
    (onLink { ucie := (List.range 17).map fun i => (i, { state := .retrain }) } 0).routeOpen agentPeer 0 = false := by
  decide +kernel

/-- A world with a store on its way, which outlasts it. -/
def worldBusy : State := { pack world1 with mem := { orphans := [(0, { seq := 0, op := .store, ctx := 1 })] } }

theorem witness_closeWorlds : (SMap.find worldBusy.ctxs 1).all (·.world) = true ∧ (SMap.find worldBusy.closeWorlds.ctxs 1).isSome = true := by
  decide +kernel

theorem witness_loseMember :
    ((colState false [0] [] []).comm 3).state = .opened ∧ ((colState false [0] [] []).comm 3).members.contains 0 = true := by
  decide +kernel

theorem witness_securityStates :
    s0.sec.tdi = .unlocked ∧ ({ s0 with sec := { tdi := .locked } } : State).sec.tdi = .locked ∧
    ({ s0 with sec := { tdi := .error } } : State).sec.tdi = .error ∧ ((pack world1).ctx 1).world = true ∧
    ({ pack world1 with sec := { spdm := some 7 } } : State).sec.spdm ≠ none ∧ ((pack world1).ctx 1).channels.length < 16 ∧
    ((pack world1).ctxs.any fun e => e.2.channels.any fun (x : Channel) => x.id == 2 ^ 32 - 1) = false ∧
    ((pack { world1 with channels := List.replicate 16 chan7 }).ctx 1).channels.length = 16 ∧
    s0.sec.signQ = [] ∧ ({ s0 with sec := { signQ := [9] } } : State).sec.signQ ≠ [] ∧ s0.sec.debug = 0 ∧ s0.sec.challenge = none ∧ ({ s0 with sec := { debug := 2 } } : State).sec.expiry ≤ s0.power.dtime := by
  decide +kernel

def dbg (sid va level : Nat) (c : Ctx) : State :=
  { pack c with sec := { debug := level }, power := { stage := 8, dbgSid := sid, dbgVa := 2 ^ 52 + va, snapArm := true, snapSrc := 3 } }

theorem witness_debugger :
    (dbg 0 0x10000 2 ctx1).sec.debug = 2 ∧ ((dbg 0 0x10000 2 ctx1).core (coreOf 0)).isOwned = false ∧ ((dbg 0 0 2 ctx1).strand 0).life ≠ .unalloc ∧
    (({ dbg 0 0 2 ctx1 with cores := [(0, { ownership := .owned 1 })] } : State).core (coreOf 0)).isOwned = true ∧
    (dbg 0 0x10000 2 ctx1).debugDenied 1 0x10000 false = none ∧ (dbg 0 0x10000 2 ctx1).debugDenied 1 0x10000 true = none ∧
    (match (dbg 0 0x10000 2 ctx1).transIn ctx1 0x10000 false false (fun _ => 0) with | .ok pa _ _ => pa == 0x20000 | _ => false) = true ∧
    field (dbg 0 0x10000 2 ctx1).power.dbgVa 52 10 = 1 ∧ ((dbg 0 0 2 world1).ctx 1).world = true ∧ (dbg 0 0 1 ctx1).sec.debug ≠ 2 ∧
    (dbg 0 0 2 ctx1).power.snapArm = true ∧ (dbg 0 0 2 ctx1).power.snapSrc = 3 ∧ (dbg 0 0 2 ctx1).power.snapCmp ≤ (dbg 0 0 2 ctx1).power.dtime ∧
    s0.power.snapArm = false ∧ (dbg 0 0 2 ctx1).power.snapDone = false ∧
    (dbg 0 0 2 world1).debugDenied 1 0 true = some true := by
  decide +kernel

/-! ### Hypotheses about timers, walks, hints, acknowledgements and copied arguments, met -/

/-- A flow to package 2 of class 0 with one packet unacknowledged since time 0. -/
def timed (f : Flow → Flow) (t : Nat) : State := onLink { flows := [(8, f { unacked := [{ seq := 0, body := .keepalive }] })] } t
def ringAt (base : Nat) (c : Ctx) : State :=
  { pack c with link := { hostUp := true, rings := [(3, { ctx := 1, log2s := 2, wake := true, base := base })] } }

theorem witness_timers :
    ((timed id 8000).flow 8).expired 8000 ≠ [] ∧ ((timed id 7999).flow 8).expired 7999 = [] ∧
    ((timed (fun f => { f with srtt := 5000, acked := 4 }) 9).flow 8).turnAt + 5000 ≤ 6000 ∧
    ((timed (fun f => { f with acked := 4, marks := 3 }) 0).flow 8).acked ≠ 0 ∧ ((timed (fun f => { f with acked := 4, marks := 3 }) 0).flow 8).marks ≠ 0 ∧
    (SMap.get (timed id 0).link.peers 2 {}).silent = false ∧ (ringAt 0x10000 ctx1).ringWaits 3 64 = false ∧
    (ringAt 0x10000 moving).ringWaits 3 64 = true ∧ (SMap.find (ringAt 0x10000 ctx1).link.rings 3).any (·.wake) = true ∧
    (pack ctx1).routeOpen agentHost 0 = true ∧ isWeight (2 ^ 40) = true := by
  decide +kernel

/-- A walk outstanding on die 0, and a page of the hint unit there. -/
def walker (c : Ctx) : State := { pack c with dies := [(0, { walks := [{ ctx := 1, page := 1, clusters := [0, 5] }] })] }
def hinting (op lv va : Nat) : State :=
  { vmem id with boot := { lpddr := 2 ^ 34 }, dies := [(0, { hints := [{ ctx := 1, cluster := 0, sid := 0, op := op, lv := lv, va := va, len := 64 }] })] }

theorem witness_walksAndHints :
    ((walker ctx1).die 0).walks.find? (fun y => y.ctx == 1 && y.page == 0x10000 / 65536) = some { ctx := 1, page := 1, clusters := [0, 5] } ∧
    (walker ctx1).walkOpen 0 ctx1 0x10000 = true ∧ (walker ctx1).walkBad ctx1 0x10000 = false ∧
    ({ walker ctx1 with link := { ucie := (List.range 17).map fun i => (i, { state := .retrain }) } } : State).walkOpen 0 { ctx1 with tables := [(0, 64)] } 0x10000 = false ∧
    ((pack ctx1).tablesFor 1 0 [0x10000]).isSome = true ∧ (({ pack ctx1 with boot := {} } : State).tablesFor 1 0 [0x10000]).isNone = true ∧
    (pack ctx1).foldPa 0x800000 = 0x800000 ∧ peerOf ((pack ctx1).foldPa 0x800000) = none ∧
    ((hinting 0 2 0x10000).die 0).hints.length = 1 ∧ ((hinting 0 2 0x10000).ctx 1).leaf 0x10000 = some (1, (page 1 0 true false 0x20000).2) ∧
    ((hinting 0 2 0x10000).ctx 1).leaf 0x900000 = none ∧ (hinting 0 2 0x10000).isLpddr (frameOf 1 (page 1 0 true false 0x20000).2 0x10000) = true ∧
    (hinting 0 2 0x10000).mem.cache.length + (pageLines (page 1 0 true false 0x20000) 0x10000 64).length ≤ cacheLines := by
  decide +kernel

theorem witness_servesAndCopies :
    (queued [] []).mem.sameKey ((queued [] []).ctx 1).keyId 0x20000 = true ∧ (({ queued [] [] with cmd := {} } : State).launch 1).bound = false ∧
    ((queued [] []).mem.narrow.map (·.wid)).Nodup ∧ (onePart 0x10000).bad = false ∧ (onePart 0x10000).ask = none ∧
    ((queued [oneAcc .load] []).strand 0).storesHeld < 32 ∧ (ceRun (placed .cpg true)).stands 0 (placed .cpg true) = false ∧
    (moved gone).probeWrite (engineOf 0) 1 false 0x10040 64 = none ∧
    (moved { gone with a := 0x20000 }).probeWrite (engineOf 0) 1 false 0x20000 64 = some (true, 0x20000) ∧
    opening.out = none ∧ (checkOpen (sealedPage { chan7 with failures := 16 } []) 0 opening matches .stop _ _) = true ∧
    ({ drains { ownership := .draining } with clusters := [(0, { ceq := [{ placed .cp true with dst := some { shape 3 16 0 .f32 with core := 5 } }] })] } : State).coreWorked 5 = true ∧
    (drains { ownership := .draining }).coreWorked 5 = false ∧ (two running1 none fun s => { s with power := { off := true } }).swapsGo 0 = false := by
  decide +kernel

/-- A group with images, where another world owns every core. -/
def onOne : Group := { imaged1 with placements := [place0] }
def foreignAll : State :=
  two onOne none fun s => { s with cores := (List.range 384).map fun n => (n, { on := true, ownership := .owned 2 }) }

theorem witness_drainsFor : (List.range 48).filter (foreignAll.canRestore onOne) = [] ∧ foreignAll.couldRestore onOne 47 = true := by
  decide +kernel

theorem witness_weightSteps :
    ((pack (wctx .opened)).region 1 0).commit = false ∧
    ((pack { wctx .opened with regions := [(0, { tx := .opened, commit := true })] }).region 1 0).commit = true ∧
    (pack (wctx .opened)).cmd.wpageDone = 0 ∧ (ckpt1 0 131072 false).failed = false ∧
    (ckptState (ckpt1 0 131072 false) pages1).ckptWaits 1 2 = false ∧ (SMap.get s0.power.corrected 3 []).length = 0 ∧
    ((dies1 { calmSince := some 0 }).die 7).calmSince = some 0 ∧ (dies1 {}).quiet 7 = true ∧
    (dies1 { lastDroop := some 0 }).quiet 7 = false ∧ ({ s0 with sec := { tdi := .run } } : State).sec.tdi = .run := by
  decide +kernel

/-! ### Hypotheses about turns and frames, met -/

/-- A bundle of one `add` at the strand's place, with the stop mark; one of two operations; a micro-word; a command. -/
def issuing (w : Nat) : State := s0.withFetchWord 512 w
def addWord : Nat := oneSlot 0 32 (0x01 + 2 ^ 8 * 5 + 2 ^ 14 * 6 + 2 ^ 20 * 7 + 2 ^ 32 * 3)
def ready0 : State := ({ issuing addWord with turns := [], tick := 1 } : State).ready 0
def ops1 : List (Slot × Instr) := [(.s, .add .s64 5 6 7)]

theorem witness_stepRunsBundle :
    (issuing addWord).turns = [.issue 0] ∧ ({ issuing addWord with turns := [], tick := 1 } : State).issues 0 = true ∧ (ready0.strand 0).place = 0 ∧
    ((decodeBundle ((ready0.core 0).owner == some 0) (ready0.bundleAt 0 0)).toOption.map (·.ops)) = some ops1 ∧
    (ready0.die 0).mask = 0 ∧ earlyTrap { ready0 with iss := { idx := 0, stop := true, ops := ops1 } } ops1 = none := by
  decide +kernel

theorem witness_stepRunsOthers :
    (s0.withFetchWord 128 0x0F).turns = [.micro 0] ∧ ((s0.withFetchWord 128 0x0F).core 0).owner = some 0 ∧
    ({ s0.withFetchWord 128 0x0F with turns := [], tick := 1 } : State).unitsOn 0 = true ∧
    (decodeMicro ((s0.withFetchWord 128 0x0F).microWord 0)).isSome = true ∧
    (s0.withFetchWord 1024 (1 + 2 ^ 32 * 2 + 2 ^ 64 * 6)).turns = [.admin] ∧
    (s0.withFetchWord 1024 (1 + 2 ^ 32 * 2 + 2 ^ 64 * 6)).cmd.admin = [1 + 2 ^ 32 * 2 + 2 ^ 64 * 6] ∧
    decodeAdmin ((1 + 2 ^ 32 * 2 + 2 ^ 64 * 6) % 2 ^ 1024) = some (.destroy 6 0) ∧ encode (.resultDeliver 0) = none ∧
    ([] : List Turn).head?.all Turn.named = true ∧ ([Turn.issue 3071]).head?.all Turn.named = true := by
  decide +kernel

theorem witness_encodes : (Instr.add .s64 5 6 7).wf = true ∧ encode (.add .s64 5 6 7) = some (512, addWord) := by decide +kernel

theorem witness_frames :
    Instr.posts (.add .s64 5 6 7) = true ∧ s0.iss.ended = none ∧ (after (.add .s64 5 6 7) s0).iss.ended = none ∧
    (after (.mark 1 .st) s0).iss.ended = none ∧ (after (.stG false 1 1 .s64 .sy .rel 0 0) vm).iss.ended = none ∧
    Memory.wf s0.mem.cells = true ∧ Memory.wf adminNext.mem.cells = true := by
  decide +kernel

/-! ### Results computed by hand from the rules -/

/-- The due count and the flags of the last result. -/
def lastDue (s : State) : Nat := (s.me.dbuf.getLast?.map fun p => p.due).getD 0
def lastFlags (s : State) : Nat := (s.me.dbuf.getLast?.map fun p => p.flags).getD 0

/-- R168: 100 + 100 in .s8 is 200 - 256 = -56, sign-extended; 3 - 100 in .n8 is 159; 10000 / 256 is 39. -/
theorem test_arithmetic_wraps :
    lastValue (after (.add .s8 5 6 6) s0) = 2 ^ 64 - 56 ∧ lastValue (after (.sub .n8 5 7 6) s0) = 159 ∧
    lastValue (after (.mulh .n8 5 6 6) s0) = 39 ∧ lastDue (after (.mul .s64 5 6 7) s0) = 3 := by
  decide +kernel

/-- R170: -7 / 3 truncates to -2 with remainder -1, in 16 bundles; a zero divisor raises IDIV. -/
theorem test_division :
    lastValue (after (.div .s64 5 8 7) s0) = 2 ^ 64 - 2 ∧ lastValue (after (.rem .s64 5 8 7) s0) = 2 ^ 64 - 1 ∧
    lastDue (after (.div .s64 5 8 7) s0) = 16 ∧ trapOf (after (.div .s64 5 8 9) s0) = some (0, 0x08, 0) := by
  decide +kernel

/-- R169, R171: -7 shifted right by one is floor(-3.5) = -4; 0b01100100 rotated by 3 is 0b00100011; bits 6:2 of 100 are 0b11001. -/
theorem test_bits :
    lastValue (after (.shrI .s64 5 8 1) s0) = 2 ^ 64 - 4 ∧ lastValue (after (.rotlI .n8 5 6 3) s0) = 35 ∧
    lastValue (after (.clz .s64 5 6) s0) = 57 ∧ lastValue (after (.bfx .s64 5 6 2 5) s0) = 2 ^ 64 - 7 ∧
    lastValue (after (.bfx .n64 5 6 2 5) s0) = 25 := by
  decide +kernel

/-- R139: -7 is below 3 signed, and above it unsigned. -/
theorem test_compare :
    lastValue (after (.cmp .lt .s64 1 8 7) s0) = 1 ∧ lastValue (after (.cmp .lt .n64 1 8 7) s0) = 0 ∧
    lastValue (after (.movi 1 (2 ^ 36 - 1)) s0) = 2 ^ 64 - 1 := by
  decide +kernel

/-- R64: x0 reads zero; R58: a read of an invalid register raises INVREG, its flat index in TINFO. -/
theorem test_registers :
    lastValue (after (.add .s64 5 0 7) s0) = 3 ∧
    trapOf (after (.add .s64 5 6 7) (onMe fun st => { st with xv := 2 ^ 6 })) = some (0, 0x02, 7) := by
  decide +kernel

/-- R175: a taken `call` gives b3 the index after its three delay bundles. -/
theorem test_call : lastValue (after (.call 0 0 false) s0) = 4 ∧ (after (.call 0 0 true) s0).me.dbuf = [] := by decide +kernel

/-- R178, R304: TRAPI with its immediate; the entry of the trap table, a fresh handler count. -/
theorem test_trap :
    trapOf (after (.trap 77) s0) = some (0, 0x0B, 77) ∧ ((trapped.takeTrap 0 0x0B 0 77 9).strand 0).hnext = 40 ∧
    ((trapped.takeTrap 0 0x0B 0 77 9).strand 0).tbundle = 9 ∧ ((trapped.takeTrap 0 0x0B 0 77 9).strand 0).hnd = true := by
  decide +kernel

/-- v1 holds 1.0 in every element of .f32, v2 2^-24, v3 the largest finite value, v4 +infinity, v5 -infinity, v6 the bytes of -128. -/
def fv (p w : Nat) : Vec := BitVec.ofNat 4096 (ofElems w (List.replicate (4096 / w) p))
def vecs : State := onMe fun st =>
  { st with v := [(1, fv 0x3F800000 32), (2, fv 0x33800000 32), (3, fv 0x7F7FFFFF 32), (4, fv 0x7F800000 32), (5, fv 0xFF800000 32), (6, fv 0x80 8)] }
def f32 (d a : Nat) : VHead := { lgm := 1, pr := 0, d := d, a := a, ty := .f32 }
def elem0 (i : Instr) : Nat := lastValue (after i vecs) % 2 ^ 32

/-- R202: 1 + 1 = 2; 1 + 2^-24 is a tie, to even 1, inexact; twice the largest value overflows to infinity; inf - inf is invalid. -/
theorem test_fadd :
    elem0 (.fadd (f32 7 1) 1) = 0x40000000 ∧ elem0 (.fadd (f32 7 1) 2) = 0x3F800000 ∧ lastFlags (after (.fadd (f32 7 1) 2) vecs) = 16 ∧
    elem0 (.fadd (f32 7 3) 3) = 0x7F800000 ∧ elem0 (.fadd (f32 7 4) 5) = 0x7FC00000 ∧ lastFlags (after (.fadd (f32 7 4) 5) vecs) = 1 := by
  decide +kernel

/-- R203: (1 + 2^-24 held exactly) - 1: a fused 1 * 2^-24 + 1 rounds once; 2^-24 - 1 * 1 keeps every bit. -/
theorem test_fma : elem0 (.fma (f32 7 1) 2 1) = 0x3F800000 ∧ elem0 (.fnma (f32 7 1) 1 2) = 0xBF7FFFFF := by decide +kernel

/-- R224: 0x80 + 0x80 wraps to 0 and saturates to -128 with SA; |-128| wraps, or saturates to 127. -/
theorem test_saturate :
    elem0 (.iadd { f32 7 6 with ty := .s8 } 6) = 0 ∧ elem0 (.iadds { f32 7 6 with ty := .s8 } 6) = 0x80808080 ∧
    elem0 (.iabs { f32 7 6 with ty := .s8 } false) = 0x80808080 ∧ elem0 (.iabs { f32 7 6 with ty := .s8 } true) = 0x7F7F7F7F := by
  decide +kernel

/-- R231: sixteen ones sum to 16. R229: lanegroup 0 is one hop from lanegroup 7, four from 4. -/
theorem test_vector_paths :
    elem0 (.vred .sum (f32 7 1)) = 0x41800000 ∧ lastDue (after (.xcopy { f32 7 1 with lgm := 128 } 0) vecs) = 3 ∧
    lastDue (after (.xcopy { f32 7 1 with lgm := 16 } 0) vecs) = 6 := by
  decide +kernel

/-- R282: a row of 16 elements of .f32 is one line; a store writes that line and no other. -/
def stored : State :=
  after (.stSp { acc1 with r := 1, lgm := 2 }) { withTiles with strands := [(0, { st0 with v := [(1, fv 0x3F800000 32)] })] }
theorem test_tile_store :
    stored.myCore.spLine 1 = ofElems 32 (List.replicate 16 0x3F800000) ∧ stored.myCore.spLine 0 = 0 ∧ stored.myCore.spLine 2 = 0 := by
  decide +kernel

/-- R295: an `amo.add` of 9 to a word that holds 250 leaves 259, little-endian, and its neighbour as it was. -/
def amoState : State :=
  { queued [] [oneAcc (.amo .add true)] with mem := { cells := [(0x20000, 250), (0x20004, 7)] } }
theorem test_amo : (after (.homeAccess 0 0 0 .sy) amoState).mem.cells = [(0x20000, 3), (0x20001, 1), (0x20004, 7)] := by decide +kernel

/-- R93: -128 * 255 with a signed byte as weight; R95: three planes of 0b101xxxxx read as -3, so that 2 * -3 + 1 = -5. -/
theorem test_products :
    exactSum 255 (weightOf .s8 0 127 0x80) (readPlanes .s8 8 0) = -32640 ∧
    (alignedProduct 1 0 (weightOf .bp8 0 127 0xA0) (exactSum 1 (weightOf .bp8 0 127 0xA0) (readPlanes .bp8 3 0))).toInt = -5 := by
  decide +kernel

/-- R334, FIPS 202: the digest of the empty string begins A7 FF C6 F8. R345, FIPS 197: AES-256 of 00112233... under 000102... -/
theorem test_digest : (sha3 []).take 4 = [0xA7, 0xFF, 0xC6, 0xF8] := by decide +kernel
theorem test_cipher : (aesBlock (aesKeys ((List.range 32).map (BitVec.ofNat 8))) ((List.range 16).map fun i => BitVec.ofNat 8 (17 * i))).take 4 =
    [0x8E, 0xA2, 0xB7, 0xCA] := by
  decide +kernel

/-- R352: DESTROY of a context that does not exist ends FAULT, and leaves the list. -/
theorem test_destroy : (after (.destroy 2 5) { pack ctx1 with cmd := { admin := [0] } }).cmd.admin = [] ∧
    (SMap.find (after (.destroy 1 5) (pack ctx1)).ctxs 1).all (fun c => c.state == .closing) = true := by
  decide +kernel

/-- R58: an `add` placed as the first instruction after reset runs, and finds its registers invalid. -/
theorem test_fetch : (match step (State.reset.withFetchWord 512 (addWord)) with
    | .next t => decide ((t.strand 0).tcause.toNat % 64 = 0x02)
    | _ => false) = true := by
  decide +kernel

end Sys2Proof.Tests
end

section
/-! PROOFS. Writes of queue and device registers (R29, R346 to R348, R461, R464, R490, R499, R500): the laws of the two tables of
queues, one equation for each case of a write, and what no register write changes. -/

namespace Sys2Proof.Machine

/-! ### The tables of queues -/

@[simp] theorem State.queue_setQueue_same (s : State) (q : Nat) (c : CmdQueue) : (s.setQueue q c).queue q = c :=
  SMap.get_insert_same ..

theorem State.queue_setQueue_other (s : State) {q n : Nat} (c : CmdQueue) (h : n ≠ q) : (s.setQueue q c).queue n = s.queue n :=
  SMap.get_insert_other h

@[simp] theorem State.cq_setCq_same (s : State) (q : Nat) (k : CmplQueue) : (s.setCq q k).cq q = k :=
  SMap.get_insert_same ..

@[simp] theorem State.queue_setCq (s : State) (q n : Nat) (k : CmplQueue) : (s.setCq q k).queue n = s.queue n := rfl

/-- One turn of `State.queuesNaming`: queue `i` of the table changed where it names completion queue `k`. -/
def changeNaming (k : Nat) (f : CmdQueue → CmdQueue) (m : SMap CmdQueue) (i : Nat) : SMap CmdQueue :=
  if (SMap.get m i {}).cq = k then SMap.put m i (f (SMap.get m i {})) {} else m

theorem State.queuesNaming_eq (s : State) (k : Nat) (f : CmdQueue → CmdQueue) : s.queuesNaming k f =
    { s with cmd := { s.cmd with queues := (List.range 64).foldl (changeNaming k f) s.cmd.queues } } := rfl

@[simp] theorem State.queuesNaming_mem (s : State) (k : Nat) (f : CmdQueue → CmdQueue) : (s.queuesNaming k f).mem = s.mem := by
  rw [State.queuesNaming_eq]
@[simp] theorem State.queuesNaming_cq (s : State) (k n : Nat) (f : CmdQueue → CmdQueue) : (s.queuesNaming k f).cq n = s.cq n := by
  simp only [State.queuesNaming_eq, State.cq]

theorem get_changeNaming (k : Nat) (f : CmdQueue → CmdQueue) (m : SMap CmdQueue) (i n : Nat) :
    SMap.get (changeNaming k f m i) n {} =
      if n = i ∧ (SMap.get m n {}).cq = k then f (SMap.get m n {}) else SMap.get m n {} := by
  unfold changeNaming
  split
  · rw [SMap.get_put]
    by_cases hn : n = i
    · subst hn; simp only [*, if_true, and_self]
    · simp only [hn, Ne.symm hn, false_and, if_false]
  · by_cases hn : n = i
    · subst hn; simp only [*, and_false, if_false]
    · simp only [hn, false_and, if_false]

/-- Each queue of a list without repetitions is changed once at most, by what it held at first. -/
theorem get_foldl_changeNaming (k : Nat) (f : CmdQueue → CmdQueue) (n : Nat) {l : List Nat} (hl : l.Nodup) (m : SMap CmdQueue) :
    SMap.get (l.foldl (changeNaming k f) m) n {} =
      if n ∈ l ∧ (SMap.get m n {}).cq = k then f (SMap.get m n {}) else SMap.get m n {} := by
  induction l generalizing m with
  | nil => simp
  | cons i l ih =>
    obtain ⟨hi, hl⟩ := List.nodup_cons.1 hl
    rw [List.foldl_cons, ih hl, get_changeNaming]
    by_cases hn : n = i
    · subst hn; simp only [hi, List.mem_cons_self, true_and, false_and, if_false]
    · simp only [hn, List.mem_cons, false_or, false_and, if_false]

theorem State.queue_queuesNaming (s : State) (k : Nat) (f : CmdQueue → CmdQueue) {n : Nat} (hn : n < 64) :
    (s.queuesNaming k f).queue n = if (s.queue n).cq = k then f (s.queue n) else s.queue n := by
  rw [State.queuesNaming_eq, State.queue, get_foldl_changeNaming k f n List.nodup_range]
  exact ite_congr (by simp only [List.mem_range, hn, true_and, State.queue]) (fun _ => rfl) (fun _ => rfl)

/-! ### Command queues (R346, R347) -/

theorem CmdQueue.checked_eq (c : CmdQueue) :
    c.checked = { c with state := if c.state = .on ∧ 2 ^ c.log2n < c.waiting then .error else c.state } := by
  unfold CmdQueue.checked
  by_cases h : c.state = .on ∧ 2 ^ c.log2n < c.waiting <;> simp [h]

theorem exec_qtailWrite (s : State) {q : Nat} (v : Nat) (hq : q < 64) :
    ∃ t, exec (.qtailWrite q v) s = .next t ∧ t.queue q = CmdQueue.checked { s.queue q with tail := v % 2 ^ 32 } ∧
      t.power.wakes = s.power.wakes + 1 ∧ t.mem = s.mem ∧ ∀ n, n ≠ q → t.queue n = s.queue n := by
  refine ⟨_, congrArg Host.Outcome.next (if_neg (Nat.not_le.2 hq)), ?_, rfl, rfl, fun n hn => ?_⟩
  · exact State.queue_setQueue_same ..
  · exact State.queue_setQueue_other _ _ hn

theorem State.queueOk_iff (s : State) (n : Nat) (c : CmdQueue) :
    s.queueOk n c = true ↔ c.base.toNat % 128 = 0 ∧ 4 ≤ c.log2n ∧ c.weight ≠ 0 ∧ (n = 0 → c.ctx = 0) ∧
      (n ≠ 0 → c.ctx ≠ 0 ∧ s.usable c.ctx = true) ∧ (s.cq c.cq).on = true ∧ (s.cq c.cq).ctx = c.ctx := by
  by_cases hn : n = 0 <;> simp [State.queueOk, hn, and_assoc]

section
variable (s : State) {q : Nat} (v : Nat) (hq : q < 64)
include hq

theorem exec_queueEnable_of_not_off (h : (s.queue q).state ≠ .off) :
    exec (.queueEnable q v) s = .next (s.setQueue q { s.queue q with en := true }) := by
  show execQueueEnable q v s = _
  simp [execQueueEnable, Nat.not_le.2 hq, h]

/-- What an enable makes of a queue that is OFF. -/
theorem exec_queueEnable_of_off (h : (s.queue q).state = .off) {d : CmdQueue}
    (hd : CmdQueue.withCfg { s.queue q with en := true } v = d) :
    exec (.queueEnable q v) s = .next (s.setQueue q (
      if s.power.stage ≠ 8 then d
      else if s.queueOk q d then CmdQueue.checked { d with state := .on, cqfull := (s.cq d.cq).full }
      else { d with cfgerr := true })) := by
  subst hd
  show execQueueEnable q v s = _
  simp only [execQueueEnable, if_neg (Nat.not_le.2 hq), h, bne_self_eq_false, Bool.false_eq_true, if_false, apply_ite (s.setQueue q)]

theorem exec_queueDisable :
    exec (.queueDisable q v) s = .next (s.setQueue q (
      if (s.queue q).state = .off then CmdQueue.withCfg { s.queue q with en := false } v
      else { s.queue q with en := false, state := .off })) := by
  show execQueueDisable q v s = _
  simp [execQueueDisable, Nat.not_le.2 hq]

/-! ### Completion queues (R348) -/

theorem exec_cqEnable_of_on (h : (s.cq q).on = true) :
    exec (.cqEnable q v) s = .next (s.setCq q { s.cq q with en := true }) := by
  show execCqEnable q v s = _
  simp [execCqEnable, Nat.not_le.2 hq, h]

/-- What an enable makes of a completion queue that is OFF. -/
theorem exec_cqEnable_of_off (h : (s.cq q).on = false) {e : CmplQueue}
    (he : CmplQueue.withCfg { s.cq q with en := true } v = e) :
    exec (.cqEnable q v) s = .next (
      if s.power.stage ≠ 8 then s.setCq q e
      else if s.cqOk e then (s.setCq q { e with on := true }).flushCq q
      else (s.setCq q e).queuesNaming q fun c => { c with cfgerr := true }) := by
  subst he
  show execCqEnable q v s = _
  simp only [execCqEnable, if_neg (Nat.not_le.2 hq), h, Bool.false_eq_true, if_false]

theorem exec_cqEnable_refused (hs : s.power.stage = 8) (h : (s.cq q).on = false) {e : CmplQueue}
    (he : CmplQueue.withCfg { s.cq q with en := true } v = e) (hbad : s.cqOk e = false) :
    ∃ t, exec (.cqEnable q v) s = .next t ∧ t.cq q = e ∧ t.mem = s.mem ∧
      ∀ n, n < 64 → t.queue n = if (s.queue n).cq = q then { s.queue n with cfgerr := true } else s.queue n := by
  have hexec := exec_cqEnable_of_off s v hq h he
  rw [if_neg (Decidable.not_not.2 hs), if_neg (Bool.eq_false_iff.1 hbad)] at hexec
  refine ⟨_, hexec, ?_, State.queuesNaming_mem .., fun n hn => ?_⟩
  · rw [State.queuesNaming_cq, State.cq_setCq_same]
  · rw [State.queue_queuesNaming _ _ _ hn, State.queue_setCq]

theorem exec_cqDisable :
    exec (.cqDisable q v) s = .next (
      if (s.cq q).on then (s.setCq q { s.cq q with en := false, on := false }).flushCq q
      else s.setCq q (CmplQueue.withCfg { s.cq q with en := false } v)) := by
  show execCqDisable q v s = _
  simp only [execCqDisable, if_neg (Nat.not_le.2 hq)]

theorem exec_cheadWrite :
    exec (.cheadWrite q v) s = .next ((s.setCq q { s.cq q with head := v % 2 ^ 32 }).flushCq q) := by
  show execCheadWrite q v s = _
  rw [execCheadWrite, if_neg (Nat.not_le.2 hq)]

end

/-! ### Device registers (R346, R461, R464, R490) -/

/-- Does the lock of the interface hold the package's configuration (R461)? -/
def State.interfaceHeld (s : State) : Prop := s.sec.tdi = .locked ∨ s.sec.tdi = .run

theorem State.frozen_iff (s : State) (addr : Nat) :
    s.frozen addr = true ↔ s.interfaceHeld ∧ (addr = 0x1000 ∨ addr = 0x1008 ∨ addr = 0x1018 ∨ addr = 0x1028) := by
  simp [State.frozen, State.interfaceHeld, or_assoc]

theorem State.frozen_of_not_held {s : State} (h : ¬ s.interfaceHeld) (addr : Nat) : s.frozen addr = false :=
  Bool.eq_false_iff.2 fun hf => h ((s.frozen_iff addr).1 hf).1

theorem State.writeDevice_held {s : State} (h : s.interfaceHeld) {addr : Nat}
    (ha : addr = 0x1000 ∨ addr = 0x1008 ∨ addr = 0x1018 ∨ addr = 0x1028) (v : Nat) : s.writeDevice addr v = s :=
  if_pos ((s.frozen_iff addr).2 ⟨h, ha⟩)

section
variable {s : State} (h : ¬ s.interfaceHeld) (v : Nat)
include h

theorem State.writeDevice_schedCfg : s.writeDevice 0x1000 v =
    State.settleAged { s with cmd := { s.cmd with age := v % 2 ^ 32, reserve := min 6 (v / 2 ^ 32 % 8) } } := by
  simp [State.writeDevice, State.frozen_of_not_held h, field]

theorem State.writeDevice_linkCfg : s.writeDevice 0x1008 v =
    { s with link := { s.link with pto := max 100 (min 1000000 (v % 2 ^ 32)), kai := max 10 (v / 2 ^ 32 % 2 ^ 16) } } := by
  simp [State.writeDevice, State.frozen_of_not_held h, field]

theorem State.writeDevice_powerCfg : s.writeDevice 0x1028 v =
    { s with power := { s.power with gateIdle := v % 2 ^ 16, detLim := v / 2 ^ 16 % 2 ^ 16 } } := by
  simp [State.writeDevice, State.frozen_of_not_held h, field]

end

/-- From 0x10000 on stand the registers of the queues, which no lock holds. -/
theorem State.writeDevice_queues (s : State) {addr : Nat} (h : 0x10000 ≤ addr) (v : Nat) : s.writeDevice addr v =
    if addr < 0x11000 then s.writeQueue ((addr - 0x10000) / 64) (addr % 64) v
    else if 0x20000 ≤ addr ∧ addr < 0x21000 then s.writeCq ((addr - 0x20000) / 64) (addr % 64) v
    else s := by
  have hfrozen : ¬ s.frozen addr = true := fun hf => by have := ((s.frozen_iff addr).1 hf).2; omega
  rw [State.writeDevice, if_neg hfrozen, if_neg (by omega), if_neg (by omega), if_neg (by omega), if_neg (by omega)]
  simp only [h, true_and]

theorem State.writeDevice_queueBase (s : State) {q : Nat} (hq : q < 64) (v : Nat) : s.writeDevice (0x10000 + 64 * q) v =
    if (s.queue q).state = .off then s.setQueue q { s.queue q with base := BitVec.ofNat 64 v } else s := by
  have hplace : (0x10000 + 64 * q - 0x10000) / 64 = q ∧ (0x10000 + 64 * q) % 64 = 0 := by omega
  rw [s.writeDevice_queues (by omega), if_pos (by omega), hplace.1, hplace.2]
  simp [State.writeQueue]

theorem State.writeDevice_cqBase (s : State) {q : Nat} (hq : q < 64) (v : Nat) (hoff : (s.cq q).on = false) :
    s.writeDevice (0x20000 + 64 * q) v = s.setCq q { s.cq q with base := BitVec.ofNat 64 v } := by
  have hplace : (0x20000 + 64 * q - 0x20000) / 64 = q ∧ (0x20000 + 64 * q) % 64 = 0 := by omega
  rw [s.writeDevice_queues (by omega), if_neg (by omega), if_pos (by omega), hplace.1, hplace.2]
  simp [State.writeCq, hoff]

/-- 0x1020 is the place of no register that takes a write (R346). -/
theorem State.writeDevice_unlisted (s : State) (v : Nat) : s.writeDevice 0x1020 v = s := by
  simp [State.writeDevice]

/-! ### The management interface (R499 to R501) -/

theorem State.writeManagement_debugSid (s : State) (v : Nat) : s.writeManagement 0x1A0 v =
    if s.sec.debug = 2 then { s with power := { s.power with dbgSid := v % 2 ^ 12 } } else s := by
  by_cases h : s.sec.debug = 2 <;> simp [State.writeManagement, State.writeDebug, h]

/-! ### What no register write changes -/

/-- Memory, strands and cores stand as they stood. -/
def State.sameMachine (s t : State) : Prop := t.mem = s.mem ∧ t.strands = s.strands ∧ t.cores = s.cores

theorem State.sameMachine_refl (s : State) : s.sameMachine s := ⟨rfl, rfl, rfl⟩

theorem State.writeDebug_sameMachine (s : State) (i v : Nat) : s.sameMachine (s.writeDebug i v) := by
  unfold State.writeDebug
  split
  · exact s.sameMachine_refl
  · split <;> exact ⟨rfl, rfl, rfl⟩

theorem State.writeQueue_sameMachine (s : State) (q off v : Nat) : s.sameMachine (s.writeQueue q off v) := by
  dsimp only [State.writeQueue]
  repeat' split
  all_goals exact ⟨rfl, rfl, rfl⟩

theorem State.writeCq_sameMachine (s : State) (q off v : Nat) : s.sameMachine (s.writeCq q off v) := by
  dsimp only [State.writeCq]
  split <;> exact ⟨rfl, rfl, rfl⟩

theorem State.writeDevice_sameMachine (s : State) (addr v : Nat) : s.sameMachine (s.writeDevice addr v) := by
  unfold State.writeDevice
  split
  · exact s.sameMachine_refl
  iterate 3 (split; · exact ⟨rfl, rfl, rfl⟩)
  split
  · exact s.writeDebug_sameMachine ..
  split
  · exact s.writeQueue_sameMachine ..
  split
  · exact s.writeCq_sameMachine ..
  · exact s.sameMachine_refl

theorem State.writeManagement_sameMachine (s : State) (addr v : Nat) : s.sameMachine (s.writeManagement addr v) := by
  unfold State.writeManagement
  iterate 4 (split; · exact ⟨rfl, rfl, rfl⟩)
  split
  · exact s.writeDebug_sameMachine ..
  · exact s.sameMachine_refl

theorem exec_registerWrite_device {s t : State} {addr v : Nat} (h : s.writeDevice addr v = t) :
    exec (.registerWrite 0 addr v) s = .next t := congrArg Host.Outcome.next h

theorem exec_registerWrite_management {s t : State} {addr v : Nat} (h : s.writeManagement addr v = t) :
    exec (.registerWrite 1 addr v) s = .next t := congrArg Host.Outcome.next h

theorem exec_registerWrite_sameMachine (s : State) (space addr v : Nat) :
    ∃ t, exec (.registerWrite space addr v) s = .next t ∧ s.sameMachine t := by
  match space with
  | 0 => exact ⟨_, rfl, s.writeDevice_sameMachine addr v⟩
  | 1 => exact ⟨_, rfl, s.writeManagement_sameMachine addr v⟩
  | _ + 2 => exact ⟨_, rfl, s.sameMachine_refl⟩

/-! ### The statement -/

/-- Settles O38, clause by clause from the equations above. -/
theorem registers : Obligations.Registers := by
  unfold Obligations.Registers
  refine ⟨fun s q v hq => ?_, fun s v q space addr => ?_⟩
  · refine ⟨?_, s.queueOk_iff q _, fun hs ho hok => ?_, fun hs ho hbad => ?_, fun hs ho => ?_,
      exec_queueEnable_of_not_off s v hq, fun ho => ?_, fun ho => ?_, fun hs ho hok => ?_,
      fun hs ho => exec_cqEnable_refused s v hq hs ho rfl, fun hs ho => ?_,
      exec_cqEnable_of_on s v hq, fun ho => ?_, fun ho => ?_, exec_cheadWrite s v hq⟩
    · obtain ⟨t, ht, hcq, hw, hm, hn⟩ := exec_qtailWrite s v hq
      refine ⟨t, ht, ?_, ?_, ?_, hw, hm, hn⟩ <;> rw [hcq, CmdQueue.checked_eq]
      rfl
    · rw [exec_queueEnable_of_off s v hq ho rfl, if_neg (Decidable.not_not.2 hs), if_pos hok]
    · rw [exec_queueEnable_of_off s v hq ho rfl, if_neg (Decidable.not_not.2 hs), if_neg (Bool.eq_false_iff.1 hbad)]
    · rw [exec_queueEnable_of_off s v hq ho rfl, if_pos hs]
    · rw [exec_queueDisable s v hq, if_neg ho]
    · rw [exec_queueDisable s v hq, if_pos ho]
    · rw [exec_cqEnable_of_off s v hq ho rfl, if_neg (Decidable.not_not.2 hs), if_pos hok]
    · rw [exec_cqEnable_of_off s v hq ho rfl, if_pos hs]
    · rw [exec_cqDisable s v hq, if_pos ho]
    · rw [exec_cqDisable s v hq, if_neg (Bool.eq_false_iff.1 ho)]
  · refine ⟨fun h => ⟨?_, ?_, ?_⟩, fun h => ?_, fun h => ?_, fun h => ?_, fun hq ho => ?_, fun hq ho => ?_, fun hq ho => ?_,
      rfl, rfl, rfl, rfl, fun h => ?_, fun h => ?_, ?_, ?_, rfl⟩
    iterate 3 exact exec_registerWrite_device (State.writeDevice_held h (by simp) v)
    · exact exec_registerWrite_device (State.writeDevice_schedCfg h v)
    · exact exec_registerWrite_device (State.writeDevice_linkCfg h v)
    · exact exec_registerWrite_device (State.writeDevice_powerCfg h v)
    · exact exec_registerWrite_device ((s.writeDevice_queueBase hq v).trans (if_pos ho))
    · exact exec_registerWrite_device ((s.writeDevice_queueBase hq v).trans (if_neg ho))
    · exact exec_registerWrite_device (s.writeDevice_cqBase hq v ho)
    · exact exec_registerWrite_management ((s.writeManagement_debugSid v).trans (if_neg h))
    · exact exec_registerWrite_management ((s.writeManagement_debugSid v).trans (if_pos h))
    · exact exec_registerWrite_device (s.writeDevice_unlisted v)
    · exact exec_registerWrite_sameMachine s space addr v

end Sys2Proof.Machine
end

section
/-! PROOFS. What the accesses of a strand do at the homes of their lines (R25, R295 to R297, R416, R419): the byte that stands last in the
coherence order, which neither the retirement of a write nor an order of happens-before changes; what opening a line and reading from a
release sequence leave alone; the service of a part at its home. -/

namespace Sys2Proof.Machine

/-! ### The last byte of the coherence order (R419) -/

/-- The byte that a write gives at an address once it has reached its home. -/
def NarrowWrite.homeByte (w : NarrowWrite) (a : Nat) : Option Byte := if 0 < w.level then w.at? a else none

/-- A byte with some writes over it, those that have reached their home. -/
def overlay (a : Nat) (b : Byte) (ws : List NarrowWrite) : Byte := ws.foldl (fun b w => (w.homeByte a).getD b) b

@[simp] theorem overlay_nil (a : Nat) (b : Byte) : overlay a b [] = b := rfl

@[simp] theorem overlay_cons (a : Nat) (b : Byte) (w : NarrowWrite) (ws : List NarrowWrite) :
    overlay a b (w :: ws) = overlay a ((w.homeByte a).getD b) ws := rfl

@[simp] theorem overlay_append (a : Nat) (b : Byte) (l r : List NarrowWrite) :
    overlay a b (l ++ r) = overlay a (overlay a b l) r := List.foldl_append

/-- Writes that give nothing at an address may be left out. -/
theorem overlay_filter {a : Nat} {f : NarrowWrite → Bool} (ws : List NarrowWrite)
    (h : ∀ w ∈ ws, f w = false → w.homeByte a = none) (b : Byte) : overlay a b (ws.filter f) = overlay a b ws := by
  induction ws generalizing b with
  | nil => rfl
  | cons w ws ih =>
    have hws := ih fun v hv => h v (List.mem_cons_of_mem _ hv)
    cases hf : f w with
    | true => simp [hf, hws]
    | false => simp [hf, hws, h w List.mem_cons_self hf]

/-- Writes changed where they give the same byte leave it. -/
theorem overlay_map {a : Nat} {f : NarrowWrite → NarrowWrite} (ws : List NarrowWrite)
    (h : ∀ w ∈ ws, (f w).homeByte a = w.homeByte a) (b : Byte) : overlay a b (ws.map f) = overlay a b ws := by
  induction ws generalizing b with
  | nil => rfl
  | cons w ws ih =>
    simp [h w List.mem_cons_self, ih fun v hv => h v (List.mem_cons_of_mem _ hv)]

theorem overlay_of_none {a : Nat} (ws : List NarrowWrite) (h : ∀ w ∈ ws, w.homeByte a = none) (b : Byte) :
    overlay a b ws = b := by
  induction ws generalizing b with
  | nil => rfl
  | cons w ws ih => simp [h w List.mem_cons_self, ih fun v hv => h v (List.mem_cons_of_mem _ hv)]

theorem NarrowWrite.homeByte_of_pos {w : NarrowWrite} (h : 0 < w.level) (a : Nat) : w.homeByte a = w.at? a := if_pos h

theorem overlay_of_performed {a : Nat} (ws : List NarrowWrite) (h : ∀ w ∈ ws, 0 < w.level) (b : Byte) :
    overlay a b ws = ws.foldl (fun b w => (w.at? a).getD b) b := by
  induction ws generalizing b with
  | nil => rfl
  | cons w ws ih =>
    rw [overlay_cons, List.foldl_cons, NarrowWrite.homeByte_of_pos (h w List.mem_cons_self), ih fun v hv => h v (List.mem_cons_of_mem _ hv)]

/-- A write that gives a byte at an address is one of its location. -/
theorem NarrowWrite.at?_of_not_inWord {w : NarrowWrite} {a : Nat} (h : w.inWord (a / 8) = false) : w.at? a = none := by
  rw [NarrowWrite.inWord, List.any_eq_false] at h
  have hbyte := h (a % 8) (List.mem_range.2 (Nat.mod_lt _ (by decide)))
  rw [Nat.div_add_mod] at hbyte
  simpa using hbyte

theorem NarrowWrite.at?_of_no_data {w : NarrowWrite} (h : w.data.any Option.isSome = false) (a : Nat) : w.at? a = none := by
  rw [List.any_eq_false] at h
  unfold NarrowWrite.at?
  split
  · cases hd : w.data[a - w.addr]? with
    | none => rfl
    | some b => simpa using h b (List.mem_of_getElem? hd)
  · rfl

/-- The byte that an atomic finds is that of memory with all the writes over it that have reached their home. -/
theorem Mem.byteLast_eq (m : Mem) (a : Nat) : m.byteLast a = overlay a (cellGet m.cells a) m.narrow := by
  have hperformed : ∀ w ∈ m.history (a / 8), 0 < w.level := fun w hw =>
    of_decide_eq_true (Bool.and_eq_true_iff.1 (List.mem_filter.1 hw).2).1
  rw [Mem.byteLast, Mem.after, ← overlay_of_performed _ hperformed, Mem.history]
  refine overlay_filter _ (fun w _ hw => ?_) _
  unfold NarrowWrite.homeByte
  split
  · next hpos => exact NarrowWrite.at?_of_not_inWord (by simpa [hpos] using hw)
  · rfl

theorem Mem.byteLast_congr {m n : Mem} (hcells : n.cells = m.cells) (hnarrow : n.narrow = m.narrow) (a : Nat) :
    n.byteLast a = m.byteLast a := by
  rw [Mem.byteLast_eq, Mem.byteLast_eq, hcells, hnarrow]

theorem Mem.bytesLast_congr {m n : Mem} (hcells : n.cells = m.cells) (hnarrow : n.narrow = m.narrow) (a k : Nat) :
    n.bytesLast a k = m.bytesLast a k :=
  List.map_congr_left fun _ _ => Mem.byteLast_congr hcells hnarrow _

/-! ### A write that leaves its history (R419) -/

theorem cellGet_cellsPut (bs : List (Option Byte)) (m : List Host.Cell) (a c : Nat) :
    cellGet (cellsPut m a bs) c = (if a ≤ c then (bs[c - a]?).getD none else none).getD (cellGet m c) := by
  induction bs generalizing m a with
  | nil => simp [cellsPut]
  | cons b bs ih =>
    rcases Nat.lt_trichotomy c a with h | rfl | h
    · rw [cellGet_cellsPut_other _ (Or.inl h), if_neg (by omega)]; rfl
    · rw [if_pos (Nat.le_refl c), Nat.sub_self, List.getElem?_cons_zero]
      cases b with
      | none => exact cellGet_cellsPut_other bs (Or.inl (Nat.lt_succ_self c))
      | some b => exact (cellGet_cellsPut_other bs (Or.inl (Nat.lt_succ_self c))).trans (cellGet_put_same ..)
    · have hnext : c - a = c - (a + 1) + 1 := by omega
      rw [if_pos (Nat.le_of_lt h), hnext, List.getElem?_cons_succ]
      cases b with
      | none => rw [cellsPut, ih, if_pos (Nat.succ_le_of_lt h)]
      | some b => rw [cellsPut, ih, if_pos (Nat.succ_le_of_lt h), cellGet_put_other (Nat.ne_of_gt h)]

theorem Mem.cellGet_land (m : Mem) (w : NarrowWrite) (a : Nat) :
    cellGet (m.land w).cells a = (w.at? a).getD (cellGet m.cells a) := by
  refine (cellGet_cellsPut ..).trans (congrArg (Option.getD · _) ?_)
  unfold NarrowWrite.at?
  by_cases hlow : w.addr ≤ a
  · by_cases hhigh : a < w.addr + w.data.length
    · simp [hlow, hhigh]
    · rw [if_pos hlow, if_neg (by omega), List.getElem?_eq_none (by omega)]; rfl
  · rw [if_neg hlow, if_neg (by omega)]

/-- Writes that have reached their home and take their place in memory leave there what they gave. -/
theorem Mem.cellGet_foldl_land (a : Nat) (ws : List NarrowWrite) (h : ∀ w ∈ ws, 0 < w.level) (m : Mem) :
    cellGet (ws.foldl Mem.land m).cells a = overlay a (cellGet m.cells a) ws := by
  induction ws generalizing m with
  | nil => rfl
  | cons w ws ih =>
    rw [List.foldl_cons, ih fun v hv => h v (List.mem_cons_of_mem _ hv), Mem.cellGet_land, overlay_cons,
      NarrowWrite.homeByte_of_pos (h w List.mem_cons_self)]

theorem NarrowWrite.within_at? (v w : NarrowWrite) (a : Nat) :
    (v.within w).at? a = if w.inWord (a / 8) then v.at? a else none := by
  unfold NarrowWrite.at? NarrowWrite.within
  by_cases hin : v.addr ≤ a ∧ a < v.addr + v.data.length
  · have hlen : a - v.addr < v.data.length := by omega
    simp only [List.length_mapIdx, hin, and_self, if_true, List.getElem?_mapIdx, List.getElem?_eq_getElem hlen, Nat.add_sub_cancel' hin.1,
      Option.map_some, Option.getD_some]
  · simp [hin]

theorem NarrowWrite.outside_at? (v w : NarrowWrite) (a : Nat) :
    (v.outside w).at? a = if w.inWord (a / 8) then none else v.at? a := by
  unfold NarrowWrite.at? NarrowWrite.outside
  by_cases hin : v.addr ≤ a ∧ a < v.addr + v.data.length
  · have hlen : a - v.addr < v.data.length := by omega
    simp only [List.length_mapIdx, hin, and_self, if_true, List.getElem?_mapIdx, List.getElem?_eq_getElem hlen, Nat.add_sub_cancel' hin.1,
      Option.map_some, Option.getD_some]
  · simp [hin]

/-- The parts of earlier writes that take their place in memory with a write. -/
def landing (earlier : List NarrowWrite) (w : NarrowWrite) : List NarrowWrite :=
  ((earlier.filter fun v => decide (0 < v.level)).map fun v => v.within w).filter fun v => v.data.any Option.isSome

/-- The parts of earlier writes that stay in their histories when a write leaves them. -/
def staying (earlier : List NarrowWrite) (w : NarrowWrite) : List NarrowWrite :=
  (earlier.map fun v => if 0 < v.level then v.outside w else v).filter fun v => v.data.any Option.isSome

theorem landing_level {earlier : List NarrowWrite} {w v : NarrowWrite} (h : v ∈ landing earlier w) : 0 < v.level := by
  obtain ⟨u, hu, rfl⟩ := List.mem_map.1 (List.mem_filter.1 h).1
  exact of_decide_eq_true (List.mem_filter.1 hu).2

theorem NarrowWrite.homeByte_of_no_data {w : NarrowWrite} (h : w.data.any Option.isSome = false) (a : Nat) : w.homeByte a = none := by
  unfold NarrowWrite.homeByte
  split
  · exact NarrowWrite.at?_of_no_data h a
  · rfl

theorem overlay_landing (earlier : List NarrowWrite) (w : NarrowWrite) (a : Nat) (b : Byte) :
    overlay a b (landing earlier w) = if w.inWord (a / 8) then overlay a b earlier else b := by
  have hwithin (v : NarrowWrite) : (v.within w).homeByte a = if w.inWord (a / 8) then v.homeByte a else none := by
    have hlevel : (v.within w).level = v.level := rfl
    simp only [NarrowWrite.homeByte, hlevel, NarrowWrite.within_at?]
    cases w.inWord (a / 8) <;> simp
  rw [landing, overlay_filter _ fun v _ hv => NarrowWrite.homeByte_of_no_data hv a]
  split
  · next hin =>
    rw [overlay_map _ (fun v _ => by rw [hwithin, if_pos hin]), overlay_filter]
    exact fun v _ hv => if_neg (by simpa using hv)
  · next hin =>
    refine overlay_of_none _ (fun v hv => ?_) b
    obtain ⟨u, -, rfl⟩ := List.mem_map.1 hv
    rw [hwithin, if_neg hin]

theorem overlay_staying (earlier : List NarrowWrite) (w : NarrowWrite) (a : Nat) (b : Byte) :
    overlay a b (staying earlier w) = if w.inWord (a / 8) then b else overlay a b earlier := by
  have houtside (v : NarrowWrite) :
      (if 0 < v.level then v.outside w else v).homeByte a = if w.inWord (a / 8) then none else v.homeByte a := by
    by_cases hpos : 0 < v.level
    · have hlevel : (v.outside w).level = v.level := rfl
      simp only [NarrowWrite.homeByte, hlevel, if_pos hpos, NarrowWrite.outside_at?]
    · simp [NarrowWrite.homeByte, hpos]
  rw [staying, overlay_filter _ fun v _ hv => NarrowWrite.homeByte_of_no_data hv a]
  split
  · next hin =>
    refine overlay_of_none _ (fun v hv => ?_) b
    obtain ⟨u, -, rfl⟩ := List.mem_map.1 hv
    rw [houtside, if_pos hin]
  · next hin => exact overlay_map _ (fun v _ => by rw [houtside, if_neg hin]) b

section
variable {m : Mem} {w : NarrowWrite} {earlier later : List NarrowWrite} (hsplit : m.narrow = earlier ++ w :: later)
  (hearlier : ∀ v ∈ earlier, v.wid ≠ w.wid)
include hsplit hearlier

/-- What a write leaves behind when it leaves the histories of its locations. -/
theorem Mem.retire_eq : m.retire w =
    { ((landing earlier w).foldl Mem.land m).land w with narrow := staying earlier w ++ later } := by
  have htake : m.narrow.takeWhile (·.wid != w.wid) = earlier := by
    rw [hsplit, List.takeWhile_append_of_pos (by simpa using hearlier)]; simp
  have hdrop : (m.narrow.dropWhile (·.wid != w.wid)).drop 1 = later := by
    rw [hsplit, List.dropWhile_append_of_pos (by simpa using hearlier)]; simp
  rw [Mem.retire, htake, hdrop]
  rfl

theorem Mem.byteLast_retire (hlevel : 0 < w.level) (a : Nat) : (m.retire w).byteLast a = m.byteLast a := by
  rw [Mem.retire_eq hsplit hearlier, Mem.byteLast_eq, Mem.byteLast_eq m, hsplit]
  simp only [overlay_append, overlay_cons, Mem.cellGet_land, Mem.cellGet_foldl_land a _ fun _ => landing_level, overlay_landing,
    overlay_staying, NarrowWrite.homeByte_of_pos hlevel]
  cases hin : w.inWord (a / 8) with
  | true => simp
  | false => simp [NarrowWrite.at?_of_not_inWord hin]

end

/-- The writes that stay bear numbers that they bore. -/
theorem staying_wids (earlier : List NarrowWrite) (w : NarrowWrite) :
    ((staying earlier w).map (·.wid)).Sublist (earlier.map (·.wid)) := by
  have hsame : ∀ v : NarrowWrite, (if 0 < v.level then v.outside w else v).wid = v.wid := fun v => by split <;> rfl
  refine (List.filter_sublist.map _).trans ?_
  simp [Function.comp_def, hsame]

/-! ### Writes that settle (R416, R419, R421) -/

/-- No two writes bear one number. -/
def Mem.distinct (m : Mem) : Prop := (m.narrow.map (·.wid)).Nodup

/-- A write at .sy settles: it leaves the histories, unless its release has writes behind it that some agent may miss. -/
def Mem.settleWrite (m : Mem) (w : NarrowWrite) : Mem :=
  if w.tag.heads.any fun h => h.writes.any m.hidden then m else m.retire w

/-- Settling goes through the histories in their order, so what is still ahead of it stands as it stood. -/
theorem Mem.byteLast_settleWrites (a : Nat) (later earlier : List NarrowWrite) {m : Mem} (hsplit : m.narrow = earlier ++ later)
    (hdistinct : m.distinct) :
    ((later.filter fun w => decide (7 ≤ w.level)).foldl Mem.settleWrite m).byteLast a = m.byteLast a := by
  induction later generalizing earlier m with
  | nil => rfl
  | cons w later ih =>
    have hstep : m.narrow = (earlier ++ [w]) ++ later := by simpa using hsplit
    by_cases hlevel : 7 ≤ w.level
    · rw [List.filter_cons_of_pos (by simpa using hlevel), List.foldl_cons]
      unfold Mem.settleWrite
      split
      · exact ih _ hstep hdistinct
      · have hwids : ((earlier ++ w :: later).map (·.wid)).Nodup := hsplit ▸ hdistinct
        rw [List.map_append, List.map_cons] at hwids
        have hearlier : ∀ v ∈ earlier, v.wid ≠ w.wid := fun v hv =>
          (List.nodup_append.1 hwids).2.2 _ (List.mem_map_of_mem hv) _ List.mem_cons_self
        have hretired := Mem.retire_eq hsplit hearlier
        rw [← Mem.byteLast_retire hsplit hearlier (by omega) a]
        refine ih (staying earlier w) (by rw [hretired]) ?_
        rw [Mem.distinct, hretired, List.map_append]
        exact hwids.sublist ((staying_wids earlier w).append (List.sublist_cons_self ..))
    · rw [List.filter_cons_of_neg (by simpa using hlevel)]
      exact ih _ hstep hdistinct

/-- Writes that settle change no byte that is read last. -/
theorem Mem.byteLast_settle {m : Mem} (h : m.distinct) (a : Nat) : m.settle.byteLast a = m.byteLast a :=
  Mem.byteLast_settleWrites a m.narrow [] rfl h

/-! ### A new write at its home (R416, R419) -/

/-- The numbers of the writes are distinct, and the next one is not among them. -/
def Mem.fresh (m : Mem) : Prop := m.distinct ∧ ∀ w ∈ m.narrow, w.wid < m.wnext

/-- A write that reaches its home gives its bytes, last in the coherence order. -/
theorem Mem.byteLast_promote_new {m : Mem} (h : m.fresh) {w : NarrowWrite} (hwid : w.wid = m.wnext) (hnew : w.level = 0) {level : Nat}
    (hlevel : 0 < level) (a n : Nat) :
    ({ m with narrow := m.narrow ++ [w], wnext := n }.promote m.wnext level).byteLast a = (w.at? a).getD (m.byteLast a) := by
  obtain ⟨hdistinct, hlt⟩ := h
  have hother : ∀ v ∈ m.narrow, v.wid ≠ m.wnext := fun v hv => Nat.ne_of_lt (hlt v hv)
  have hfind : (m.narrow ++ [w]).find? (·.wid == m.wnext) = some w := by
    rw [List.find?_append, List.find?_eq_none.2 (by simpa using hother)]; simp [hwid]
  have hfilter : (m.narrow ++ [w]).filter (·.wid != m.wnext) = m.narrow := by
    rw [List.filter_append, List.filter_eq_self.2 (by simpa using hother)]; simp [hwid]
  have hlanded : ({ m with narrow := m.narrow ++ [{ w with level := level }], wnext := n } : Mem).byteLast a =
      (w.at? a).getD (m.byteLast a) := by
    simp only [Mem.byteLast_eq, overlay_append, overlay_cons, overlay_nil]
    rw [NarrowWrite.homeByte_of_pos hlevel]
    rfl
  have hnext : ({ m with narrow := m.narrow ++ [{ w with level := level }], wnext := n } : Mem).distinct := by
    simp only [Mem.distinct, List.map_append, List.map_cons, List.map_nil, hwid]
    exact List.nodup_append.2 ⟨hdistinct, List.pairwise_singleton .., by simpa using hother⟩
  simp only [Mem.promote, hfind, hnew, Nat.le_zero, Nat.pos_iff_ne_zero.1 hlevel, if_false, if_true, hfilter]
  split
  · rw [Mem.byteLast_settle hnext, hlanded]
  · exact hlanded

/-- The memory-side caches hold no bytes of their own. -/
theorem Mem.cached_eq (m : Mem) (key pa : Nat) (write : Bool) :
    m.cached key pa write = { m with cache := (m.cached key pa write).cache } := by
  unfold Mem.cached Mem.intoCache
  dsimp only
  split
  · rfl
  · split
    · split <;> rfl
    · rfl

/-- A write that is performed somewhere stands last in the coherence order with its bytes; all others are as they were. -/
theorem Mem.byteLast_write {m : Mem} (h : m.fresh) (sid : Nat) {level : Nat} (hlevel : 0 < level) (pa : Nat) (bs : List Byte) (poison : Bool)
    (key : Nat) (clears : Bool) (tag : WriteTag) (a : Nat) :
    (m.write sid level pa bs poison key clears tag).byteLast a =
      (if pa ≤ a ∧ a < pa + bs.length then bs[a - pa]? else none).getD (m.byteLast a) := by
  rw [Mem.write, Mem.writeSome, Mem.cached_eq]
  refine (Mem.byteLast_congr (m := Mem.promote ..) rfl rfl a).trans ((Mem.byteLast_promote_new h rfl rfl hlevel a _).trans ?_)
  refine congrArg (Option.getD · _) ?_
  simp only [NarrowWrite.at?, List.length_map, List.getElem?_map]
  split
  · cases bs[a - pa]? <;> rfl
  · rfl

/-- Memory after some bytes were written: they are what is read last, and so is, around them, what was before. -/
def Mem.wrote (m n : Mem) (pa : Nat) (bs : List Byte) : Prop :=
  (∀ i < bs.length, n.byteLast (pa + i) = (bs[i]?).getD 0) ∧ ∀ x, x < pa ∨ pa + bs.length ≤ x → n.byteLast x = m.byteLast x

theorem Mem.wrote_congr {m n n' : Mem} {pa : Nat} {bs : List Byte} (h : m.wrote n pa bs) (hsame : ∀ x, n'.byteLast x = n.byteLast x) :
    m.wrote n' pa bs := by
  simpa only [Mem.wrote, hsame] using h

theorem Mem.wrote_write {m : Mem} (h : m.fresh) (sid : Nat) {level : Nat} (hlevel : 0 < level) (pa : Nat) (bs : List Byte) (poison : Bool)
    (key : Nat) (clears : Bool) (tag : WriteTag) : m.wrote (m.write sid level pa bs poison key clears tag) pa bs := by
  refine ⟨fun i hi => ?_, fun x hx => ?_⟩
  · rw [Mem.byteLast_write h sid hlevel]; simp [hi]
  · rw [Mem.byteLast_write h sid hlevel, if_neg (by omega)]; rfl

/-! ### Happens-before changes no byte (R420 to R424) -/

/-- Only the histories know what happens before what. -/
theorem Mem.acquire_narrow (m : Mem) (heads : List Release) (agent : Nat) (sc : Scope) (n : Nat) :
    m.acquire heads agent sc n = { m with narrow := (m.acquire heads agent sc n).narrow } := by
  induction heads generalizing m with
  | nil => rfl
  | cons h heads ih =>
    unfold Mem.acquire at ih ⊢
    rw [List.foldl_cons, ih]
    split <;> rfl

theorem Mem.byteLast_order (m : Mem) (ids : List Nat) (agent n a : Nat) : (m.order ids agent n).byteLast a = m.byteLast a := by
  rw [Mem.byteLast_eq, Mem.byteLast_eq]
  exact overlay_map _ (fun w _ => by split <;> rfl) _

theorem Mem.byteLast_acquire (m : Mem) (heads : List Release) (agent : Nat) (sc : Scope) (n a : Nat) :
    (m.acquire heads agent sc n).byteLast a = m.byteLast a := by
  induction heads generalizing m with
  | nil => rfl
  | cons h heads ih =>
    unfold Mem.acquire at ih ⊢
    rw [List.foldl_cons, ih]
    split
    · exact Mem.byteLast_order ..
    · rfl

/-- A read from release sequences is noted with the strand that reads, and orders memory at most. -/
theorem State.readsFrom_cases (s : State) (sid : Nat) (a : Access) (queue : Nat) (heads : List Release) :
    s.readsFrom sid a queue heads = s ∨
    ∃ hs rs, s.readsFrom sid a queue heads =
      { s with mem := s.mem.acquire hs sid a.sc (a.seq + 1) }.setStrand sid { s.strand sid with reads := rs } := by
  unfold State.readsFrom
  dsimp only
  split
  · exact Or.inl rfl
  · refine Or.inr ?_
    split
    · exact ⟨_, _, rfl⟩
    · exact ⟨[], _, rfl⟩

@[simp] theorem State.readsFrom_cmd (s : State) (sid : Nat) (a : Access) (queue : Nat) (heads : List Release) :
    (s.readsFrom sid a queue heads).cmd = s.cmd := by
  rcases s.readsFrom_cases sid a queue heads with h | ⟨hs, rs, h⟩ <;> rw [h]
  rfl

theorem State.readsFrom_mem (s : State) (sid : Nat) (a : Access) (queue : Nat) (heads : List Release) :
    (s.readsFrom sid a queue heads).mem = { s.mem with narrow := (s.readsFrom sid a queue heads).mem.narrow } := by
  rcases s.readsFrom_cases sid a queue heads with h | ⟨hs, rs, h⟩ <;> rw [h]
  exact Mem.acquire_narrow ..

theorem State.readsFrom_byteLast (s : State) (sid : Nat) (a : Access) (queue : Nat) (heads : List Release) (x : Nat) :
    (s.readsFrom sid a queue heads).mem.byteLast x = s.mem.byteLast x := by
  rcases s.readsFrom_cases sid a queue heads with h | ⟨hs, rs, h⟩ <;> rw [h]
  exact Mem.byteLast_acquire ..

theorem State.readsFrom_strand (s : State) (sid : Nat) (a : Access) (queue : Nat) (heads : List Release) :
    ∃ rs, (s.readsFrom sid a queue heads).strand sid = { s.strand sid with reads := rs } := by
  rcases s.readsFrom_cases sid a queue heads with h | ⟨hs, rs, h⟩ <;> rw [h]
  · exact ⟨(s.strand sid).reads, rfl⟩
  · exact ⟨rs, State.strand_setStrand_same ..⟩

/-! ### A line that opens, and what an access of a group notes (R25, R322, R332, R354) -/

/-- A line that opens under its reader's key goes through the cache of its home and changes nothing else. -/
theorem State.openLine_of_opens {s : State} {key pa : Nat} (h : s.mem.opens key pa = true) (ctx : Nat) :
    s.openLine ctx key pa = { s with mem := { s.mem with
      cache := (s.mem.cached key pa false).cache, transit := (s.mem.cached key pa false).transit.filter (· != pa / 64) } } := by
  have hopens : Mem.opens { s.mem with cache := (s.mem.cached key pa false).cache, transit :=
      (s.mem.cached key pa false).transit.filter (· != pa / 64) } key pa = true := h
  unfold State.openLine
  rw [Mem.cached_eq] at hopens ⊢
  simp only [hopens, Bool.true_or, if_true]

theorem State.leavesScratch_cases (s : State) (sid pa : Nat) :
    s.leavesScratch sid pa = s ∨ ∃ gid g, s.leavesScratch sid pa = s.setGroup gid g := by
  unfold State.leavesScratch State.leavesFor
  split
  · generalize (mramSlice _).isSome = inSlice
    cases inSlice
    · exact Or.inr ⟨_, _, rfl⟩
    · exact Or.inl rfl
  · exact Or.inl rfl

@[simp] theorem State.leavesScratch_mem (s : State) (sid pa : Nat) : (s.leavesScratch sid pa).mem = s.mem := by
  rcases s.leavesScratch_cases sid pa with h | ⟨gid, g, h⟩ <;> rw [h]
  rfl

@[simp] theorem State.leavesScratch_strand (s : State) (sid pa n : Nat) : (s.leavesScratch sid pa).strand n = s.strand n := by
  rcases s.leavesScratch_cases sid pa with h | ⟨gid, g, h⟩ <;> rw [h]
  rfl

@[simp] theorem State.rewrites_mem (s : State) (lid va n : Nat) : (s.rewrites lid va n).mem = s.mem := by
  unfold State.rewrites
  dsimp only
  split <;> rfl

/-- What the copies of a launch give depends on the launches alone. -/
theorem State.asCopied_congr {s t : State} (h : t.cmd = s.cmd) : t.asCopied = s.asCopied := by
  funext lid va r
  unfold State.asCopied State.launch
  rw [h]

/-- A launch that keeps no copies of its arguments reads what memory holds (R354). -/
theorem State.asCopied_unbound {s : State} {lid : Nat} (h : (s.launch lid).bound = false) (va : Nat) (r : List Byte × Bool) :
    s.asCopied lid va r = r := by
  simp [State.asCopied, Launch.copies, h]

theorem State.readLine_bytes {s : State} {key pa : Nat} (hpeer : peerOf pa = none) (hkey : s.mem.sameKey key pa = true) (r : Reader)
    (n : Nat) : (s.readLine r key pa n).1 = s.mem.bytesFor r pa n := by
  simp [State.readLine, hpeer, hkey]

/-! ### The service of a part at a home of this package -/

/-- What the turn of a part comes to, from what its service comes to. -/
def Served.outcome (s : State) (sid k part : Nat) (a : Access) : Served → Host.Outcome State Fault Refusal
  | .no => .next s
  | .fails t va => .next (t.escalateOutside sid cPERM va 2)
  | .parks t p => .next (t.setStrand sid ((t.strand sid).setAccess k (a.setPart part p)))
  | .breaks t => .next t
  | .part t p =>
    let a' := (a.setPart part p).shareReads p
    .next ((t.setStrand sid ((t.strand sid).setAccess k a')).afterService sid a' p)

/-- Where no hold of the package and no access ahead keeps it back, an access comes to what the service of its part comes to. -/
theorem exec_homeAccess {s : State} {sid k part : Nat} {a : Access} {p : Part} (sc : Scope) (hsid : sid < 3072)
    (hpower : s.power.kiln ≠ .held ∨ s.power.lost = true) (ha : ((s.strand sid).lq ++ (s.strand sid).sq)[k]? = some a)
    (hp : a.parts[part]? = some p) (hahead : ((s.strand sid).ahead k).any (s.awaitsEntry sid) = false) :
    exec (.homeAccess sid k part sc) s =
      (s.servePart sid ((s.strand sid).lq ++ (s.strand sid).sq) a p (Scope.level sc)).outcome s sid k part a := by
  have hrun : (s.power.kiln == .held && !s.power.lost) = false := by
    rcases hpower with h | h <;> simp [h]
  have hstrand : sid ≠ orphanAgent := by unfold orphanAgent; omega
  change execHomeAccess sid k part sc s = _
  unfold execHomeAccess
  cases hserved : s.servePart sid ((s.strand sid).lq ++ (s.strand sid).sq) a p (Scope.level sc) <;>
    simp [hrun, hstrand, ha, hp, hahead, hserved, Served.outcome]

theorem State.servePart_held {s : State} {before : List Access} {a : Access} {p : Part} (h : mayServe before a p = false) (sid level : Nat) :
    s.servePart sid before a p level = .no := by
  simp [State.servePart, h]

/-! ### What a load gets (R25, R354) -/

/-- The part of a load once it has read its line, as its launch sees it. -/
def State.loadedPart (s : State) (sid : Nat) (a : Access) (p : Part) (pa : Nat) : Part :=
  let got := s.readLine (s.readerOf sid a.seq) (s.ctx a.ctx).keyId pa p.len
  let seen := s.asCopied (s.strand sid).launch p.va (got.1, got.2 || p.bad)
  { p with data := seen.1, poison := seen.2, returned := true, level := 7 }

theorem State.loadedPart_data {s : State} {sid pa : Nat} {a : Access} (p : Part) (hpeer : peerOf pa = none)
    (hbound : (s.launch (s.strand sid).launch).bound = false) (hkey : s.mem.sameKey (s.ctx a.ctx).keyId pa = true) :
    (s.loadedPart sid a p pa).data = s.mem.bytesFor (s.readerOf sid a.seq) pa p.len := by
  simp only [State.loadedPart, State.asCopied_unbound hbound, State.readLine_bytes hpeer hkey]

/-- What enters a memory-side cache does not depend on the histories. -/
theorem Mem.cached_cache_narrow (m : Mem) (ns : List NarrowWrite) (key pa : Nat) (write : Bool) :
    (Mem.cached { m with narrow := ns } key pa write).cache = (m.cached key pa write).cache := by
  have hvictim : ∀ io, Mem.victim { m with narrow := ns } io = m.victim io := fun _ => rfl
  unfold Mem.cached Mem.intoCache
  simp only [hvictim]
  split
  · rfl
  · split
    · split <;> rfl
    · rfl

/-- A load notes what it has read, opens its line and takes its bytes; memory keeps its own. -/
theorem State.serveLoad_home {s : State} {sid pa : Nat} {a : Access} (p : Part) (hpeer : peerOf pa = none)
    (hopens : s.mem.opens (s.ctx a.ctx).keyId pa = true) :
    ∃ u : State, s.serveLoad sid a p pa = (u, s.loadedPart sid a p pa) ∧ u.mem.cells = s.mem.cells ∧
      u.mem.cache = (s.mem.cached (s.ctx a.ctx).keyId pa false).cache ∧ (u.strand sid).x = (s.strand sid).x := by
  let r := s.readerOf sid a.seq
  let noted : State := { s with mem := s.mem.noteRead (s.mem.idsRead r pa p.len) sid }
  let t := noted.readsFrom sid a 0 (s.mem.headsRead r pa p.len)
  have hcmd : t.cmd = s.cmd := noted.readsFrom_cmd ..
  have hmem : t.mem = { s.mem with narrow := t.mem.narrow } := noted.readsFrom_mem ..
  obtain ⟨rs, hstrand⟩ : ∃ rs, t.strand sid = { s.strand sid with reads := rs } := noted.readsFrom_strand ..
  have hline := State.openLine_of_opens (s := t) (by rw [hmem]; exact hopens) a.ctx
  have hx : (t.strand sid).x = (s.strand sid).x := by rw [hstrand]
  have hserved : s.serveLoad sid a p pa =
      ((t.openLine a.ctx (s.ctx a.ctx).keyId pa).bump.leavesScratch sid pa, s.loadedPart sid a p pa) := by
    have hseen : (t.openLine a.ctx (s.ctx a.ctx).keyId pa).bump.asCopied = s.asCopied :=
      State.asCopied_congr (by rw [hline]; exact hcmd)
    have hlaunch : ((t.openLine a.ctx (s.ctx a.ctx).keyId pa).strand sid).launch = (s.strand sid).launch := by
      rw [hline]
      exact (congrArg Strand.launch hstrand :)
    simp only [State.serveLoad, hpeer, State.loadedPart, ← hseen, ← hlaunch]
    rfl
  refine ⟨_, hserved, ?_, ?_, ?_⟩
  · rw [State.leavesScratch_mem, State.bump_mem, hline, hmem]
  · rw [State.leavesScratch_mem, State.bump_mem, hline, hmem]
    exact Mem.cached_cache_narrow ..
  · rw [State.leavesScratch_strand, State.strand_bump, hline]
    exact hx

/-! ### What a store and an atomic leave (R295 to R297, R416) -/

/-- Memory after a line was opened: the same, but for the caches and the lines in transit. -/
def Mem.opened (m n : Mem) : Prop := n = { m with cache := n.cache, transit := n.transit }

theorem Mem.opened_refl (m : Mem) : m.opened m := rfl

theorem State.openLine_opened {s t : State} (ht : t.mem = s.mem) {key pa : Nat} (h : s.mem.opens key pa = true) (ctx : Nat) :
    s.mem.opened (t.openLine ctx key pa).mem := by
  rw [← ht] at h ⊢
  rw [State.openLine_of_opens h]
  rfl

/-- What a write leaves in memory of which a line was opened. -/
theorem Mem.opened.wrote_write {m n : Mem} (hopened : m.opened n) (h : m.fresh) (sid : Nat) {level : Nat} (hlevel : 0 < level) (pa : Nat)
    (bs : List Byte) (poison : Bool) (key : Nat) (clears : Bool) (tag : WriteTag) :
    m.wrote (n.write sid level pa bs poison key clears tag) pa bs := by
  have hnarrow : n.narrow = m.narrow := by rw [hopened]
  have hfresh : n.fresh := by
    unfold Mem.fresh Mem.distinct at *
    rwa [hopened]
  obtain ⟨hbytes, hrest⟩ := Mem.wrote_write hfresh sid hlevel pa bs poison key clears tag
  exact ⟨hbytes, fun x hx => (hrest x hx).trans (Mem.byteLast_congr (by rw [hopened]) hnarrow x)⟩

/-- A store that is performed for the first time writes its bytes. -/
theorem State.wrote_serveStore {s : State} {sid pa level : Nat} {a : Access} {p : Part} (hpeer : peerOf pa = none)
    (hopens : s.mem.opens (s.ctx a.ctx).keyId pa = true) (hnew : p.level = 0) (hfresh : s.mem.fresh) (hlevel : 0 < level) (own : Bool) :
    s.mem.wrote (s.serveStore sid own a p pa level).1.mem pa p.data := by
  have hnoted : ∀ lid, (((if p.track then s.setCtx a.ctx ((s.ctx a.ctx).mark p.va) else s).leavesScratch sid pa).rewrites lid p.va p.len).mem
      = s.mem := fun lid => by
    rw [State.rewrites_mem, State.leavesScratch_mem]
    split <;> rfl
  simp only [State.serveStore, hnew, Nat.lt_irrefl, if_false, hpeer]
  refine Mem.opened.wrote_write ?_ hfresh sid hlevel pa p.data _ _ _ _
  split
  · rw [hnoted]; exact s.mem.opened_refl
  · exact State.openLine_opened (hnoted _) hopens _

/-- The bytes that an atomic leaves where it found some: the new value, or, of a `cas` that does not match, the old one. -/
def atomicBytes (op : AccOp) (old data cmp : List Byte) : List Byte :=
  ((atomicValue op (8 * data.length) (ofBytes old) (ofBytes data) (ofBytes cmp)).map (toBytes · data.length)).getD old

/-- An atomic at a line that is not poisoned and that opens is a write of its bytes. -/
theorem State.atomicAt_clean {s : State} {key pa : Nat} (hpoison : s.mem.poisonLast (pa / 64) = false) (hopens : s.mem.opens key pa = true)
    (agent level : Nat) (op : AccOp) (data cmp : List Byte) (tag : WriteTag) :
    ∃ carried : WriteTag, (s.atomicAt agent key level pa op data cmp false tag).1.mem =
      s.mem.write agent level pa (atomicBytes op (s.mem.bytesLast pa data.length) data cmp) false key false carried := by
  simp only [State.atomicAt, atomicBytes, hpoison, hopens, Bool.or_self, Bool.not_true, Bool.false_eq_true, if_false]
  cases atomicValue op (8 * data.length) (ofBytes (s.mem.bytesLast pa data.length)) (ofBytes data) (ofBytes cmp) <;>
    exact ⟨_, rfl⟩

/-- What an atomic of a strand notes beside its access at the home changes no byte. -/
theorem State.serveAtomic_byteLast {s : State} {sid pa : Nat} {a : Access} {p : Part} (hpeer : peerOf pa = none) (hnew : p.level = 0)
    (level : Nat) : ∃ tag : WriteTag, ∀ x, (s.serveAtomic sid true a p pa level).1.mem.byteLast x =
      (((s.leavesScratch sid pa).openLine a.ctx (s.ctx a.ctx).keyId pa).atomicAt sid (s.ctx a.ctx).keyId level pa a.op p.data p.cmp p.bad
        tag).1.mem.byteLast x := by
  have hnoted : ∀ (r : State × List Byte × Bool × Bool) (heads : List Release) (c : Ctx) (lid x : Nat),
      (if r.2.2.2 then (if r.2.2.2 && p.track then (r.1.readsFrom sid a 1 heads).setCtx a.ctx c else r.1.readsFrom sid a 1 heads).rewrites lid
          p.va p.data.length
        else if r.2.2.2 && p.track then (r.1.readsFrom sid a 1 heads).setCtx a.ctx c
        else r.1.readsFrom sid a 1 heads).mem.byteLast x = r.1.mem.byteLast x := by
    rintro ⟨t, old, bad, wrote⟩ heads c lid x
    rw [← State.readsFrom_byteLast t sid a 1 heads x]
    cases wrote
    · rfl
    · cases p.track <;> simp
  simp only [State.serveAtomic, hnew, Nat.lt_irrefl, if_false, hpeer, if_true]
  exact ⟨_, hnoted _ _ _ _⟩

/-- An atomic that finds no poison writes its bytes. -/
theorem State.wrote_serveAtomic {s : State} {sid pa level : Nat} {a : Access} {p : Part} (hpeer : peerOf pa = none)
    (hopens : s.mem.opens (s.ctx a.ctx).keyId pa = true) (hnew : p.level = 0) (hfresh : s.mem.fresh) (hlevel : 0 < level)
    (hbad : p.bad = false) (hpoison : s.mem.poisonLast (pa / 64) = false) :
    s.mem.wrote (s.serveAtomic sid true a p pa level).1.mem pa (atomicBytes a.op (s.mem.bytesLast pa p.data.length) p.data p.cmp) := by
  have hopened := State.openLine_opened (State.leavesScratch_mem s sid pa) hopens a.ctx
  obtain ⟨tag, hnoted⟩ := State.serveAtomic_byteLast (s := s) (sid := sid) (a := a) hpeer hnew level
  refine Mem.wrote_congr ?_ hnoted
  generalize (s.leavesScratch sid pa).openLine a.ctx (s.ctx a.ctx).keyId pa = t at hopened ⊢
  have hold : t.mem.bytesLast pa p.data.length = s.mem.bytesLast pa p.data.length :=
    Mem.bytesLast_congr (by rw [hopened]) (by rw [hopened]) _ _
  obtain ⟨carried, hwrite⟩ := State.atomicAt_clean (s := t) (by rw [hopened]; exact hpoison) (by rw [hopened]; exact hopens) sid level a.op
    p.data p.cmp tag
  rw [hbad, hwrite, hold]
  exact hopened.wrote_write hfresh sid hlevel pa _ _ _ _ _

/-! ### A part that reaches its home -/

/-- Access `k` of a strand and a part of it that nothing keeps back: no hold of the package, no access ahead, no edge of R420; its home is
one of this package, its route carries traffic, and its line opens under its context's key. -/
structure State.reaches (s : State) (sid k part pa : Nat) (a : Access) (p : Part) : Prop where
  strand : sid < 3072
  power : s.power.kiln ≠ .held ∨ s.power.lost = true
  access : ((s.strand sid).lq ++ (s.strand sid).sq)[k]? = some a
  part : a.parts[part]? = some p
  ahead : ((s.strand sid).ahead k).any (s.awaitsEntry sid) = false
  serve : mayServe ((s.strand sid).lq ++ (s.strand sid).sq) a p = true
  place : p.pa = some pa
  peer : peerOf pa = none
  host : isHost pa = false
  route : s.routeOpen sid pa = true
  opens : s.mem.opens (s.ctx a.ctx).keyId pa = true

/-- Has another part of a gather asked a peer for the same address (R294)? -/
def Access.twinAsks (a : Access) (p : Part) : Bool :=
  a.op == .gather && p.ask.isNone && a.parts.any fun x => x.va == p.va && x.ask.isSome

theorem Access.twinAsks_of_no_ask {a : Access} (h : ∀ x ∈ a.parts, x.ask = none) (p : Part) : a.twinAsks p = false := by
  have hnone : (a.parts.any fun x => x.va == p.va && x.ask.isSome) = false := List.any_eq_false.2 fun x hx => by simp [h x hx]
  rw [Access.twinAsks, hnone, Bool.and_false]

theorem Access.twinAsks_of_not_gather {a : Access} (h : a.op ≠ .gather) (p : Part) : a.twinAsks p = false := by
  simp [Access.twinAsks, h]

/-- A part of which nothing has been performed, of an access that does not load, is not done. -/
theorem Part.doneAt_of_new {p : Part} {op : AccOp} (hload : AccOp.isLoad op = false) (hnew : p.level = 0) : p.doneAt op 7 = false := by
  simp [Part.doneAt, hload, hnew]

theorem AccOp.of_isLoad : {op : AccOp} → AccOp.isLoad op = true → op ≠ .epstore
  | .load, _ | .gather, _ => nofun

theorem AccOp.of_store {op : AccOp} (h : op = .store ∨ op = .scatter ∨ op = .qstore) :
    AccOp.isLoad op = false ∧ AccOp.isAtomic op = false ∧ op ≠ .epstore ∧ op ≠ .gather := by
  rcases h with rfl | rfl | rfl <;> decide

theorem AccOp.of_isAtomic : {op : AccOp} → AccOp.isAtomic op = true → AccOp.isLoad op = false ∧ op ≠ .epstore ∧ op ≠ .gather
  | .amo .., _ | .cas _, _ => ⟨rfl, nofun, nofun⟩

section
variable {s : State} {sid k part pa : Nat} {sc : Scope} {a : Access} {p : Part} (h : s.reaches sid k part pa a p)
include h

/-- A part that reaches its home is served there as its operation says. -/
theorem State.reaches.exec_eq (hop : a.op ≠ .epstore) (hdone : p.doneAt a.op 7 = false) (htwin : a.twinAsks p = false) {r : State × Part}
    (hr : r = if AccOp.isLoad a.op then s.serveLoad sid a p pa
      else if AccOp.isAtomic a.op then s.serveAtomic sid true a p pa (Scope.level sc) else s.serveStore sid true a p pa (Scope.level sc)) :
    exec (.homeAccess sid k part sc) s = (Served.part r.1 r.2).outcome s sid k part a := by
  have hstart : (a.op == .epstore || p.doneAt a.op 7 || a.twinAsks p || !mayServe ((s.strand sid).lq ++ (s.strand sid).sq) a p) = false := by
    simp [hop, hdone, htwin, h.serve]
  have hplace : s.retranslate sid a p (!AccOp.isLoad a.op) = .part s p := by simp [State.retranslate, h.place]
  have hhome : s.lostHome pa = false := by simp [State.lostHome, h.peer, h.host]
  have hreach : s.reachable sid pa = true := by simp [State.reachable, h.peer, h.host, h.route]
  have hweight : peerWeight pa = false := by simp [peerWeight, h.peer]
  unfold Access.twinAsks at hstart
  rw [exec_homeAccess sc h.strand h.power h.access h.part h.ahead]
  simp [State.servePart, hstart, hplace, h.place, hhome, hreach, hweight, hr]

theorem State.reaches.exec_load (hload : AccOp.isLoad a.op = true) (hreturned : p.returned = false) (hask : ∀ x ∈ a.parts, x.ask = none) :
    ∃ u : State, exec (.homeAccess sid k part sc) s = (Served.part u (s.loadedPart sid a p pa)).outcome s sid k part a ∧
      u.mem.cells = s.mem.cells ∧ u.mem.cache = (s.mem.cached (s.ctx a.ctx).keyId pa false).cache ∧
      (u.strand sid).x = (s.strand sid).x := by
  obtain ⟨u, hread, hkept⟩ := State.serveLoad_home (sid := sid) p h.peer h.opens
  exact ⟨u, h.exec_eq (AccOp.of_isLoad hload) (by simp [Part.doneAt, hload, hreturned]) (Access.twinAsks_of_no_ask hask p)
    (r := (u, s.loadedPart sid a p pa)) (by rw [if_pos hload, hread]), hkept⟩

/-- What a strand does with a part that was served changes no memory. -/
theorem State.reaches.exec_mem (hload : AccOp.isLoad a.op = false) (hop : a.op ≠ .epstore) (hgather : a.op ≠ .gather) (hnew : p.level = 0)
    {r : State × Part} (hr : r = if AccOp.isAtomic a.op then s.serveAtomic sid true a p pa (Scope.level sc)
      else s.serveStore sid true a p pa (Scope.level sc)) :
    ∃ t, exec (.homeAccess sid k part sc) s = .next t ∧ t.mem = r.1.mem :=
  ⟨_, h.exec_eq hop (Part.doneAt_of_new hload hnew) (Access.twinAsks_of_not_gather hgather p) (by rw [hr, hload]; rfl), rfl⟩

theorem State.reaches.exec_store (hstore : a.op = .store ∨ a.op = .scatter ∨ a.op = .qstore) (hnew : p.level = 0) (hfresh : s.mem.fresh)
    (hlevel : 0 < Scope.level sc) : ∃ t, exec (.homeAccess sid k part sc) s = .next t ∧ s.mem.wrote t.mem pa p.data := by
  obtain ⟨hload, hatomic, hop, hgather⟩ := AccOp.of_store hstore
  obtain ⟨t, hnext, ht⟩ := h.exec_mem (sc := sc) (r := s.serveStore sid true a p pa (Scope.level sc)) hload hop hgather hnew
    (by simp [hatomic])
  exact ⟨t, hnext, ht ▸ State.wrote_serveStore h.peer h.opens hnew hfresh hlevel true⟩

theorem State.reaches.exec_atomic (hatomic : AccOp.isAtomic a.op = true) (hnew : p.level = 0) (hfresh : s.mem.fresh)
    (hlevel : 0 < Scope.level sc) (hbad : p.bad = false) (hpoison : s.mem.poisonLast (pa / 64) = false) :
    ∃ t, exec (.homeAccess sid k part sc) s = .next t ∧
      s.mem.wrote t.mem pa (atomicBytes a.op (s.mem.bytesLast pa p.data.length) p.data p.cmp) := by
  obtain ⟨hload, hop, hgather⟩ := AccOp.of_isAtomic hatomic
  obtain ⟨t, hnext, ht⟩ := h.exec_mem (sc := sc) (r := s.serveAtomic sid true a p pa (Scope.level sc)) hload hop hgather hnew
    (by simp [hatomic])
  exact ⟨t, hnext, ht ▸ State.wrote_serveAtomic h.peer h.opens hnew hfresh hlevel hbad hpoison⟩

end

/-! ### The statement -/

/-- Settles O27: a part that is held back waits; a load, a store and an atomic do at their home what their service there does. -/
theorem homeService : Obligations.HomeService := by
  unfold Obligations.HomeService
  intro s sid k part pa sc a p
  dsimp only
  intro hsid hpower ha hp hahead
  refine ⟨fun hheld => ?_, fun hserve hpa hpeer hhost hroute hopens => ?_⟩
  · rw [exec_homeAccess sc hsid hpower ha hp hahead, State.servePart_held hheld]
    rfl
  · have hreaches : s.reaches sid k part pa a p := ⟨hsid, hpower, ha, hp, hahead, hserve, hpa, hpeer, hhost, hroute, hopens⟩
    refine ⟨fun hload hreturned hask => ⟨fun hbound hkey => s.loadedPart_data p hpeer hbound hkey, ?_⟩,
      fun hstore hnew hfresh => hreaches.exec_store hstore hnew hfresh (by decide),
      fun hatomic hnew hbad hpoison hfresh => hreaches.exec_atomic hatomic hnew hfresh (by decide) hbad hpoison⟩
    obtain ⟨u, hnext, hkept⟩ := hreaches.exec_load hload hreturned hask
    exact ⟨_, u, hnext, rfl, hkept⟩

end Sys2Proof.Machine
end

section
/-! PROOFS. The forms whose results pass through the delivery buffer (R36, R40, R57): each runs in the frame of its slot with an effect
that, where it goes on, only posts results. -/

namespace Sys2Proof.Machine

/-! ### What only posts results -/

theorem State.onlyPosts_refl (s : State) : s.onlyPosts s :=
  ⟨⟨rfl, fun _ _ => rfl⟩, rfl, [], by simp⟩

theorem State.onlyPosts.trans {s t u : State} (h : s.onlyPosts t) (k : t.onlyPosts u) : s.onlyPosts u := by
  obtain ⟨⟨hrest, hother⟩, hme, new, hnew⟩ := h
  obtain ⟨⟨krest, kother⟩, kme, more, kmore⟩ := k
  have hcur : t.cur = s.cur := by rw [hrest]
  refine ⟨⟨by rw [krest, hrest], fun n hn => (kother n (hcur ▸ hn)).trans (hother n hn)⟩, by rw [kme, hme], new ++ more, ?_⟩
  rw [kmore, hnew, List.append_assoc]

theorem State.onlyPosts_of_iss {s t : State} (h : t = { s with iss := t.iss }) : s.onlyPosts t := by
  rw [h]
  exact ⟨⟨rfl, fun _ _ => rfl⟩, rfl, [], by simp [State.me, State.strand]⟩

theorem State.onlyPosts.setDbuf {s t : State} (h : s.onlyPosts t) (new : List Pending) :
    s.onlyPosts (t.setMe { t.me with dbuf := s.me.dbuf ++ new }) := by
  obtain ⟨⟨hrest, hother⟩, hme, -⟩ := h
  have hcur : t.cur = s.cur := by rw [hrest]
  refine ⟨⟨?_, fun n hn => ?_⟩, ?_, new, ?_⟩
  · rw [hrest]; rfl
  · rw [State.setMe, State.strand_setStrand_other (hcur ▸ hn), hother n hn]
  · rw [State.me_setMe, hme]
  · simp

theorem State.onlyPosts_post (s : State) (lat : Nat) (p : Pending) : s.onlyPosts (s.post lat p) :=
  s.onlyPosts_refl.setDbuf _

/-- The result posted last is told more about where it goes: a line of an accumulator, a ring. -/
theorem State.onlyPosts_retag (s : State) (lat : Nat) (p : Pending) (f : Pending → Pending) :
    s.onlyPosts ((s.post lat p).setMe { (s.post lat p).me with
      dbuf := (s.post lat p).me.dbuf.dropLast ++ ((s.post lat p).me.dbuf.getLast?.map f).toList }) := by
  have h := (s.onlyPosts_post lat p).setDbuf [f { p with due := s.me.count + lat, hnd := s.me.hnd, born := s.me.seq }]
  simpa using h

/-- What an effect leaves where it goes on only posts results. -/
def Res.onlyPosts (r : Res) (s : State) : Prop := ∀ t, r = .ok t → s.onlyPosts t

@[simp] theorem Res.onlyPosts_ok {s t : State} : (Res.ok t).onlyPosts s ↔ s.onlyPosts t :=
  ⟨fun h => h t rfl, fun h _ ht => Res.ok.inj ht ▸ h⟩
@[simp] theorem Res.onlyPosts_trap {s : State} {c i : Nat} : (Res.trap c i).onlyPosts s := fun _ => Res.noConfusion
@[simp] theorem Res.onlyPosts_stall {s : State} {w : Stall} : (Res.stall w).onlyPosts s := fun _ => Res.noConfusion
@[simp] theorem Res.onlyPosts_rollback {s : State} {i : Nat} : (Res.rollback i).onlyPosts s := fun _ => Res.noConfusion

/-- A meaning that runs in the frame of a slot, with an effect that only posts results. -/
def PostsInSlot (i : Instr) (s : State) (o : Host.Outcome State Fault Refusal) : Prop :=
  ∃ f, o = slotOp i s f ∧ (f s).onlyPosts s

theorem postsInSlot_slotOp {i : Instr} {s : State} {f : State → Res} (h : (f s).onlyPosts s) : PostsInSlot i s (slotOp i s f) :=
  ⟨f, rfl, h⟩

theorem postsInSlot_post (i : Instr) (s : State) (lat : State → Nat) (p : State → Pending) :
    PostsInSlot i s (slotOp i s fun s => .ok (s.post (lat s) (p s))) :=
  postsInSlot_slotOp (Res.onlyPosts_ok.2 (s.onlyPosts_post ..))

theorem postsInSlot_scalarR (i : Instr) (ty : IntTy) (lat d a b : Nat) (f : Int → Int → Int) (s : State) :
    PostsInSlot i s (scalarR i ty lat d a b f s) := postsInSlot_post ..
theorem postsInSlot_scalarI (i : Instr) (ty : IntTy) (lat d a imm : Nat) (f : Int → Int → Int) (s : State) :
    PostsInSlot i s (scalarI i ty lat d a imm f s) := postsInSlot_post ..
theorem postsInSlot_scalarU (i : Instr) (ty : IntTy) (d a : Nat) (f : Int → Int) (s : State) :
    PostsInSlot i s (scalarU i ty d a f s) := postsInSlot_post ..
theorem postsInSlot_shiftBy (i : Instr) (ty : IntTy) (d a amt : Nat) (f : Int → Nat → Int) (s : State) :
    PostsInSlot i s (shiftBy i ty d a amt f s) := postsInSlot_post ..

theorem State.onlyPosts_postSr (s : State) (sr v : Nat) : s.onlyPosts (postSr s sr v) := by
  unfold postSr
  split
  · exact s.onlyPosts_post ..
  · exact s.onlyPosts_refl

/-! ### V forms: what keeps one from going on, and what it posts -/

theorem lgWait_onlyPosts {s : State} {named : List Nat} {r : Res} (h : lgWait s named = some r) : r.onlyPosts s := by
  unfold lgWait at h
  split at h
  · exact Option.some.inj h ▸ Res.onlyPosts_trap
  · obtain ⟨g, -, rfl⟩ := Option.map_eq_some_iff.1 h
    exact Res.onlyPosts_stall

theorem poisonRes_onlyPosts (s : State) (pr : Option Nat) (info : Nat) : (poisonRes s pr info).onlyPosts s := by
  unfold poisonRes
  split
  · exact Res.onlyPosts_rollback
  · exact Res.onlyPosts_trap

theorem popAddress_onlyPosts {s : State} {n : Nat} {r : Res} (h : popAddress s n = some r) : r.onlyPosts s := by
  unfold popAddress at h
  dsimp only at h
  split at h
  · split at h
    · exact Option.some.inj h ▸ Res.onlyPosts_trap
    · split at h
      · exact Option.some.inj h ▸ Res.onlyPosts_trap
      · split at h
        · exact Option.some.inj h ▸ Res.onlyPosts_stall
        · obtain ⟨g, -, rfl⟩ := Option.map_eq_some_iff.1 h
          exact Res.onlyPosts_trap
  · cases h

theorem popWait_onlyPosts {s : State} {n : Nat} {r : Res} (h : popWait s n = some r) : r.onlyPosts s := by
  unfold popWait at h
  dsimp only at h
  split at h
  · exact Option.some.inj h ▸ Res.onlyPosts_stall
  · split at h
    · exact Option.some.inj h ▸ Res.onlyPosts_stall
    · cases h

theorem popPoison_onlyPosts {s : State} {n pr : Nat} {r : Res} (h : popPoison s n pr = some r) : r.onlyPosts s := by
  unfold popPoison at h
  split at h
  · obtain ⟨a, -, rfl⟩ := Option.map_eq_some_iff.1 h
    exact poisonRes_onlyPosts s _ _
  · cases h

/-- The lowest stop of a list is one of its stops. -/
theorem lowestStop_mem {l : List (Option Res)} {r : Res} (h : lowestStop l = some r) : some r ∈ l := by
  unfold lowestStop at h
  suffices ∀ (l : List (Option Res)) (a : Option Res), l.foldl _ a = some r → a = some r ∨ some r ∈ l from
    (this l none h).resolve_left nofun
  clear h l
  intro l
  induction l with
  | nil => exact fun a h => .inl h
  | cons b l ih =>
    intro a h
    rcases ih _ h with h | h
    · rcases a with _ | x <;> rcases b with _ | y
      · cases h
      · exact .inr (h ▸ List.mem_cons_self)
      · exact .inl h
      · dsimp only at h
        split at h
        · exact .inr (h ▸ List.mem_cons_self)
        · exact .inl h
    · exact .inr (List.mem_cons_of_mem _ h)

theorem State.foldl_popQ_iss (l : List Nat) (s : State) : l.foldl State.popQ s = { s with iss := (l.foldl State.popQ s).iss } := by
  induction l generalizing s with
  | nil => rfl
  | cons n l ih => rw [List.foldl_cons, ih]; rfl

theorem vecPre_onlyPosts (i : Instr) (w : Nat) (extra : List Nat) (s : State) : (vecPre i w extra s).onlyPosts s := by
  unfold vecPre
  dsimp only
  split
  · exact Res.onlyPosts_ok.2 s.onlyPosts_refl
  · split
    · obtain ⟨n, -, h⟩ := List.mem_map.1 (lowestStop_mem ‹_›)
      exact popAddress_onlyPosts h
    · split
      · exact lgWait_onlyPosts ‹_›
      · split
        · obtain ⟨n, -, h⟩ := List.exists_of_findSome?_eq_some ‹_›
          exact popWait_onlyPosts h
        · split
          · obtain ⟨n, -, h⟩ := List.exists_of_findSome?_eq_some ‹_›
            exact popPoison_onlyPosts h
          · exact Res.onlyPosts_ok.2 (State.onlyPosts_of_iss (State.foldl_popQ_iss ..))

theorem Res.onlyPosts.bind {r : Res} {s : State} {f : State → Res} (h : r.onlyPosts s) (hf : ∀ u, (f u).onlyPosts u) :
    (r.bind f).onlyPosts s := by
  cases r with
  | ok u => exact fun t ht => (h u rfl).trans (hf u t ht)
  | trap | stall | rollback | deferred => exact fun _ => Res.noConfusion

theorem postsInSlot_vecOp {i : Instr} {w : Nat} {extra : List Nat} {s : State} {f : State → Res} (hf : ∀ u, (f u).onlyPosts u) :
    PostsInSlot i s (vecOp i w extra s f) := postsInSlot_slotOp ((vecPre_onlyPosts i w extra s).bind hf)

theorem postsInSlot_vecPost (i : Instr) (w : Nat) (extra : List Nat) (s : State) (lat : State → Nat) (p : State → Pending) :
    PostsInSlot i s (vecOp i w extra s fun s => .ok (s.post (lat s) (p s))) :=
  postsInSlot_vecOp fun u => Res.onlyPosts_ok.2 (u.onlyPosts_post ..)

theorem postsInSlot_vecElem (i : Instr) (h : VHead) (lat : Nat) (f : Strand → Nat → Nat → Nat × Nat) (s : State) :
    PostsInSlot i s (vecElem i h lat f s) := postsInSlot_vecPost ..
theorem postsInSlot_vecPred (i : Instr) (h : VHead) (lat : Nat) (f : Strand → Nat → Nat → Bool × Nat) (s : State) :
    PostsInSlot i s (vecPred i h lat f s) := postsInSlot_vecPost ..
theorem postsInSlot_predForm (i : Instr) (lgm pr d : Nat) (f : Strand → Nat → Nat) (s : State) :
    PostsInSlot i s (predForm i lgm pr d f s) := postsInSlot_vecPost ..

theorem State.onlyPosts_postLine (s : State) (lat lgm : Nat) (dir : AccDir) (idx : Nat) (f : Nat → LaneOut) :
    s.onlyPosts (postLine s lat lgm dir idx f) := s.onlyPosts_retag ..

theorem postsInSlot_accOp {i : Instr} {w : Nat} {dir : AccDir} {idx lgm : Nat} {s : State} {f : State → Res}
    (hf : ∀ u, (f u).onlyPosts u) : PostsInSlot i s (accOp i w dir idx lgm s f) :=
  postsInSlot_vecOp fun u => by
    split
    · exact Res.onlyPosts_trap
    · exact hf u

theorem postsInSlot_ringCopy (i : Instr) (h : VHead) (src : Nat) (s : State) : PostsInSlot i s (ringCopy i h src s) :=
  postsInSlot_vecOp fun u => by
    dsimp only
    split
    · exact Res.onlyPosts_trap
    · exact Res.onlyPosts_ok.2 (u.onlyPosts_retag ..)

/-! ### Forms with an effect of their own -/

theorem execLdSp_posts (t : TileArg) (s : State) : PostsInSlot (.ldSp t) s (execLdSp t s) := by
  refine postsInSlot_slotOp ?_
  split
  · exact Res.onlyPosts_trap
  · split
    · exact Res.onlyPosts_trap
    · split
      · exact lgWait_onlyPosts ‹_›
      · split
        · exact poisonRes_onlyPosts s _ _
        · exact Res.onlyPosts_ok.2 (s.onlyPosts_post ..)

theorem execLdB_posts (t : TileArg) (s : State) : PostsInSlot (.ldB t) s (execLdB t s) := by
  refine postsInSlot_slotOp ?_
  dsimp only
  split
  · exact Res.onlyPosts_trap
  · split
    · exact Res.onlyPosts_trap
    · split
      · exact Res.onlyPosts_trap
      · split
        · exact Res.onlyPosts_trap
        · split
          · exact lgWait_onlyPosts ‹_›
          · split
            · exact poisonRes_onlyPosts s _ _
            · exact Res.onlyPosts_ok.2 (s.onlyPosts_post ..)

theorem execMxq_posts (h : VHead) (b c : Nat) (sty : ElemType) (s : State) : PostsInSlot (.mxq h b c sty) s (execMxq h b c sty s) :=
  postsInSlot_vecOp fun u => Res.onlyPosts_ok.2 ((u.onlyPosts_post ..).trans (State.onlyPosts_post ..))

theorem execMxdq_posts (h : VHead) (b : Nat) (sty : ElemType) (s : State) : PostsInSlot (.mxdq h b sty) s (execMxdq h b sty s) :=
  postsInSlot_vecOp fun u => by
    dsimp only
    split
    · exact Res.onlyPosts_ok.2 ((u.onlyPosts_post ..).trans (State.onlyPosts_post ..))
    · exact Res.onlyPosts_ok.2 (u.onlyPosts_post ..)

theorem execVext_posts (h : VHead) (lane : Nat) (s : State) : PostsInSlot (.vext h lane) s (execVext h lane s) :=
  postsInSlot_vecOp fun u => by
    dsimp only
    split
    · exact Res.onlyPosts_ok.2 (u.onlyPosts_post ..)
    · exact Res.onlyPosts_ok.2 u.onlyPosts_refl

theorem execVins_posts (h : VHead) (lane : Nat) (s : State) : PostsInSlot (.vins h lane) s (execVins h lane s) :=
  postsInSlot_vecOp fun u => by
    dsimp only
    split
    · exact Res.onlyPosts_ok.2 (u.onlyPosts_post ..)
    · exact Res.onlyPosts_ok.2 u.onlyPosts_refl

theorem execAccclr_posts (lgm pr : Nat) (dir : AccDir) (idx : Nat) (all : Bool) (s : State) :
    PostsInSlot (.accclr lgm pr dir idx all) s (execAccclr lgm pr dir idx all s) := by
  unfold execAccclr
  split
  · refine postsInSlot_vecOp fun u => ?_
    split
    · exact Res.onlyPosts_trap
    · exact Res.onlyPosts_ok.2 (u.onlyPosts_post ..)
  · exact postsInSlot_accOp fun u => Res.onlyPosts_ok.2 (u.onlyPosts_postLine ..)

theorem execDiv_posts (ty : IntTy) (d a b : Nat) (s : State) : PostsInSlot (.div ty d a b) s (execDiv ty d a b s) := by
  refine postsInSlot_slotOp ?_
  split
  · exact Res.onlyPosts_trap
  · exact Res.onlyPosts_ok.2 (s.onlyPosts_post ..)

theorem execRem_posts (ty : IntTy) (d a b : Nat) (s : State) : PostsInSlot (.rem ty d a b) s (execRem ty d a b s) := by
  refine postsInSlot_slotOp ?_
  split
  · exact Res.onlyPosts_trap
  · exact Res.onlyPosts_ok.2 (s.onlyPosts_post ..)

theorem postsInSlot_fBin (i : Instr) (h : VHead) (b : Nat) (f : FFmt → RMode → Bool → FVal → FVal → Nat × Nat) (s : State) :
    PostsInSlot i s (fBin i h b f s) := postsInSlot_vecElem ..
theorem postsInSlot_fTer (i : Instr) (h : VHead) (b c : Nat) (f : FFmt → RMode → Bool → FVal → FVal → FVal → Nat × Nat)
    (s : State) :
    PostsInSlot i s (fTer i h b c f s) := postsInSlot_vecElem ..
theorem postsInSlot_fUn (i : Instr) (h : VHead) (lat : Nat) (f : Strand → FFmt → Nat → Nat × Nat) (s : State) :
    PostsInSlot i s (fUn i h lat f s) := postsInSlot_vecElem ..
theorem postsInSlot_fPat (i : Instr) (h : VHead) (b : Nat) (f : Strand → FFmt → Nat → Nat → Nat × Nat) (s : State) :
    PostsInSlot i s (fPat i h b f s) := postsInSlot_vecElem ..
theorem postsInSlot_iBin (i : Instr) (h : VHead) (b : Nat) (sat : Bool) (f : Int → Int → Int) (s : State) :
    PostsInSlot i s (iBin i h b sat f s) := postsInSlot_vecElem ..
theorem postsInSlot_iImm (i : Instr) (h : VHead) (imm : Nat) (f : Int → Int → Int) (s : State) :
    PostsInSlot i s (iImm i h imm f s) := postsInSlot_vecElem ..

/-- A form of the list runs in the frame of its slot, and its effect only posts results. -/
theorem exec_posts {i : Instr} (h : Instr.posts i = true) (s : State) : PostsInSlot i s (exec i s) := by
  unfold exec
  cases i with
  | add | sub | mul | mulh | and | or | xor | andn | min | max => exact postsInSlot_scalarR ..
  | addI | subI | mulI | andI | orI | xorI | andnI | minI | maxI => exact postsInSlot_scalarI ..
  | clz | ctz | popc | ext => exact postsInSlot_scalarU ..
  | shl | shlI | shr | shrI | rotl | rotlI => exact postsInSlot_shiftBy ..
  | div => exact execDiv_posts ..
  | rem => exact execRem_posts ..
  | sel | cmp | cmpI | movi | movhi | bfx | bfi | prep | mfs | time | mbox | mset | mseti | mstat | mchk | agset | agstr =>
    exact postsInSlot_post ..
  | mts | setfmt | setcar => exact postsInSlot_slotOp (Res.onlyPosts_ok.2 (s.onlyPosts_postSr ..))
  | fadd | fsub | fmul => exact postsInSlot_fBin ..
  | fma | fms | fnma => exact postsInSlot_fTer ..
  | fmin | fmax | fcpys | fscale => exact postsInSlot_fPat ..
  | fabs | fneg | frecpe | frsqe | fscaleI | fround => exact postsInSlot_fUn ..
  | iadd | isub | imul | iadds | isubs | iand | ior | ixor | ishl | ishr | imin | imax => exact postsInSlot_iBin ..
  | iaddI | isubI | iandI | iorI | ixorI | ishlI | ishrI | iminI | imaxI => exact postsInSlot_iImm ..
  | cvt | imad | iabs | ipopc | vmov | vbcast | vsel | vperm | vshuf => exact postsInSlot_vecElem ..
  | fcmp | fclass | icmp | icmpI => exact postsInSlot_vecPred ..
  | pand | por | pxor | pnot | pmov => exact postsInSlot_predForm ..
  | bpq | vmovi | vred | vany | vall | pcnt => exact postsInSlot_vecPost ..
  | mxq => exact execMxq_posts ..
  | mxdq => exact execMxdq_posts ..
  | vext => exact execVext_posts ..
  | vins => exact execVins_posts ..
  | xcopy | xbcast => exact postsInSlot_ringCopy ..
  | accrd => exact postsInSlot_accOp fun u => Res.onlyPosts_ok.2 (u.onlyPosts_post ..)
  | accwr | acccvt => exact postsInSlot_accOp fun u => Res.onlyPosts_ok.2 (u.onlyPosts_postLine ..)
  | accclr => exact execAccclr_posts ..
  | ldSp => exact execLdSp_posts ..
  | ldB => exact execLdB_posts ..
  | _ => cases h

/-! ### A slot that does not end its bundle -/

@[simp] theorem State.endTrap_ended (s : State) (c i : Nat) :
    (s.endTrap c i).iss.ended = some (.trap (if c = cILLENC then 15 else s.iss.slot) c i) := rfl
@[simp] theorem State.endStall_ended (s : State) (w : Stall) : (s.endStall w).iss.ended = some (.stall w) := rfl
@[simp] theorem State.endRollback_ended (s : State) (i : Nat) : (s.endRollback i).iss.ended = some (.rollback i) := rfl
@[simp] theorem State.endDeferred_ended (s : State) (c i u : Nat) :
    (s.endDeferred c i u).iss.ended = some (.trap (if c = cILLENC then 15 else s.iss.slot) c i) := rfl

/-- A slot that does not end its bundle has had its effect. -/
theorem finish_of_not_ended {s t : State} {r : Res} (h : finish s r = .next t) (hend : t.iss.ended = none) : r = .ok t := by
  cases r with
  | ok u => rw [Host.Outcome.next.inj h]
  | trap | stall | rollback | deferred => simp [← Host.Outcome.next.inj h] at hend

theorem slotOp_of_not_ended {i : Instr} {s t : State} {f : State → Res} (h : slotOp i s f = .next t) (hend : t.iss.ended = none) :
    t = s ∨ f s = .ok t := by
  unfold slotOp at h
  split at h
  · simp [← Host.Outcome.next.inj h] at hend
  · split at h
    · exact .inl (Host.Outcome.next.inj h).symm
    · exact .inr (finish_of_not_ended h hend)

/-- Settles O58: a slot that does not end its bundle was off stage or has had its effect, and the effect only posts results. -/
theorem postingFrames : Obligations.PostingFrames := by
  unfold Obligations.PostingFrames
  intro i s t hposts hexec _ hend
  obtain ⟨f, hf, hres⟩ := exec_posts hposts s
  rcases slotOp_of_not_ended (hf ▸ hexec) hend with rfl | ht
  · exact t.onlyPosts_refl
  · exact hres t ht

end Sys2Proof.Machine
end

section
/-! PROOFS. The checks of a form before its own effect (R57, R58, R64, R195). -/

namespace Sys2Proof.Machine

/-! ### Every form of a slot runs in its frame -/

theorem PostsInSlot.eq_slotOp {i : Instr} {s : State} {o : Host.Outcome State Fault Refusal} (h : PostsInSlot i s o) :
    ∃ f, o = slotOp i s f := by
  obtain ⟨f, hf, -⟩ := h
  exact ⟨f, hf⟩

/-- Every form of a slot runs in the frame of its slot (R57, R58). -/
theorem exec_eq_slotOp {i : Instr} (h : (slotFields i).isSome = true) (s : State) : ∃ f, exec i s = slotOp i s f := by
  by_cases hp : Instr.posts i = true
  · exact (exec_posts hp s).eq_slotOp
  have h : (!Instr.posts i && (slotFields i).isSome) = true := by simp [hp, h]
  unfold exec
  cases i with
  | amo | cas => exact ⟨_, (rfl : atomicOp .. = _)⟩
  | resm | renorm | retab => exact ⟨_, (rfl : rowPair .. = _)⟩
  | br | call | trap | rett | halloc | hfree | mcall | trpush | trpop | trcfg | retload | ldG | gath | qbind | qfree | stSp | stG
  | scat | epSt | qout | cp | cpg | cps | stage | sealRec | openRec | ckpt | pf | res | col | meas | mark | join | ssarr | sswait
  | cbar | halt | lgate | wake | lset | lbrk | lrot | spred => exact ⟨_, rfl⟩
  | _ => exact absurd h Bool.false_ne_true

/-! ### What the frame of a slot checks before the effect -/

/-- A form that a check before its effect stops: the trap of that check (R57, R58). -/
theorem slotOp_of_slotBad {i : Instr} {s : State} {c slot info : Nat} (h : slotBad s i = some (c, slot, info)) (f : State → Res) :
    slotOp i s f =
      .next { s.takeTrap s.cur c slot info s.iss.idx with iss := { s.iss with ended := some (.trap slot c info) } } := by
  simp only [slotOp, h]

theorem slotBad_of_formIll {i : Instr} {s : State} {e : IllEnc} (h : formIll s i = some e) :
    slotBad s i = some (cILLENC, 15, e.tinfo) := by
  simp only [slotBad, h]

theorem slotBad_of_offStage {i : Instr} {s : State} (h : formIll s i = none) (hoff : offStage s i = true) : slotBad s i = none := by
  simp only [slotBad, h, hoff, if_true]

theorem slotBad_of_badRead {i : Instr} {s : State} {r : RRef} (h : formIll s i = none) (hoff : offStage s i = false)
    (hr : s.badRead i = some r) : slotBad s i = some (cINVREG, s.iss.slot, r.info) := by
  simp [slotBad, h, hoff, hr]

/-- R195: an LD or ST form whose stage predicate is false has no effect. -/
theorem slotOp_of_offStage {i : Instr} {s : State} (h : formIll s i = none) (hoff : offStage s i = true) (f : State → Res) :
    slotOp i s f = .next s := by
  simp only [slotOp, slotBad_of_offStage h hoff, hoff, if_true]

/-- Settles O11: every form of a slot runs in its frame, which makes these checks first. -/
theorem formChecks : Obligations.FormChecks := by
  unfold Obligations.FormChecks
  intro i s hslot
  obtain ⟨f, hf⟩ := exec_eq_slotOp hslot s
  rw [hf]
  refine ⟨fun e he => ?_, fun he hoff => slotOp_of_offStage he hoff f, fun r he hoff hr => ?_⟩
  · exact ⟨_, slotOp_of_slotBad (slotBad_of_formIll he) f, rfl, rfl⟩
  · exact ⟨_, slotOp_of_slotBad (slotBad_of_badRead he hoff hr) f, rfl, rfl⟩

end Sys2Proof.Machine
end

section
/-! PROOFS. What taking a trap comes to (R57, R59, R304, R307, R308), and `trap` and `rett` (R178, R179, R306). -/

namespace Sys2Proof.Machine

/-! ### Taking a trap -/

/-- Where SNAPCTL is not armed no trigger latches (R497). -/
theorem State.trigger_of_not_armed {s : State} (h : s.power.snapArm = false) (src code : Nat) : s.trigger src code = s := by
  simp [State.trigger, State.armed, h]

/-- A strand whose trap registers record a trap (R59, R69). -/
def State.trapRecorded (s : State) (sid cause slot info idx : Nat) : Strand :=
  { s.strand sid with
    tcause := BitVec.ofNat 64 (s.tcauseOf sid cause), tinfo := BitVec.ofNat 64 info, tbundle := BitVec.ofNat 64 (idx % 4096),
    tslot := BitVec.ofNat 64 slot }

/-- R304: a trap outside a handler, with an entry for its cause, enters the handler. -/
theorem State.takeTrap_of_entry {s : State} {sid cause e : Nat} (harm : s.power.snapArm = false) (hcause : cause < 0x40)
    (hhnd : (s.strand sid).hnd = false) (hentry : SMap.find (s.half sid).traps cause = some e) (slot info idx : Nat) :
    s.takeTrap sid cause slot info idx = s.setStrand sid { s.trapRecorded sid cause slot info idx with
      hnd := true, hbc := 0, hnext := e, hbranch := none, hgpos := 0, hwritten := [], stall := none } := by
  have hcause : ¬ 64 ≤ cause := by omega
  simp [State.takeTrap, State.trigger_of_not_armed harm, State.trapRecorded, hcause, hhnd, hentry]

/-- R307: a fatal cause and a trap in a handler escalate. -/
theorem State.takeTrap_of_fatal {s : State} {sid cause : Nat} (harm : s.power.snapArm = false)
    (h : 0x40 ≤ cause ∨ (s.strand sid).hnd = true) (slot info idx : Nat) :
    s.takeTrap sid cause slot info idx = (s.setStrand sid (s.trapRecorded sid cause slot info idx)).faultLaunch (s.strand sid).launch
      (s.escOf sid cause slot info (idx % 4096) 0) := by
  simp [State.takeTrap, State.trigger_of_not_armed harm, State.trapRecorded, h]

/-- R307: a trap without an entry for its cause escalates. -/
theorem State.takeTrap_of_no_entry {s : State} {sid cause : Nat} (harm : s.power.snapArm = false) (hcause : cause < 0x40)
    (hhnd : (s.strand sid).hnd = false) (hentry : SMap.find (s.half sid).traps cause = none) (slot info idx : Nat) :
    s.takeTrap sid cause slot info idx = (s.setStrand sid (s.trapRecorded sid cause slot info idx)).faultLaunch (s.strand sid).launch
      (s.escOf sid cause slot info (idx % 4096) 2) := by
  have hcause : ¬ 64 ≤ cause := by omega
  simp [State.takeTrap, State.trigger_of_not_armed harm, State.trapRecorded, hcause, hhnd, hentry]

/-- R307, R308: a trap that no handler takes escalates; KIND says whether in a handler, for a fatal cause, or without an entry. -/
theorem State.takeTrap_escalates {s : State} {sid cause : Nat} (harm : s.power.snapArm = false)
    (h : 0x40 ≤ cause ∨ (s.strand sid).hnd = true ∨ SMap.find (s.half sid).traps cause = none) (slot info idx : Nat) :
    s.takeTrap sid cause slot info idx = (s.setStrand sid (s.trapRecorded sid cause slot info idx)).faultLaunch (s.strand sid).launch
      { sid := sid, cause := cause, slot := slot, bundle := idx % 4096, info := info,
        kind := if (s.strand sid).hnd then 1 else if 0x40 ≤ cause then 0 else 2,
        sbc := (s.strand sid).sbc, time := s.power.dtime } := by
  by_cases hhnd : (s.strand sid).hnd = true
  · simp [State.takeTrap_of_fatal harm (.inr hhnd), State.escOf, hhnd, ofBit]
  · by_cases hcause : 0x40 ≤ cause
    · simp [State.takeTrap_of_fatal harm (.inl hcause), State.escOf, hhnd, hcause, ofBit]
    · have hentry := (h.resolve_left hcause).resolve_left hhnd
      rw [State.takeTrap_of_no_entry harm (by omega) (by simpa using hhnd) hentry]
      simp [State.escOf, hhnd, hcause, ofBit]

/-! ### A bundle that a trap ends -/

/-- R57: a bundle of which a slot trapped leaves the trap alone, taken on the state before the slots. -/
theorem State.conclude_of_trap {t : State} {slot cause info : Nat} (hend : t.iss.ended = some (.trap slot cause info))
    (hkept : t.iss.consumed = none) (pre : State) (sid : Nat) (dests : List Nat) :
    pre.conclude sid dests t = { pre.takeTrap sid cause slot info t.iss.idx with iss := {} } := by
  simp only [State.conclude, hend, hkept, State.abandon]

/-! ### `trap` and `rett` -/

theorem exec_trap {s : State} {imm : Nat} (h : formOk s (.trap imm) = true) :
    exec (.trap imm) s = .next (s.endTrap cTRAPI (imm % 65536)) := by
  change execTrap imm s = _
  simp [execTrap, slotOp_ok h]

/-- R306: the handler's results are delivered, and the strand goes on at TBUNDLE[10:0]. -/
theorem exec_rett {s t : State} (h : formOk s .rett = true) (ht : s.deliverHandler s.cur = t) (hret : bit t.me.tbundle.toNat 11 = false) :
    exec .rett s = .next { t.setMe (t.me.fromTrap (t.me.tbundle.toNat % 2048)) with iss := { t.iss with rett := true } } := by
  change execRett s = _
  simp [execRett, slotOp_ok h, ht, hret]

/-- R179: with TBUNDLE[11] set `rett` raises ILLENC. -/
theorem exec_rett_of_tbundle_11 {s : State} (h : formOk s .rett = true)
    (hret : bit (s.deliverHandler s.cur).me.tbundle.toNat 11 = true) : exec .rett s = .next (s.endTrap cILLENC 3) := by
  change execRett s = _
  simp [execRett, slotOp_ok h, hret]

/-- Settles O10, clause by clause from what a taken trap, a bundle that one ends, `trap` and `rett` come to. -/
theorem traps : Obligations.Traps := by
  unfold Obligations.Traps
  refine ⟨⟨fun s imm h => ⟨_, exec_trap h, rfl⟩, fun s sid cause slot info idx e hcause hhnd harm hentry => ?_⟩,
    fun s sid cause slot info idx harm h => ?_, fun pre t sid slot cause info dests hend hkept => ?_, fun s h => ?_⟩
  · exact State.takeTrap_of_entry harm hcause hhnd hentry slot info idx
  · exact State.takeTrap_escalates harm h slot info idx
  · exact State.conclude_of_trap hend hkept pre sid dests
  · exact ⟨exec_rett h rfl, fun hret => ⟨_, exec_rett_of_tbundle_11 h hret, rfl⟩, rfl, rfl, rfl⟩

end Sys2Proof.Machine
end

section
/-! PROOFS. The forms that read and write state registers (R65 to R69, R180 to R184), the mailbox (R412), and `halloc` and
`hfree` (R278 to R280): each with its checks passed. -/

namespace Sys2Proof.Machine

/-! ### A state register written -/

/-- A result that a state register takes (R65). -/
def State.postSrOut (s : State) (lat sr v : Nat) : State :=
  s.post lat { kind := .sr, reg := sr, due := 0, value := BitVec.ofNat 4096 (v % 2 ^ 64) }

theorem postSr_of_le_one {sr : Nat} (h : sr ≤ 1) (s : State) (v : Nat) : postSr s sr v = s.postSrOut 4 sr v := by
  have hw : srWritable sr = true := by simp [srWritable]; omega
  simp [postSr, hw, h, State.postSrOut]

theorem postSr_of_trap_register {sr : Nat} (h3 : 3 ≤ sr) (h7 : sr ≤ 7) (s : State) (v : Nat) :
    postSr s sr v = s.postSrOut 1 sr v := by
  have hw : srWritable sr = true := by simp [srWritable]; omega
  have h1 : ¬ sr ≤ 1 := by omega
  simp [postSr, hw, h1, State.postSrOut]

theorem postSr_of_readOnly {sr : Nat} (h : sr = 2 ∨ 8 ≤ sr) (s : State) (v : Nat) : postSr s sr v = s := by
  have hw : srWritable sr = false := by simp [srWritable]; omega
  simp [postSr, hw]

/-- The cleared bits of a mask of 16 bits. -/
theorem andNot_16 {x m : Nat} (h : m < 65536) : andNot 16 x m = x &&& (65535 - m) := by
  have hm : m % 2 ^ 16 = m := Nat.mod_eq_of_lt h
  rw [andNot, hm]
  rfl

/-! ### The forms of the state registers and of the mailbox -/

theorem exec_mfs {s : State} {d sr : Nat} (h : formOk s (.mfs d sr) = true) :
    exec (.mfs d sr) s = .next (s.postX 1 d (srRead s s.cur sr)) := by
  change execMfs d sr s = _
  simp [execMfs, slotOp_ok h]

theorem exec_mts {s : State} {a sr : Nat} (h : formOk s (.mts a sr) = true) :
    exec (.mts a sr) s = .next (postSr s sr (s.me.xGet a)) := by
  change execMts a sr s = _
  simp [execMts, slotOp_ok h]

theorem exec_setfmt {s : State} {value mask : Nat} (h : formOk s (.setfmt value mask) = true) :
    exec (.setfmt value mask) s = .next (postSr s 0 (andNot 16 (s.me.fmt.toNat % 65536) mask ||| (value &&& mask))) := by
  change execSetfmt value mask s = _
  simp [execSetfmt, slotOp_ok h]

theorem exec_setcar_imm {s : State} {g : Nat} (h : formOk s (.setcar (.imm g)) = true) :
    exec (.setcar (.imm g)) s = .next (postSr s 1 g) := by
  change execSetcar (.imm g) s = _
  simp [execSetcar, slotOp_ok h]

theorem exec_setcar_reg {s : State} {a : Nat} (h : formOk s (.setcar (.reg a)) = true) :
    exec (.setcar (.reg a)) s = .next (postSr s 1 (s.me.xGet a % 4)) := by
  change execSetcar (.reg a) s = _
  simp [execSetcar, slotOp_ok h]

theorem exec_time {s : State} {d : Nat} (h : formOk s (.time d) = true) :
    exec (.time d) s = .next (s.postX 1 d (low (timeLeft s.myLaunch.deadline s.power.dtime) 64)) := by
  change execTime d s = _
  simp [execTime, slotOp_ok h]

theorem exec_mbox {s : State} {d word : Nat} (h : formOk s (.mbox d word) = true) :
    exec (.mbox d word) s = .next (s.postX 1 d (s.mailWord word)) := by
  change execMbox d word s = _
  simp [execMbox, slotOp_ok h]

/-! ### Handles -/

/-- The core within the cluster on which `halloc` places its tile (R278). -/
def State.hallocCore (s : State) (level : TileLevel) (a : Nat) : Nat :=
  if level == .shared then field (s.me.xGet a) 32 3 else localCore s.cur

/-- May a tile of this shape be allocated on this core (R278)? -/
def State.hallocShape (s : State) (level : TileLevel) (ty : ElemType) (a : Nat) : Bool :=
  let rows := field (s.me.xGet a) 0 13
  let cols := field (s.me.xGet a) 16 13
  (decide (1 ≤ rows) && decide (rows ≤ 4096) && decide (1 ≤ cols)) && decide (cols ≤ 4096) &&
    (level != .bstack || (decide (cols ≤ 128) && bstackType ty)) &&
    (s.group s.me.grp).placements.any fun p => p.core == s.hallocCore level a

/-- The tile that `halloc` places, first-fit (R278). -/
def State.hallocTile (s : State) (level : TileLevel) (ty : ElemType) (a : Nat) : Option Tile :=
  placeTile (s.heldTiles s.me.grp (clusterOf s.cur)) level (s.hallocCore level a) (field (s.me.xGet a) 0 13) (field (s.me.xGet a) 16 13) ty

/-- What `halloc` does where its shape may be used: it delivers the lowest free handle, or all ones (R278). -/
def State.hallocRes (s : State) (level : TileLevel) (ty : ElemType) (d a : Nat) : Res :=
  match s.myCluster.freeHandle, s.hallocTile level ty a with
  | some h, some t => .ok { s.postX 1 d h with iss := { s.iss with tiles := [(h, some t)] } }
  | _, _ => .ok (s.postX 1 d (2 ^ 64 - 1))

theorem exec_halloc {s : State} {level : TileLevel} {ty : ElemType} {d a : Nat} (h : formOk s (.halloc level ty d a) = true) :
    exec (.halloc level ty d a) s =
      finish s (if !s.hallocShape level ty a then .trap cHANDLE 0xFF else s.hallocRes level ty d a) := by
  have hzero (n : Nat) : decide (n = 0) = !decide (1 ≤ n) := by cases n <;> rfl
  have hlarge (m n : Nat) : decide (m < n) = !decide (n ≤ m) := by rw [← decide_not, decide_eq_decide, Nat.not_le]
  change execHalloc level ty d a s = _
  rw [execHalloc, slotOp_ok h]
  simp only [State.hallocShape, hzero, hlarge, Bool.not_and, Bool.not_or, bne, Bool.not_not]
  rfl

theorem exec_hfree {s : State} {a : Nat} (h : formOk s (.hfree a) = true) :
    exec (.hfree a) s =
      finish s (if 256 ≤ s.me.xGet a || (SMap.find s.myCluster.tiles (s.me.xGet a)).isNone then .trap cHANDLE (s.me.xGet a % 256)
        else if s.handleBusy (clusterOf s.cur) (s.me.xGet a) then .stall .tileBusy
        else .ok { s with iss := { s.iss with tiles := [(s.me.xGet a, none)] } }) := by
  change execHfree a s = _
  rw [execHfree, slotOp_ok h]

/-- Settles O9, clause by clause from the equations above. -/
theorem stateRegistersAndHandles : Obligations.StateRegistersAndHandles := by
  unfold Obligations.StateRegistersAndHandles
  constructor
  · intro s d a sr value mask g
    refine ⟨exec_mfs, fun h hsr => ?_, fun h h3 h7 => ?_, fun h hsr => ?_, fun h hv hm => ?_, fun h => ?_, fun h => ?_, exec_time⟩
    · rw [exec_mts h, postSr_of_le_one hsr]; rfl
    · rw [exec_mts h, postSr_of_trap_register h3 h7]; rfl
    · rw [exec_mts h, postSr_of_readOnly hsr]
    · rw [exec_setfmt h, andNot_16 hm, postSr_of_le_one (by decide)]; rfl
    · rw [exec_setcar_imm h, postSr_of_le_one (by decide)]; rfl
    · rw [exec_setcar_reg h, postSr_of_le_one (by decide)]; rfl
  · intro s level ty d a word
    refine ⟨fun _ _ _ => rfl, fun hok hshape h t hfree hplace => ?_, fun hok hshape hnone => ?_, fun hok hshape => ?_,
      fun hok hv hheld hbusy => ?_, fun hok hv => ?_, exec_mbox⟩
    · change s.hallocShape level ty a = true at hshape
      change s.hallocTile level ty a = some t at hplace
      simp [exec_halloc hok, hshape, State.hallocRes, hfree, hplace]
    · change s.hallocShape level ty a = true at hshape
      change _ ∨ s.hallocTile level ty a = none at hnone
      rcases hnone with hnone | hnone <;> simp [exec_halloc hok, hshape, State.hallocRes, hnone]
    · change s.hallocShape level ty a = false at hshape
      simp only [exec_halloc hok, hshape]; rfl
    · have hv : ¬ 256 ≤ s.me.xGet a := by omega
      simp [exec_hfree hok, hv, Option.isSome_iff_ne_none.1 hheld, hbusy]
    · have hbad : (decide (256 ≤ s.me.xGet a) || (SMap.find s.myCluster.tiles (s.me.xGet a)).isNone) = true := by simpa using hv
      simp only [exec_hfree hok, hbad]; rfl

end Sys2Proof.Machine
end

section
/-! PROOFS. A step at a bundle that decodes (R35, R42, R58): every instruction answers a next state, so the slots of a bundle are a
fold of their meanings. -/

namespace Sys2Proof.Machine

/-! ### Every instruction answers a next state -/

/-- An answer that is a next state. -/
def GoesOn (o : Host.Outcome State Fault Refusal) : Prop := ∃ t, o = .next t

@[simp] theorem goesOn_next (s : State) : GoesOn (.next s) := ⟨s, rfl⟩
theorem goesOn_slotOp (i : Instr) (s : State) (f : State → Res) : GoesOn (slotOp i s f) := slotOp_next ..
theorem goesOn_microOp (s : State) (f : MCall → State → MicroRes) : GoesOn (microOp s f) := microOp_next ..

theorem goesOn_ckptGranuleStreamed (ctx granule : Nat) (s : State) : GoesOn (execCkptGranuleStreamed ctx granule s) := by
  unfold execCkptGranuleStreamed
  extract_lets c
  split
  · exact goesOn_next _
  · extract_lets urgent
    split
    · exact goesOn_next _
    · split <;> exact goesOn_next _

/-- R57: every error is a trap, a status or a record, so every instruction answers a next state. -/
theorem exec_goesOn (i : Instr) (s : State) : GoesOn (exec i s) := by
  by_cases h : (slotFields i).isSome = true
  · obtain ⟨f, hf⟩ := exec_eq_slotOp h s
    exact hf ▸ goesOn_slotOp ..
  unfold exec
  cases i with
  | prep _ src => cases src <;> exact absurd rfl h
  | setcar g => cases g <;> exact absurd rfl h
  | lset _ cnt => cases cnt <;> exact absurd rfl h
  | aload | bsel | planes | limb | pass | accz | accm | scale | drain | chk | mloop | mend | mwait | msync | mret =>
    exact goesOn_microOp ..
  | ckptGranuleStreamed => exact goesOn_ckptGranuleStreamed ..
  | cbarGenerationComplete | ceCommandBegin | ceCommandComplete | create | debugUnlock | haltRetire | homeAccess
  | hostEndpointWrite | hostLinkTimeout | lanegroupTurnOn | mcallEnd | mcallStart | packetArrive | peerSilent | railSettled | rowEngineStep
  | streamFill | streamPrefetch | superstepArrival | superstepGenerationComplete | transposeRetire | ucieRetrainComplete | wpage =>
    dsimp only [execCbarGenerationComplete, execCeCommandBegin, execCeCommandComplete, execCreate,
      execDebugUnlock, execHaltRetire, execHomeAccess, execHostEndpointWrite, execHostLinkTimeout, execLanegroupTurnOn, execMcallEnd,
      execMcallStart, execPacketArrive, execPeerSilent, execRailSettled, execRowEngineStep, execStreamFill, execStreamPrefetch,
      execSuperstepArrival, execSuperstepGenerationComplete, execTransposeRetire, execUcieRetrainComplete, execWpage]
    repeat' split
    all_goals exact goesOn_next _
  -- a slot's form contradicts `h`; an event left over answers a next state by its definition
  | _ => first | exact absurd rfl h | exact goesOn_next _

/-! ### The slots -/

/-- What a slot that took effect leaves: SCHEDVIOL where its result is the sixty-fifth pending (R38). -/
def State.bufferChecked (t : State) : State :=
  if t.iss.ended.isNone && decide (64 < t.me.results) then t.endTrap 0x40 4 else t

/-- What a slot of a bundle makes of what the slots before it left; nothing, once one of them ended the bundle. -/
def State.runSlot (t : State) (o : Slot × Instr) : State :=
  if t.iss.ended.isSome then t
  else match exec o.2 { t with iss := { t.iss with slot := o.1.code } } with
    | .next u => u.bufferChecked
    | _ => t

theorem State.bufferChecked_of_ended {t : State} (h : t.iss.ended.isSome = true) : t.bufferChecked = t := by
  simp [State.bufferChecked, Option.isSome_iff_ne_none.1 h]

theorem State.bufferChecked_of_full {t : State} (h : t.iss.ended = none) (hfull : 64 < t.me.results) :
    t.bufferChecked = t.endTrap cSCHEDVIOL 4 := by
  simp [State.bufferChecked, h, hfull, cSCHEDVIOL]

theorem State.bufferChecked_of_room {t : State} (hroom : ¬ 64 < t.me.results) : t.bufferChecked = t := by
  simp [State.bufferChecked, hroom]

theorem State.runSlot_of_next {t u : State} {o : Slot × Instr} (h : t.iss.ended = none)
    (hexec : exec o.2 { t with iss := { t.iss with slot := o.1.code } } = .next u) : t.runSlot o = u.bufferChecked := by
  have hgo : ¬ t.iss.ended.isSome = true := by simp [h]
  rw [State.runSlot, if_neg hgo, hexec]

/-- The slots after one that ended the bundle do nothing (R57). -/
theorem State.foldl_runSlot_of_ended {t : State} (h : t.iss.ended.isSome = true) (l : List (Slot × Instr)) :
    l.foldl State.runSlot t = t := by
  induction l with
  | nil => rfl
  | cons o l ih => rw [List.foldl_cons, State.runSlot, if_pos h, ih]

/-- The slots of a bundle run one after the other, each with what the one before left (R42). -/
theorem runSlots_eq_foldl (l : List (Slot × Instr)) {t : State} (h : t.iss.ended = none) :
    runSlots l t = .next (l.foldl State.runSlot t) := by
  induction l generalizing t with
  | nil => rfl
  | cons o l ih =>
    obtain ⟨u, hu⟩ := exec_goesOn o.2 { t with iss := { t.iss with slot := o.1.code } }
    rw [List.foldl_cons, State.runSlot_of_next h hu, runSlots, hu]
    dsimp only
    by_cases hend : u.iss.ended.isSome = true
    · rw [if_pos hend, State.bufferChecked_of_ended hend, State.foldl_runSlot_of_ended hend]
    · have hnone : u.iss.ended = none := by simpa using hend
      rw [if_neg hend]
      by_cases hfull : 64 < u.me.results
      · rw [if_pos hfull, State.bufferChecked_of_full hnone hfull, State.foldl_runSlot_of_ended (by simp)]
      · rw [if_neg hfull, State.bufferChecked_of_room hfull, ih hnone]

@[simp] theorem slotOrder_singleton (o : Slot × Instr) : slotOrder [o] = [o] := by
  by_cases h : o.2 = .rett <;> simp [slotOrder, h]

/-! ### The bundle -/

/-- Where the bundle `b` of a strand begins its slots (R35). -/
def State.opened (s : State) (idx : Nat) (b : Bundle) : State :=
  { s with iss := { idx := idx, stop := b.stop, gap := b.gap, swa := b.swa, ops := b.ops } }

theorem runBundle_eq_conclude {s : State} {sid idx : Nat} {b : Bundle} (hmask : (s.die (dieOf sid)).mask &&& b.cls = 0)
    (hearly : earlyTrap (s.opened idx b) b.ops = none) :
    runBundle s sid idx b = .next (s.conclude sid (b.ops.flatMap fun o => Instr.dests s.me o.2)
      ((slotOrder b.ops).foldl State.runSlot (s.opened idx b))) := by
  unfold State.opened at *
  simp [runBundle, hmask, hearly, runSlots_eq_foldl]

/-- The classes that fetch judges before it decodes a bundle are those that the bundle decodes to (R55, R156). -/
theorem headClass_of_decodeBundle {owner : Bool} {w : Nat} {b : Bundle} (h : decodeBundle owner w = .ok b) : headClass w = b.cls := by
  unfold decodeBundle at h
  split at h
  · cases h
  · split at h
    · cases h
    · split at h
      · exact Except.ok.inj h ▸ rfl
      · cases h

theorem issueBundle_eq_runBundle {s : State} {sid : Nat} {b : Bundle} (hissues : s.issues sid = true)
    (hplace : ((s.ready sid).strand sid).place < 2048)
    (hdecode : decodeBundle (((s.ready sid).core (coreOf sid)).owner == some sid)
      ((s.ready sid).bundleAt sid ((s.ready sid).strand sid).place) = .ok b)
    (hmask : ((s.ready sid).die (dieOf sid)).mask &&& b.cls = 0) :
    issueBundle s sid = runBundle (s.ready sid) sid ((s.ready sid).strand sid).place b := by
  obtain ⟨hcan, hlate⟩ : s.canIssue sid = true ∧ (s.strand sid).lateResult = false := by simpa [State.issues] using hissues
  have hplace : ¬ 2048 ≤ ((s.ready sid).strand sid).place := by omega
  simp [issueBundle, hcan, hlate, hplace, hdecode, headClass_of_decodeBundle hdecode, hmask]

/-- Settles O3: the step is the bundle's slots in order, since every one of them answers a next state. -/
theorem stepRunsBundle : Obligations.StepRunsBundle := by
  unfold Obligations.StepRunsBundle
  intro s sid rest b s1 s2 idx s3 full slot hturns hsid hissues hplace hdecode hmask hearly
  have hstep : step s = settled (runBundle s2 sid idx b) := by
    have : sid < strandCount := hsid
    simp only [step, hturns, runTurn, this, if_true]
    exact congrArg settled (issueBundle_eq_runBundle hissues hplace hdecode hmask)
  rw [hstep, runBundle_eq_conclude hmask hearly]
  refine ⟨rfl, fun sl i hops => ?_⟩
  obtain ⟨t, ht⟩ := exec_goesOn i { s3 with iss := { s3.iss with slot := sl.code } }
  refine ⟨t, ht, ?_⟩
  have hslot : (s2.opened idx b).runSlot (sl, i) = t.bufferChecked := State.runSlot_of_next rfl ht
  simp only [hops, slotOrder_singleton, List.foldl_cons, List.foldl_nil, List.flatMap_cons, List.flatMap_nil, List.append_nil, hslot]
  rfl

end Sys2Proof.Machine
end

section
/-! PROOFS. Planes of the matrix array (R93 to R95, R106, R107, R119): which a grade exposes, what each contributes, and what the
exact sums of a byte and of a bit-plane weight are. -/

namespace Sys2Proof.Machine

/-! ### Exposure of planes (R107, R108, R119) -/

/-- At 24k no cell slot is exposed. -/
theorem exposedSlot_grade_zero (k j row : Nat) : exposedSlot 0 k j row = false := by
  simp [exposedSlot]

/-- The lowest band of a plane is undervolted exactly where the plane is exposed (R119). -/
theorem lowBand_lt_iff {grade k j : Nat} (hj : j < k) : (planeBands k j).2 < grade ↔ exposedPlane grade k j = true := by
  have hk : 0 < k := by omega
  have hx : (4 * (j + 1) - 1) / k < 4 := by rw [Nat.div_lt_iff_lt_mul hk]; omega
  have hle : 4 - grade ≤ (4 * (j + 1) - 1) / k ↔ k * (4 - grade) < 4 * (j + 1) := by
    rw [Nat.le_div_iff_mul_le hk, Nat.mul_comm]; omega
  simp only [planeBands, exposedPlane, Bool.and_eq_true, decide_eq_true_eq, ← hle]
  generalize (4 * (j + 1) - 1) / k = x at hx
  omega

/-- An undervolted cell slot lies in a band no lower than its plane's lowest. -/
theorem exposedPlane_of_exposedSlot {grade k j row : Nat} (hj : j < k) (h : exposedSlot grade k j row = true) :
    exposedPlane grade k j = true := by
  rw [← lowBand_lt_iff hj]
  simp only [exposedSlot, decide_eq_true_eq] at h
  split at h <;> omega

/-- A plane in a single band has all its cell slots there. -/
theorem exposedSlot_of_single_band {grade k j : Nat} (hj : j < k) (h : exposedPlane grade k j = true)
    (hband : (planeBands k j).1 = (planeBands k j).2) (row : Nat) : exposedSlot grade k j row = true := by
  rw [← lowBand_lt_iff hj] at h
  simp only [exposedSlot, hband, if_true, decide_eq_true_eq, h]

/-! ### What planes contribute (R93 to R95, R107) -/

theorem planeTerm_of_not_exposed {grade row : Nat} {p : Plane} (h : exposedSlot grade p.run p.place row = false) (a free late : Int)
    (w : Weight) : planeTerm grade row a free late w p = (if bit w.bits p.bit then a * w.unit p else 0) + late := by
  simp [planeTerm, h]

/-- The clamp of R107: an exposed plane brings something between 0 and its full term. -/
theorem planeTerm_of_exposed {grade row : Nat} {p : Plane} (h : exposedSlot grade p.run p.place row = true) (a free late : Int)
    (w : Weight) : min (a * w.unit p) 0 ≤ planeTerm grade row a free late w p ∧
      planeTerm grade row a free late w p ≤ max (a * w.unit p) 0 := by
  simp only [planeTerm, h, if_true]
  omega

/-- What the planes of a weight multiply an activation by: the units of those whose bit is set. -/
def planeValue (w : Weight) (ps : List Plane) : Int := (ps.map fun p => if bit w.bits p.bit then w.unit p else 0).sum

theorem exactSum_eq_mul (a : Int) (w : Weight) (ps : List Plane) : exactSum a w ps = a * planeValue w ps := by
  have hterm (p : Plane) : planeTerm 0 0 a 0 0 w p = a * (if bit w.bits p.bit then w.unit p else 0) := by
    rw [planeTerm_of_not_exposed (exposedSlot_grade_zero ..), Int.add_zero]
    split
    · rfl
    · exact (Int.mul_zero a).symm
  have hmap : (ps.mapIdx fun _ p => planeTerm 0 0 a 0 0 w p) = ps.map fun p => a * (if bit w.bits p.bit then w.unit p else 0) :=
    List.ext_getElem (by simp) (by simp [hterm])
  rw [exactSum, planeSum, hmap, planeValue]
  clear hmap
  induction ps with
  | nil => exact (Int.mul_zero a).symm
  | cons p ps ih => rw [List.map_cons, List.map_cons, List.sum_cons, List.sum_cons, ih, Int.mul_add]

/-- The planes below the top one are those of a run one shorter, none of them a sign plane. -/
theorem planeValue_planeRun_succ (w : Weight) (k lo : Nat) (sign : Bool) :
    planeValue w (planeRun (k + 1) lo 1 sign) =
      (if bit w.bits (lo + k) then (if w.neg != sign then -(2 ^ k : Nat) else (2 ^ k : Nat) : Int) else 0) +
        planeValue w (planeRun k lo 1 false) := by
  simp [planeValue, planeRun, List.range_succ_eq_map, Weight.unit, Function.comp_def, Nat.sub_sub, Nat.add_comm 1]

theorem bit_add (b lo k : Nat) : bit b (lo + k) = bit (b / 2 ^ lo) k := by
  rw [bit, bit, Nat.div_div_eq_div_mul, Nat.pow_add]

/-- The value of the lowest `k + 1` bits, from the value of the lowest `k` and the top one. -/
theorem mod_two_pow_succ_of_bit (v k : Nat) : v % 2 ^ (k + 1) = v % 2 ^ k + if bit v k then 2 ^ k else 0 := by
  rw [Nat.mod_pow_succ, bit]
  rcases Nat.mod_two_eq_zero_or_one (v / 2 ^ k) with h | h <;> simp [h]

/-- Planes without a sign plane read an unsigned field (R93). -/
theorem planeValue_unsigned {w : Weight} (hw : w.neg = false) (k lo : Nat) :
    planeValue w (planeRun k lo 1 false) = (w.bits / 2 ^ lo % 2 ^ k : Nat) := by
  induction k with
  | zero => simp [planeValue, planeRun, Nat.mod_one]
  | succ k ih =>
    rw [planeValue_planeRun_succ, ih, mod_two_pow_succ_of_bit, bit_add, hw]
    split <;> simp [Int.add_comm]

/-- Planes below a sign plane read a field in two's complement (R93, R94). -/
theorem planeValue_signed {w : Weight} (hw : w.neg = false) (k lo : Nat) :
    planeValue w (planeRun (k + 1) lo 1 true) = sx (k + 1) (w.bits / 2 ^ lo) := by
  have hlow : w.bits / 2 ^ lo % 2 ^ k < 2 ^ k := Nat.mod_lt _ (Nat.two_pow_pos k)
  rw [planeValue_planeRun_succ, planeValue_unsigned hw, sx, mod_two_pow_succ_of_bit, bit_add, hw]
  cases bit (w.bits / 2 ^ lo) k
  · simp [hlow]
  · simp only [Bool.false_bne, if_true, Nat.add_sub_cancel, Nat.pow_succ]
    rw [if_neg (by omega)]
    omega

/-- The upper bits of a number in two's complement are its quotient, rounded down. -/
theorem sx_div_two_pow (k j p : Nat) : sx (k + 1 + j) p / (2 ^ j : Nat) = sx (k + 1) (p / 2 ^ j) := by
  have hpos : (0 : Int) < (2 ^ j : Nat) := Int.natCast_pos.2 (Nat.two_pow_pos j)
  have hmod : p % 2 ^ (k + 1 + j) / 2 ^ j = p / 2 ^ j % 2 ^ (k + 1) := by
    rw [Nat.add_comm (k + 1) j, Nat.pow_add, Nat.mod_mul_right_div_self]
  have hlt : p % 2 ^ (k + 1 + j) < 2 ^ (k + 1 + j - 1) ↔ p / 2 ^ j % 2 ^ (k + 1) < 2 ^ k := by
    rw [← hmod, Nat.div_lt_iff_lt_mul (Nat.two_pow_pos j), ← Nat.pow_add, show k + 1 + j - 1 = k + j by omega]
  simp only [sx, hlt, Nat.add_sub_cancel]
  split
  · rw [← hmod, Int.natCast_ediv]
  · rw [← hmod, Int.natCast_ediv, Nat.pow_add 2 (k + 1) j, Int.natCast_mul, Int.sub_mul_ediv_right _ _ (Int.ne_of_gt hpos)]

/-- R93, R94: the exact plane sum of a byte weight is the product. -/
theorem exactSum_s8 (a : Int) (p : Nat) : exactSum a (weightOf .s8 0 127 p) (readPlanes .s8 8 0) = a * sx 8 p := by
  rw [exactSum_eq_mul, readPlanes, planeValue_signed (by rfl)]
  simp [weightOf]

theorem exactSum_n8 (a : Int) {p : Nat} (h : p < 256) : exactSum a (weightOf .n8 0 127 p) (readPlanes .n8 8 0) = a * (p : Int) := by
  rw [exactSum_eq_mul, readPlanes, planeValue_unsigned (by rfl)]
  simp [weightOf, Nat.mod_eq_of_lt h]

/-- The first `k` planes of a bit-plane weight bring `t`, its upper `k` bits (R95, R106). -/
theorem exactSum_bp8 (a : Int) (p : Nat) {k : Nat} (h0 : 0 < k) (h8 : k ≤ 8) :
    exactSum a (weightOf .bp8 0 127 p) (readPlanes .bp8 k 0) = a * (sx 8 p / (2 ^ (8 - k) : Nat)) := by
  obtain ⟨k, rfl⟩ : ∃ i, k = i + 1 := ⟨k - 1, by omega⟩
  have hdiv := sx_div_two_pow k (8 - (k + 1)) p
  rw [show k + 1 + (8 - (k + 1)) = 8 by omega] at hdiv
  rw [exactSum_eq_mul, hdiv]
  exact congrArg (a * ·) (planeValue_signed (w := weightOf .bp8 0 127 p) rfl k (8 - (k + 1)))

/-- The half-unit plane of R95 adds half a unit: in half units, the activation itself. -/
theorem toInt_alignedProduct_bp8 (a sum : Int) (p : Nat) :
    (alignedProduct a 0 (weightOf .bp8 0 127 p) sum).toInt = 2 * sum + a := by
  simp [alignedProduct, weightOf, ElemType.isBp, Dy.add, Dy.align, Dy.toInt, Int.mul_comm]

end Sys2Proof.Machine
end

section
/-! PROOFS. Runs of a pass (R110, R111, R115, R118, R125, R126, R256): what a run makes of its operands, and the ways in which it
ends. -/

namespace Sys2Proof.Machine

/-! ### Vectors of a pass (R125, R256) -/

/-- A run of consecutive keys written: each reads as written, and every other key as before. -/
theorem SMap.get_foldl_put_range {α : Type} [DecidableEq α] (base : Nat) (v : Nat → α) (d : α) (m : SMap α) (k j : Nat) :
    SMap.get ((List.range k).foldl (fun t n => SMap.put t (base + n) (v n) d) m) j d =
      if base ≤ j ∧ j < base + k then v (j - base) else SMap.get m j d := by
  induction k with
  | zero => rw [List.range_zero, List.foldl_nil, if_neg (by omega)]
  | succ k ih =>
    rw [List.range_succ, List.foldl_append, List.foldl_cons, List.foldl_nil, SMap.get_put, ih]
    by_cases h : base + k = j
    · subst h; simp
    · rw [if_neg h]
      simp only [show (base ≤ j ∧ j < base + (k + 1)) ↔ (base ≤ j ∧ j < base + k) by omega]

theorem mapIdx_pair_range {α : Type} (f : Nat → α) (k : Nat) :
    ((List.range k).map f).mapIdx (fun n x => (n, x)) = (List.range k).map fun n => (n, f n) :=
  List.ext_getElem (by simp) (by simp)

section Rows

variable (s : State) (views : Core × Core) (q : Sequencer) (first : Bool) (grade : Nat) (ta : Tile) (da : Nat)
  (b : BSource) (mode : Nat)

/-- What element (i, n) holds after a pass. -/
def passElem (i n : Nat) : BetaElem :=
  betaAdd mode (if first then {} else SMap.get q.beta (128 * i + n) {})
    ((passProducts s views q grade ta da b i n).map fun y => (y.value, y.special))

/-- The residual of vector `i`. -/
def passResidual (i : Nat) : Nat :=
  residual b q.pl q.lk ((List.range 64).map fun kk => actSig ta.ety q.lj (passAct views s.tick ta da q.kappa i kk))
    ((List.range 128).map fun n => passProducts s views q grade ta da b i n)

/-- What a run makes of the first `m` vectors. -/
def runRows (m : Nat) : PassResult := runPass s views { q with m := m } first grade ta da b mode

theorem runRows_succ_rho (m : Nat) : (runRows s views q first grade ta da b mode (m + 1)).rho =
    (runRows s views q first grade ta da b mode m).rho ++ [passResidual s views q grade ta da b m] := by
  simp only [runRows, runPass, List.range_succ (n := m), List.foldl_append, List.foldl_cons, List.foldl_nil]
  rfl

theorem runRows_succ_beta (m : Nat) : (runRows s views q first grade ta da b mode (m + 1)).beta =
    (List.range 128).foldl (fun t n => SMap.put t (128 * m + n) (passElem s views q first grade ta da b mode m n) {})
      (runRows s views q first grade ta da b mode m).beta := by
  simp only [runRows, runPass, List.range_succ (n := m), List.foldl_append, List.foldl_cons, List.foldl_nil, mapIdx_pair_range,
    List.foldl_map]
  rfl

theorem runRows_rho (m : Nat) :
    (runRows s views q first grade ta da b mode m).rho = (List.range m).map (passResidual s views q grade ta da b) := by
  induction m with
  | zero => rfl
  | succ m ih => rw [runRows_succ_rho, ih, List.range_succ, List.map_append, List.map_cons, List.map_nil]

theorem get_runRows_beta {m i n : Nat} (hi : i < m) (hn : n < 128) :
    SMap.get (runRows s views q first grade ta da b mode m).beta (128 * i + n) {} =
      passElem s views q first grade ta da b mode i n := by
  induction m with
  | zero => omega
  | succ m ih =>
    rw [runRows_succ_beta, SMap.get_foldl_put_range]
    by_cases h : i = m
    · subst h; simp [hn]
    · rw [if_neg (by omega), ih (by omega)]

end Rows

/-! ### What a run leaves of sequencer and call (R110, R118, R254) -/

theorem running_of_callRuns {s : State} (h : callRuns s = true) : s.myCore.running = some s.call := by
  simp only [callRuns, Bool.and_eq_true, Option.isSome_iff_exists] at h
  obtain ⟨⟨m, hm⟩, -⟩ := h
  simp [State.call, hm]

@[simp] theorem State.setSeqr_seqr (s : State) (q : Sequencer) : (s.setSeqr q).seqr = q := by
  simp [State.setSeqr, State.seqr]
@[simp] theorem State.setSeqr_mem (s : State) (q : Sequencer) : (s.setSeqr q).mem = s.mem := rfl
theorem State.running_setSeqr {s : State} {q : Sequencer} (h : q.running = s.seqr.running) :
    (s.setSeqr q).myCore.running = s.myCore.running := by
  simp only [State.seqr] at h
  simp [State.setSeqr, Core.running, h]

@[simp] theorem State.onCall_seqr (s : State) (f : MCall → MCall) : (s.onCall f).seqr = s.seqr := by
  simp [State.onCall, State.seqr]

/-- The call that the sequencer runs is one that has started and has not ended (R246). -/
def MCall.underWay (m : MCall) : Bool := m.started && !m.ended

theorem Core.running_eq (c : Core) : c.running = if c.seqr.running then c.calls.find? MCall.underWay else none := rfl

theorem State.onCall_myCore (s : State) (f : MCall → MCall) : (s.onCall f).myCore =
    { s.myCore with calls := s.myCore.calls.map fun m => if m.underWay then f m else m } :=
  State.myCore_setMyCore ..

/-- A change of the running call that neither starts nor ends it. -/
theorem State.running_onCall (s : State) {f : MCall → MCall} (hf : ∀ m, (f m).underWay = m.underWay) :
    (s.onCall f).myCore.running = s.myCore.running.map f := by
  have hkeep : (MCall.underWay ∘ fun m => if m.underWay then f m else m) = MCall.underWay := by
    funext m; simp only [Function.comp_apply]; split <;> simp [hf]
  rw [State.onCall_myCore, Core.running_eq, Core.running_eq]
  split
  · rw [List.find?_map, hkeep]
    exact Option.map_congr fun m hm => if_pos (List.find?_some hm)
  · rfl

@[simp] theorem State.noteGrades_myCore (s : State) (g : Nat) : (s.noteGrades g).myCore = s.myCore := rfl
@[simp] theorem State.noteGrades_seqr (s : State) (g : Nat) : (s.noteGrades g).seqr = s.seqr := rfl

@[simp] theorem State.countDetections_mem (s : State) (det : List Nat) : (s.countDetections det).mem = s.mem := by
  simp [State.countDetections, apply_ite State.mem]
@[simp] theorem State.countDetections_seqr (s : State) (det : List Nat) : (s.countDetections det).seqr = s.seqr := by
  simp [State.countDetections, State.seqr]
@[simp] theorem State.countDetections_running (s : State) (det : List Nat) :
    (s.countDetections det).myCore.running = s.myCore.running := by
  simp [State.countDetections, Core.running]

/-! ### A pass that runs (R110, R111, R115, R118, R125, R126) -/

/-- A micro-operation counts by what it comes to for the call that runs. -/
theorem microOp_congr {s : State} {f : MCall → State → MicroRes} {r : MicroRes} (h : callRuns s = true) (hf : f s.call s = r) :
    microOp s f = microOp s fun _ _ => r := by
  rw [microOp_ok h, microOp_ok h, hf]

theorem microOp_stay {s : State} (h : callRuns s = true) (t : State) : (microOp s fun _ _ => .stay t) = .next t := microOp_ok h
theorem microOp_next_word {s : State} (h : callRuns s = true) (t : State) : (microOp s fun _ _ => .next t) = .next (s.nextWord t) :=
  microOp_ok h

/-- The rails at a pass's grade, which is noted for the launch (R110, R127). -/
def State.atGrade (s : State) (grade : Nat) : State := (s.setMyCore { s.myCore with rails := grade }).noteGrades (2 ^ grade)

/-- The state after a run with its detections counted (R490). -/
def State.afterRun (s : State) (grade : Nat) : State :=
  ((s.atGrade grade).countDetections (runDetections (s.atGrade grade))).bump

/-- What a run at a grade credits (R115, R117). -/
def State.passRunCredits (s : State) (grade : Nat) : Credits :=
  runCredits (runDetections (s.atGrade grade)) (nominalHits (runDetections (s.atGrade grade)) grade) grade

/-- What a run of the call's pass makes of its operands (R256). -/
def State.passRun (s : State) (n grade : Nat) (ta : Tile) (da : Nat) (b : BSource) (mode : Nat) : PassResult :=
  runPass (s.atGrade grade) (s.call.views (s.atGrade grade).myCore) s.seqr (bit n 0) grade ta da b mode

/-- The sequencer with what a run adds: its grade is fixed, its credits are kept (R111, R115, R118). -/
def Sequencer.afterRun (q : Sequencer) (grade : Nat) (c : Credits) : Sequencer :=
  { q with passGrade := some grade, credits := q.credits.add c }

@[simp] theorem State.atGrade_mem (s : State) (grade : Nat) : (s.atGrade grade).mem = s.mem := rfl
@[simp] theorem State.atGrade_myCore (s : State) (grade : Nat) : (s.atGrade grade).myCore = { s.myCore with rails := grade } :=
  State.myCore_setMyCore ..

@[simp] theorem State.afterRun_mem (s : State) (grade : Nat) : (s.afterRun grade).mem = s.mem := by
  simp [State.afterRun]
theorem State.afterRun_setSeqr_mem (s : State) (grade : Nat) (q : Sequencer) : ((s.afterRun grade).setSeqr q).mem = s.mem :=
  (State.setSeqr_mem ..).trans (State.afterRun_mem ..)
@[simp] theorem State.afterRun_seqr (s : State) (grade : Nat) : (s.afterRun grade).seqr = s.seqr := by
  refine (State.countDetections_seqr ..).trans ?_
  simp [State.seqr]
@[simp] theorem State.afterRun_running (s : State) (grade : Nat) : (s.afterRun grade).myCore.running = s.myCore.running := by
  refine (State.countDetections_running ..).trans ?_
  simp [Core.running]

/-- What a run that ends its pass credits to the call: its own credits with the largest residual (R118, R125). -/
def passCredits (c : Credits) (r : PassResult) : Credits := c.add { resmax := r.rho.foldl max 0 }

/-- The call with a pass that ends: counted and credited, with its record where it leaves one (R118, R126). -/
def MCall.passEnded (m : MCall) (c : Credits) (flags : Nat) (faults : List Deferred) : MCall :=
  { m with flags := flOr m.flags flags, passes := m.passes + 1, faults := m.faults ++ faults, credits := m.credits.add c }

/-- The sequencer with a pass that ends: its products held in beta, the next K-block with ADV (R256). -/
def Sequencer.passEnded (q : Sequencer) (n mode : Nat) (r : PassResult) : Sequencer :=
  { q.cut with beta := r.beta, mode := some mode, kappa := if bit n 1 then q.kappa + 1 else q.kappa }

/-- A run that ends its pass leaves nothing of the pass under way (R111, R118). -/
theorem Sequencer.passEnded_afterRun (q : Sequencer) (grade upc n mode : Nat) (c : Credits) (r : PassResult) :
    { (q.afterRun grade c).passEnded n mode r with upc := upc } =
      { q with beta := r.beta, mode := some mode, kappa := if bit n 1 then q.kappa + 1 else q.kappa, upc := upc, repeats := 0,
               force24 := false, railWait := false, passGrade := none, credits := {} } := rfl

/-- A pass that ends: its call credited, beta and kappa left for the next (R118, R256). -/
def State.passEnded (s : State) (q : Sequencer) (n mode : Nat) (r : PassResult) (faults : List Deferred) : State :=
  ((s.noteGrades (passCredits q.credits r).grades).onCall
    fun m => m.passEnded (passCredits q.credits r) r.flags faults).setSeqr (q.passEnded n mode r)

section PassEnded

variable (s t : State) (q : Sequencer) (n mode : Nat) (r : PassResult) (faults : List Deferred)

theorem State.nextWord_passEnded_seqr : (s.nextWord (t.passEnded q n mode r faults)).seqr =
    { q.passEnded n mode r with upc := s.seqr.upc + 1 } := by
  simp [State.nextWord, State.passEnded]

theorem State.nextWord_passEnded_mem : (s.nextWord (t.passEnded q n mode r faults)).mem = t.mem := rfl

theorem State.nextWord_passEnded_running {q : Sequencer} (h : q.running = t.seqr.running) :
    (s.nextWord (t.passEnded q n mode r faults)).myCore.running =
      t.myCore.running.map fun m => m.passEnded (passCredits q.credits r) r.flags faults := by
  rw [State.nextWord, State.running_setSeqr (by rfl), State.passEnded,
    State.running_setSeqr (by simpa [Sequencer.passEnded, Sequencer.cut] using h), State.running_onCall _ fun _ => by rfl,
    State.noteGrades_myCore]

end PassEnded

/-- The state after a pass whose last run was made now. -/
def State.passDone (s : State) (n grade mode : Nat) (r : PassResult) (faults : List Deferred) : State :=
  s.nextWord ((s.afterRun grade).passEnded (s.seqr.afterRun grade (s.passRunCredits grade)) n mode r faults)

theorem State.passDone_seqr (s : State) (n grade mode : Nat) (r : PassResult) (faults : List Deferred) :
    (s.passDone n grade mode r faults).seqr =
      { s.seqr with beta := r.beta, mode := some mode, kappa := if bit n 1 then s.seqr.kappa + 1 else s.seqr.kappa,
                    upc := s.seqr.upc + 1, repeats := 0, force24 := false, railWait := false, passGrade := none, credits := {} } :=
  (State.nextWord_passEnded_seqr ..).trans (Sequencer.passEnded_afterRun ..)

theorem State.passDone_mem (s : State) (n grade mode : Nat) (r : PassResult) (faults : List Deferred) :
    (s.passDone n grade mode r faults).mem = s.mem :=
  (State.nextWord_passEnded_mem ..).trans (State.afterRun_mem ..)

theorem State.passDone_running {s : State} (hruns : callRuns s = true) (n grade mode : Nat) (r : PassResult)
    (faults : List Deferred) : (s.passDone n grade mode r faults).myCore.running =
      some (s.call.passEnded (passCredits (s.seqr.credits.add (s.passRunCredits grade)) r) r.flags faults) := by
  rw [State.passDone, State.nextWord_passEnded_running _ _ _ _ _ _ (by simp [Sequencer.afterRun]), State.afterRun_running,
    running_of_callRuns hruns]
  rfl

section EndRun

variable {s : State} {q : Sequencer} {n grade da mode : Nat} {r : PassResult} {m : MCall}

theorem endRun_of_within (h : worstVector r = none) :
    endRun s q n grade da mode r m = .next (s.passEnded q n mode r []) := by
  simp only [endRun, h]; rfl

theorem endRun_of_repeat {i rho : Nat} (h : worstVector r = some (i, rho)) (hrpl : m.rpl = true) (hforce : q.force24 = false) :
    endRun s q n grade da mode r m = .stay (s.setSeqr { q with
      force24 := true, passGrade := none, repeats := 0, credits := (passCredits q.credits r).add { ckr := 1 } }) := by
  simp only [endRun, h, hrpl, hforce]; rfl

theorem endRun_of_checksum {i rho : Nat} (h : worstVector r = some (i, rho)) (hrpl : m.rpl = false ∨ q.force24 = true) :
    endRun s q n grade da mode r m = .next (s.passEnded q n mode r
      [{ cause := cCHECKSUM, info := checksumInfo rho (dAr da + i) m.passes grade, rho := rho }]) := by
  have : ¬ ((m.rpl && !q.force24) = true) := by rcases hrpl with h | h <;> simp [h]
  simp only [endRun, h, if_neg this]; rfl

end EndRun

theorem exec_pass (n : Nat) (s : State) : exec (.pass n) s = execPass n s := rfl

section Runs

variable {s : State} {n da mode grade : Nat} {ta : Tile} {b : BSource} (hruns : callRuns s = true)
  (hops : passOperands s s.call s.seqr = .ok ta da b mode) (hgrade : s.seqr.grade s.myCore.forced s.call = grade)
include hruns hops hgrade

/-- Rails looser than the pass's grade are waited for (R110). -/
theorem exec_pass_of_looser (h : grade < s.myCore.rails) :
    exec (.pass n) s = .next (s.setSeqr { s.seqr with railWait := true }) := by
  rw [exec_pass, execPass]
  exact (microOp_congr hruns (by simp only [hops, hgrade, if_pos h])).trans (microOp_stay hruns _)

/-- A run with a late transition in a band at VNOM is made again, its credits kept (R115). -/
theorem exec_pass_of_hit (h : s.myCore.rails ≤ grade) (hhits : nominalHits (runDetections (s.atGrade grade)) grade ≠ [])
    (hrepeats : s.seqr.repeats < 3) :
    exec (.pass n) s = .next ((s.afterRun grade).setSeqr { s.seqr.afterRun grade (s.passRunCredits grade) with
      repeats := s.seqr.repeats + 1 }) := by
  rw [exec_pass, execPass]
  refine (microOp_congr hruns ?_).trans (microOp_stay hruns _)
  obtain ⟨x, l, hxl⟩ := List.exists_cons_of_ne_nil hhits
  simp only [State.atGrade] at hxl
  simp only [hops, hgrade, if_neg (Nat.not_lt.mpr h), hxl, if_pos hrepeats, State.passRunCredits, State.atGrade]
  rfl

section Clean

variable (h : s.myCore.rails ≤ grade) (hhits : nominalHits (runDetections (s.atGrade grade)) grade = [])
include h hhits

/-- Without such a transition the run ends (R125). -/
theorem exec_pass_of_clean :
    exec (.pass n) s = microOp s fun _ _ => endRun (s.afterRun grade) (s.seqr.afterRun grade (s.passRunCredits grade))
      n grade da mode (s.passRun n grade ta da b mode) s.call := by
  rw [exec_pass, execPass]
  refine microOp_congr hruns ?_
  simp only [State.atGrade] at hhits
  simp only [hops, hgrade, if_neg (Nat.not_lt.mpr h), hhits, State.passRunCredits, State.atGrade]
  rfl

/-- A run within tolerance ends its pass (R125). -/
theorem exec_pass_of_within (hworst : worstVector (s.passRun n grade ta da b mode) = none) :
    exec (.pass n) s = .next (s.passDone n grade mode (s.passRun n grade ta da b mode) []) := by
  rw [exec_pass_of_clean hruns hops hgrade h hhits, endRun_of_within hworst]
  exact microOp_next_word hruns _

/-- A run beyond tolerance is made again at 24k where the call asks so, once (R126). -/
theorem exec_pass_of_repeat {i rho : Nat} (hworst : worstVector (s.passRun n grade ta da b mode) = some (i, rho))
    (hrpl : s.call.rpl = true) (hforce : s.seqr.force24 = false) :
    exec (.pass n) s = .next ((s.afterRun grade).setSeqr { s.seqr.afterRun grade (s.passRunCredits grade) with
      force24 := true, passGrade := none, repeats := 0
      credits := (passCredits (s.seqr.credits.add (s.passRunCredits grade)) (s.passRun n grade ta da b mode)).add
        { ckr := 1 } }) := by
  rw [exec_pass_of_clean hruns hops hgrade h hhits, endRun_of_repeat (q := s.seqr.afterRun grade _) hworst hrpl hforce]
  exact microOp_stay hruns _

/-- Otherwise it ends its pass with a CHECKSUM record (R126). -/
theorem exec_pass_of_checksum {i rho : Nat} (hworst : worstVector (s.passRun n grade ta da b mode) = some (i, rho))
    (hrpl : s.call.rpl = false ∨ s.seqr.force24 = true) :
    exec (.pass n) s = .next (s.passDone n grade mode (s.passRun n grade ta da b mode)
      [{ cause := cCHECKSUM, info := checksumInfo rho (dAr da + i) s.call.passes grade, rho := rho }]) := by
  rw [exec_pass_of_clean hruns hops hgrade h hhits, endRun_of_checksum (q := s.seqr.afterRun grade _) hworst hrpl]
  exact microOp_next_word hruns _

end Clean

end Runs

/-! ### The obligation -/

/-- Settles O23, clause by clause: the ways in which a run of a pass ends, the elements and residuals of a pass, and what planes
contribute. -/
theorem passRuns : Obligations.PassRuns := by
  unfold Obligations.PassRuns
  refine ⟨⟨fun s n da mode ta b hruns hops => ?_, fun s views q first grade da mode ta b i n hi hn => ?_⟩, ?_, ?_, ?_, ?_⟩
  · intro q grade s1 det hits r credits all done ended
    have hended (faults : List Deferred) : ended (s.passDone n grade mode r faults) faults :=
      ⟨State.passDone_seqr .., _, State.passDone_running hruns .., rfl⟩
    refine ⟨exec_pass_of_looser hruns hops rfl, fun hrails => ?_⟩
    by_cases hhits : hits = []
    · rcases hworst : worstVector r with _ | ⟨i, rho⟩
      · refine ⟨_, exec_pass_of_within hruns hops rfl hrails hhits hworst, fun _ => State.passDone_mem ..,
          fun _ _ => hended [], ?_⟩
        simp [hhits]
      by_cases hagain : s.call.rpl = true ∧ q.force24 = false
      · obtain ⟨hrpl, hforce⟩ := hagain
        refine ⟨_, exec_pass_of_repeat hruns hops rfl hrails hhits hworst hrpl hforce, fun _ => State.afterRun_setSeqr_mem ..,
          by simp, fun _ _ _ _ _ _ => State.setSeqr_seqr .., ?_⟩
        simp [hhits, hrpl, hforce]
      · have hrecord : s.call.rpl = false ∨ q.force24 = true :=
          (Decidable.not_and_iff_not_or_not.1 hagain).imp eq_false_of_ne_true eq_true_of_ne_false
        refine ⟨_, exec_pass_of_checksum hruns hops rfl hrails hhits hworst hrecord, fun _ => State.passDone_mem .., by simp,
          fun _ _ _ _ hrpl hforce => absurd ⟨hrpl, hforce⟩ hagain, ?_, fun h => absurd hhits h⟩
        rintro _ _ _ ⟨⟩ _
        exact hended _
    · by_cases hrepeats : q.repeats < 3
      · exact ⟨_, exec_pass_of_hit hruns hops rfl hrails hhits hrepeats, fun _ => State.afterRun_setSeqr_mem ..,
          fun h => absurd h hhits, fun h => absurd h hhits, fun h => absurd h hhits, fun _ _ => State.setSeqr_seqr ..⟩
      · obtain ⟨u, hu⟩ := exec_goesOn (.pass n) s
        exact ⟨u, hu, fun h => absurd h (by simp [hhits, hrepeats]),
          fun h => absurd h hhits, fun h => absurd h hhits, fun h => absurd h hhits, fun _ h => absurd h hrepeats⟩
  · refine ⟨get_runRows_beta s views q first grade ta da b mode hi hn, ?_⟩
    have hrho := runRows_rho s views q first grade ta da b mode q.m
    exact (congrArg (·[i]?) hrho).trans (by simp [hi, passResidual])
  · exact fun a p hp => ⟨exactSum_s8 a p, exactSum_n8 a hp⟩
  · intro a p k _ hk h8 w
    rw [toInt_alignedProduct_bp8, exactSum_bp8 a p (by omega) h8]
    rw [Int.mul_add, Int.mul_one, Int.mul_left_comm]
  · exact fun grade row a free late w p =>
      ⟨fun h => planeTerm_of_exposed h a free late w, fun h => planeTerm_of_not_exposed h a free late w⟩
  · exact fun grade k j row _ hj =>
      ⟨exposedPlane_of_exposedSlot hj, fun h hband => exposedSlot_of_single_band hj h hband row⟩

end Sys2Proof.Machine
end

section
/-! PROOFS. The package right after reset (R302, R303, R500): what the tables of agents, queues and ports, still empty, answer. -/

namespace Sys2Proof.Machine

/-! ### Agents, queues and ports at reset -/

theorem State.reset_queue (n : Nat) : State.reset.queue n = {} := rfl
theorem State.reset_cq (n : Nat) : State.reset.cq n = {} := rfl
theorem State.reset_die (n : Nat) : State.reset.die n = {} := rfl
theorem State.reset_port (n : Nat) : State.reset.port n = {} := rfl
theorem State.reset_core (n : Nat) : State.reset.core n = {} := rfl
theorem State.reset_strand (n : Nat) : State.reset.strand n = {} := rfl

theorem State.reset_memWf : State.reset.memWf := rfl

/-! ### The statement -/

/-- Settles O57: the registers hold their reset values, and every table answers with the values of an entry that nothing has written. -/
theorem resetState : Obligations.ResetState := by
  unfold Obligations.ResetState
  refine ⟨rfl, rfl, rfl, rfl, rfl, rfl, rfl, rfl, rfl, rfl, rfl, rfl, rfl, rfl, rfl, State.reset_memWf, fun n => ?_, fun n => ?_,
    fun n => ?_, fun n => ?_, fun n => ?_⟩
  · rw [State.reset_queue, State.reset_cq]; exact ⟨rfl, rfl⟩
  · rw [State.reset_die]; exact ⟨rfl, rfl⟩
  · rw [State.reset_port]
  · rw [State.reset_core]; exact ⟨rfl, rfl⟩
  · rw [State.reset_strand]; exact ⟨rfl, rfl, rfl⟩

end Sys2Proof.Machine
end

section
/-! PROOFS. FORCE, CANCEL, EPWIN and EPRING (R113, R352, R364, R470): what following the contexts changes of the cores, and one
equation for each way in which a command ends. -/

namespace Sys2Proof.Machine

/-! ### Cores that follow what their contexts ask for (R113) -/

/-- Setting the force state of cores changes the cores alone. -/
theorem State.forceCores_eq (s : State) (l : List Nat) : s.forceCores l = { s with cores := (s.forceCores l).cores } := by
  induction l generalizing s with
  | nil => rfl
  | cons m l ih => exact ih _

@[simp] theorem State.forceCores_mem (s : State) (l : List Nat) : (s.forceCores l).mem = s.mem := by rw [State.forceCores_eq]
@[simp] theorem State.ctx_forceCores (s : State) (l : List Nat) (n : Nat) : (s.forceCores l).ctx n = s.ctx n := by
  rw [State.forceCores_eq]; rfl

/-- A core of the list takes the force state that is asked for there, any other core stays. -/
theorem State.core_forceCores (s : State) (l : List Nat) (n : Nat) :
    (s.forceCores l).core n = if n ∈ l then { s.core n with force := s.forceAsked n } else s.core n := by
  induction l generalizing s with
  | nil => rfl
  | cons m l ih =>
    have hstep : (s.forceCores (m :: l)).core n = if n ∈ l
        then { (s.setCore m { s.core m with force := s.forceAsked m }).core n with force := s.forceAsked n }
        else (s.setCore m { s.core m with force := s.forceAsked m }).core n := ih _
    rw [hstep]
    by_cases hn : n = m
    · subst hn; simp
    · simp [State.core_setCore_other hn, hn]

/-- A core on which a group of a context stands is asked for 24k where that context is forced. -/
theorem State.forceAsked_of_forced {s : State} {ctx n : Nat} (hforce : (s.ctx ctx).force = true)
    (h : n ∈ (s.standing.filter fun g => g.ctx == ctx).flatMap Group.cores) : s.forceAsked n = true := by
  obtain ⟨g, hg, hn⟩ := List.mem_flatMap.1 h
  obtain ⟨hstands, hctx⟩ := List.mem_filter.1 hg
  refine List.any_eq_true.2 ⟨g, hstands, ?_⟩
  simp [beq_iff_eq.1 hctx, hforce, hn]

/-! ### FORCE (R113, R352) -/

/-- A context with its force flag set or released. -/
def State.askForce (s : State) (ctx : Nat) (on : Bool) : State := s.setCtx ctx { s.ctx ctx with force := on }

/-- The cores on which groups of a context stand. -/
def State.standingCores (s : State) (ctx : Nat) : List Nat := (s.standing.filter fun g => g.ctx == ctx).flatMap Group.cores

/-- The launches of some groups record that they run under forced 24k (R337). -/
def State.markForced (s : State) (gs : List Group) (on : Bool) : State :=
  let mark := fun (e : Nat × Launch) => (e.1, if on && gs.any (fun g => g.launch == e.1) then { e.2 with forced24 := true } else e.2)
  { s with cmd := { s.cmd with launches := s.cmd.launches.map mark } }

/-- The package once a FORCE has acted. -/
def State.withForce (s : State) (ctx : Nat) (on : Bool) : State :=
  ((s.askForce ctx on).forceCores (s.standingCores ctx)).markForced (s.standing.filter fun g => g.ctx == ctx) on

theorem State.withForce_mem (s : State) (ctx : Nat) (on : Bool) : (s.withForce ctx on).mem = s.mem :=
  State.forceCores_mem ..

theorem State.withForce_ctx (s : State) (ctx : Nat) (on : Bool) : (s.withForce ctx on).ctx ctx = { s.ctx ctx with force := on } :=
  (State.ctx_forceCores ..).trans (State.ctx_setCtx_same ..)

theorem State.withForce_core (s : State) (ctx : Nat) (on : Bool) (n : Nat) : (s.withForce ctx on).core n =
    if n ∈ s.standingCores ctx then { s.core n with force := (s.askForce ctx on).forceAsked n } else s.core n :=
  State.core_forceCores ..

theorem exec_force_of_usable {s : State} {ctx : Nat} (h : s.usable ctx = true) (on : Bool) (tag : Nat) :
    exec (.force ctx on tag) s = .next ((s.withForce ctx on).adminOk tag) := by
  show execForce ctx on tag s = _
  simp only [execForce, h, Bool.not_true, Bool.false_eq_true, if_false]
  rfl

theorem exec_force_of_not_usable {s : State} {ctx : Nat} (h : s.usable ctx = false) (on : Bool) (tag : Nat) :
    exec (.force ctx on tag) s = .next (s.adminFault tag) := by
  show execForce ctx on tag s = _
  simp [execForce, h]

/-! ### CANCEL (R364) -/

theorem exec_cancel_of_queue {s : State} {ctx queue : Nat} (h : s.usable ctx = true) (h0 : 0 < queue) (h64 : queue < 64) (target tag : Nat) :
    exec (.cancel ctx queue target tag) s =
      .next ((s.endLaunches (s.cancelled ctx queue target) .abort {}).adminEnd 0 tag (s.cancelled ctx queue target).length) := by
  show execCancel ctx queue target tag s = _
  simp [execCancel, h, Nat.ne_of_gt h0, Nat.not_le.2 h64]

theorem exec_cancel_of_no_queue (s : State) (ctx : Nat) {queue : Nat} (h : queue = 0 ∨ 64 ≤ queue) (target tag : Nat) :
    exec (.cancel ctx queue target tag) s = .next (s.adminFault tag) := by
  show execCancel ctx queue target tag s = _
  simp [execCancel, or_assoc, h]

/-! ### EPWIN and EPRING (R470) -/

/-- An entry of a table is another context's exactly where it is not free for this one: neither missing nor its own. -/
theorem any_ne_eq_not_all {α : Type} (f : α → Nat) (ctx : Nat) (o : Option α) :
    (o.any fun x => f x != ctx) = !o.all fun x => f x == ctx := by
  cases o <;> rfl

/-- The package with other endpoint windows. -/
def State.setWindows (s : State) (m : SMap EpWin) : State := { s with link := { s.link with windows := m } }

/-- The package with other endpoint rings. -/
def State.setRings (s : State) (m : SMap EpRing) : State := { s with link := { s.link with rings := m } }

theorem exec_epwin_of_free {s : State} {ctx window dest ring : Nat} (h : s.usable ctx = true)
    (hfree : (SMap.find s.link.windows window).all (fun w => w.ctx == ctx) = true) (hwindow : window < 256) (hdest : dest < 4096)
    (hring : ring < 64) (enable : Bool) (tag : Nat) :
    exec (.epwin ctx window enable dest ring tag) s = .next ((s.setWindows
      (SMap.insert s.link.windows window { ctx := ctx, enabled := enable, dest := dest, ring := ring })).adminOk tag) := by
  show execEpwin ctx window enable dest ring tag s = _
  simp [execEpwin, State.setWindows, h, any_ne_eq_not_all, hfree, Nat.not_le.2 hwindow, Nat.not_le.2 hdest, Nat.not_le.2 hring]

theorem exec_epwin_of_held {s : State} {ctx window : Nat}
    (hheld : ¬ (SMap.find s.link.windows window).all (fun w => w.ctx == ctx) = true) (enable : Bool) (dest ring tag : Nat) :
    exec (.epwin ctx window enable dest ring tag) s = .next (s.adminFault tag) := by
  show execEpwin ctx window enable dest ring tag s = _
  simp [execEpwin, any_ne_eq_not_all, hheld]

/-- The table of rings after an EPRING: size 0 removes the ring. -/
def ringTable (m : SMap EpRing) (ctx ring log2s : Nat) (wake : Bool) (base : Nat) : SMap EpRing :=
  if log2s = 0 then SMap.erase m ring else SMap.insert m ring { ctx := ctx, log2s := log2s, wake := wake, base := base }

theorem exec_epring_of_free {s : State} {ctx ring log2s base : Nat} (h : s.usable ctx = true)
    (hfree : (SMap.find s.link.rings ring).all (fun r => r.ctx == ctx) = true) (hring : ring < 64) (hlog2s : log2s ≤ 12)
    (halign : base % 64 = 0) (hbase : base < 2 ^ 52) (wake : Bool) (tag : Nat) :
    exec (.epring ctx ring log2s wake base tag) s =
      .next ((s.setRings (ringTable s.link.rings ctx ring log2s wake base)).adminOk tag) := by
  show execEpring ctx ring log2s wake base tag s = _
  simp only [execEpring, h, any_ne_eq_not_all, hfree, Nat.not_le.2 hring, Nat.not_lt.2 hlog2s, halign, Nat.not_le.2 hbase]
  rfl

theorem exec_epring_of_too_long (s : State) (ctx ring : Nat) {log2s : Nat} (hlong : 12 < log2s) (wake : Bool) (base tag : Nat) :
    exec (.epring ctx ring log2s wake base tag) s = .next (s.adminFault tag) := by
  show execEpring ctx ring log2s wake base tag s = _
  simp [execEpring, hlong]

/-! ### The statement -/

/-- Settles O44: each command ends as its equation says, and after a FORCE the cores of the context's standing groups hold what is asked
for there. -/
theorem otherCommands : Obligations.OtherCommands := by
  unfold Obligations.OtherCommands
  intro s ctx queue target window dest ring log2s base tag on wake gs asked wins freeWin freeRing rings
  have hcores (n : Nat) (hn : n ∈ gs.flatMap Group.cores) : ((s.withForce ctx on).core n).force = asked.forceAsked n := by
    rw [State.withForce_core, if_pos (show n ∈ s.standingCores ctx from hn)]; rfl
  refine ⟨fun h => exec_force_of_not_usable h on tag,
    fun h => ⟨s.withForce ctx on, exec_force_of_usable h on tag, State.withForce_mem .., by rw [State.withForce_ctx], hcores,
      fun hon n hn => ?_, fun n hn => (State.withForce_core ..).trans (if_neg hn)⟩,
    fun h h0 h64 => exec_cancel_of_queue h h0 h64 target tag, fun _ h => exec_cancel_of_no_queue s ctx h target tag,
    fun h hfree hwindow hdest hring => exec_epwin_of_free h hfree hwindow hdest hring on tag,
    fun hheld => exec_epwin_of_held hheld on dest ring tag,
    fun h hfree hring h0 h12 halign hbase => ?_, fun h hfree hring halign hbase => ?_,
    fun hlong => exec_epring_of_too_long s ctx ring hlong wake base tag⟩
  · subst hon
    have hasked : (asked.ctx ctx).force = true := by rw [State.ctx_setCtx_same]
    rw [hcores n hn]
    exact State.forceAsked_of_forced hasked hn
  · rw [exec_epring_of_free h hfree hring h12 halign hbase, ringTable, if_neg (Nat.ne_of_gt h0)]; rfl
  · rw [exec_epring_of_free h hfree hring (Nat.zero_le _) halign hbase, ringTable, if_pos rfl]; rfl

end Sys2Proof.Machine
end

section
/-! PROOFS. The fields of a slot's form, packed by the encoder, are read back by the form that the slot's map assigns to its opcode (R128 to
R150). -/

namespace Sys2Proof

/-! ### Fields and words -/

/-- Every field of the list stands in its width. -/
inductive Fits : List Nat → List Nat → Prop
  | nil : Fits [] []
  | cons {w f : Nat} {lay fs : List Nat} (head : f < 2 ^ w) (tail : Fits lay fs) : Fits (w :: lay) (f :: fs)

@[simp] theorem fits_nil : Fits [] [] := .nil
@[simp] theorem fits_cons {w f : Nat} {lay fs : List Nat} : Fits (w :: lay) (f :: fs) ↔ f < 2 ^ w ∧ Fits lay fs :=
  ⟨fun | .cons head tail => ⟨head, tail⟩, fun ⟨head, tail⟩ => .cons head tail⟩

theorem unpack_pack {lay fs : List Nat} (h : Fits lay fs) : unpack lay (pack lay fs) = fs := by
  induction h with
  | nil => rfl
  | @cons w f lay fs hf _ ih =>
    rw [pack, unpack, Nat.mod_eq_of_lt hf, Nat.add_mul_mod_self_left, Nat.mod_eq_of_lt hf,
      Nat.add_mul_div_left _ _ (Nat.two_pow_pos w), Nat.div_eq_of_lt hf, Nat.zero_add, ih]

/-- Bits below a block that is added at bit `B` are those of the rest. -/
theorem low_bits {B c m : Nat} (h : c + m ≤ B) (H p : Nat) : (H + 2 ^ B * p) / 2 ^ c % 2 ^ m = H / 2 ^ c % 2 ^ m := by
  obtain ⟨k, rfl⟩ := Nat.exists_eq_add_of_le h
  rw [Nat.pow_add, Nat.pow_add, Nat.mul_assoc, Nat.mul_assoc, Nat.add_mul_div_left _ _ (Nat.two_pow_pos c), Nat.add_mul_mod_self_left]

theorem add_block_lt {H p B n : Nat} (hH : H < 2 ^ B) (hp : p < 2 ^ n) : H + 2 ^ B * p < 2 ^ (B + n) :=
  calc H + 2 ^ B * p < 2 ^ B * (p + 1) := by rw [Nat.mul_succ]; omega
    _ ≤ 2 ^ (B + n) := by rw [Nat.pow_add]; exact Nat.mul_le_mul_left _ hp

theorem pack_lt {lay fs : List Nat} (h : Fits lay fs) : pack lay fs < 2 ^ lay.sum := by
  induction h with
  | nil => simp [pack]
  | @cons w f lay fs hf _ ih =>
    rw [pack, Nat.mod_eq_of_lt hf, List.sum_cons]
    exact add_block_lt hf ih

theorem pack_head {w op : Nat} {lay fs : List Nat} (h : Fits (w :: lay) (op :: fs)) : pack (w :: lay) (op :: fs) % 2 ^ w = op := by
  simpa [unpack] using congrArg (·.head?) (unpack_pack h)

/-! ### Codes -/

@[simp] theorem IntTy.ofCode_code (t : IntTy) : IntTy.ofCode t.code = some t := by cases t <;> rfl
@[simp] theorem ElemType.ofCode_code (t : ElemType) : ElemType.ofCode t.code = some t := by cases t <;> rfl
@[simp] theorem Cond.ofCode_code (c : Cond) : Cond.ofCode c.code = some c := by cases c <;> rfl
@[simp] theorem FCond.ofCode_code (c : FCond) : FCond.ofCode c.code = some c := by cases c <;> rfl
@[simp] theorem RoundSel.ofCode_code (m : RoundSel) : RoundSel.ofCode m.code = some m := by cases m <;> rfl
@[simp] theorem RedOp.ofCode_code (o : RedOp) : RedOp.ofCode o.code = some o := by cases o <;> rfl
@[simp] theorem AccDir.ofCode_code (dir : AccDir) : AccDir.ofCode dir.code = some dir := by cases dir <;> rfl
@[simp] theorem AmoOp.ofCode_code (o : AmoOp) : AmoOp.ofCode o.code = some o := by cases o <;> rfl
@[simp] theorem Scope.ofCode_code (s : Scope) : Scope.ofCode s.code = some s := by cases s <;> rfl
@[simp] theorem Order.ofCode_code (o : Order) : Order.ofCode o.code = some o := by cases o <;> rfl
@[simp] theorem TileLevel.ofCode_code (l : TileLevel) : TileLevel.ofCode l.code = some l := by cases l <;> rfl
@[simp] theorem LgState.ofCode_code (s : LgState) : LgState.ofCode s.code = some s := by cases s <;> rfl
@[simp] theorem ColOp.ofCode_code (o : ColOp) : ColOp.ofCode o.code = some o := by cases o <;> rfl
@[simp] theorem bitOf_ofBit (b : Bool) : bitOf (ofBit b) = b := by cases b <;> rfl

/-! A code fits in every field that holds it; the fields of one type differ in width. -/

@[simp] theorem IntTy.code_lt (t : IntTy) {n : Nat} (h : 8 ≤ n) : t.code < n :=
  Nat.lt_of_lt_of_le (by cases t <;> decide : t.code < 8) h
@[simp] theorem ElemType.code_lt (t : ElemType) {n : Nat} (h : 27 ≤ n) : t.code < n :=
  Nat.lt_of_lt_of_le (by cases t <;> decide : t.code < 27) h
@[simp] theorem Cond.code_lt (c : Cond) {n : Nat} (h : 6 ≤ n) : c.code < n :=
  Nat.lt_of_lt_of_le (by cases c <;> decide : c.code < 6) h
@[simp] theorem FCond.code_lt (c : FCond) {n : Nat} (h : 8 ≤ n) : c.code < n :=
  Nat.lt_of_lt_of_le (by cases c <;> decide : c.code < 8) h
@[simp] theorem RoundSel.code_lt (m : RoundSel) {n : Nat} (h : 16 ≤ n) : m.code < n :=
  Nat.lt_of_lt_of_le (by cases m <;> decide : m.code < 16) h
@[simp] theorem RedOp.code_lt (o : RedOp) {n : Nat} (h : 3 ≤ n) : o.code < n :=
  Nat.lt_of_lt_of_le (by cases o <;> decide : o.code < 3) h
@[simp] theorem AccDir.code_lt (dir : AccDir) {n : Nat} (h : 3 ≤ n) : dir.code < n :=
  Nat.lt_of_lt_of_le (by cases dir <;> decide : dir.code < 3) h
@[simp] theorem AmoOp.code_lt (o : AmoOp) {n : Nat} (h : 7 ≤ n) : o.code < n :=
  Nat.lt_of_lt_of_le (by cases o <;> decide : o.code < 7) h
@[simp] theorem Scope.code_lt (s : Scope) {n : Nat} (h : 7 ≤ n) : s.code < n :=
  Nat.lt_of_lt_of_le (by cases s <;> decide : s.code < 7) h
@[simp] theorem Order.code_lt (o : Order) {n : Nat} (h : 4 ≤ n) : o.code < n :=
  Nat.lt_of_lt_of_le (by cases o <;> decide : o.code < 4) h
@[simp] theorem TileLevel.code_lt (l : TileLevel) {n : Nat} (h : 3 ≤ n) : l.code < n :=
  Nat.lt_of_lt_of_le (by cases l <;> decide : l.code < 3) h
@[simp] theorem LgState.code_lt (s : LgState) {n : Nat} (h : 3 ≤ n) : s.code < n :=
  Nat.lt_of_lt_of_le (by cases s <;> decide : s.code < 3) h
@[simp] theorem ColOp.code_lt (o : ColOp) {n : Nat} (h : 6 ≤ n) : o.code < n :=
  Nat.lt_of_lt_of_le (by cases o <;> decide : o.code < 6) h
@[simp] theorem ofBit_le_one (b : Bool) : ofBit b ≤ 1 := by cases b <;> decide
@[simp] theorem ofBit_lt (b : Bool) {n : Nat} (h : 2 ≤ n) : ofBit b < n :=
  Nat.lt_of_lt_of_le (by cases b <;> decide : ofBit b < 2) h

@[simp] theorem ElemType.code_inj {t u : ElemType} : t.code = u.code ↔ t = u :=
  ⟨fun h => Option.some.inj (by rw [← ofCode_code t, h, ofCode_code]), congrArg _⟩
theorem ElemType.code_lt_eight (t : ElemType) : t.code < 8 ↔ t.isInt = true := by cases t <;> decide
theorem ElemType.code_wide (t : ElemType) : (t.code == 3 || t.code == 7 || t.code == 8) = (t.width == 64) := by cases t <;> rfl
@[simp] theorem Scope.code_eq_zero (s : Scope) : s.code = 0 ↔ s = .st := by cases s <;> decide
@[simp] theorem Order.code_eq_zero (o : Order) : o.code = 0 ↔ o = .none := by cases o <;> decide
@[simp] theorem AccDir.code_eq_zero (dir : AccDir) : dir.code = 0 ↔ dir = .h := by cases dir <;> decide
@[simp] theorem ColOp.code_eq_five (o : ColOp) : o.code = 5 ↔ o = .barrier := by cases o <;> decide
@[simp] theorem ofBit_eq_zero (b : Bool) : ofBit b = 0 ↔ b = false := by cases b <;> decide
@[simp] theorem ofBit_eq_one (b : Bool) : ofBit b = 1 ↔ b = true := by cases b <;> decide

/-! ### Field checks -/

@[simp] theorem fAny_eq (n : Nat) : fAny n = true := rfl
@[simp] theorem fZero_iff (n : Nat) : fZero n = true ↔ n = 0 := beq_iff_eq
@[simp] theorem fLt_iff (m n : Nat) : fLt m n = true ↔ n < m := decide_eq_true_iff
@[simp] theorem fNz_iff (n : Nat) : fNz n = true ↔ n ≠ 0 := bne_iff_ne
@[simp] theorem fTy_code (p : ElemType → Bool) (t : ElemType) : fTy p t.code = p t := by simp [fTy]
@[simp] theorem fIn_roundSel (m : RoundSel) : fIn [0, 1, 2, 3, 4, 15] m.code = true := by cases m <;> rfl
@[simp] theorem fIn_storeOrd (o : Order) : fIn [0, 2] o.code = storeOrd o := by cases o <;> rfl
@[simp] theorem fLt_loadOrd (o : Order) : fLt 2 o.code = loadOrd o := by cases o <;> rfl
@[simp] theorem noCross_eq (fs : List Nat) : noCross fs = none := rfl

@[simp] theorem firstBad_nil (n : Nat) : firstBad [] [] n = none := rfl
@[simp] theorem firstBad_cons {c : Nat → Bool} {cs : List (Nat → Bool)} {f : Nat} {fs : List Nat} {n : Nat} :
    firstBad (c :: cs) (f :: fs) n = none ↔ c f = true ∧ firstBad cs fs (n + 1) = none := by
  by_cases h : c f = true <;> simp [firstBad, h]

/-- The form reads these fields of the layout as the instruction: each stands in its width and passes its check, no check over several
fields fails, and the instruction is built. -/
structure Form.Reads (f : Form) (lay fs : List Nat) (i : Instr) : Prop where
  layout : f.lay = lay
  fits : Fits lay fs
  checked : firstBad f.chk fs 0 = none
  crossed : f.cross fs = none
  built : f.build fs = some i

theorem Form.reads_iff {f : Form} {lay fs : List Nat} {i : Instr} : f.Reads lay fs i ↔
    f.lay = lay ∧ Fits lay fs ∧ firstBad f.chk fs 0 = none ∧ f.cross fs = none ∧ f.build fs = some i :=
  ⟨fun h => ⟨h.layout, h.fits, h.checked, h.crossed, h.built⟩,
    fun ⟨layout, fits, checked, crossed, built⟩ => { layout, fits, checked, crossed, built }⟩

theorem Form.Reads.runForm_pack {f : Form} {lay fs : List Nat} {i : Instr} (h : f.Reads lay fs i) :
    runForm f (pack lay fs) = .ok i := by
  simp [runForm, h.layout, unpack_pack h.fits, h.checked, h.crossed, h.built, minBad]

/-! ### Checks over several fields -/

section
variable {op lgm pr d a b c sub sat idx imm r : Nat} {t u : ElemType} {dir : AccDir} {sc : Scope} {ord : Order}

@[simp] theorem crossCvt_eq_none {sat : Bool} (h : sat = false ∨ t.isInt = true ∧ u.isInt = true) :
    crossCvt [op, lgm, pr, d, a, b, c, t.code, sub, ofBit sat, u.code, r] = none := by
  rcases h with rfl | h
  · rfl
  · simp [crossCvt, ElemType.code_lt_eight, h]

@[simp] theorem crossMxq_eq_none (h : u = .f32 ∨ b = 0) :
    crossMxq [op, lgm, pr, d, a, b, c, t.code, sub, sat, u.code, r] = none := by
  rcases h with rfl | rfl <;> simp [crossMxq]

@[simp] theorem crossMxdq_eq_none (h : t ≠ .f32 ∨ d % 2 = 0) :
    crossMxdq [op, lgm, pr, d, a, b, c, t.code, sub, sat, u.code, r] = none := by
  have hf32 : t.code = 9 ↔ t = .f32 := ElemType.code_inj (u := .f32)
  rcases h with h | h <;> simp [crossMxdq, hf32, h]

@[simp] theorem crossRing_eq_none {s ety sty : Nat} (hs : s < 8) (h : lgm / 2 ^ s % 2 = 0) :
    crossRing [op, lgm, pr, d, a, b, c, ety, s, sat, sty, r] = none := by
  simp [crossRing, Nat.mod_eq_of_lt hs, h]

@[simp] theorem crossLane_eq_none (hg : oneGroup lgm = true) (h : t.width ≠ 64 ∨ imm % 2 = 0) :
    crossLane [op, lgm, pr, d, a, t.code, imm, sub, r] = none := by
  rcases h with h | h <;> simp [crossLane, hg, ElemType.code_wide, h]

@[simp] theorem crossShuf_eq_none (h : shufOk t imm = true) : crossShuf [op, lgm, pr, d, a, t.code, imm, sub, r] = none := by
  simp [crossShuf, h]

@[simp] theorem crossMovi_eq_none (h : imm < 2 ^ t.width) : crossMovi [op, lgm, pr, d, t.code, imm, r] = none := by
  simp [crossMovi, h]

@[simp] theorem crossAcc_eq_none {v sty all : Nat} (h : t.width ≠ 64 ∨ dir = .h) :
    crossAcc [op, lgm, pr, v, dir.code, idx, t.code, sty, all, r] = none := by
  rcases h with h | h <;> simp [crossAcc, ElemType.code_wide, h]

@[simp] theorem crossClr_eq_none {v ety sty : Nat} {all : Bool} (h : all = false ∨ ((lgm = 255 ∧ pr = 0) ∧ dir = .h) ∧ idx = 0) :
    crossClr [op, lgm, pr, v, dir.code, idx, ety, sty, ofBit all, r] = none := by
  rcases h with rfl | h
  · rfl
  · simp [crossClr, h]

@[simp] theorem crossAcvt_eq_none {v all : Nat} (h : t ≠ u) :
    crossAcvt [op, lgm, pr, v, dir.code, idx, t.code, u.code, all, r] = none := by
  simp [crossAcvt, h]

@[simp] theorem crossLoad_eq_none {ety : Nat} {rest : List Nat} (h : scopeOk sc ord = true) :
    crossLoad (op :: d :: a :: b :: c :: ety :: sc.code :: ord.code :: rest) = none := by
  simp only [scopeOk, Bool.or_eq_true, bne_iff_ne, beq_iff_eq] at h
  rcases h with h | h <;> simp [crossLoad, h]

@[simp] theorem crossStore_eq_none {ety vs off : Nat} (h : scopeOk sc ord = true) :
    crossStore [op, a, b, ety, sc.code, ord.code, vs, off, lgm, r] = none := by
  simp only [scopeOk, Bool.or_eq_true, bne_iff_ne, beq_iff_eq] at h
  rcases h with h | h <;> simp [crossStore, h]

/-- A store of an x register names no lanegroup (R133, R146). -/
@[simp] theorem crossVs_scalar {ety s o off : Nat} : crossVs [op, a, b, ety, s, o, ofBit false, off, 0, r] = none := rfl

@[simp] theorem crossVs_vector {ety s o off : Nat} (ha : a < 32) (h : 0 < lgm) :
    crossVs [op, a, b, ety, s, o, ofBit true, off, lgm, r] = none := by
  have hlgm : lgm ≠ 0 := by omega
  have hvs : ofBit true = 1 := rfl
  simp [crossVs, Nat.not_le.2 ha, hlgm, hvs]

@[simp] theorem crossCe_eq_none {q qe : Nat} {acq rel : Bool} (h : (acq = true ∨ rel = true) ∨ sc = .st) :
    crossCe [op, a, b, c, sc.code, ofBit acq, ofBit rel, sub, q, qe, r] = none := by
  rcases h with (h | h) | h <;> simp [crossCe, h]

@[simp] theorem crossCol_eq_none {q qe : Nat} {o : ColOp} {acq rel : Bool} (h : o ≠ .barrier ∨ a = 0 ∧ b = 0)
    (hsc : (acq = true ∨ rel = true) ∨ sc = .st) :
    crossCol [op, a, b, c, sc.code, ofBit acq, ofBit rel, o.code, q, qe, r] = none := by
  rcases h with h | h <;> simp [crossCol, hsc, h]

@[simp] theorem crossMark_eq_none {qm : Nat} (h : sc = .st ∨ qm % 4 ≠ 0) : crossMark [op, qm, sc.code, r] = none := by
  rcases h with h | h <;> simp [crossMark, h]

@[simp] theorem crossLset_eq_none {lv kind cnt body : Nat} {mod rb : Bool} (h : lv = 3 ∨ mod = false ∧ rb = false) :
    crossLset [op, lv, kind, cnt, body, ofBit mod, ofBit rb] = none := by
  rcases h with h | h <;> simp [crossLset, h]

@[simp] theorem crossSpred_eq_none {p stg : Nat} (h : p + stg ≤ 15) : crossSpred [op, p, stg, r] = none := by
  simp [crossSpred, h]

end

/-- An instruction that no slot holds, or the fields of one that its slot's map reads back. -/
inductive ReadsBack (i : Instr) : Option (Slot × List Nat × List Nat) → Prop
  | noSlot : ReadsBack i none
  | form {sl : Slot} {w op : Nat} {f : Form} {lay fs : List Nat} (opcode : sl.opWidth = w) (width : (w :: lay).sum = sl.width)
      (assigned : slotForm sl op = some f) (reads : f.Reads (w :: lay) (op :: fs) i) : ReadsBack i (some (sl, w :: lay, op :: fs))

@[simp] theorem form_reads {lay fs : List Nat} {chk : List (Nat → Bool)} {build : List Nat → Option Instr} {i : Instr} :
    (form lay chk build).Reads lay fs i ↔ Fits lay fs ∧ firstBad chk fs 0 = none ∧ build fs = some i := by
  simp [Form.reads_iff, form]

/-! ### S slot -/

section
variable {op d a : Nat} (t : IntTy)

theorem formR3_reads {b : Nat} {mk : IntTy → Nat → Nat → Nat → Instr} (hop : op < 256) (h : xxx d a b = true) :
    (formR3 mk).Reads laySR [op, d, a, b, 0, 0, t.code, 0, 0] (mk t d a b) := by
  simp [xxx] at h
  simp [formR3, laySR]
  omega

theorem formR2_reads {mk : IntTy → Nat → Nat → Instr} (hop : op < 256) (h : xx d a = true) :
    (formR2 mk).Reads laySR [op, d, a, 0, 0, 0, t.code, 0, 0] (mk t d a) := by
  simp [xx] at h
  simp [formR2, laySR]
  omega

theorem formI_reads {imm m : Nat} {mk : IntTy → Nat → Nat → Nat → Instr} (hop : op < 256) (hm : m ≤ 2 ^ 36) (h : xxi d a imm m = true) :
    (formI m mk).Reads laySI [op, d, a, t.code, 0, imm] (mk t d a imm) := by
  simp [xxi] at h
  simp [formI, laySI]
  omega

theorem formBf_reads {pos len : Nat} {mk : IntTy → Nat → Nat → Nat → Nat → Instr} (hop : op < 256)
    (h : (xx d a && decide (pos < 64) && decide (0 < len) && decide (pos + len ≤ 64)) = true) :
    (formBf mk).Reads laySI [op, d, a, t.code, 0, pos + 64 * len] (mk t d a pos len) := by
  simp [xx] at h
  have hpos : (pos + 64 * len) % 64 = pos := by omega
  have hlen : (pos + 64 * len) / 64 = len := by omega
  simp [formBf, laySI, fPosLen, hpos, hlen]
  omega

end

theorem formBr_reads {op bt cn : Nat} (neg : Bool) {mk : Nat → Nat → Bool → Instr} (hop : op < 256)
    (h : (decide (bt < 4) && decide (cn < 8)) = true) :
    (formBr mk).Reads laySB [op, bt, cn, ofBit neg, 0, 0, 0, 0] (mk bt cn neg) := by
  simp at h
  simp [formBr, laySB]
  omega

theorem readsBack_setcar {g : GradeSrc} (h : (Instr.setcar g).wf = true) : ReadsBack (.setcar g) (slotFields (.setcar g)) := by
  cases g with
  | imm grade =>
    have hlt : grade < 4 := of_decide_eq_true h
    have hmod : grade % 4 = grade := Nat.mod_eq_of_lt hlt
    have hdiv : grade / 4 = 0 := Nat.div_eq_of_lt hlt
    exact .form rfl rfl rfl (by simp [laySY, hmod, hdiv]; omega)
  | reg a =>
    have hlt : a < 64 := of_decide_eq_true h
    exact .form rfl rfl rfl (by simpa [laySY] using hlt)

/-- LEVEL stands in the two low bits of the immediate and ETY above it (R138). -/
theorem readsBack_halloc {l : TileLevel} {t : ElemType} {d a : Nat} (h : xx d a = true) :
    ReadsBack (.halloc l t d a) (slotFields (.halloc l t d a)) := by
  simp [xx] at h
  have hl : l.code < 3 := l.code_lt (Nat.le_refl _)
  have ht : t.code < 27 := t.code_lt (Nat.le_refl _)
  have hmod : (l.code + 4 * t.code) % 4 = l.code := by omega
  have hdiv : (l.code + 4 * t.code) / 4 = t.code := by omega
  exact .form rfl rfl rfl (by simp [laySY, fHalloc, hmod, hdiv]; omega)

/-! ### V slots -/

theorem VHead.ok_iff {h : VHead} {dMax aMax : Nat} {t : ElemType → Bool} : h.ok dMax aMax t = true ↔
    0 < h.lgm ∧ h.lgm < 256 ∧ h.pr < 16 ∧ h.d < dMax ∧ h.a < aMax ∧ t h.ty = true := by
  simp [VHead.ok, lgmOk, and_assoc]

theorem lt_of_shufOk {t : ElemType} {imm : Nat} (h : shufOk t imm = true) : imm < 1024 := by
  simp only [shufOk, Bool.and_eq_true, decide_eq_true_eq] at h
  exact h.1.1

theorem formVR_reads {lay : List Nat} {op b c sub sat sty : Nat} {h : VHead} {r : VRow} {cross : List Nat → Option Nat}
    {mk : VHead → Nat → Nat → Nat → Nat → Nat → Option Instr} {i : Instr} :
    (formVR r cross mk).Reads lay [op, h.lgm, h.pr, h.d, h.a, b, c, h.ty.code, sub, sat, sty, 0] i ↔
      layVR = lay ∧ Fits lay [op, h.lgm, h.pr, h.d, h.a, b, c, h.ty.code, sub, sat, sty, 0] ∧
      (r.lgm h.lgm = true ∧ r.pr h.pr = true ∧ r.d h.d = true ∧ r.a h.a = true ∧ r.b b = true ∧ r.c c = true ∧
        r.ety h.ty.code = true ∧ r.sub sub = true ∧ r.sat sat = true ∧ r.sty sty = true) ∧
      cross [op, h.lgm, h.pr, h.d, h.a, b, c, h.ty.code, sub, sat, sty, 0] = none ∧ mk h b c sub sat sty = some i := by
  simp [Form.reads_iff, formVR]

theorem formVI_reads {lay : List Nat} {op imm sub : Nat} {h : VHead} {d a immOk subOk : Nat → Bool} {t : ElemType → Bool}
    {cross : List Nat → Option Nat} {mk : VHead → Nat → Nat → Option Instr} {i : Instr} :
    (formVI d a t immOk subOk cross mk).Reads lay [op, h.lgm, h.pr, h.d, h.a, h.ty.code, imm, sub, 0] i ↔
      layVI = lay ∧ Fits lay [op, h.lgm, h.pr, h.d, h.a, h.ty.code, imm, sub, 0] ∧
      (h.lgm ≠ 0 ∧ d h.d = true ∧ a h.a = true ∧ t h.ty = true ∧ immOk imm = true ∧ subOk sub = true) ∧
      cross [op, h.lgm, h.pr, h.d, h.a, h.ty.code, imm, sub, 0] = none ∧ mk h imm sub = some i := by
  simp [Form.reads_iff, formVI]

theorem formV1_reads {op : Nat} {h : VHead} {t : ElemType → Bool} {mk : VHead → Instr} (hop : op < 256) (hh : h.ok 32 40 t = true) :
    (formV1 t mk).Reads layVR [op, h.lgm, h.pr, h.d, h.a, 0, 0, h.ty.code, 0, 0, 0, 0] (mk h) := by
  simp [VHead.ok_iff] at hh
  simp [formV1, formVR_reads, layVR, hh]
  omega

theorem formV2_reads {op b : Nat} {h : VHead} {t : ElemType → Bool} {mk : VHead → Nat → Instr} (hop : op < 256)
    (hh : (h.ok 32 40 t && decide (b < 40)) = true) :
    (formV2 t mk).Reads layVR [op, h.lgm, h.pr, h.d, h.a, b, 0, h.ty.code, 0, 0, 0, 0] (mk h b) := by
  simp [VHead.ok_iff] at hh
  simp [formV2, formVR_reads, layVR, hh]
  omega

theorem formV2s_reads {op b : Nat} {h : VHead} {t : ElemType → Bool} (sat : Bool) {mk : VHead → Nat → Bool → Instr} (hop : op < 256)
    (hh : (h.ok 32 40 t && decide (b < 40)) = true) :
    (formV2s t mk).Reads layVR [op, h.lgm, h.pr, h.d, h.a, b, 0, h.ty.code, 0, ofBit sat, 0, 0] (mk h b sat) := by
  simp [VHead.ok_iff] at hh
  simp [formV2s, formVR_reads, layVR, hh]
  omega

theorem formV3_reads {op b c : Nat} {h : VHead} {t : ElemType → Bool} {mk : VHead → Nat → Nat → Instr} (hop : op < 256)
    (hh : (h.ok 32 40 t && decide (b < 40) && decide (c < 32)) = true) :
    (formV3 t mk).Reads layVR [op, h.lgm, h.pr, h.d, h.a, b, c, h.ty.code, 0, 0, 0, 0] (mk h b c) := by
  simp [VHead.ok_iff] at hh
  simp [formV3, formVR_reads, layVR, hh]
  omega

theorem formVImm_reads {op imm m : Nat} {h : VHead} {t : ElemType → Bool} {mk : VHead → Nat → Instr} (hop : op < 256) (hm : m ≤ 65536)
    (hh : (h.ok 32 40 t && decide (imm < m)) = true) :
    (formVImm t m mk).Reads layVI [op, h.lgm, h.pr, h.d, h.a, h.ty.code, imm, 0, 0] (mk h imm) := by
  simp [VHead.ok_iff] at hh
  simp [formVImm, formVI_reads, layVI, hh]
  omega

/-- A predicate form has no element type: its ETY is 0 (R207). -/
theorem formP_reads {op lgm pr d dMax a b : Nat} {bOk : Nat → Bool} {mk : Nat → Nat → Nat → Nat → Nat → Instr} (hop : op < 256)
    (hdMax : dMax ≤ 64) (hb : b < 16) (hbOk : bOk b = true) (h : predOk lgm pr d dMax a = true) :
    (formP dMax bOk mk).Reads layVR [op, lgm, pr, d, a, b, 0, 0, 0, 0, 0, 0] (mk lgm pr d a b) := by
  have hty : ElemType.ofCode 0 = some .s8 := rfl
  simp [predOk, lgmOk] at h
  simp [Form.reads_iff, formP, formVR, layVR, h, hbOk, hty]
  omega

/-- A form on a line of `acc` with one v register (R234). -/
theorem formAcc_reads {op lgm pr v idx : Nat} (dir : AccDir) (t : ElemType) {mk : Nat → Nat → Nat → AccDir → Nat → ElemType → Instr}
    (hop : op < 256) (h : (lgmOk lgm && decide (pr < 16) && decide (v < 32) && decide (idx < 128) && t.isLane &&
      (t.width != 64 || dir == .h)) = true) :
    (formVA (fLt 32) (fTy ElemType.isLane) fZero fZero crossAcc
      fun lgm pr v dir idx ety _ _ => (ElemType.ofCode ety).map fun t => mk lgm pr v dir idx t).Reads layVA
      [op, lgm, pr, v, dir.code, idx, t.code, 0, 0, 0] (mk lgm pr v dir idx t) := by
  simp [lgmOk] at h
  simp [Form.reads_iff, formVA, layVA, h]
  omega

/-! ### The other slots -/

theorem formTile_reads {op : Nat} {t : TileArg} {ety : Nat → Bool} {mk : TileArg → Instr} (hop : op < 256) (hety : ety t.ty.code = true)
    (h : t.ok = true) :
    (formTile ety mk).Reads layT [op, t.r, t.h, t.ag, ofBit t.agv, t.ty.code, t.off, t.lgm, 0] (mk t) := by
  simp [TileArg.ok, lgmOk] at h
  simp [formTile, layT, hety]
  omega

theorem formCmd_reads {op : Nat} {c : CeArg} {mk : CeArg → Instr} (hop : op < 256) (h : c.ok = true) :
    (formCmd mk).Reads layCE [op, c.a, c.b, c.c, c.sc.code, ofBit c.acq, ofBit c.rel, 0, c.q, ofBit c.qe, 0] (mk c) := by
  simp [CeArg.ok] at h
  simp [Form.reads_iff, formCmd, layCE, h]
  omega

theorem formHint_reads {op a b l : Nat} {mk : Nat → Nat → Nat → Instr} (hop : op < 256)
    (h : (decide (a < 64) && decide (b < 64) && decide (l < 4)) = true) :
    (formHint mk).Reads layCE [op, a, b, 0, 0, 0, 0, l, 0, 0, 0] (mk a b l) := by
  simp at h
  simp [formHint, layCE]
  omega

theorem formSync_reads {op : Nat} {i : Instr} (hop : op < 64) : (formSync i).Reads laySYM [op, 0, 0, 0] i := by
  simpa [formSync, laySYM] using hop

/-! ### Every form -/

/-- The slot's map assigns to the opcode of each well-formed form the form that reads its fields back. What `omega` closes is that the
operands, within their ranges, stand in their fields. -/
theorem readsBack_slotFields (i : Instr) (h : i.wf = true) : ReadsBack i (slotFields i) := by
  unfold Instr.wf at h
  cases i with
  -- S
  | add | sub | mul | mulh | div | rem | and | or | xor | andn | shl | shr | rotl | min | max =>
    exact .form rfl rfl rfl (formR3_reads _ (by decide) h)
  | clz | ctz | popc | ext => exact .form rfl rfl rfl (formR2_reads _ (by decide) h)
  | addI | subI | mulI | andI | orI | xorI | andnI | minI | maxI | shlI | shrI | rotlI =>
    exact .form rfl rfl rfl (formI_reads _ (by decide) (by decide) h)
  | bfx | bfi => exact .form rfl rfl rfl (formBf_reads _ (by decide) h)
  | br | call => exact .form rfl rfl rfl (formBr_reads _ (by decide) h)
  | sel =>
    simp [xxx] at h
    exact .form rfl rfl rfl (by simp [formSel, laySR]; omega)
  | cmp =>
    simp [xxx] at h
    exact .form rfl rfl rfl (by simp [formCmp, laySR]; omega)
  | cmpI =>
    simp [xxi] at h
    exact .form rfl rfl rfl (by simp [formCmpI, laySI]; omega)
  | movi | movhi =>
    simp [xxi] at h
    exact .form rfl rfl rfl (by simp [laySI]; omega)
  | prep _ src =>
    cases src with
    | index | reg =>
      simp at h
      exact .form rfl rfl rfl (by simp [Form.reads_iff, formPrep, laySB]; omega)
  | rett => exact .form rfl rfl rfl (by simp [laySY])
  | trap | mfs | mts | time | hfree | mbox =>
    simp at h
    exact .form rfl rfl rfl (by simp [laySY]; omega)
  | setfmt v m =>
    simp at h
    exact .form rfl rfl rfl (by simp [laySY, fFmtImm]; omega)
  | setcar g => exact readsBack_setcar h
  | halloc => exact readsBack_halloc h
  -- V
  | fabs | fneg | frecpe | frsqe | ipopc | vmov => exact .form rfl rfl rfl (formV1_reads (by decide) h)
  | fadd | fsub | fmul | fmin | fmax | fcpys | fscale | iadd | isub | iadds | isubs | iand | ior | ixor | ishr | imin | imax | vperm =>
    exact .form rfl rfl rfl (formV2_reads (by decide) h)
  | imul | ishl => exact .form rfl rfl rfl (formV2s_reads _ (by decide) h)
  | fma | fms | fnma => exact .form rfl rfl rfl (formV3_reads (by decide) h)
  | fscaleI | iaddI | isubI | iandI | iorI | ixorI | iminI | imaxI | ishlI | ishrI =>
    exact .form rfl rfl rfl (formVImm_reads (by decide) (by decide) h)
  | pnot | pmov | vany | vall | pcnt => exact .form rfl rfl rfl (formP_reads (by decide) (by decide) (by decide) rfl h)
  | pand | por | pxor =>
    simp at h
    exact .form rfl rfl rfl (formP_reads (by decide) (by decide) h.2 (by simpa using h.2) h.1)
  | fcmp | fround | cvt | mxq | mxdq | bpq | imad | iabs | icmp | vbcast | vsel | xcopy | xbcast | vred =>
    simp [VHead.ok_iff] at h
    exact .form rfl rfl rfl (formVR_reads.2 (by simp [layVR, h]; omega))
  | fclass | icmpI | vext | vins =>
    simp [VHead.ok_iff] at h
    exact .form rfl rfl rfl (formVI_reads.2 (by simp [layVI, h]; omega))
  | vshuf hd imm =>
    simp [VHead.ok_iff] at h
    have himm : imm < 1024 := lt_of_shufOk h.2
    exact .form rfl rfl rfl (formVI_reads.2 (by simp [layVI, h]; omega))
  | vmovi lgm pr d t imm =>
    simp [lgmOk] at h
    have himm : imm < 2 ^ 32 := Nat.lt_of_lt_of_le h.2 (Nat.pow_le_pow_right (by decide) h.1.2)
    exact .form rfl rfl rfl (by simp [Form.reads_iff, layVK, narrow, h]; omega)
  | accrd | accwr => exact .form rfl rfl rfl (formAcc_reads _ _ (by decide) h)
  | accclr | acccvt =>
    simp [lgmOk] at h
    exact .form rfl rfl rfl (by simp [Form.reads_iff, formVA, layVA, lane32, h]; omega)
  -- MX, XF
  | mset | mstat | mchk =>
    simp at h
    exact .form rfl rfl rfl (by simp [layMXP]; omega)
  | mseti =>
    simp at h
    exact .form rfl rfl rfl (by simp [layMXI]; omega)
  | mcall =>
    simp at h
    exact .form rfl rfl rfl (by simp [layMXC]; omega)
  | trpush | trpop =>
    simp at h
    exact .form rfl rfl rfl (by simp [layXFT]; omega)
  | trcfg =>
    simp at h
    exact .form rfl rfl rfl (by simp [layXFT, narrow, h])
  | resm | renorm | retab | retload =>
    simp at h
    exact .form rfl rfl rfl (by simp [layXFR]; omega)
  -- LD, ST
  | ldSp | stSp => exact .form rfl rfl rfl (formTile_reads (by decide) (by simp) h)
  | ldB =>
    simp only [Bool.and_eq_true] at h
    exact .form rfl rfl rfl (formTile_reads (by decide) (by simpa using h.2) h.1)
  | ldG | qbind =>
    simp at h
    exact .form rfl rfl rfl (by simp [Form.reads_iff, form, layGL, withOrd, h]; omega)
  | amo | cas =>
    simp at h
    exact .form rfl rfl rfl (by simp [layGL, withOrd, h]; omega)
  | gath =>
    simp [lgmOk] at h
    exact .form rfl rfl rfl (by simp [Form.reads_iff, layGG, withOrd, h]; omega)
  | qfree =>
    simp at h
    exact .form rfl rfl rfl (by simp [layGL]; omega)
  | stG vs | epSt vs =>
    cases vs with
    | false =>
      simp at h
      exact .form rfl rfl rfl (by simp [Form.reads_iff, layGS, withOrd, crossStG, minBad, h])
    | true =>
      simp [lgmOk] at h
      exact .form rfl rfl rfl (by simp [Form.reads_iff, layGS, withOrd, crossStG, minBad, h]; omega)
  | scat =>
    simp [lgmOk] at h
    exact .form rfl rfl rfl (by simp [Form.reads_iff, layGS, withOrd, h]; omega)
  | qout =>
    simp at h
    exact .form rfl rfl rfl (by simp [Form.reads_iff, layGS, withOrd, h]; omega)
  -- CE
  | cp | cpg | cps | stage | sealRec | openRec => exact .form rfl rfl rfl (formCmd_reads (by decide) h)
  | pf | res => exact .form rfl rfl rfl (formHint_reads (by decide) h)
  | ckpt | meas =>
    simp at h
    exact .form rfl rfl rfl (by simp [layCE]; omega)
  | col =>
    simp [CeArg.ok] at h
    exact .form rfl rfl rfl (by simp [Form.reads_iff, layCE, h])
  -- SY, AD
  | join | ssarr | sswait | cbar | halt => exact .form rfl rfl rfl (formSync_reads (by decide))
  | mark =>
    simp at h
    exact .form rfl rfl rfl (by simp [Form.reads_iff, laySYM, h]; omega)
  | lgate | wake =>
    simp [lgmOk] at h
    exact .form rfl rfl rfl (by simp [laySYL]; omega)
  | lset _ cnt =>
    cases cnt with
    | imm | reg | word =>
      simp at h
      exact .form rfl rfl rfl (by simp [Form.reads_iff, layADL, loopCount, h])
  | lbrk =>
    simp at h
    exact .form rfl rfl rfl (by simp [layADB]; omega)
  | agset =>
    simp at h
    exact .form rfl rfl rfl (by simp [layADG]; omega)
  | agstr =>
    simp at h
    exact .form rfl rfl rfl (by simp [layADS]; omega)
  | lrot => exact .form rfl rfl rfl (by simp [layADR])
  | spred =>
    simp at h
    exact .form rfl rfl rfl (by simp [Form.reads_iff, layADP, h]; omega)
  -- no other instruction stands in a slot
  | _ => exact .noSlot

end Sys2Proof
end

section
/-! PROOFS. A bundle that holds one operation or none decodes to it (R128 to R130, R154). -/

namespace Sys2Proof

/-! ### A bundle of one operation -/

theorem Slot.code_lt (sl : Slot) : sl.code < 10 := by cases sl <;> decide
theorem Slot.base_ge (sl : Slot) : 32 ≤ sl.base := by cases sl <;> decide

/-- Two slots share no bit (R128). -/
theorem Slot.disjoint {sl sl' : Slot} (h : sl' ≠ sl) : sl'.base + sl'.width ≤ sl.base ∨ sl.base + sl.width ≤ sl'.base := by
  revert h
  cases sl <;> cases sl' <;> decide

theorem slotBits_same {H p : Nat} {sl : Slot} (hH : H < 2 ^ 32) (hp : p < 2 ^ sl.width) : slotBits (H + 2 ^ sl.base * p) sl = p := by
  have hH : H < 2 ^ sl.base := Nat.lt_of_lt_of_le hH (Nat.pow_le_pow_right (by decide) sl.base_ge)
  rw [slotBits, Nat.add_mul_div_left _ _ (Nat.two_pow_pos _), Nat.div_eq_of_lt hH, Nat.zero_add, Nat.mod_eq_of_lt hp]

theorem slotBits_other {H p : Nat} {sl sl' : Slot} (hH : H < 2 ^ 32) (hp : p < 2 ^ sl.width) (h : sl' ≠ sl) :
    slotBits (H + 2 ^ sl.base * p) sl' = 0 := by
  have hbelow (t : Slot) : H < 2 ^ t.base := Nat.lt_of_lt_of_le hH (Nat.pow_le_pow_right (by decide) t.base_ge)
  rcases Slot.disjoint h with hlow | hhigh
  · rw [slotBits, low_bits hlow, Nat.div_eq_of_lt (hbelow sl'), Nat.zero_mod]
  · have hlt := Nat.lt_of_lt_of_le (add_block_lt (hbelow sl) hp) (Nat.pow_le_pow_right (by decide) hhigh)
    rw [slotBits, Nat.div_eq_of_lt hlt, Nat.zero_mod]

/-- A bundle decodes by its header's fields and its slots (R129, R154). -/
theorem decodeBundle_of_fields {b gap cls : Nat} {stop swa : Bool} {ops : List (Slot × Instr)} (hreserved : b / 2 ^ 19 % 2 ^ 13 = 0)
    (hslots : decodeSlots true b allSlots = .ok ops) (hstop : b / 2 ^ 10 % 2 = ofBit stop) (hgap : b / 2 ^ 11 % 8 = gap)
    (hswa : b / 2 ^ 14 % 2 = ofBit swa) (hcls : b / 2 ^ 15 % 16 = cls) (hok : classesOk cls ops = true) :
    decodeBundle true b = .ok { stop, gap, swa, cls, ops } := by
  simp only [decodeBundle, hreserved, hslots, hstop, hgap, hswa, hcls, hok]
  cases stop <;> cases swa <;> rfl

/-- A slot whose presence bit is clear and whose bits are zero (R130). -/
def Slot.absent (b : Nat) (sl : Slot) : Prop := b / 2 ^ sl.code % 2 = 0 ∧ slotBits b sl = 0

theorem decodeSlots_cons_of_absent {b : Nat} {sl : Slot} (h : sl.absent b) (l : List Slot) :
    decodeSlots true b (sl :: l) = decodeSlots true b l := by
  simp [decodeSlots, h.1, h.2]

theorem decodeSlots_of_absent {b : Nat} {l : List Slot} (h : ∀ sl ∈ l, sl.absent b) : decodeSlots true b l = .ok [] := by
  induction l with
  | nil => rfl
  | cons sl l ih =>
    rw [decodeSlots_cons_of_absent (h sl List.mem_cons_self), ih fun t ht => h t (List.mem_cons_of_mem _ ht)]

theorem decodeSlots_oneOp {b : Nat} {sl : Slot} {i : Instr} (hpresent : b / 2 ^ sl.code % 2 = 1)
    (hslot : decodeSlot sl (slotBits b sl) = .ok i) (hothers : ∀ t, t ≠ sl → t.absent b) {l : List Slot} (hl : l.Nodup) (hmem : sl ∈ l) :
    decodeSlots true b l = .ok [(sl, i)] := by
  induction l with
  | nil => simp at hmem
  | cons t l ih =>
    obtain ⟨ht, hl⟩ := List.nodup_cons.1 hl
    by_cases h : t = sl
    · subst h
      have hrest : decodeSlots true b l = .ok [] := decodeSlots_of_absent fun u hu => hothers u fun e => ht (e ▸ hu)
      simp [decodeSlots, hpresent, hslot, hrest]
    · rw [decodeSlots_cons_of_absent (hothers t h), ih hl (List.mem_of_ne_of_mem (Ne.symm h) hmem)]

theorem Instr.cls_lt (i : Instr) : i.cls < 16 := by unfold Instr.cls; split <;> decide

/-- The presence bits stand below the other fields of a header (R129). -/
theorem present_lt (sl : Slot) : 2 ^ sl.code < 2 ^ 10 := Nat.pow_lt_pow_right (by decide) sl.code_lt

theorem headerOf_lt (sl : Slot) (i : Instr) : headerOf sl i < 2 ^ 19 := by
  have := i.cls_lt
  have := present_lt sl
  rw [headerOf]
  omega

theorem headerOf_present (sl t : Slot) (i : Instr) : headerOf sl i / 2 ^ t.code % 2 ^ 1 = if t = sl then 1 else 0 := by
  have hsplit : headerOf sl i = 2 ^ sl.code + 2 ^ 10 * (1 + 2 ^ 5 * i.cls) := by rw [headerOf]; omega
  rw [hsplit, low_bits t.code_lt]
  cases sl <;> cases t <;> rfl

theorem headerOf_fields (sl : Slot) (i : Instr) : headerOf sl i / 2 ^ 10 % 2 ^ 1 = 1 ∧ headerOf sl i / 2 ^ 11 % 2 ^ 3 = 0 ∧
    headerOf sl i / 2 ^ 14 % 2 ^ 1 = 0 ∧ headerOf sl i / 2 ^ 15 % 2 ^ 4 = i.cls ∧ headerOf sl i / 2 ^ 19 % 2 ^ 13 = 0 := by
  have hcls := i.cls_lt
  have hcode := present_lt sl
  rw [headerOf]
  generalize 2 ^ sl.code = k at hcode
  omega

/-- The word of one operation in its slot decodes to a bundle of that operation alone, which closes its group (R129, R154). -/
theorem decodeBundle_oneOp {sl : Slot} {p : Nat} {i : Instr} (hp : p < 2 ^ sl.width) (hslot : decodeSlot sl p = .ok i) :
    decodeBundle true (headerOf sl i + 2 ^ sl.base * p) =
      .ok { stop := true, gap := 0, swa := false, cls := i.cls, ops := [(sl, i)] } := by
  have hlt : headerOf sl i < 2 ^ 32 := Nat.lt_trans (headerOf_lt sl i) (by decide)
  have hfield (c m : Nat) (h : c + m ≤ 32) :
      (headerOf sl i + 2 ^ sl.base * p) / 2 ^ c % 2 ^ m = headerOf sl i / 2 ^ c % 2 ^ m := low_bits (Nat.le_trans h sl.base_ge) _ _
  have hpresent (t : Slot) : (headerOf sl i + 2 ^ sl.base * p) / 2 ^ t.code % 2 = if t = sl then 1 else 0 :=
    (hfield t.code 1 (by have := t.code_lt; omega)).trans (headerOf_present sl t i)
  have hslots : decodeSlots true (headerOf sl i + 2 ^ sl.base * p) allSlots = .ok [(sl, i)] :=
    decodeSlots_oneOp (by simp [hpresent]) (by rw [slotBits_same hlt hp, hslot])
      (fun t ht => ⟨by simp [hpresent, ht], slotBits_other hlt hp ht⟩) (by decide) (by cases sl <;> decide)
  obtain ⟨hstop, hgap, hswa, hcls, hreserved⟩ := headerOf_fields sl i
  rw [← hfield _ _ (by decide)] at hstop hgap hswa hcls hreserved
  exact decodeBundle_of_fields hreserved hslots hstop hgap hswa hcls (by simp [classesOk])

/-- Neither a presence bit nor a slot's bit is set in the word of an empty bundle (R130). -/
theorem absent_emptyHeader (stop : Bool) {gap : Nat} (swa : Bool) (hgap : gap < 8) (sl : Slot) :
    sl.absent (emptyHeader stop gap swa) := by
  have hlt : emptyHeader stop gap swa < 2 ^ sl.base := by
    have := ofBit_le_one stop
    have := ofBit_le_one swa
    refine Nat.lt_of_lt_of_le ?_ (Nat.pow_le_pow_right (by decide) sl.base_ge)
    rw [emptyHeader]
    omega
  have hsplit : emptyHeader stop gap swa = 0 + 2 ^ 10 * (ofBit stop + 2 * gap + 2 ^ 4 * ofBit swa) := by rw [emptyHeader]; omega
  constructor
  · show emptyHeader stop gap swa / 2 ^ sl.code % 2 ^ 1 = 0
    rw [hsplit, low_bits sl.code_lt, Nat.zero_div, Nat.zero_mod]
  · rw [slotBits, Nat.div_eq_of_lt hlt, Nat.zero_mod]

theorem decodeBundle_emptyHeader (stop : Bool) {gap : Nat} (swa : Bool) (hgap : gap < 8) :
    decodeBundle true (emptyHeader stop gap swa) = .ok { stop := stop, gap := gap, swa := swa, cls := 0, ops := [] } := by
  have hstop := ofBit_le_one stop
  have hswa := ofBit_le_one swa
  have hslots : decodeSlots true (emptyHeader stop gap swa) allSlots = .ok [] :=
    decodeSlots_of_absent fun sl _ => absent_emptyHeader stop swa hgap sl
  rw [emptyHeader] at hslots ⊢
  exact decodeBundle_of_fields (by omega) hslots (by omega) (by omega) (by omega) (by omega) rfl

end Sys2Proof
end

section
/-! PROOFS. Micro-words and administrative items are read back (R151, R152, R350). -/

namespace Sys2Proof

/-! ### Micro-words and work items -/

/-- The fields of a well-formed micro-operation stand in their widths (R151). -/
theorem microFields_fit (i : Instr) (h : i.wf = true) : ∀ fs ∈ microFields i, Fits layM fs := by
  unfold Instr.wf at h
  cases i with
  | aload | bsel | planes | limb | pass | accz | accm | scale | drain | mend | mwait =>
    rintro _ ⟨⟩
    simp [microRows] at h
    simp [layM]
    omega
  | chk | msync | mret =>
    rintro _ ⟨⟩
    simp [layM]
  | mloop cnt =>
    cases cnt with
    | mp | imm =>
      rintro _ ⟨⟩
      simp at h
      simp [layM]
      omega
  | _ => nofun

theorem microForm_pack (i : Instr) (h : i.wf = true) : ∀ fs ∈ microFields i, microForm (pack layM fs) = some i := by
  intro fs hfs
  rw [microForm, unpack_pack (microFields_fit i h fs hfs)]
  cases i with
  | aload | bsel | planes | limb | pass | accz | accm | scale | drain | mend | mwait | chk | msync | mret => cases hfs; rfl
  | mloop cnt =>
    cases cnt with
    | mp => cases hfs; rfl
    | imm =>
      cases hfs
      unfold Instr.wf at h
      simp at h
      simp
      omega
  | _ => cases hfs

/-- The widths of a work item's fields, whose gaps hold zeros (R350). -/
theorem fits_layItem {op ctx b10 b11 b12 b13 b14 w16 w24 w32 tag : Nat} (h : op < 2 ^ 8 ∧ ctx < 2 ^ 16 ∧ b10 < 2 ^ 8 ∧ b11 < 2 ^ 8 ∧
    b12 < 2 ^ 8 ∧ b13 < 2 ^ 8 ∧ b14 < 2 ^ 16 ∧ w16 < 2 ^ 64 ∧ w24 < 2 ^ 64 ∧ w32 < 2 ^ 64 ∧ tag < 2 ^ 64) :
    Fits layItem [1, 0, op, 0, ctx, b10, b11, b12, b13, b14, w16, w24, w32, 0, tag, 0] := by
  obtain ⟨hop, hctx, hb10, hb11, hb12, hb13, hb14, hw16, hw24, hw32, htag⟩ := h
  simp only [layItem, fits_cons, fits_nil, Nat.two_pow_pos, true_and, and_true]
  exact ⟨by decide, hop, hctx, hb10, hb11, hb12, hb13, hb14, hw16, hw24, hw32, htag⟩

/-- The fields of a well-formed administrative command stand in their widths (R350). -/
theorem adminFields_fit (i : Instr) (h : i.wf = true) : ∀ fs ∈ adminFields i, Fits layItem fs := by
  unfold Instr.wf at h
  cases i with
  | create | destroy | park | unpark | force | map | unmap | migrate | wreg | wbegin | wpage | wcommit | wabort | ckcfg | epwin | epring
  | cancel =>
    rintro _ ⟨⟩
    simp [adm] at h
    exact fits_layItem (by simp; omega)
  | relock =>
    rintro _ ⟨⟩
    simp at h
    exact fits_layItem (by simpa using h)
  | _ => nofun

theorem decodeAdmin_pack (i : Instr) (h : i.wf = true) : ∀ fs ∈ adminFields i, decodeAdmin (pack layItem fs) = some i := by
  intro fs hfs
  rw [decodeAdmin, unpack_pack (adminFields_fit i h fs hfs)]
  unfold Instr.wf at h
  cases i with
  | destroy | park | unpark | relock | migrate | wreg | wbegin | wcommit | wabort =>
    cases hfs
    rfl
  | create | force =>
    cases hfs
    simp
  | map | unmap | wpage | ckcfg | epwin | epring | cancel =>
    cases hfs
    simp at h
    simp [h, Nat.mod_add_div]
  | _ => cases hfs

end Sys2Proof
end

section
/-! PROOFS. Decoding is the inverse of encoding, and the words of the encoding tables decode by it. -/

namespace Sys2Proof

/-- What an instruction with a word encodes to: an empty bundle, the form of a slot, a micro-word or a work item. -/
theorem encode_cases {i : Instr} {n w : Nat} (h : encode i = some (n, w)) :
    (∃ stop gap swa, i = .emptyBundle stop gap swa ∧ n = 512 ∧ w = emptyHeader stop gap swa) ∨
    (∃ sl lay fs, slotFields i = some (sl, lay, fs) ∧ n = 512 ∧ w = headerOf sl i + 2 ^ sl.base * pack lay fs) ∨
    (∃ fs, microFields i = some fs ∧ n = 128 ∧ w = pack layM fs) ∨
    ∃ fs, adminFields i = some fs ∧ n = 1024 ∧ w = pack layItem fs := by
  unfold encode at h
  split at h
  · cases h
    exact .inl ⟨_, _, _, rfl, rfl, rfl⟩
  · split at h
    · next hs =>
      cases h
      exact .inr (.inl ⟨_, _, _, hs, rfl, rfl⟩)
    · split at h
      · next hm =>
        cases h
        exact .inr (.inr (.inl ⟨_, hm, rfl, rfl⟩))
      · split at h
        · next ha =>
          cases h
          exact .inr (.inr (.inr ⟨_, ha, rfl, rfl⟩))
        · cases h

theorem Instr.lt_of_wf_mfs {d sr : Nat} (h : (Instr.mfs d sr).wf = true) : sr < 14 :=
  of_decide_eq_true (Bool.and_eq_true_iff.1 h).2

theorem Instr.lt_of_wf_mts {a sr : Nat} (h : (Instr.mts a sr).wf = true) : sr < 14 :=
  of_decide_eq_true (Bool.and_eq_true_iff.1 h).2

/-- A slot's decoder reads back the fields of a form that its map assigns; the number of a state register is one of the fourteen. -/
theorem decodeSlot_pack {sl : Slot} {w op : Nat} {f : Form} {lay fs : List Nat} {i : Instr} (hopcode : sl.opWidth = w)
    (hassigned : slotForm sl op = some f) (hreads : f.Reads (w :: lay) (op :: fs) i) (hwf : i.wf = true) :
    decodeSlot sl (pack (w :: lay) (op :: fs)) = .ok i := by
  have hrun := hreads.runForm_pack
  rw [decodeSlot, hopcode, pack_head hreads.fits, hassigned]
  dsimp only
  split
  · next hmfs =>
    cases hrun.symm.trans hmfs
    exact if_pos (Instr.lt_of_wf_mfs hwf)
  · next hmts =>
    cases hrun.symm.trans hmts
    exact if_pos (Instr.lt_of_wf_mts hwf)
  · exact hrun

theorem decodeTableWord_slotFields {i : Instr} {sl : Slot} {lay fs : List Nat} (hwf : i.wf = true)
    (h : slotFields i = some (sl, lay, fs)) : decodeTableWord 512 (headerOf sl i + 2 ^ sl.base * pack lay fs) = some i := by
  have hback := readsBack_slotFields i hwf
  rw [h] at hback
  cases hback with
  | form hopcode hwidth hassigned hreads =>
    have hlt := hwidth ▸ pack_lt hreads.fits
    simp [decodeTableWord, decodeBundle_oneOp hlt (decodeSlot_pack hopcode hassigned hreads hwf), singleOp]

/-- Settles O2: a word holds a well-formed instruction's fields, each in its width, and the form of its opcode reads them back. -/
theorem decodeEncode : Obligations.DecodeEncode := by
  unfold Obligations.DecodeEncode
  intro i nbits w hwf henc
  rcases encode_cases henc with ⟨stop, gap, swa, rfl, rfl, rfl⟩ | ⟨sl, lay, fs, hfs, rfl, rfl⟩ | ⟨fs, hfs, rfl, rfl⟩ | ⟨fs, hfs, rfl, rfl⟩
  · have hgap : gap < 8 := of_decide_eq_true hwf
    simp [decodeTableWord, decodeBundle_emptyHeader stop swa hgap, singleOp]
  · exact decodeTableWord_slotFields hwf hfs
  · simp [decodeTableWord, decodeMicro, microForm_pack i hwf fs hfs, hwf]
  · simp [decodeTableWord, decodeAdmin_pack i hwf fs hfs]

/-- A header with a reserved bit set decodes to nothing (R129). -/
theorem decodeTableWord_of_reserved {w : Nat} (h : w / 2 ^ 19 % 2 ^ 13 ≠ 0) : decodeTableWord 512 w = none := by
  simp only [decodeTableWord, decodeBundle, if_pos h]
  rfl

/-- Settles O1: each word is the encoding of its instruction, which is well-formed; the last two set a reserved bit of the header. -/
theorem wordsDecode : Obligations.WordsDecode := by
  unfold Obligations.WordsDecode
  refine ⟨decodeEncode _ _ _ ?_ ?_, decodeEncode _ _ _ ?_ ?_, decodeEncode _ _ _ ?_ ?_, decodeEncode _ _ _ ?_ ?_, decodeEncode _ _ _ ?_ ?_,
    decodeEncode _ _ _ ?_ ?_, decodeEncode _ _ _ ?_ ?_, decodeEncode _ _ _ ?_ ?_, decodeEncode _ _ _ ?_ ?_, decodeEncode _ _ _ ?_ ?_,
    decodeEncode _ _ _ ?_ ?_, decodeTableWord_of_reserved ?_, decodeTableWord_of_reserved ?_⟩
  all_goals decide +kernel

end Sys2Proof
end

section
/-! PROOFS. The S slot: integer arithmetic and division (R168 to R170), forms on bits and comparisons (R139, R168 to R172), and
`prep`, `br` and `call` (R174, R175), each with its checks passed. -/

namespace Sys2Proof.Machine

/-! ### The shapes of the S forms -/

section Forms
variable {s : State} {i : Instr} {ty : IntTy}

theorem scalarR_ok {lat d a b : Nat} {f : Int → Int → Int} (h : formOk s i = true) :
    scalarR i ty lat d a b f s = .next (s.postX lat d (IntTy.result ty (f (xIn ty s a) (xIn ty s b)))) := slotOp_ok h

theorem scalarI_ok {lat d a imm : Nat} {f : Int → Int → Int} (h : formOk s i = true) :
    scalarI i ty lat d a imm f s = .next (s.postX lat d (IntTy.result ty (f (xIn ty s a) (immIn ty imm)))) := slotOp_ok h

theorem scalarU_ok {d a : Nat} {f : Int → Int} (h : formOk s i = true) :
    scalarU i ty d a f s = .next (s.postX 1 d (IntTy.result ty (f (xIn ty s a)))) := slotOp_ok h

theorem shiftBy_ok {d a amt : Nat} {f : Int → Nat → Int} (h : formOk s i = true) :
    shiftBy i ty d a amt f s = .next (s.postX 1 d (IntTy.result ty (f (xIn ty s a) (amt % 64)))) := slotOp_ok h

end Forms

/-! ### Division (R170) -/

section Division
variable {s : State} {ty : IntTy} {d a b : Nat}

theorem exec_div (h : formOk s (.div ty d a b) = true) : exec (.div ty d a b) s =
    finish s (if xIn ty s b = 0 then .trap cIDIV 0 else scalarTo ty 16 d ((xIn ty s a).tdiv (xIn ty s b)) s) := by
  change execDiv .. = _
  exact slotOp_ok h

theorem exec_rem (h : formOk s (.rem ty d a b) = true) : exec (.rem ty d a b) s =
    finish s (if xIn ty s b = 0 then .trap cIDIV 0 else scalarTo ty 16 d ((xIn ty s a).tmod (xIn ty s b)) s) := by
  change execRem .. = _
  exact slotOp_ok h

theorem exec_div_of_ne_zero (h : formOk s (.div ty d a b) = true) (hb : xIn ty s b ≠ 0) :
    exec (.div ty d a b) s = .next (s.postX 16 d (IntTy.result ty ((xIn ty s a).tdiv (xIn ty s b)))) := by
  rw [exec_div h, if_neg hb, scalarTo, finish_ok]

theorem exec_rem_of_ne_zero (h : formOk s (.rem ty d a b) = true) (hb : xIn ty s b ≠ 0) :
    exec (.rem ty d a b) s = .next (s.postX 16 d (IntTy.result ty ((xIn ty s a).tmod (xIn ty s b)))) := by
  rw [exec_rem h, if_neg hb, scalarTo, finish_ok]

theorem exec_div_of_zero (h : formOk s (.div ty d a b) = true) (hb : xIn ty s b = 0) :
    exec (.div ty d a b) s = .next (s.endTrap cIDIV 0) := by
  rw [exec_div h, if_pos hb, finish_trap]

theorem exec_rem_of_zero (h : formOk s (.rem ty d a b) = true) (hb : xIn ty s b = 0) :
    exec (.rem ty d a b) s = .next (s.endTrap cIDIV 0) := by
  rw [exec_rem h, if_pos hb, finish_trap]

end Division

/-! ### The quotient that its type does not hold -/

theorem IntTy.width_pos (ty : IntTy) : 0 < IntTy.width ty := by cases ty <;> decide

/-- In two's complement the least number and its negation have the same bits. -/
theorem sx_two_pow_pred {n : Nat} (hn : 0 < n) : sx n (2 ^ (n - 1)) = -(2 ^ (n - 1) : Nat) := by
  have hdouble : 2 ^ n = 2 * 2 ^ (n - 1) := by rw [← Nat.pow_succ', Nat.succ_eq_add_one, Nat.sub_add_cancel hn]
  have hlt : 2 ^ (n - 1) < 2 ^ n := by have := Nat.two_pow_pos (n - 1); omega
  rw [sx, Nat.mod_eq_of_lt hlt, if_neg (Nat.lt_irrefl _)]
  omega

theorem low_natCast_of_lt {v n : Nat} (h : v < 2 ^ n) : low v n = v := by
  rw [low, ← Int.natCast_emod, Int.toNat_natCast, Nat.mod_eq_of_lt h]

theorem IntTy.result_two_pow_pred {ty : IntTy} (hsigned : IntTy.signed ty = true) :
    IntTy.result ty (2 ^ (IntTy.width ty - 1) : Nat) = low (-(2 ^ (IntTy.width ty - 1) : Nat)) 64 := by
  have hpos := IntTy.width_pos ty
  have hlt : 2 ^ (IntTy.width ty - 1) < 2 ^ IntTy.width ty := Nat.pow_lt_pow_right (by decide) (by omega)
  rw [IntTy.result, low_natCast_of_lt hlt, IntTy.read, inInt, if_pos hsigned, sx_two_pow_pred hpos]

theorem IntTy.result_zero (ty : IntTy) : IntTy.result ty 0 = 0 := by
  cases ty <;> rfl

/-! ### The flags of a scalar result -/

/-- A result for an x register brings no flags (R170). -/
theorem State.postX_flags (s : State) (lat d v : Nat) : (s.postX lat d v).me.flags = s.me.flags ∧
    ((s.postX lat d v).me.dbuf.drop s.me.dbuf.length).all fun p => p.flags == 0 := by
  simp [State.postX]

/-- Settles O6: the forms by their shapes, the two divisions by their divisor. -/
theorem scalarArithmetic : Obligations.ScalarArithmetic := by
  unfold Obligations.ScalarArithmetic
  constructor
  · intro s ty d a b imm x y k
    unfold exec
    exact ⟨scalarR_ok, scalarI_ok, scalarR_ok, scalarI_ok, scalarR_ok, scalarI_ok, scalarR_ok, scalarR_ok, scalarI_ok, scalarR_ok,
      scalarI_ok, scalarU_ok⟩
  · intro s ty d a b x y
    refine ⟨exec_div_of_ne_zero, exec_rem_of_ne_zero, exec_div_of_zero, exec_rem_of_zero, fun pre sid dests hkept => ?_,
      fun hsigned hx hy => ?_, s.postX_flags 16 d⟩
    · exact State.conclude_of_trap (t := s.endTrap cIDIV 0) rfl hkept pre sid dests
    · rw [hx, hy, Int.neg_tdiv_neg, Int.tdiv_one, Int.tmod_neg, Int.tmod_one]
      exact ⟨IntTy.result_two_pow_pred hsigned, IntTy.result_zero ty⟩

/-! ### Forms on bits, comparisons and selection (R139, R168, R169, R171, R172) -/

section Compare
variable {s : State} {ty : IntTy} {d a b imm : Nat}

theorem exec_cmp {cc : Cond} (h : formOk s (.cmp cc ty d a b) = true) :
    exec (.cmp cc ty d a b) s = .next (s.postC 1 d (Cond.holds cc (xIn ty s a) (xIn ty s b))) := by
  change execCmp .. = _
  exact slotOp_ok h

theorem exec_cmpI {cc : Cond} (h : formOk s (.cmpI cc ty d a imm) = true) :
    exec (.cmpI cc ty d a imm) s = .next (s.postC 1 d (Cond.holds cc (xIn ty s a) (immIn ty imm))) := by
  change execCmpI .. = _
  exact slotOp_ok h

theorem exec_sel {cn : Nat} (h : formOk s (.sel ty d a b cn) = true) : exec (.sel ty d a b cn) s =
    .next (s.postX 1 d (IntTy.result ty (if s.me.cGet cn then xIn ty s a else xIn ty s b))) := by
  change execSel .. = _
  exact slotOp_ok h

end Compare

/-- Settles O7: the forms on bits by their shapes, `sel` by its c register. -/
theorem scalarBitsAndCompare : Obligations.ScalarBitsAndCompare := by
  unfold Obligations.ScalarBitsAndCompare
  constructor
  · intro s ty d a b imm pos len n x p q k m out
    unfold exec
    exact ⟨scalarR_ok, scalarI_ok, scalarR_ok, scalarI_ok, scalarR_ok, scalarI_ok, scalarR_ok, scalarI_ok, shiftBy_ok, shiftBy_ok,
      shiftBy_ok, shiftBy_ok, shiftBy_ok, shiftBy_ok, scalarU_ok, scalarU_ok, scalarU_ok, slotOp_ok, slotOp_ok, slotOp_ok, slotOp_ok⟩
  · intro s ty d a b imm cn x
    refine ⟨fun y => ⟨rfl, rfl, rfl, rfl, rfl, rfl⟩, fun cc => exec_cmp, fun cc => exec_cmpI, fun h hc => ?_, fun h hc => ?_⟩
    · rw [exec_sel h, if_pos hc]
    · rw [exec_sel h, if_neg (ne_true_of_eq_false hc)]

/-! ### Branches (R174, R175) -/

section Branch
variable {s : State} {bt cn : Nat} {neg : Bool}

theorem exec_prep_index {k : Nat} (h : formOk s (.prep bt (.index k)) = true) : exec (.prep bt (.index k)) s =
    .next (s.post 2 { kind := .b, reg := bt, due := 0, value := BitVec.ofNat 4096 k }) := by
  change execPrep .. = _
  exact slotOp_ok h

theorem exec_prep_reg {a : Nat} (h : formOk s (.prep bt (.reg a)) = true) : exec (.prep bt (.reg a)) s =
    .next (s.post 2 { kind := .b, reg := bt, due := 0, value := BitVec.ofNat 4096 (s.me.xGet a % 2 ^ 11) }) := by
  change execPrep .. = _
  exact slotOp_ok h

theorem exec_br (h : formOk s (.br bt cn neg) = true) :
    exec (.br bt cn neg) s = .next (branchTo s bt (s.me.cGet cn != neg)) := by
  change execBr .. = _
  exact slotOp_ok h

/-- The link is the index after the three delay bundles, delivered where the call is taken (R175). -/
theorem exec_call (h : formOk s (.call bt cn neg) = true) : exec (.call bt cn neg) s =
    .next (if s.me.cGet cn != neg then (branchTo s bt (s.me.cGet cn != neg)).post 4
        { kind := .b, reg := 3, due := 0, value := BitVec.ofNat 4096 ((s.iss.idx + 4) % 4096) }
      else branchTo s bt (s.me.cGet cn != neg)) := by
  change execCall .. = _
  exact slotOp_ok h

end Branch

/-- Settles O8: `call` by whether its condition takes it. -/
theorem branches : Obligations.Branches := by
  unfold Obligations.Branches
  intro s bt cn k a neg taken gone
  refine ⟨exec_prep_index, exec_prep_reg, exec_br, fun h htaken => ?_, fun h htaken => ?_⟩
  · exact (exec_call h).trans (congrArg _ (if_neg (ne_true_of_eq_false htaken)))
  · exact (exec_call h).trans (congrArg _ (if_pos htaken))

end Sys2Proof.Machine
end
section
/-! PROOFS. The V slots, element by element: arithmetic on floating-point values and forms on their patterns (R200 to R217),
conversions and quantisation (R218 to R222), integers (R223 to R225), each with its checks passed. -/

namespace Sys2Proof.Machine

/-! ### The shapes of the V forms -/

section Forms
variable {s : State} {i : Instr} {h : VHead}

theorem fBin_ok {b : Nat} {f : FFmt → RMode → Bool → FVal → FVal → Nat × Nat} (ok : vecOk s i h.ty.width = true) :
    fBin i h b f s = .next (s.vecOut i h 4 fun g j => f (fmtOf h.ty) s.me.rm (ftzOf (fmtOf h.ty) s.me.ftz)
      (opVal s.me h.ty h.a g j) (opVal s.me h.ty b g j)) := vecElem_ok ok

theorem fTer_ok {b c : Nat} {f : FFmt → RMode → Bool → FVal → FVal → FVal → Nat × Nat} (ok : vecOk s i h.ty.width = true) :
    fTer i h b c f s = .next (s.vecOut i h 4 fun g j => f (fmtOf h.ty) s.me.rm (ftzOf (fmtOf h.ty) s.me.ftz)
      (opVal s.me h.ty h.a g j) (opVal s.me h.ty b g j) (opVal s.me h.ty c g j)) := vecElem_ok ok

theorem fUn_ok {lat : Nat} {f : Strand → FFmt → Nat → Nat × Nat} (ok : vecOk s i h.ty.width = true) :
    fUn i h lat f s = .next (s.vecOut i h lat fun g j => f s.me (fmtOf h.ty) (srcElem s.me h.ty h.a g j)) := vecElem_ok ok

theorem fPat_ok {b : Nat} {f : Strand → FFmt → Nat → Nat → Nat × Nat} (ok : vecOk s i h.ty.width = true) :
    fPat i h b f s = .next (s.vecOut i h 4 fun g j =>
      f s.me (fmtOf h.ty) (srcElem s.me h.ty h.a g j) (srcElem s.me h.ty b g j)) := vecElem_ok ok

theorem iBin_ok {b : Nat} {sat : Bool} {f : Int → Int → Int} (ok : vecOk s i h.ty.width = true) :
    iBin i h b sat f s = .next (s.vecOut i h 2 fun g j =>
      deliverInt h.ty sat (f (intElem s.me h.ty h.a g j) (intElem s.me h.ty b g j))) := vecElem_ok ok

theorem iImm_ok {imm : Nat} {f : Int → Int → Int} (ok : vecOk s i h.ty.width = true) :
    iImm i h imm f s = .next (s.vecOut i h 2 fun g j =>
      deliverInt h.ty false (f (intElem s.me h.ty h.a g j) (sx 16 imm))) := vecElem_ok ok

/-- A V form with an effect of its own goes on where its checks pass. -/
theorem vecOp_next_of_ok {w : Nat} {extra : List Nat} {f : State → Res} {t : State} (ok : vecOk s i w extra = true)
    (hf : f (s.popped i w) = .ok t) : vecOp i w extra s f = .next t := by
  rw [vecOp_ok ok, hf, finish_ok]

end Forms

/-! ### Floating point -/

/-- Settles O12: each form by its shape. -/
theorem vectorArithmetic : Obligations.VectorArithmetic := by
  unfold Obligations.VectorArithmetic
  constructor
  · intro s h b c m w z x y v mo
    unfold exec
    exact ⟨fBin_ok, fBin_ok, fBin_ok, fTer_ok, fTer_ok, fTer_ok⟩
  · intro s h b imm cc md m w z p q
    unfold exec
    exact ⟨fPat_ok, fPat_ok, fUn_ok, fUn_ok, fPat_ok, vecPred_ok, vecPred_ok, fUn_ok, fUn_ok, fPat_ok, fUn_ok, fUn_ok⟩

/-! ### Conversions and quantisation -/

section Quantisation
variable {s : State} {h : VHead} {b c : Nat} {sty : ElemType}

theorem exec_cvt {sat : Bool} (ok : vecOk s (.cvt h sty sat) h.ty.width = true) :
    exec (.cvt h sty sat) s = .next (s.vecOut (.cvt h sty sat) h 4 fun g j => if j < 512 / max h.ty.width sty.width then
      cvtElem h.ty sty s.me.rmCvt s.me.ftz (sat || s.me.sat) (srcElem s.me sty h.a g j) else (0, 0)) := by
  change execCvt .. = _
  exact vecElem_ok ok

/-- The blocks of a quantisation and their scales, to two registers (R220). -/
theorem exec_mxq (ok : vecOk s (.mxq h b c sty) 32 = true) :
    let q := fun g => mxQuantBlock h.ty (fmtOf sty) s.me.ftz (blockSource s.me sty h.a b g)
    exec (.mxq h b c sty) s = .next (postV
      (postV (s.popped (.mxq h b c sty) 32) 4 h.d h.lgm fun g => wholeOut (ofElems h.ty.width (q g).1) (q g).2.2)
      4 c h.lgm fun g => wholeOut (q g).2.1 0) := by
  change execMxq .. = _
  exact vecOp_next_of_ok ok (by simp only [popped_me])

/-- A block dequantised to 32-bit elements takes two registers (R221). -/
theorem exec_mxdq_f32 (ok : vecOk s (.mxdq h b sty) 32 = true) (hty : h.ty = .f32) :
    exec (.mxdq h b sty) s = .next (postV
      (postV (s.popped (.mxdq h b sty) 32) 4 h.d h.lgm fun g => blockOut 32 ((List.range 16).map (mxBlockElem s.me h b sty g)))
      4 (h.d + 1) h.lgm fun g => blockOut 32 ((List.range 16).map fun i => mxBlockElem s.me h b sty g (16 + i))) := by
  change execMxdq .. = _
  refine vecOp_next_of_ok ok ?_
  simp only [popped_me]
  exact if_pos (beq_iff_eq.2 hty)

theorem exec_mxdq_narrow (ok : vecOk s (.mxdq h b sty) 32 = true) (hty : h.ty ≠ .f32) :
    exec (.mxdq h b sty) s = .next (postV (s.popped (.mxdq h b sty) 32) 4 h.d h.lgm fun g =>
      blockOut 16 ((List.range 32).map (mxBlockElem s.me h b sty g))) := by
  change execMxdq .. = _
  refine vecOp_next_of_ok ok ?_
  simp only [popped_me]
  exact if_neg (mt beq_iff_eq.1 hty)

theorem exec_bpq (ok : vecOk s (.bpq h sty) 32 = true) :
    exec (.bpq h sty) s = .next (postV (s.popped (.bpq h sty) 32) 4 h.d h.lgm fun g =>
      blockOut 8 ((elems sty.width (vsrc s.me h.a g) (512 / sty.width)).map (bpQuant h.ty.width (fmtOf sty) s.me.ftz))) := by
  change execBpq .. = _
  exact vecOp_next_of_ok ok (by simp only [popped_me])

end Quantisation

/-- Settles O13: `mxdq` by whether its elements have 32 bits. -/
theorem vectorConversions : Obligations.VectorConversions := by
  unfold Obligations.VectorConversions
  intro s h b c sty sat st e
  exact ⟨exec_cvt, exec_mxq, exec_mxdq_f32, exec_mxdq_narrow, exec_bpq⟩

/-! ### Integers -/

theorem deliverInt_wrap (ty : ElemType) (v : Int) : deliverInt ty false v = (low v ty.width, 0) := rfl

/-- The nearest value of the type, with SA where the exact result is another (R82). -/
theorem deliverInt_saturate (ty : ElemType) (v : Int) : deliverInt ty true v =
    if v < intMin ty.isSigned ty.width then (low (intMin ty.isSigned ty.width) ty.width, flSA)
    else if intMax ty.isSigned ty.width < v then (low (intMax ty.isSigned ty.width) ty.width, flSA)
    else (low v ty.width, 0) := by
  rw [deliverInt, if_pos rfl, clampTo]
  split
  · rfl
  · split <;> rfl

/-- Settles O14: the forms by their shapes, the delivery of a result by whether it saturates. -/
theorem vectorIntegers : Obligations.VectorIntegers := by
  unfold Obligations.VectorIntegers
  constructor
  · intro s h b c imm sat w x y z k out
    unfold exec
    exact ⟨deliverInt_wrap h.ty, deliverInt_saturate h.ty, iBin_ok, iImm_ok, iBin_ok, iImm_ok, iBin_ok, vecElem_ok, iBin_ok, iBin_ok,
      iBin_ok, iImm_ok, iBin_ok, iImm_ok, vecElem_ok⟩
  · intro s h b imm sat cc w x y k out
    unfold exec
    exact ⟨iBin_ok, iImm_ok, iBin_ok, iImm_ok, iBin_ok, iImm_ok, iBin_ok, iImm_ok, iBin_ok, iImm_ok, vecPred_ok, vecPred_ok, vecElem_ok⟩

end Sys2Proof.Machine
end
section
/-! PROOFS. Moves, permutations and lanes (R226 to R228), and the copies over the ring (R71, R229, R230): what one result for
several lanegroups holds, and how far a copy goes. -/

namespace Sys2Proof.Machine

/-! ### Words of several elements (R87) -/

theorem elem_ofElems (w : Nat) {l : List Nat} {i : Nat} (hi : i < l.length) : elem w (ofElems w l) i = l[i] % 2 ^ w := by
  induction l generalizing i with
  | nil => exact absurd hi (Nat.not_lt_zero i)
  | cons x l ih =>
    cases i with
    | zero => simp [elem, ofElems, Nat.add_mul_mod_self_left]
    | succ i =>
      have htail : (x % 2 ^ w + 2 ^ w * ofElems w l) / 2 ^ w = ofElems w l := by
        rw [Nat.add_mul_div_left _ _ (Nat.two_pow_pos w), Nat.div_eq_of_lt (Nat.mod_lt _ (Nat.two_pow_pos w)), Nat.zero_add]
      rw [List.getElem_cons_succ, ← ih (Nat.lt_of_succ_lt_succ hi), elem, elem, ofElems, Nat.mul_succ, Nat.add_comm (w * i),
        Nat.pow_add, ← Nat.div_div_eq_div_mul, htail]

theorem ofElems_lt (w : Nat) (l : List Nat) : ofElems w l < 2 ^ (w * l.length) := by
  induction l with
  | nil => simp [ofElems]
  | cons x l ih =>
    calc x % 2 ^ w + 2 ^ w * ofElems w l < 2 ^ w * (ofElems w l + 1) := by
          have := Nat.mod_lt x (Nat.two_pow_pos w); rw [Nat.mul_succ]; omega
      _ ≤ 2 ^ w * 2 ^ (w * l.length) := Nat.mul_le_mul_left _ ih
      _ = 2 ^ (w * (x :: l).length) := by rw [← Nat.pow_add, List.length_cons, Nat.mul_succ, Nat.add_comm]

theorem elem_ofNat_ofElems {w n : Nat} {l : List Nat} {i : Nat} (hi : i < l.length) (hn : w * l.length ≤ n) :
    elem w (BitVec.ofNat n (ofElems w l)).toNat i = l[i] % 2 ^ w := by
  have hfits := Nat.lt_of_lt_of_le (ofElems_lt w l) (Nat.pow_le_pow_right Nat.two_pos hn)
  rw [BitVec.toNat_ofNat, Nat.mod_eq_of_lt hfits, elem_ofElems w hi]

/-! ### One result for several lanegroups (R200) -/

/-- The pending write of `postLanes`. -/
def lanePending (kind : PendKind) (reg lgm unit wid : Nat) (f : Nat → LaneOut) : Pending :=
  let gs := (List.range 8).map fun g => if bit lgm g then f g else {}
  { kind := kind, reg := reg, lgm := lgm, due := 0, mask := BitVec.ofNat 512 (ofElems unit (gs.map (·.mask))),
    value := BitVec.ofNat 4096 (ofElems wid (gs.map (·.val))), flags := flAll (gs.map (·.flags)) }

theorem postLanes_eq (s : State) (kind : PendKind) (lat reg lgm unit wid : Nat) (f : Nat → LaneOut) :
    postLanes s kind lat reg lgm unit wid f = s.post lat (lanePending kind reg lgm unit wid f) := rfl

theorem elem_lanePending {kind : PendKind} {reg lgm unit wid : Nat} {f : Nat → LaneOut} (hwid : wid * 8 ≤ 4096) {g : Nat}
    (hg : g < 8) :
    elem wid (lanePending kind reg lgm unit wid f).value.toNat g = if bit lgm g then (f g).val % 2 ^ wid else 0 := by
  refine (elem_ofNat_ofElems (by simpa using hg) (by simpa using hwid)).trans ?_
  simp only [List.getElem_map, List.getElem_range]
  split
  · rfl
  · exact Nat.zero_mod _

/-- The state with the result posted last told more about where it goes: over the ring, to a line of `acc`. -/
def State.retag (s : State) (f : Pending → Pending) : State :=
  s.setMe { s.me with dbuf := s.me.dbuf.dropLast ++ (s.me.dbuf.getLast?.map f).toList }

@[simp] theorem State.retag_mem (s : State) (f : Pending → Pending) : (s.retag f).mem = s.mem := rfl

theorem State.me_retag_postLanes (s : State) (kind : PendKind) (lat reg lgm unit wid : Nat) (f : Nat → LaneOut)
    (tag : Pending → Pending) : ((postLanes s kind lat reg lgm unit wid f).retag tag).me = { s.me with dbuf := s.me.dbuf ++
      [tag { lanePending kind reg lgm unit wid f with due := s.me.count + lat, hnd := s.me.hnd, born := s.me.seq }] } := by
  simp [postLanes_eq, State.retag]

/-! ### Moves and lanes -/

section Lanes
variable {s : State} {h : VHead} {lane : Nat}

theorem exec_vmovi {lgm pr d imm : Nat} {ty : ElemType} (ok : vecOk s (.vmovi lgm pr d ty imm) ty.width = true) :
    exec (.vmovi lgm pr d ty imm) s = .next (s.vecOut (.vmovi lgm pr d ty imm) { lgm := lgm, pr := pr, d := d, a := 0, ty := ty } 2
      fun _ _ => (imm % 2 ^ ty.width, 0)) := by
  change execVmovi .. = _
  exact vecOp_next_of_ok ok (by simp only [popped_me, State.vecOut])

theorem exec_vshuf {imm : Nat} (ok : vecOk s (.vshuf h imm) h.ty.width = true) :
    exec (.vshuf h imm) s = .next (s.vecOut (.vshuf h imm) h 3 fun g j =>
      ((shufFrom (imm % 16) (imm / 16) (512 / h.ty.width) j).elim 0 (srcElem s.me h.ty h.a g), 0)) := by
  change execVshuf .. = _
  refine (vecElem_ok ok).trans (congrArg Host.Outcome.next (congrArg (s.vecOut _ h 3) (funext fun g => funext fun j => ?_)))
  cases shufFrom (imm % 16) (imm / 16) (512 / h.ty.width) j <;> rfl

theorem exec_vext (ok : vecOk s (.vext h lane) h.ty.width = true) : exec (.vext h lane) s =
    .next (if elemActive h.ty.width (s.me.pGet h.pr (lowGroup h.lgm)) (laneElem h.ty lane) then
        (s.popped (.vext h lane) h.ty.width).postX 2 h.d
          (low (intElem s.me h.ty h.a (lowGroup h.lgm) (laneElem h.ty lane)) 64)
      else s.popped (.vext h lane) h.ty.width) := by
  change execVext .. = _
  refine vecOp_next_of_ok ok ?_
  simp only [popped_me, apply_ite Res.ok]

theorem exec_vins (ok : vecOk s (.vins h lane) h.ty.width = true) : exec (.vins h lane) s =
    .next (if elemActive h.ty.width (s.me.pGet h.pr (lowGroup h.lgm)) (laneElem h.ty lane) then
        postV (s.popped (.vins h lane) h.ty.width) 2 h.d h.lgm fun _ =>
          { mask := ones (h.ty.width / 8) * 2 ^ (h.ty.width / 8 * laneElem h.ty lane),
            val := s.me.xGet h.a % 2 ^ h.ty.width * 2 ^ (h.ty.width * laneElem h.ty lane) }
      else s.popped (.vins h lane) h.ty.width) := by
  change execVins .. = _
  refine vecOp_next_of_ok ok ?_
  simp only [popped_me, apply_ite Res.ok]

end Lanes

/-! ### The ring -/

/-- A form that reads no stream register pops none (R205). -/
theorem popped_of_no_stream {i : Instr} (hq : Instr.qReads i = []) (s : State) (w : Nat) : s.popped i w = s := by
  have hpops : vPops s i w = [] := by
    unfold vPops
    split
    · rfl
    · rw [hq, ite_self]
  rw [State.popped, hpops, List.foldl_nil]

/-- The greatest of a list of numbers, 0 for none. -/
theorem foldl_max_zero (l : List Nat) : (∀ n ∈ l, n ≤ l.foldl max 0) ∧ (l.foldl max 0 = 0 ∨ l.foldl max 0 ∈ l) := by
  rw [List.foldl_max, Nat.zero_max]
  cases hmax : l.max? with
  | none => simp [List.max?_eq_none_iff.1 hmax]
  | some m =>
    obtain ⟨hmem, hle⟩ := List.max?_eq_some_iff.1 hmax
    exact ⟨hle, .inr hmem⟩

section Ring
variable {s : State} {i : Instr} {h : VHead} {src : Nat}

theorem exec_ring (hi : i = .xcopy h src ∨ i = .xbcast h src) (s : State) : exec i s = ringCopy i h src s := by
  rcases hi with rfl | rfl <;> rfl

theorem qReads_ring (hi : i = .xcopy h src ∨ i = .xbcast h src) : Instr.qReads i = [] := by
  rcases hi with rfl | rfl <;> rfl

/-- With four copies in flight one more is refused (R230). -/
theorem ringCopy_of_full (ok : vecOk s i h.ty.width [src] = true) (hfull : 4 ≤ (s.me.dbuf.filter (·.ring)).length) :
    ringCopy i h src s = .next (s.endTrap cSCHEDVIOL 3) := by
  rw [ringCopy, vecOp_ok ok]
  simp only [popped_me, if_pos hfull, finish_trap]

/-- Else the copy is under way for two bundles and the hops of the longest way (R70, R71). -/
theorem ringCopy_of_room (ok : vecOk s i h.ty.width [src] = true) (hq : Instr.qReads i = [])
    (hroom : (s.me.dbuf.filter (·.ring)).length < 4) : ringCopy i h src s =
    .next ((postV s (2 + ((groups h.lgm).map (ringDist src)).foldl max 0) h.d h.lgm fun g =>
      laneOut h.ty.width (s.me.pGet h.pr g) fun j => (elem h.ty.width (s.me.vGet h.a src) j, 0)).retag
        fun p => { p with ring := true }) := by
  rw [ringCopy, vecOp_ok ok, popped_of_no_stream hq, if_neg (Nat.not_le.2 hroom), finish_ok]
  rfl

end Ring

/-- Settles O15: the moves by their shapes, `vext` and `vins` by whether their lane is active, a copy by the copies in flight. -/
theorem vectorMoves : Obligations.VectorMoves := by
  unfold Obligations.VectorMoves
  refine ⟨fun s h b c imm lane lgm pr d ty => ?_, fun s h src i hi ok => ?_⟩
  · unfold exec
    refine ⟨vecElem_ok, exec_vmovi, vecElem_ok, vecElem_ok, vecElem_ok, exec_vshuf, fun ok active => ?_, fun ok inactive => ?_,
      fun ok active => ?_, fun ok inactive => ?_⟩
    · exact (exec_vext ok).trans (congrArg _ (if_pos active))
    · exact (exec_vext ok).trans (congrArg _ (if_neg (ne_true_of_eq_false inactive)))
    · exact (exec_vins ok).trans (congrArg _ (if_pos active))
    · exact (exec_vins ok).trans (congrArg _ (if_neg (ne_true_of_eq_false inactive)))
  · rw [exec_ring hi]
    refine ⟨ringCopy_of_full ok, fun hroom => ?_⟩
    refine ⟨_, _, ringCopy_of_room ok (qReads_ring hi) hroom, State.me_retag_postLanes .., rfl, rfl, rfl, rfl, rfl,
      ⟨_, ?_, foldl_max_zero _⟩, fun g hg =>
        elem_lanePending (kind := .v) (reg := s.me.vIdx h.d) (unit := 64) (Nat.le_refl 4096) hg⟩
    exact (Nat.add_assoc ..).symm

end Sys2Proof.Machine
end
section
/-! PROOFS. Reductions, predicate forms and votes (R102, R231 to R233), and the lines of `acc` (R234 to R239). -/

namespace Sys2Proof.Machine

/-! ### Reductions, predicates, votes -/

section Reductions
variable {s : State} {i : Instr} {lgm pr d a : Nat}

/-- The tree runs over the active elements and over what stands for the others (R102, R231). -/
theorem exec_vred {op : RedOp} {h : VHead} (ok : vecOk s (.vred op h) h.ty.width = true) :
    let r := fun g => treeReduce (redNode s.me op h.ty) ((List.range (512 / h.ty.width)).map fun j =>
      (if elemActive h.ty.width (s.me.pGet h.pr g) j then srcElem s.me h.ty h.a g j else redNeutral op h.ty, 0))
    exec (.vred op h) s = .next (postV (s.popped (.vred op h) h.ty.width) 5 h.d h.lgm fun g =>
      wholeOut (ofElems h.ty.width (List.replicate (512 / h.ty.width) (r g).1)) (r g).2) := by
  change execVred .. = _
  exact vecOp_next_of_ok ok (by simp only [popped_me])

theorem predForm_ok {f : Strand → Nat → Nat} (ok : vecOk s i 32 = true) : predForm i lgm pr d f s =
    .next (postP (s.popped i 32) 1 d lgm fun g => { mask := s.me.pGet pr g, val := f s.me g % 2 ^ 16 }) :=
  vecOp_next_of_ok ok (by simp only [popped_me])

theorem exec_vany (ok : vecOk s (.vany lgm pr d a) 32 = true) : exec (.vany lgm pr d a) s =
    .next ((s.popped (.vany lgm pr d a) 32).postC 2 d (decide (0 < voteCount s.me lgm pr a))) := by
  change execVany .. = _
  exact vecOp_next_of_ok ok (by simp only [popped_me])

theorem exec_vall (ok : vecOk s (.vall lgm pr d a) 32 = true) : exec (.vall lgm pr d a) s =
    .next ((s.popped (.vall lgm pr d a) 32).postC 2 d (voteCount s.me lgm pr a == voteLanes s.me lgm pr)) := by
  change execVall .. = _
  exact vecOp_next_of_ok ok (by simp only [popped_me])

theorem exec_pcnt (ok : vecOk s (.pcnt lgm pr d a) 32 = true) : exec (.pcnt lgm pr d a) s =
    .next ((s.popped (.pcnt lgm pr d a) 32).postX 1 d (voteCount s.me lgm pr a)) := by
  change execPcnt .. = _
  exact vecOp_next_of_ok ok (by simp only [popped_me])

end Reductions

/-- Settles O16: `vred` by its tree, the predicate forms by their shape, the votes by their counts. -/
theorem reductionsAndVotes : Obligations.ReductionsAndVotes := by
  unfold Obligations.ReductionsAndVotes
  refine ⟨fun s op h => exec_vred, fun s lgm pr d a b => ?_⟩
  unfold exec
  exact ⟨predForm_ok, predForm_ok, predForm_ok, predForm_ok, predForm_ok, exec_vany, exec_vall, exec_pcnt⟩

/-! ### Lines of `acc` -/

section AccLines
variable {s : State} {i : Instr} {lgm pr v idx w : Nat} {dir : AccDir} {ty sty : ElemType}

/-- A form of a line whose rows no call uses has its own effect. -/
theorem accOp_of_free {f : State → Res} (ok : vecOk s i w = true) (hq : Instr.qReads i = [])
    (hfree : (accRows dir idx lgm).any s.myCore.busyRow = false) : accOp i w dir idx lgm s f = finish s (f s) := by
  rw [accOp, vecOp_ok ok, popped_of_no_stream hq, if_neg (ne_true_of_eq_false hfree)]

/-- A row that a call not yet joined uses keeps the form out (R239, R244). -/
theorem accOp_of_busy {f : State → Res} (ok : vecOk s i w = true)
    (hbusy : (accRows dir idx lgm).any s.myCore.busyRow = true) :
    accOp i w dir idx lgm s f = .next (s.endTrap cSCHEDVIOL 0) := by
  rw [accOp, vecOp_ok ok, popped_myCore, if_pos hbusy, finish_trap]

theorem exec_accrd_of_free (ok : vecOk s (.accrd lgm pr v dir idx ty) ty.width = true)
    (hfree : (accRows dir idx lgm).any s.myCore.busyRow = false) : exec (.accrd lgm pr v dir idx ty) s =
    .next (postV s 3 v lgm fun g => laneOut ty.width (s.me.pGet pr g) fun j =>
      (elem ty.width (ofElems 32 ((List.range 16).map fun l => lineElem s.myCore dir idx (16 * g + l))) j, 0)) := by
  change execAccrd .. = _
  exact accOp_of_free ok rfl hfree

theorem exec_accrd_of_busy (ok : vecOk s (.accrd lgm pr v dir idx ty) ty.width = true)
    (hbusy : (accRows dir idx lgm).any s.myCore.busyRow = true) :
    exec (.accrd lgm pr v dir idx ty) s = .next (s.endTrap cSCHEDVIOL 0) := by
  change execAccrd .. = _
  exact accOp_of_busy ok hbusy

theorem exec_accwr_of_free (ok : vecOk s (.accwr lgm pr v dir idx ty) ty.width = true)
    (hfree : (accRows dir idx lgm).any s.myCore.busyRow = false) : exec (.accwr lgm pr v dir idx ty) s =
    .next (postLine s 2 lgm dir idx fun g => laneOut ty.width (s.me.pGet pr g) fun j => (elem ty.width (s.me.vGet v g) j, 0)) := by
  change execAccwr .. = _
  exact accOp_of_free ok rfl hfree

theorem exec_accclr_line_of_free (ok : vecOk s (.accclr lgm pr dir idx false) 32 = true)
    (hfree : (accRows dir idx lgm).any s.myCore.busyRow = false) : exec (.accclr lgm pr dir idx false) s =
    .next (postLine s 2 lgm dir idx fun g => laneOut 32 (s.me.pGet pr g) fun _ => (0, 0)) := by
  change execAccclr .. = _
  exact accOp_of_free ok rfl hfree

theorem exec_accclr_all_of_free (ok : vecOk s (.accclr lgm pr dir idx true) 32 = true)
    (hfree : (List.range 128).any s.myCore.busyRow = false) : exec (.accclr lgm pr dir idx true) s =
    .next (s.post 2 { kind := .accAll, reg := 0, lgm := 255, due := 0 }) := by
  change execAccclr .. = _
  refine vecOp_next_of_ok ok ?_
  rw [popped_of_no_stream rfl, if_neg (ne_true_of_eq_false hfree)]

theorem exec_acccvt_of_free (ok : vecOk s (.acccvt lgm pr dir idx ty sty) 32 = true)
    (hfree : (accRows dir idx lgm).any s.myCore.busyRow = false) : exec (.acccvt lgm pr dir idx ty sty) s =
    .next (postLine s 4 lgm dir idx fun g => laneOut 32 (s.me.pGet pr g) fun l =>
      cvtElem ty sty s.me.rmCvt s.me.ftz s.me.sat (lineElem s.myCore dir idx (16 * g + l))) := by
  change execAcccvt .. = _
  exact accOp_of_free ok rfl hfree

/-- A pending write of a line is one result that names it. -/
theorem me_postLine (s : State) (lat lgm : Nat) (dir : AccDir) (idx : Nat) (f : Nat → LaneOut) :
    ∃ p, (postLine s lat lgm dir idx f).me = { s.me with dbuf := s.me.dbuf ++ [p] } ∧
      p.kind = .acc ∧ p.dir = dir ∧ p.idx = idx ∧ p.due = s.me.count + lat :=
  ⟨_, State.me_retag_postLanes s .acc lat 0 lgm 64 512 f fun p => { p with dir := dir, idx := idx }, rfl, rfl, rfl, rfl⟩

end AccLines

/-- Settles O17: each form of a line by whether a call uses one of its rows. -/
theorem accLines : Obligations.AccLines := by
  unfold Obligations.AccLines
  intro s lgm pr v idx dir ty sty st rows free line
  exact ⟨exec_accrd_of_free,
    fun ok hfree => ⟨_, exec_accwr_of_free ok hfree, rfl, me_postLine ..⟩,
    fun ok hfree => ⟨_, exec_accclr_line_of_free ok hfree, rfl, me_postLine ..⟩,
    exec_accclr_all_of_free,
    fun ok hfree => ⟨_, exec_acccvt_of_free ok hfree, rfl, me_postLine ..⟩,
    fun ok hbusy => exec_accrd_of_busy ok (eq_true_of_ne_false hbusy)⟩

end Sys2Proof.Machine
end
section
/-! PROOFS. Lanegroup states (R206, R407 to R409), hardware loops (R185 to R190), generators and rotation (R191 to R194). -/

namespace Sys2Proof.Machine

/-! ### Lanegroups -/

theorem mem_groups {lgm g : Nat} : g ∈ groups lgm ↔ g < 8 ∧ bit lgm g = true := by
  rw [groups, List.mem_filter, List.mem_range]

theorem groups_nodup (lgm : Nat) : (groups lgm).Nodup := List.nodup_range.filter _

/-- Each entry of a list without repetitions is changed once, by what it held at first. -/
theorem SMap.get_foldl_put {α : Type} [DecidableEq α] (base : Nat) (f : α → α) (d : α) {l : List Nat} (hl : l.Nodup)
    (m : SMap α) (g : Nat) :
    SMap.get (l.foldl (fun m g => SMap.put m (base + g) (f (SMap.get m (base + g) d)) d) m) (base + g) d =
      if g ∈ l then f (SMap.get m (base + g) d) else SMap.get m (base + g) d := by
  induction l generalizing m with
  | nil => simp
  | cons i l ih =>
    obtain ⟨hi, hl⟩ := List.nodup_cons.1 hl
    rw [List.foldl_cons, ih hl, SMap.get_put]
    by_cases hg : g = i
    · subst hg; simp [hi]
    · simp [hg, Ne.symm hg]

/-- The lanegroups of the mask change, those of the strand's bank set outside it do not (R407). -/
theorem State.lgState_setLgs (s : State) (lgm : Nat) (f : LgPower → LgPower) {g : Nat} (hg : g < 8) :
    (s.setLgs lgm f).lgState g = if bit lgm g then f (s.lgState g) else s.lgState g := by
  simp only [State.lgState, State.setLgs, State.myCore_setMyCore, State.setMyCore_cur,
    SMap.get_foldl_put _ f _ (groups_nodup lgm), mem_groups, hg, true_and]

/-- What `lgate` makes of a lanegroup (R407, R408). -/
def LgState.set : LgState → LgPower → LgPower
  | .on, p => p.wake
  | .drowsy, _ => .drowsy
  | .gated, _ => .gated

theorem exec_lgate {s : State} {lgm : Nat} {mode : LgState} (h : formOk s (.lgate lgm mode) = true) :
    exec (.lgate lgm mode) s = .next (s.setLgs lgm (LgState.set mode)) := by
  change execLgate .. = _
  cases mode <;> exact slotOp_ok h

theorem exec_wake {s : State} {lgm : Nat} (h : formOk s (.wake lgm) = true) : exec (.wake lgm) s =
    .next ((s.setLgs lgm LgPower.wake).setMe { s.me with wakeWait := lgm }) := by
  change execWake .. = _
  exact slotOp_ok h

theorem exec_lanegroupTurnOn_of_waking {s : State} {core lg : Nat} (h : SMap.get (s.core core).lgs lg .on = .waking) :
    exec (.lanegroupTurnOn core lg) s =
      .next (s.setCore core { s.core core with lgs := SMap.erase (s.core core).lgs lg }) := by
  change execLanegroupTurnOn .. = _
  simp only [execLanegroupTurnOn, h]

theorem exec_lanegroupTurnOn_of_gated {s : State} {core lg : Nat} (h : SMap.get (s.core core).lgs lg .on = .gated) :
    exec (.lanegroupTurnOn core lg) s = .next s := by
  change execLanegroupTurnOn .. = _
  simp only [execLanegroupTurnOn, h]

theorem SMap.get_erase {α : Type} (m : SMap α) (k j : Nat) (d : α) :
    SMap.get (SMap.erase m k) j d = if k = j then d else SMap.get m j d := by
  rw [SMap.get, SMap.find_erase]
  split <;> rfl

/-! ### Levels of the loop unit -/

@[simp] theorem Strand.loop_setLoop_same (st : Strand) (l : Nat) (v : LoopLevel) : (st.setLoop l v).loop l = v :=
  SMap.get_put_same ..

theorem Strand.loop_setLoop_other (st : Strand) {l j : Nat} (v : LoopLevel) (h : j ≠ l) : (st.setLoop l v).loop j = st.loop j :=
  SMap.get_put_other h

/-- The trips that an `lset` counts (R185, R412). -/
def State.trips (s : State) : LoopCount → Nat
  | .imm c => c
  | .reg x => s.me.xGet x % 2 ^ 32
  | .word w => s.mailWord w % 2 ^ 32

/-- The bundle being issued goes on at an index. -/
def State.goOn (s : State) (k : Nat) : State := { s with iss := { s.iss with next := some k } }

theorem State.me_goOn (s : State) (k : Nat) : (s.goOn k).me = s.me := rfl

/-- A level that opens after the bundle of an index (R185). -/
def LoopLevel.opened (idx body : Nat) : LoopLevel := { active := true, first := idx + 1, last := idx + 1 + body, iter := 0 }

/-- The strand whose level 3 opens with its kind and its trips; nothing of an earlier loop remains (R186, R197). -/
def Strand.openLevel3 (st : Strand) (lp : LoopLevel) (mod rb : Bool) (n : Nat) : Strand :=
  { st with loops := (st.setLoop 3 lp).loops, md := mod, rb := rb, srcIters := n, stbuf := [], snaps := [], drain := none,
            rolledTo := [], rotLoop := 0 }

section Lset
variable {s : State} {lv body n : Nat} {cnt : LoopCount} {mod rb : Bool} (htrips : s.trips cnt = n)
include htrips

theorem exec_lset_of_no_trips (h : formOk s (.lset lv cnt body mod rb) = true) (hn : n = 0) :
    exec (.lset lv cnt body mod rb) s = .next (s.goOn (s.iss.idx + body + 2)) := by
  subst htrips
  change execLset .. = _
  rw [execLset, slotOp_ok h]
  exact congrArg (finish s) (if_pos hn)

theorem exec_lset_of_trips (h : formOk s (.lset lv cnt body false rb) = true) (hlv : lv ≠ 3) (hn : n ≠ 0) :
    exec (.lset lv cnt body false rb) s =
      .next ((postLc (s.setMe (s.me.setLoop lv (.opened s.iss.idx body))) lv n).goOn (s.iss.idx + 1)) := by
  subst htrips
  change execLset .. = _
  rw [execLset, slotOp_ok h]
  refine (congrArg (finish s) (if_neg hn)).trans ?_
  simp only [if_neg hlv]
  rfl

theorem exec_lset_modulo (h : formOk s (.lset 3 cnt body true rb) = true) (hn : n ≠ 0) : exec (.lset 3 cnt body true rb) s =
    .next ((postStages (postLc (s.setMe (s.me.openLevel3 (.opened s.iss.idx body) true rb n)) 3 (n + s.me.stages - 1))
      s.me.stages).goOn (s.iss.idx + 1)) := by
  subst htrips
  change execLset .. = _
  rw [execLset, slotOp_ok h]
  exact congrArg (finish s) (if_neg hn)

end Lset

/-- The stage predicates of a modulo loop: the first true, the others false (R186). -/
theorem me_postStages (s : State) (n : Nat) : (postStages s n).me = { s.me with dbuf := s.me.dbuf ++ (List.range n).map fun i =>
    { kind := .p, reg := s.me.pIdx (s.me.pbase + i), lgm := 255, due := s.me.count + 1, hnd := s.me.hnd, mask := pFull,
      value := pAll (i == 0), born := s.me.seq } } := by
  induction n with
  | zero => simp [postStages]
  | succ n ih =>
    rw [postStages, State.me_post, ih, List.range_succ, List.map_append, ← List.append_assoc]
    rfl

/-- What a modulo `lset` posts outside a handler: the count of level 3, then the stage predicates. -/
theorem me_moduloPosts {s : State} {st : Strand} (hhnd : st.hnd = false) {v n : Nat} :
    (postStages (postLc (s.setMe st) 3 v) n).me = { st with
      dbuf := st.dbuf ++
        [{ kind := .lc, reg := 3, due := st.sbc + 1, value := BitVec.ofNat 4096 (v % 2 ^ 32), born := st.seq }] ++
        (List.range n).map fun i => { kind := .p, reg := st.pIdx (st.pbase + i), lgm := 255, due := st.sbc + 1, mask := pFull,
                                      value := pAll (i == 0), born := st.seq } } := by
  rw [me_postStages, postLc, State.me_post, State.me_setMe]
  simp [Strand.count, Strand.pIdx, hhnd]

/-! ### The end of a level -/

theorem State.storeTile_frame (s : State) (sid h : Nat) (ty : ElemType) (lgm e : Nat) (data : Vec) :
    (s.storeTile sid h ty lgm e data).strands = s.strands ∧ (s.storeTile sid h ty lgm e data).cur = s.cur := by
  unfold State.storeTile
  dsimp only
  split
  · exact ⟨rfl, rfl⟩
  · split <;> exact ⟨rfl, rfl⟩

/-- Stores that leave the buffer change no level (R197). -/
theorem State.releaseStores_loops (s : State) (sid : Nat) :
    ((s.releaseStores sid).strand sid).loops = (s.strand sid).loops ∧ (s.releaseStores sid).cur = s.cur := by
  unfold State.releaseStores
  refine List.foldlRecOn (motive := fun t : State => (t.strand sid).loops = (s.strand sid).loops ∧ t.cur = s.cur) _ _ ?_ ?_
  · simp
  · rintro t ⟨hloops, hcur⟩ b -
    cases b with
    | tile k h ty lgm e data =>
      obtain ⟨hstrands, hcur'⟩ := t.storeTile_frame sid h ty lgm e data
      exact ⟨by rw [← hloops, State.strand, State.strand, hstrands], hcur'.trans hcur⟩
    | global k a => exact ⟨by simpa using hloops, hcur⟩

theorem State.closeLoop3_loop (s : State) (sid j : Nat) :
    ((s.closeLoop3 sid).strand sid).loop j = (s.strand sid).loop j ∧ (s.closeLoop3 sid).cur = s.cur := by
  obtain ⟨hloops, hcur⟩ := s.releaseStores_loops sid
  exact ⟨by simp [State.closeLoop3, Strand.loop, hloops], hcur⟩

/-- A level that ends is inactive, and the others stand as they stood (R188, R189). -/
theorem State.endLevel_loop (s : State) (sid l : Nat) : (((s.endLevel sid l).strand sid).loop l).active = false ∧
    (∀ j, j ≠ l → ((s.endLevel sid l).strand sid).loop j = (s.strand sid).loop j) ∧ (s.endLevel sid l).cur = s.cur := by
  unfold State.endLevel
  split
  next hoff => exact ⟨by simpa using hoff, fun _ _ => rfl, rfl⟩
  next =>
    dsimp only
    split
    · simp only [State.strand_setStrand_same, Strand.loop_setLoop_same, State.setStrand_cur, true_and]
      exact ⟨fun j hj => (Strand.loop_setLoop_other _ _ hj).trans (s.closeLoop3_loop sid j).1, (s.closeLoop3_loop sid 0).2⟩
    · simp only [State.strand_setStrand_same, Strand.loop_setLoop_same, State.setStrand_cur, true_and, and_true]
      exact fun j hj => Strand.loop_setLoop_other _ _ hj

/-- Of the first `n` levels those from `lv` on end (R189). -/
def State.endLevels (s : State) (lv n : Nat) : State :=
  (List.range n).foldl (fun s l => if lv ≤ l then s.endLevel s.cur l else s) s

theorem State.endLevels_succ (s : State) (lv n : Nat) : s.endLevels lv (n + 1) =
    if lv ≤ n then (s.endLevels lv n).endLevel (s.endLevels lv n).cur n else s.endLevels lv n := by
  rw [State.endLevels, List.range_succ, List.foldl_append, List.foldl_cons, List.foldl_nil]
  rfl

theorem State.endLevels_loop (s : State) (lv n : Nat) : (∀ l < n, lv ≤ l → ((s.endLevels lv n).me.loop l).active = false) ∧
    (∀ l < lv, (s.endLevels lv n).me.loop l = s.me.loop l) ∧ (s.endLevels lv n).cur = s.cur := by
  induction n with
  | zero => exact ⟨fun l hl => absurd hl (Nat.not_lt_zero l), fun _ _ => rfl, rfl⟩
  | succ n ih =>
    obtain ⟨hended, hkept, hcur⟩ := ih
    rw [State.endLevels_succ]
    split
    next hlv =>
      obtain ⟨hactive, hother, hcur'⟩ := (s.endLevels lv n).endLevel_loop (s.endLevels lv n).cur n
      have hme : ((s.endLevels lv n).endLevel (s.endLevels lv n).cur n).me =
          ((s.endLevels lv n).endLevel (s.endLevels lv n).cur n).strand (s.endLevels lv n).cur := by rw [State.me, hcur']
      rw [hme]
      refine ⟨fun l hl hle => ?_, fun l hl => (hother l (by omega)).trans (hkept l hl), hcur'.trans hcur⟩
      rcases Nat.lt_succ_iff_lt_or_eq.1 hl with hlt | rfl
      · rw [hother l (Nat.ne_of_lt hlt)]; exact hended l hlt hle
      · exact hactive
    next hlv => exact ⟨fun l hl hle => hended l (by omega) hle, hkept, hcur⟩

section Lbrk
variable {s : State} {lv cn : Nat} {neg : Bool}

theorem exec_lbrk_of_not (h : formOk s (.lbrk lv cn neg) = true) (hbrk : ((s.me.cGet cn != neg) && (s.me.loop lv).active) = false) :
    exec (.lbrk lv cn neg) s = .next s := by
  change execLbrk .. = _
  rw [execLbrk, slotOp_ok h]
  exact congrArg (finish s) (if_neg (ne_true_of_eq_false hbrk))

/-- A modulo loop drains: its last iteration is the one under way (R189). -/
theorem exec_lbrk_of_modulo (h : formOk s (.lbrk 3 cn neg) = true)
    (hbrk : ((s.me.cGet cn != neg) && (s.me.loop 3).active) = true) (hmd : s.me.md = true) : exec (.lbrk 3 cn neg) s =
    .next (s.setMe { s.me.lcSet 3 s.me.stages with srcIters := (s.me.loop 3).iter + 1 }) := by
  change execLbrk .. = _
  rw [execLbrk, slotOp_ok h]
  exact congrArg (finish s) ((if_pos hbrk).trans (if_pos (by simpa using hmd)))

theorem exec_lbrk_of_break (h : formOk s (.lbrk lv cn neg) = true)
    (hbrk : ((s.me.cGet cn != neg) && (s.me.loop lv).active) = true) (hmd : lv ≠ 3 ∨ s.me.md = false) :
    exec (.lbrk lv cn neg) s = .next ((s.endLevels lv 4).goOn ((s.me.loop lv).last + 1)) := by
  change execLbrk .. = _
  rw [execLbrk, slotOp_ok h]
  have hkind : ¬ (decide (lv = 3) && s.me.md) = true := by rcases hmd with hlv | hmd <;> simp [*]
  exact congrArg (finish s) ((if_pos hbrk).trans (if_neg hkind))

end Lbrk

/-! ### Generators, rotation, stages -/

/-- A generator on its way to its register, for one bundle (R191). -/
def State.postAg (s : State) (ag : Nat) (a : AddrGen) : State :=
  s.post 1 { kind := .ag, reg := ag, due := 0, value := BitVec.ofNat 4096 (agValue a) }

section Generators
variable {s : State}

theorem exec_agset {ag x : Nat} (h : formOk s (.agset ag x) = true) :
    exec (.agset ag x) s = .next (s.postAg ag { base := BitVec.ofNat 64 (s.me.xGet x) }) := by
  change execAgset .. = _
  exact slotOp_ok h

theorem exec_agstr {ag lv x : Nat} (h : formOk s (.agstr ag lv x) = true) : exec (.agstr ag lv x) s =
    .next (s.postAg ag (AddrGen.setStride (s.me.agGet ag) lv (BitVec.ofNat 64 (s.me.xGet x)))) := by
  change execAgstr .. = _
  exact slotOp_ok h

theorem exec_lrot (h : formOk s .lrot = true) : exec .lrot s = .next { s with iss := { s.iss with lrot := true } } := by
  change execLrot _ = _
  exact slotOp_ok h

theorem exec_spred {p stg : Nat} (h : formOk s (.spred p stg) = true) :
    exec (.spred p stg) s = .next (s.setMe { s.me with stages := stg + 1, pbase := p }) := by
  change execSpred .. = _
  exact slotOp_ok h

end Generators

theorem AddrGen.setStride_eq (a : AddrGen) (v : Word) : ∀ {lv : Nat}, lv < 4 → AddrGen.setStride a lv v =
    { base := a.base, s0 := if lv = 0 then v else a.s0, s1 := if lv = 1 then v else a.s1,
      s2 := if lv = 2 then v else a.s2, s3 := if lv = 3 then v else a.s3 }
  | 0, _ | 1, _ | 2, _ | 3, _ => rfl

/-- A generator passes through the delivery buffer unchanged (R191). -/
theorem agOfValue_agValue (a : AddrGen) : agOfValue (agValue a) = a := by
  have hword : ∀ x : Word, BitVec.ofNat 64 (x.toNat % 2 ^ 64) = x := fun x => by
    rw [Nat.mod_eq_of_lt x.isLt, BitVec.ofNat_toNat, BitVec.setWidth_eq]
  simp only [agOfValue, agValue, elem_ofElems, List.length_cons, List.length_nil, List.getElem_cons_zero, List.getElem_cons_succ,
    Nat.reduceAdd, Nat.reduceLT, hword]

/-! ### The statement -/

/-- Settles O32: each form by its case; of the levels that `lbrk` ends and those that it keeps by induction on their number. -/
theorem lanegroupsAndLoops : Obligations.LanegroupsAndLoops := by
  unfold Obligations.LanegroupsAndLoops
  refine ⟨fun s lgm core lg mode => ?_, fun s lv n body cn x w rb neg hlv => ?_, fun s ag x lv p stg => ?_⟩
  · refine ⟨fun h => ⟨_, exec_lgate h, rfl, rfl, fun g hg => ?_⟩, fun h => ⟨_, exec_wake h, State.me_setMe .., fun g hg => ?_⟩,
      fun h => ⟨_, exec_lanegroupTurnOn_of_waking h, ?_, fun k hk => ?_⟩, exec_lanegroupTurnOn_of_gated⟩
    · rw [State.lgState_setLgs s lgm _ hg]
      cases mode <;> simp [LgState.set, LgPower.wake]
    · refine (State.lgState_setLgs s lgm _ hg).trans ?_
      by_cases hm : bit lgm g <;> by_cases hon : s.lgState g = .on <;> simp [hm, hon, LgPower.wake]
    · rw [State.core_setCore_same, SMap.get_erase, if_pos rfl]
    · rw [State.core_setCore_same, SMap.get_erase, if_neg (Ne.symm hk)]
  · intro st k at_ opened brk
    refine ⟨fun cnt h h3 hn hlt hcnt => ?_, fun h hn hhnd => ?_, fun mod h => exec_lset_of_no_trips rfl h rfl, exec_lbrk_of_not,
      fun h hbrk h3 hmd => ?_, fun h hbrk hkind => ?_⟩
    · have htrips : s.trips cnt = n := by rcases hcnt with rfl | ⟨rfl, rfl⟩ | ⟨rfl, rfl⟩ <;> rfl
      rw [exec_lset_of_trips htrips h h3 (Nat.ne_of_gt hn), postLc, Nat.mod_eq_of_lt hlt]
      rfl
    · refine ⟨_, exec_lset_modulo (n := n) rfl h (Nat.ne_of_gt hn), rfl, ?_⟩
      rw [State.me_goOn, me_moduloPosts (st := s.me.openLevel3 _ true rb n) hhnd]
      exact ⟨SMap.get_put_same s.me.loops 3 opened {}, rfl, rfl, rfl, rfl⟩
    · subst h3
      exact exec_lbrk_of_modulo h hbrk hmd
    · obtain ⟨hended, hkept, -⟩ := s.endLevels_loop lv 4
      exact ⟨_, exec_lbrk_of_break h hbrk hkind, rfl, hended, hkept⟩
  · refine ⟨fun h => exec_agset h, fun h hlv => ?_, exec_lrot, exec_spred, agOfValue_agValue, rfl⟩
    rw [exec_agstr h, AddrGen.setStride_eq _ _ hlv]
    rfl

end Sys2Proof.Machine
end
section
/-! PROOFS. Turns that run one instruction (R254, R352): a micro-word, an administrative command, an event. -/

namespace Sys2Proof.Machine

/-- A scheduled turn is taken, and time moves on by one step. -/
theorem step_of_turn {s : State} {t : Turn} {rest : List Turn} (h : s.turns = t :: rest) :
    step s = settled (runTurn { s with turns := rest, tick := s.tick + 1 } t) := by
  simp only [step, h]

theorem microTurn_of_decode {s : State} {core sid : Nat} {i : Instr} (howner : (s.core core).owner = some sid)
    (hon : s.unitsOn core = true) (hdecode : decodeMicro (s.microWord core) = some i) :
    microTurn s core = exec i { s with cur := sid } := by
  simp only [microTurn, howner, hon, hdecode, Bool.not_true, Bool.false_eq_true, if_false]

theorem adminTurn_of_decode {s : State} {w : Nat} {l : List Nat} {i : Instr} (hitem : s.cmd.admin = w :: l)
    (hlost : s.power.lost = false) (hoff : s.power.off = false) (hdecode : decodeAdmin (w % 2 ^ 1024) = some i) :
    adminTurn s = exec i s := by
  simp only [adminTurn, hitem, hlost, hoff, hdecode, Bool.or_false, Bool.false_eq_true, if_false]

theorem eventTurn_of_event {s : State} {i : Instr} (h : encode i = none) :
    eventTurn s i = if s.eventOpen i then exec i s else .next s := by
  simp only [eventTurn, Instr.isEvent, h, Option.isNone_none, Bool.true_and]

/-- Settles O4: each kind of turn by what it fetches. -/
theorem stepRunsMicroAdminEvent : Obligations.StepRunsMicroAdminEvent := by
  unfold Obligations.StepRunsMicroAdminEvent
  refine ⟨fun s core sid rest i => ?_, fun s rest w l i hturns hitem hlost hoff hdecode => ?_, fun s rest i => ?_⟩
  · intro s1 hturns hcore howner hon hdecode
    rw [step_of_turn hturns, runTurn, if_pos (show core < coreCount from hcore)]
    exact congrArg settled (microTurn_of_decode (s := s1) howner hon hdecode)
  · rw [step_of_turn hturns]
    exact congrArg settled (adminTurn_of_decode hitem hlost hoff hdecode)
  · intro s1 hturns hevent
    rw [step_of_turn hturns]
    exact congrArg settled (eventTurn_of_event hevent)

end Sys2Proof.Machine
end

section
/-! PROOFS. Matrix calls (R240 to R248): parameters, the call queue, its status; the start and the end of a call, and the rails that
settle (R110, R243, R250, R254). -/

namespace Sys2Proof.Machine

/-! ### Forms of the MX slot -/

section CallForms
variable {s : State}

/-- What a call captures of the parameters: those that are valid (R241). -/
def Strand.captured (st : Strand) : List Nat := (List.range 8).map fun r => if st.mpOk r then st.mpGet r else 0

/-- The rows of `acc` that a call issued now would use (R245). -/
def State.callRows (s : State) (idx : Nat) : List Nat := busySet (s.myCore.routineOps idx) s.me.captured

/-- The call that `mcall` issues (R241, R242). -/
def State.newCall (s : State) (idx : Nat) : MCall :=
  { sid := s.cur, idx := idx, mp := s.me.captured, fmt := s.me.fmt.toNat,
    grade := min (field s.me.carat.toNat 0 2) (field (s.me.mpGet 7) 0 2), rpl := bit (s.me.mpGet 7) 2, busy := s.callRows idx,
    seq := s.me.seq }

/-- Does a pending write of the strand cover a row that a call issued now would use (R242)? -/
def State.callClash (s : State) (idx : Nat) : Bool := s.me.dbuf.any fun p => p.accRows.any (s.callRows idx).contains

theorem exec_mset {mp x : Nat} (h : formOk s (.mset mp x) = true) : exec (.mset mp x) s =
    .next (s.post 1 { kind := .mp, reg := mp, due := 0, value := BitVec.ofNat 4096 (s.me.xGet x) }) := by
  change execMset .. = _
  exact slotOp_ok h

theorem exec_mseti {mp imm : Nat} (h : formOk s (.mseti mp imm) = true) : exec (.mseti mp imm) s =
    .next (s.post 1 { kind := .mp, reg := mp, due := 0, value := BitVec.ofNat 4096 (low (sx 32 imm) 64) }) := by
  change execMseti .. = _
  exact slotOp_ok h

theorem exec_mcall_of_room {idx : Nat} (h : formOk s (.mcall idx) = true) (hroom : s.myCore.calls.length < 4)
    (hfree : s.callClash idx = false) : exec (.mcall idx) s =
      .next (s.setMyCore { s.myCore with calls := s.myCore.calls ++ [s.newCall idx] }) := by
  have hguard : (decide (4 ≤ s.myCore.calls.length) || s.callClash idx) = false := by simp [hroom, hfree]
  change execMcall .. = _
  exact (slotOp_ok h).trans (congrArg (finish s) (if_neg (ne_true_of_eq_false hguard)))

theorem exec_mcall_of_full_or_clash {idx : Nat} (h : formOk s (.mcall idx) = true)
    (hstop : 4 ≤ s.myCore.calls.length ∨ s.callClash idx = true) : exec (.mcall idx) s = .next (s.endTrap cSCHEDVIOL 0) := by
  have hguard : (decide (4 ≤ s.myCore.calls.length) || s.callClash idx) = true := by simpa using hstop
  change execMcall .. = _
  exact (slotOp_ok h).trans (congrArg (finish s) (if_pos hguard))

theorem exec_mstat {x : Nat} (h : formOk s (.mstat x) = true) : exec (.mstat x) s =
    .next (s.postX 1 x (min s.myCore.calls.length 4 + s.myCore.running.elim 0 (fun m =>
        2 ^ 3 + 2 ^ 4 * m.idx + 2 ^ 10 * (s.myCore.seqr.upc % 512) + 2 ^ 19 * ofBit s.myCore.seqr.railWait)
      + 2 ^ 20 * min s.myCore.rowq.length 4 + 2 ^ 23 * min s.myCore.trClosed.length 2)) := by
  change execMstat .. = _
  refine (slotOp_ok h).trans ?_
  cases hrun : s.myCore.running <;> simp only [hrun] <;> rfl

theorem exec_mchk {c : Nat} (h : formOk s (.mchk c) = true) :
    exec (.mchk c) s = .next (s.postC 1 c (s.myCore.calls.all (·.ended))) := by
  change execMchk .. = _
  exact slotOp_ok h

end CallForms

/-! ### The start of a call (R243, R250, R254) -/

section Start
variable {s : State} {core sid : Nat} {m : MCall}

/-- The state with a call of a core started: the sequencer as it then stands, and the call with what its start adds to it. -/
def State.callStarted (s : State) (core : Nat) (m : MCall) (q : Sequencer) (f : MCall → MCall) : State :=
  s.setCore core { s.core core with
    seqr := q, calls := (s.core core).calls.map fun x => if x.seq = m.seq then f { x with started := true } else x }

variable (howner : (s.core core).owner = some sid) (hfind : (s.core core).calls.find? (fun m => !m.ended) = some m)
  (hstarted : m.started = false) (hon : s.unitsOn core = true)
include howner hfind hstarted hon

theorem exec_mcallStart_of_ready (h : startBlocks { s with cur := sid } m = none) : exec (.mcallStart core) s =
    .next (s.callStarted core m { running := true, upc := (((s.core core).routine m.idx).map (·.1)).getD 0 } id) := by
  change execMcallStart .. = _
  simp only [execMcallStart, howner, hfind, hstarted, hon, h]
  rfl

theorem exec_mcallStart_of_fault {x i : Nat} (h : startBlocks { s with cur := sid } m = some (.fault x i)) :
    exec (.mcallStart core) s =
      .next (s.callStarted core m {} fun m => { m with faults := m.faults ++ [{ cause := x, info := i }] }) := by
  change execMcallStart .. = _
  simp only [execMcallStart, howner, hfind, hstarted, hon, h]
  rfl

theorem exec_mcallStart_of_wait {u : State} (h : startBlocks { s with cur := sid } m = some (.wait u)) :
    exec (.mcallStart core) s = .next { u with cur := s.cur } := by
  change execMcallStart .. = _
  simp only [execMcallStart, howner, hfind, hstarted, hon, h]
  rfl

end Start

/-! ### The end of a call, and the rails (R110, R243) -/

section Events
variable {s : State} {core : Nat}

theorem exec_mcallEnd_of_running (h : (s.core core).seqr.running = true) : exec (.mcallEnd core) s = .next s := by
  change execMcallEnd .. = _
  simp only [execMcallEnd, h, if_true]

theorem exec_mcallEnd_of_stopped (h : (s.core core).seqr.running = false) : exec (.mcallEnd core) s =
    .next (s.setCore core { s.core core with
      calls := (s.core core).calls.map fun m => if m.started then { m with ended := true } else m }) := by
  change execMcallEnd .. = _
  simp only [execMcallEnd, h, Bool.false_eq_true, if_false]

theorem exec_railSettled_of_clocked {m : MCall} (hwait : (s.core core).seqr.railWait = true)
    (hrun : (s.core core).running = some m) (hkiln : s.power.kiln = .running) : exec (.railSettled core) s =
    .next (s.setCore core { s.core core with
      rails := (s.core core).seqr.grade (s.core core).forced m, seqr := { (s.core core).seqr with railWait := false } }) := by
  change execRailSettled .. = _
  simp only [execRailSettled, hwait, hrun, hkiln]
  rfl

/-- A kiln hold keeps the rails (R110). -/
theorem exec_railSettled_of_held (hkiln : s.power.kiln ≠ .running) : exec (.railSettled core) s = .next s := by
  change execRailSettled .. = _
  simp only [execRailSettled, beq_eq_false_iff_ne.2 hkiln, Bool.and_false, Bool.false_eq_true, if_false]

end Events

/-- Settles O18: each form by whether its call finds room, and the events of a call by how it stands. -/
theorem matrixCalls : Obligations.MatrixCalls := by
  unfold Obligations.MatrixCalls
  refine ⟨fun s mp x imm idx c => ?_, fun s core sid m => ?_⟩
  · intro st core caught busy clash
    refine ⟨exec_mset, exec_mseti, exec_mcall_of_room, exec_mcall_of_full_or_clash, fun h hrun => ?_, fun h m hrun => ?_, exec_mchk⟩
    · rw [exec_mstat h, hrun]; rfl
    · rw [exec_mstat h, hrun]; rfl
  · intro c
    refine ⟨fun howner hfind hstarted hon h => ?_, fun howner hfind hstarted hon x i h => ?_,
      fun howner hfind hstarted hon u h => exec_mcallStart_of_wait howner hfind hstarted hon h,
      exec_mcallEnd_of_running, exec_mcallEnd_of_stopped, exec_railSettled_of_clocked, fun _ _ => exec_railSettled_of_held⟩
    · refine ⟨_, exec_mcallStart_of_ready howner hfind hstarted hon h, ?_, ?_, rfl⟩
      · rw [State.callStarted, State.core_setCore_same]
      · rw [State.callStarted, State.core_setCore_same]; rfl
    · refine ⟨_, exec_mcallStart_of_fault howner hfind hstarted hon h, ?_, ?_, rfl⟩
      · rw [State.callStarted, State.core_setCore_same]
      · rw [State.callStarted, State.core_setCore_same]

end Sys2Proof.Machine
end
section
/-! PROOFS. The transpose unit (R261 to R264): what each of its forms does to the batches of a core. -/

namespace Sys2Proof.Machine

/-- A result for every lanegroup is one pending write, and each lanegroup of it reads as it was given (R200). -/
theorem me_postV_whole (s : State) (lat d : Nat) (val : Nat → Nat) : ∃ p, (postV s lat d 255 fun g => wholeOut (val g) 0).me =
      { s.me with dbuf := s.me.dbuf ++ [p] } ∧ p.kind = .v ∧ p.reg = s.me.vIdx d ∧ p.lgm = 255 ∧ p.due = s.me.count + lat ∧
    ∀ g < 8, elem 512 p.value.toNat g = val g % 2 ^ 512 := by
  refine ⟨_, (congrArg State.me (postLanes_eq ..)).trans (State.me_post ..), rfl, rfl, rfl, rfl, fun g hg => ?_⟩
  have hbit : bit 255 g = true := (by decide : ∀ g < 8, bit 255 g = true) g hg
  exact (elem_lanePending (kind := .v) (reg := s.me.vIdx d) (unit := 64) (by decide) hg).trans (if_pos hbit)

/-- A batch that gives a column at a count (R263). -/
theorem Batch.gives_iff {b : Batch} {j n : Nat} :
    b.gives j n = true ↔ b.closed < n ∧ n ≤ b.closed + 7 + j ∧ bit b.popped j = false := by
  simp only [Batch.gives, Bool.and_eq_true, Bool.not_eq_true', decide_eq_true_eq]
  exact ⟨fun ⟨⟨hleft, hafter⟩, hwindow⟩ => ⟨hafter, hwindow, hleft⟩,
    fun ⟨hafter, hwindow, hleft⟩ => ⟨⟨hleft, hafter⟩, hwindow⟩⟩

/-- The open batch of a core, or the one that its next row opens (R262). -/
def Core.batchUnderWay (c : Core) : Batch := c.trOpen.getD { width := c.trWidth }

/-- A batch with a row stored (R262). -/
def Batch.withRow (b : Batch) (idx : Nat) (v : Vec) : Batch := { b with rows := SMap.insert b.rows idx v }

/-- A core whose batch gave a column, with the batches retired whose window has passed (R263). -/
def Core.columnTaken (c : Core) (b : Batch) (idx n : Nat) : Core :=
  { c with trClosed := c.trClosed.map fun (x : Batch) =>
      if x.closed = b.closed then { x with popped := setBit x.popped idx true } else x }.retireBatches n

section Forms
variable {s : State} {v idx : Nat} {ty : ElemType}

theorem exec_trpush_of_open (hlanes : s.lanesOn (List.range 8) = true) (h : formOk s (.trpush v idx) = true) (hidx : idx ≠ 15) :
    exec (.trpush v idx) s = .next (s.setMyCore { s.myCore with
      trOpen := some (s.myCore.batchUnderWay.withRow idx (s.me.vRaw v)) }) := by
  change execTrpush .. = _
  refine (slotOp_ok h).trans ?_
  simp only [lgWait_none hlanes, if_pos hidx]
  rfl

theorem exec_trpush_of_last (hlanes : s.lanesOn (List.range 8) = true) (h : formOk s (.trpush v idx) = true) (hidx : idx = 15)
    (hroom : s.myCore.trClosed.length < 2) : exec (.trpush v idx) s = .next (s.setMyCore { s.myCore with
      trOpen := none, trClosed := s.myCore.trClosed ++
        [{ s.myCore.batchUnderWay.withRow idx (s.me.vRaw v) with closed := s.me.sbc }] }) := by
  change execTrpush .. = _
  refine (slotOp_ok h).trans ?_
  simp only [lgWait_none hlanes, if_neg (not_not_intro hidx), if_neg (Nat.not_le.2 hroom)]
  rfl

theorem exec_trpush_of_full (hlanes : s.lanesOn (List.range 8) = true) (h : formOk s (.trpush v idx) = true) (hidx : idx = 15)
    (hfull : 2 ≤ s.myCore.trClosed.length) : exec (.trpush v idx) s = .next (s.endTrap cSCHEDVIOL pathTranspose) := by
  change execTrpush .. = _
  refine (slotOp_ok h).trans ?_
  simp only [lgWait_none hlanes, if_neg (not_not_intro hidx), if_pos hfull, finish_trap]

theorem exec_trpop_of_given {b : Batch} (hlanes : s.lanesOn (List.range 8) = true) (h : formOk s (.trpop v idx) = true)
    (hfind : s.myCore.trClosed.find? (·.gives idx s.me.sbc) = some b) : exec (.trpop v idx) s =
      .next (postV (s.setMyCore (s.myCore.columnTaken b idx s.me.sbc)) (b.closed + 8 + idx - s.me.sbc) v 255
        fun g => wholeOut (b.column idx g) 0) := by
  change execTrpop .. = _
  refine (slotOp_ok h).trans ?_
  simp only [lgWait_none hlanes, hfind]
  rfl

theorem exec_trpop_of_none (hlanes : s.lanesOn (List.range 8) = true) (h : formOk s (.trpop v idx) = true)
    (hfind : s.myCore.trClosed.find? (·.gives idx s.me.sbc) = none) :
    exec (.trpop v idx) s = .next (s.endTrap cSCHEDVIOL pathTranspose) := by
  change execTrpop .. = _
  refine (slotOp_ok h).trans ?_
  simp only [lgWait_none hlanes, hfind, finish_trap]

theorem exec_trcfg_of_empty (hlanes : s.lanesOn (List.range 8) = true) (h : formOk s (.trcfg ty) = true)
    (hopen : s.myCore.trOpen = none) (hclosed : s.myCore.trClosed = []) :
    exec (.trcfg ty) s = .next (s.setMyCore { s.myCore with trWidth := ty.width }) := by
  change execTrcfg .. = _
  refine (slotOp_ok h).trans ?_
  simp only [lgWait_none hlanes, hopen, hclosed]
  rfl

theorem exec_trcfg_of_used (hlanes : s.lanesOn (List.range 8) = true) (h : formOk s (.trcfg ty) = true)
    (hused : s.myCore.trOpen ≠ none ∨ s.myCore.trClosed ≠ []) :
    exec (.trcfg ty) s = .next (s.endTrap cSCHEDVIOL pathTranspose) := by
  have hguard : (s.myCore.trOpen.isSome || !s.myCore.trClosed.isEmpty) = true := by
    simpa [Option.isSome_iff_ne_none] using hused
  change execTrcfg .. = _
  refine (slotOp_ok h).trans ?_
  simp only [lgWait_none hlanes, if_pos hguard, finish_trap]

theorem exec_transposeRetire {core sid : Nat} (howner : (s.core core).owner = some sid) : exec (.transposeRetire core) s =
    .next (s.setCore core ((s.core core).retireBatches (s.strand sid).sbc)) := by
  change execTransposeRetire .. = _
  simp only [execTransposeRetire, howner]

end Forms

/-- Settles O19: each form by the batches that it meets. -/
theorem transposes : Obligations.Transposes := by
  unfold Obligations.Transposes
  intro s v idx ty hlanes c n old filled
  refine ⟨exec_trpush_of_open hlanes, exec_trpush_of_last hlanes, exec_trpush_of_full hlanes, fun h b hfind => ?_,
    exec_trpop_of_none hlanes, exec_trcfg_of_empty hlanes, exec_trcfg_of_used hlanes, fun core sid => exec_transposeRetire⟩
  have hgives : b.gives idx n = true := List.find?_some (p := fun x : Batch => x.gives idx n) hfind
  exact ⟨_, exec_trpop_of_given hlanes h hfind, Batch.gives_iff.1 hgives, me_postV_whole ..⟩

end Sys2Proof.Machine
end
section
/-! PROOFS. The row engine (R265 to R268, R272): the commands that join its queue, and the steps of the oldest one. -/

namespace Sys2Proof.Machine

/-! ### Commands -/

section Commands
variable {s : State} {ha hd : Nat}

/-- The state with a command in the queue of the core's row engine (R266). -/
def State.rowQueued (s : State) (op : RowOp) (ha hd : Nat) : State :=
  s.setMyCore { s.myCore with
    rowq := s.myCore.rowq ++ [{ op := op, ha := ha, hd := hd, seq := s.me.seq, issued := s.me.sbc }] }

theorem State.queueRow_of_room (op : RowOp) (h : s.myCore.rowq.length < 4) : s.queueRow op ha hd = .ok (s.rowQueued op ha hd) :=
  if_neg (Nat.not_le.2 h)

theorem State.queueRow_of_full (op : RowOp) (h : 4 ≤ s.myCore.rowq.length) : s.queueRow op ha hd = .trap cSCHEDVIOL pathRow :=
  if_pos h

section Pair
variable {i : Instr} {op : RowOp} {a d : Tile} (ok : formOk s i = true)
include ok

/-- Two tiles of one shape that the engine takes (R267). -/
theorem rowPair_of_tiles (ha' : rowTile s ha true = some a) (hd' : rowTile s hd true = some d) (hrows : a.rows = d.rows)
    (hcols : a.cols = d.cols) : rowPair i op ha hd s = finish s (s.queueRow op ha hd) := by
  have hshape : ¬ (a.rows ≠ d.rows ∨ a.cols ≠ d.cols) := by simp [hrows, hcols]
  refine (slotOp_ok ok).trans ?_
  simp only [ha', hd', if_neg hshape]

theorem rowPair_of_room (hpair : rowTile s ha true = some a ∧ rowTile s hd true = some d ∧ a.rows = d.rows ∧ a.cols = d.cols)
    (hroom : s.myCore.rowq.length < 4) : rowPair i op ha hd s = .next (s.rowQueued op ha hd) := by
  obtain ⟨ha', hd', hrows, hcols⟩ := hpair
  rw [rowPair_of_tiles ok ha' hd' hrows hcols, State.queueRow_of_room op hroom, finish_ok]

theorem rowPair_of_full (hpair : rowTile s ha true = some a ∧ rowTile s hd true = some d ∧ a.rows = d.rows ∧ a.cols = d.cols)
    (hfull : 4 ≤ s.myCore.rowq.length) : rowPair i op ha hd s = .next (s.endTrap cSCHEDVIOL pathRow) := by
  obtain ⟨ha', hd', hrows, hcols⟩ := hpair
  rw [rowPair_of_tiles ok ha' hd' hrows hcols, State.queueRow_of_full op hfull, finish_trap]

theorem rowPair_of_no_tile (hnone : rowTile s ha true = none) : rowPair i op ha hd s = .next (s.endTrap cHANDLE ha) := by
  refine (slotOp_ok ok).trans ?_
  simp only [hnone, finish_trap]

end Pair

/-- A tile that holds the image of a table: room for it, and a head that the engine takes (R272). -/
theorem exec_retload_of_image {tb : Nat} {a : Tile} (ok : formOk s (.retload ha tb) = true) (ha' : rowTile s ha false = some a)
    (hsize : 8 * 3104 ≤ a.rows * (a.cols * a.ety.width)) (hhead : (s.myCore.raceView s.tick).denseByte a 20 < 16)
    (hzero : ∀ j < 11, (s.myCore.raceView s.tick).denseByte a (21 + j) = 0) (hroom : s.myCore.rowq.length < 4) :
    exec (.retload ha tb) s = .next (s.rowQueued (.retload tb) ha ha) := by
  have hsize' : ¬ a.rows * a.rowBits < 8 * 3104 := Nat.not_lt.2 hsize
  have hzero' : ((List.range 11).any fun j => (s.myCore.raceView s.tick).denseByte a (21 + j) != 0) = false := by
    simpa using hzero
  change execRetload .. = _
  refine (slotOp_ok ok).trans ?_
  simp only [ha', hsize', Nat.not_le.2 hhead, hzero', decide_false, Bool.or_self, Bool.false_eq_true, if_false,
    State.queueRow_of_room (.retload tb) hroom, finish_ok]

theorem exec_retload_of_no_tile {tb : Nat} (ok : formOk s (.retload ha tb) = true) (hnone : rowTile s ha false = none) :
    exec (.retload ha tb) s = .next (s.endTrap cHANDLE ha) := by
  change execRetload .. = _
  refine (slotOp_ok ok).trans ?_
  simp only [hnone, finish_trap]

end Commands

/-! ### Steps -/

/-- Two stages of one command, which differ in the values read and the flags alone. -/
def RowCmd.sameStep (c c' : RowCmd) : Prop := c' = { c with read := c'.read, flags := c'.flags }

theorem Core.rowRead_sameStep (core : Core) (c : RowCmd) (ha : Tile) : c.sameStep (core.rowRead c ha) := by
  unfold Core.rowRead
  split <;> rfl

theorem Core.rowWrite_sameStep (core : Core) (c : RowCmd) (ha hd : Tile) : c.sameStep (core.rowWrite c ha hd).2 := by
  unfold Core.rowWrite
  split <;> rfl

theorem RowCmd.sameStep.trans {a b c : RowCmd} (hab : a.sameStep b) (hbc : b.sameStep c) : a.sameStep c := by
  unfold RowCmd.sameStep at *
  rw [hbc, hab]

/-- What a step of a command does to its core and to what the command has read (R268). -/
def Core.rowWork (core : Core) (tick : Nat) (c : RowCmd) (ha hd : Tile) : Core × RowCmd :=
  match c.op with
  | .retload tb => (core.rowLoad (core.raceView tick) c tb ha, c)
  | _ =>
    let c := (core.raceView tick).rowRead c ha
    let w := core.rowWrite c ha hd
    (core.raceWrite w.1 tick (stepLines c ha hd), w.2)

theorem Core.rowWork_sameStep (core : Core) (tick : Nat) (c : RowCmd) (ha hd : Tile) : c.sameStep (core.rowWork tick c ha hd).2 := by
  unfold Core.rowWork
  split
  · rfl
  · exact (Core.rowRead_sameStep ..).trans (Core.rowWrite_sameStep ..)

/-- A command after one more step, with what the step made of it. -/
def Core.rowNext (core : Core) (tick : Nat) (c : RowCmd) (ha hd : Tile) : RowCmd :=
  { (core.rowWork tick c ha hd).2 with step := (core.rowWork tick c ha hd).2.step + 1 }

theorem Core.rowNext_eq (core : Core) (tick : Nat) (c : RowCmd) (ha hd : Tile) : core.rowNext tick c ha hd =
    { c with step := c.step + 1, read := (core.rowNext tick c ha hd).read, flags := (core.rowNext tick c ha hd).flags } := by
  have h := core.rowWork_sameStep tick c ha hd
  unfold RowCmd.sameStep at h
  rw [Core.rowNext, h]

section Steps
variable {s : State} {n sid now due : Nat} {c : RowCmd} {rest : List RowCmd} {ha hd : Tile}

theorem State.rowStep_of_empty (h : (s.core n).rowq = []) : s.rowStep n now due = s := by
  rcases howner : (s.core n).owner with _ | sid <;> simp only [State.rowStep, howner, h]

/-- The state after the last step of a command: its core, and the flags that it raised, due for its strand (R266). -/
def State.rowFinished (s : State) (n sid due : Nat) (core : Core) (flags : Nat) : State :=
  if flags = 0 then s.setCore n core
  else (s.setCore n core).setStrand sid { s.strand sid with
    dbuf := (s.strand sid).dbuf ++ [{ kind := .flags, reg := 0, due := due, flags := flags, arrived := true }] }

@[simp] theorem State.rowFinished_mem (s : State) (n sid due : Nat) (core : Core) (flags : Nat) :
    (s.rowFinished n sid due core flags).mem = s.mem := by
  unfold State.rowFinished; split <;> rfl

@[simp] theorem State.core_rowFinished (s : State) (n sid due : Nat) (core : Core) (flags : Nat) :
    (s.rowFinished n sid due core flags).core n = core := by
  unfold State.rowFinished; split <;> simp

/-- A step of a command that began before: it stays first in the queue unless the step was its last (R265, R268). -/
theorem State.rowStep_of_command (howner : (s.core n).owner = some sid) (hqueue : (s.core n).rowq = c :: rest)
    (hissued : ¬ now ≤ c.issued) (hfa : SMap.find (s.cluster (n / 8)).tiles c.ha = some ha)
    (hfd : SMap.find (s.cluster (n / 8)).tiles c.hd = some hd) :
    s.rowStep n now due =
      if c.step + 1 < c.op.steps ha
      then s.setCore n { ((s.core n).rowWork s.tick c ha hd).1 with rowq := (s.core n).rowNext s.tick c ha hd :: rest }
      else s.rowFinished n sid due { ((s.core n).rowWork s.tick c ha hd).1 with rowq := rest }
        ((s.core n).rowNext s.tick c ha hd).flags := by
  have hnext := (s.core n).rowNext_eq s.tick c ha hd
  have hstep : ((s.core n).rowNext s.tick c ha hd).step = c.step + 1 := by rw [hnext]
  have hop : ((s.core n).rowNext s.tick c ha hd).op = c.op := by rw [hnext]
  rw [← hstep, ← hop]
  simp only [State.rowStep, howner, hqueue, if_neg hissued, hfa, hfd]
  rfl

/-- The engine goes on for a strand that waits for it (R265). -/
theorem exec_rowEngineStep_of_waiting {core : Nat} (howner : (s.core core).owner = some sid) (hon : s.unitsOn core = true)
    (hwaits : (s.strand sid).stall = some .halt ∨
      ((s.strand sid).stall = some .markers ∧ (s.strand sid).joinMarkers.any (fun m => m.queue == 3) = true)) :
    exec (.rowEngineStep core) s = .next (s.rowStep core ((s.strand sid).sbc + 1) (s.strand sid).sbc) := by
  have hgoes : (((s.strand sid).stall == some .halt ||
      ((s.strand sid).stall == some .markers && (s.strand sid).joinMarkers.any fun m => m.queue == 3)) && s.unitsOn core) = true := by
    rw [hon, Bool.and_true, Bool.or_eq_true, Bool.and_eq_true, beq_iff_eq, beq_iff_eq]
    exact hwaits
  change execRowEngineStep .. = _
  simp only [execRowEngineStep, howner, hgoes, if_true]

end Steps

/-- Settles O20: a command by whether its tiles fit and the queue has room, a step by whether it is its command's last. -/
theorem rowEngine : Obligations.RowEngine := by
  unfold Obligations.RowEngine
  refine ⟨fun s ha hd tb rms a d => ?_, fun s core sid c rest ha hd => ?_⟩
  · intro _ queued pair v image
    refine ⟨rowPair_of_room, rowPair_of_room, rowPair_of_room, fun ok himage => ?_, rowPair_of_full, rowPair_of_no_tile,
      exec_retload_of_no_tile⟩
    obtain ⟨ha', hsize, hhead, hzero⟩ := himage
    exact exec_retload_of_image ok ha' hsize hhead hzero
  · intro st k howner hon hwaits
    rw [exec_rowEngineStep_of_waiting howner hon hwaits]
    refine ⟨fun hempty => congrArg _ (State.rowStep_of_empty hempty), fun hqueue hissued hfa hfd => ⟨_, rfl, ?_⟩⟩
    rw [State.rowStep_of_command howner hqueue (Nat.not_le.2 (Nat.lt_succ_of_le hissued)) hfa hfd]
    by_cases hmore : c.step + 1 < c.op.steps ha
    · rw [if_pos hmore, State.core_setCore_same]
      refine ⟨rfl, fun _ => ⟨_, rfl, ?_⟩, fun hlast => absurd hmore (Nat.not_lt.2 hlast)⟩
      rw [Core.rowNext_eq]
      exact ⟨rfl, rfl, rfl, rfl⟩
    · rw [if_neg hmore, State.rowFinished_mem, State.core_rowFinished]
      exact ⟨rfl, fun h => absurd h hmore, fun _ => rfl⟩

end Sys2Proof.Machine
end
section
/-! PROOFS. Micro-operations (R254): what one that runs comes to, and those that set the sequencer's registers, loop, or meet a
descriptor that does not fit (R250, R255, R260). -/

namespace Sys2Proof.Machine

/-! ### What a micro-operation comes to -/

/-- A key written twice holds what was written last. -/
@[simp] theorem SMap.insert_insert {α : Type} (m : SMap α) (k : Nat) (v w : α) :
    SMap.insert (SMap.insert m k v) k w = SMap.insert m k w := by
  induction m with
  | nil => simp [SMap.insert]
  | cons e m ih =>
    obtain ⟨a, x⟩ := e
    rcases Nat.lt_trichotomy k a with h | h | h
    · simp [SMap.insert, h]
    · simp [SMap.insert, h]
    · simp [SMap.insert, Nat.lt_asymm h, Nat.ne_of_lt h, ih]

@[simp] theorem State.setMyCore_setMyCore (s : State) (c d : Core) : (s.setMyCore c).setMyCore d = s.setMyCore d := by
  simp [State.setMyCore, State.setCore]

@[simp] theorem State.setSeqr_setSeqr (s : State) (q r : Sequencer) : (s.setSeqr q).setSeqr r = s.setSeqr r := by
  simp [State.setSeqr]

/-- The state in which a deferred fault has ended the call (R247, R254). -/
def State.callFaulted (s : State) (cause info : Nat) : State :=
  let t := s.onCall fun m => { m with faults := m.faults ++ [{ cause := cause, info := info }] }
  t.setSeqr { t.seqr with running := false }

theorem State.callFaulted_seqr (s : State) (cause info : Nat) :
    (s.callFaulted cause info).seqr = { s.seqr with running := false } := by
  simp [State.callFaulted]
@[simp] theorem State.myCluster_callFaulted (s : State) (cause info : Nat) : (s.callFaulted cause info).myCluster = s.myCluster := rfl

section Outcomes
variable {s t : State} {f : MCall → State → MicroRes} (hruns : callRuns s = true)
include hruns

theorem microOp_of_next (hf : f s.call s = .next t) : microOp s f = .next (s.nextWord t) := by rw [microOp_ok hruns, hf]
theorem microOp_of_jump {u : Nat} (hf : f s.call s = .jump t u) : microOp s f = .next (t.setSeqr { t.seqr with upc := u }) := by
  rw [microOp_ok hruns, hf]
theorem microOp_of_fault {c i : Nat} (hf : f s.call s = .fault t c i) : microOp s f = .next (t.callFaulted c i) := by
  rw [microOp_ok hruns, hf]; rfl
theorem microOp_of_stay (hf : f s.call s = .stay t) : microOp s f = .next t := by rw [microOp_ok hruns, hf]

/-- One that changes the sequencer's registers alone goes on at the next word. -/
theorem microOp_of_setSeqr {q : Sequencer} (hf : f s.call s = .next (s.setSeqr q)) :
    microOp s f = .next (s.setSeqr { q with upc := s.seqr.upc + 1 }) := by
  rw [microOp_of_next hruns hf, State.nextWord, State.setSeqr_seqr, State.setSeqr_setSeqr]

/-- One that changes nothing goes on at the next word. -/
theorem microOp_of_same (hf : f s.call s = .next s) : microOp s f = .next (s.setSeqr { s.seqr with upc := s.seqr.upc + 1 }) :=
  microOp_of_next hruns hf

end Outcomes

/-! ### Operations that set the sequencer -/

section Control
variable {s : State} {ma mb n : Nat} (hruns : callRuns s = true)
include hruns

theorem exec_aload_of_tile {t : Tile} (htile : descTile s (s.call.param ma) .loc = some t) (hsp : dMram (s.call.param ma) = false)
    (hrow : dRow (s.call.param ma) < t.rows) (hacc : dAr (s.call.param ma) + n ≤ (if t.ety = .f64 then 64 else 128)) :
    exec (.aload ma n) s = .next (s.setSeqr { s.seqr with a := some (s.call.param ma), m := n, upc := s.seqr.upc + 1 }) := by
  have hacc' : ¬ (if (t.ety == .f64) = true then 64 else 128) < dAr (s.call.param ma) + n := by simpa using hacc
  change execAload .. = _
  refine microOp_of_setSeqr hruns (q := { s.seqr with a := some (s.call.param ma), m := n }) ?_
  simp only [htile, hsp, Nat.not_le.2 hrow, hacc', decide_false, Bool.or_self, Bool.false_eq_true, if_false]

theorem exec_aload_of_no_tile (htile : descTile s (s.call.param ma) .loc = none) : exec (.aload ma n) s =
    .next (s.callFaulted cHANDLE (2 ^ 64 - 256 + s.call.param ma % 256)) := by
  have hinfo : descInfo (dH (s.call.param ma)) = 2 ^ 64 - 256 + s.call.param ma % 256 := by rw [descInfo, dH, Nat.mod_mod]
  change execAload .. = _
  refine microOp_of_fault hruns ?_
  simp only [htile, hinfo]

theorem exec_bsel_of_tile {t : Tile} (htile : descTile s (s.call.param ma) .bstack = some t)
    (hstack : dMram (s.call.param ma) = false) (hcol : dCol (s.call.param ma) < t.cols) (hgood : t.poisoned = false) :
    exec (.bsel ma) s = .next (s.setSeqr { s.seqr with b := some (s.call.param ma), kappa := 0, upc := s.seqr.upc + 1 }) := by
  change execBsel .. = _
  refine microOp_of_setSeqr hruns (q := { s.seqr with b := some (s.call.param ma), kappa := 0 }) ?_
  simp only [htile, hstack, Nat.not_le.2 hcol, hgood, Bool.false_eq_true, if_false]

theorem exec_bsel_of_stream (hmram : dMram (s.call.param ma) = true) (hty : (dMramTy (s.call.param ma)).any mramType = true) :
    exec (.bsel ma) s = .next (s.setSeqr { s.seqr with b := some (s.call.param ma), kappa := 0, upc := s.seqr.upc + 1 }) := by
  change execBsel .. = _
  refine microOp_of_setSeqr hruns (q := { s.seqr with b := some (s.call.param ma), kappa := 0 }) ?_
  simp only [hmram, hty, if_true]

theorem exec_planes : exec (.planes n) s = .next (s.setSeqr { s.seqr with pl := n, upc := s.seqr.upc + 1 }) := by
  change execPlanes .. = _
  exact microOp_of_setSeqr (q := { s.seqr with pl := n }) hruns rfl

theorem exec_limb : exec (.limb n) s = .next (s.setSeqr { s.seqr with lj := n % 8, lk := n / 8 % 8, upc := s.seqr.upc + 1 }) := by
  change execLimb .. = _
  refine microOp_of_setSeqr hruns (q := { s.seqr with lj := n % 8, lk := n / 8 % 8 }) ?_
  simp only [field, Nat.pow_zero, Nat.div_one, Nat.reducePow]

/-- `scale` with no column vector (R255). -/
theorem exec_scale_of_scalar (hvec : s.call.param mb = 2 ^ 63) : exec (.scale ma mb) s =
    .next (s.setSeqr { s.seqr with sc := s.call.param ma % 2 ^ 32, cv := none, upc := s.seqr.upc + 1 }) := by
  change execScale .. = _
  refine microOp_of_setSeqr hruns (q := { s.seqr with sc := s.call.param ma % 2 ^ 32, cv := none }) ?_
  simp only [if_pos hvec]

theorem exec_scale_of_vector {t : Tile} (hvec : s.call.param mb ≠ 2 ^ 63) (htile : descTile s (s.call.param mb) .loc = some t)
    (hsp : dMram (s.call.param mb) = false) (hty : t.ety = .f32) (hcols : dCol (s.call.param mb) + 128 ≤ t.cols) :
    exec (.scale ma mb) s = .next (s.setSeqr { s.seqr with
      sc := s.call.param ma % 2 ^ 32, cv := some (s.call.param mb), upc := s.seqr.upc + 1 }) := by
  change execScale .. = _
  refine microOp_of_setSeqr hruns (q := { s.seqr with sc := s.call.param ma % 2 ^ 32, cv := some (s.call.param mb) }) ?_
  simp only [if_neg hvec, htile, hsp, hty, Nat.not_lt.2 hcols, bne_self_eq_false, decide_false, Bool.or_self, Bool.false_eq_true,
    if_false]

theorem exec_mwait : exec (.mwait n) s = .next (s.setSeqr { s.seqr with upc := s.seqr.upc + 1 }) := by
  change execMwait n s = _
  exact microOp_of_same hruns rfl

theorem exec_msync : exec .msync s = .next (s.nextWord (s.onCall fun m => { m with unsynced := [] })) := by
  change execMsync .. = _
  exact microOp_of_next hruns rfl

theorem exec_mret : exec .mret s = .next (s.setSeqr { s.seqr with running := false, upc := s.seqr.upc + 1 }) := by
  change execMret .. = _
  exact microOp_of_setSeqr (q := { s.seqr with running := false }) hruns rfl

/-! ### Loops of micro-words (R260) -/

/-- How often a loop runs (R260). -/
def State.loopCount (s : State) : MicroCount → Nat
  | .mp a => s.call.param a % 2 ^ 32
  | .imm k => k

theorem exec_mloop_of_pos {cnt : MicroCount} (hcount : 0 < s.loopCount cnt) : exec (.mloop cnt) s =
    .next (s.setSeqr { s.seqr with loops := (s.loopCount cnt, s.seqr.upc + 1) :: s.seqr.loops, upc := s.seqr.upc + 1 }) := by
  change execMloop .. = _
  refine microOp_of_setSeqr hruns (q := { s.seqr with loops := (s.loopCount cnt, s.seqr.upc + 1) :: s.seqr.loops }) ?_
  exact if_neg (Nat.ne_of_gt hcount)

/-- A loop that runs no time is left for the word after its `mend` (R260). -/
theorem exec_mloop_of_zero {cnt : MicroCount} (hcount : s.loopCount cnt = 0) : exec (.mloop cnt) s =
    .next (s.setSeqr { s.seqr with upc := afterMend s.myCore 512 (s.seqr.upc + 1) 0 }) := by
  change execMloop .. = _
  exact microOp_of_jump hruns (if_pos hcount)

theorem exec_mend_of_more {k b : Nat} {ls : List (Nat × Nat)} (hloops : s.seqr.loops = (k, b) :: ls) (hmore : 1 < k) :
    exec (.mend n) s = .next (s.setSeqr { s.seqr with loops := (k - 1, b) :: ls, upc := n }) := by
  change execMend .. = _
  refine (microOp_of_jump (t := s.setSeqr { s.seqr with loops := (k - 1, b) :: ls }) (u := n) hruns ?_).trans ?_
  · simp only [hloops, if_pos hmore]
  · rw [State.setSeqr_seqr, State.setSeqr_setSeqr]

theorem exec_mend_of_last {k b : Nat} {ls : List (Nat × Nat)} (hloops : s.seqr.loops = (k, b) :: ls) (hlast : k ≤ 1) :
    exec (.mend n) s = .next (s.setSeqr { s.seqr with loops := ls, upc := s.seqr.upc + 1 }) := by
  change execMend .. = _
  refine microOp_of_setSeqr hruns (q := { s.seqr with loops := ls }) ?_
  simp only [hloops, if_neg (Nat.not_lt.2 hlast)]

end Control

/-- Settles O21: each micro-operation by what it sets, or by the descriptor that it does not take. -/
theorem microControl : Obligations.MicroControl := by
  unfold Obligations.MicroControl
  intro s ma mb n hruns q m d e at_
  exact ⟨fun t => exec_aload_of_tile hruns, fun t => exec_bsel_of_tile hruns, exec_bsel_of_stream hruns, exec_planes hruns,
    exec_limb hruns, exec_scale_of_scalar hruns, fun t => exec_scale_of_vector hruns, exec_mloop_of_pos (cnt := .imm n) hruns,
    exec_mloop_of_pos (cnt := .mp ma) hruns, exec_mloop_of_zero (cnt := .mp ma) hruns, fun k b ls => exec_mend_of_more hruns,
    fun k b ls => exec_mend_of_last hruns, exec_mwait hruns, exec_msync hruns, exec_mret hruns, exec_aload_of_no_tile hruns⟩

end Sys2Proof.Machine
end
section
/-! PROOFS. What is read back after a write: fields of a word (R1), elements of `acc` (R63, R238), bits of a scratchpad and elements
of its tiles (R274), and lines that race (R246). -/

namespace Sys2Proof.Machine

/-! ### Fields, bit by bit -/

theorem testBit_field (v lo n i : Nat) : (field v lo n).testBit i = (decide (i < n) && v.testBit (lo + i)) := by
  rw [field, Nat.testBit_mod_two_pow, Nat.testBit_div_two_pow, Nat.add_comm]

theorem testBit_setField (v lo n x i : Nat) :
    (setField v lo n x).testBit i = if lo ≤ i ∧ i < lo + n then x.testBit (i - lo) else v.testBit i := by
  have hlow : v % 2 ^ lo < 2 ^ lo := Nat.mod_lt _ (Nat.two_pow_pos lo)
  have hbelow : 2 ^ lo * (x % 2 ^ n) + v % 2 ^ lo < 2 ^ (lo + n) := by
    have hx : x % 2 ^ n < 2 ^ n := Nat.mod_lt _ (Nat.two_pow_pos n)
    calc 2 ^ lo * (x % 2 ^ n) + v % 2 ^ lo < 2 ^ lo * (x % 2 ^ n + 1) := by rw [Nat.mul_succ]; omega
      _ ≤ 2 ^ lo * 2 ^ n := Nat.mul_le_mul_left _ hx
      _ = 2 ^ (lo + n) := (Nat.pow_add ..).symm
  rw [setField, Nat.add_comm (v % 2 ^ lo), Nat.add_comm _ (2 ^ (lo + n) * _), Nat.testBit_two_pow_mul_add _ hbelow,
    Nat.testBit_two_pow_mul_add _ hlow, Nat.testBit_mod_two_pow, Nat.testBit_mod_two_pow, Nat.testBit_div_two_pow]
  by_cases hlo : i < lo
  · simp [hlo, Nat.lt_add_right n hlo, Nat.not_le.2 hlo]
  · by_cases hin : i < lo + n
    · simp [hlo, hin, Nat.le_of_not_lt hlo, show i - lo < n by omega]
    · simp [hin, show i - (lo + n) + (lo + n) = i by omega]

theorem field_setField_same (v lo n x : Nat) : field (setField v lo n x) lo n = x % 2 ^ n := by
  refine Nat.eq_of_testBit_eq fun i => ?_
  rw [testBit_field, testBit_setField, Nat.testBit_mod_two_pow]
  by_cases h : i < n <;> simp [h]

theorem field_setField_other {v lo n x lo' n' : Nat} (h : lo' + n' ≤ lo ∨ lo + n ≤ lo') :
    field (setField v lo n x) lo' n' = field v lo' n' := by
  refine Nat.eq_of_testBit_eq fun i => ?_
  rw [testBit_field, testBit_field, testBit_setField]
  by_cases hi : i < n'
  · rw [if_neg (by omega)]
  · simp [hi]

theorem setField_lt {v lo n x k : Nat} (hv : v < 2 ^ k) (hfits : lo + n ≤ k) : setField v lo n x < 2 ^ k := by
  refine Nat.lt_pow_two_of_testBit _ fun i hi => ?_
  rw [testBit_setField, if_neg (by omega)]
  exact Nat.testBit_lt_two_pow (Nat.lt_of_lt_of_le hv (Nat.pow_le_pow_right Nat.two_pos hi))

theorem toNat_ofNat_setField {v lo n x k : Nat} (hv : v < 2 ^ k) (hfits : lo + n ≤ k) :
    (BitVec.ofNat k (setField v lo n x)).toNat = setField v lo n x := by
  rw [BitVec.toNat_ofNat, Nat.mod_eq_of_lt (setField_lt hv hfits)]

theorem elem_eq_field (w v i : Nat) : elem w v i = field v (w * i) w := rfl

theorem elem_setField {w v x i j : Nat} : elem w (setField v (w * i) w x) j = if i = j then x % 2 ^ w else elem w v j := by
  by_cases h : i = j
  · subst h; rw [if_pos rfl, elem_eq_field, field_setField_same]
  · rw [if_neg h, elem_eq_field, elem_eq_field]
    refine field_setField_other ?_
    rcases Nat.lt_or_gt_of_ne h with h | h
    · exact .inr (Nat.mul_succ w i ▸ Nat.mul_le_mul_left w h)
    · exact .inl (Nat.mul_succ w j ▸ Nat.mul_le_mul_left w h)

theorem elem_zero (w i : Nat) : elem w 0 i = 0 := by rw [elem, Nat.zero_div, Nat.zero_mod]

theorem getLsbD_setOne {n i j : Nat} (b : BitVec n) (hj : j < n) : (setOne b i).getLsbD j = (b.getLsbD j || decide (i = j)) := by
  rw [setOne, BitVec.getLsbD_or, BitVec.getLsbD_ofNat, Nat.testBit_two_pow, decide_eq_true hj, Bool.true_and]

/-! ### Elements of `acc` -/

/-- What element (r, j) of `acc` counts as: 0 where its row is not valid (R238). -/
def Core.accVal (c : Core) (r j : Nat) : Nat := if c.accv.getLsbD r then c.accGet r j else 0

theorem Core.accGet_of_valid {c : Core} {r : Nat} (h : c.accv.getLsbD r = true) (j : Nat) : c.accGet r j = c.accVal r j :=
  (if_pos h).symm

theorem Core.accSet_valid (c : Core) (r n v : Nat) {r' : Nat} (hr' : r' < 128) :
    (c.accSet r n v).accv.getLsbD r' = (c.accv.getLsbD r' || decide (r = r')) := getLsbD_setOne c.accv hr'

theorem Core.accGet_accSet_same (c : Core) (r v : Nat) {n : Nat} (hn : n < 128) (j : Nat) :
    (c.accSet r n v).accGet r j = if n = j then v % 2 ^ 32 else c.accVal r j := by
  have hfits : 32 * n + 32 ≤ 4096 := by omega
  have hrow : (if c.accv.getLsbD r then (SMap.get c.acc r 0).toNat else 0) < 2 ^ 4096 := by
    split <;> omega
  rw [Core.accGet, Core.accSet, SMap.get_put_same, toNat_ofNat_setField hrow hfits, elem_setField,
    Core.accVal, Core.accGet]
  split
  · rfl
  · split
    · rfl
    · exact elem_zero ..

theorem Core.accGet_accSet_other {c : Core} {r n v r' j : Nat} (h : r' ≠ r) : (c.accSet r n v).accGet r' j = c.accGet r' j := by
  rw [Core.accGet, Core.accSet, SMap.get_put_other h, Core.accGet]

theorem Core.accVal_accSet (c : Core) (r v : Nat) {n r' : Nat} (hn : n < 128) (hr' : r' < 128) (j : Nat) :
    (c.accSet r n v).accVal r' j = if r = r' ∧ n = j then v % 2 ^ 32 else c.accVal r' j := by
  rw [Core.accVal, Core.accSet_valid c r n v hr']
  by_cases h : r = r'
  · subst h; simp [Core.accGet_accSet_same c r v hn]
  · simp [h, Core.accGet_accSet_other (Ne.symm h), Core.accVal]

/-! ### Bits of a scratchpad -/

theorem Core.spLine_lt (c : Core) (l : Nat) : c.spLine l < 2 ^ 512 := by
  rw [Core.spLine]; omega

/-- A line is read of the scratchpad alone. -/
theorem Core.spLine_congr {c c' : Core} (h : c.sp = c'.sp) (l : Nat) : c.spLine l = c'.spLine l := by rw [Core.spLine, Core.spLine, h]

theorem Core.spLine_setSp (c : Core) (l v l' : Nat) : (c.setSp l v).spLine l' = if l = l' then v % 2 ^ 512 else c.spLine l' := by
  rw [Core.spLine, Core.setSp, SMap.get_put]
  split
  · refine Nat.eq_of_testBit_eq fun i => ?_
    rw [BitVec.testBit_toNat, BitVec.getLsbD_ofNat, Nat.testBit_mod_two_pow v 512 i]
  · rfl

/-- Bit `k` of a core's scratchpad. -/
def Core.spBit (c : Core) (k : Nat) : Bool := (c.spLine (k / 512)).testBit (k % 512)

/-- Two lines as one word. -/
def Core.spPair (c : Core) (l : Nat) : Nat := c.spLine l + 2 ^ 512 * c.spLine (l + 1)

theorem Core.testBit_spPair (c : Core) (l i : Nat) (h : i < 1024) : (c.spPair l).testBit i = c.spBit (512 * l + i) := by
  have hsum : c.spPair l = 2 ^ 512 * c.spLine (l + 1) + c.spLine l := by unfold Core.spPair; omega
  rw [hsum, Nat.testBit_two_pow_mul_add (c.spLine (l + 1)) (c.spLine_lt l), Core.spBit]
  by_cases hi : i < 512
  · rw [if_pos hi, show (512 * l + i) / 512 = l by omega, show (512 * l + i) % 512 = i by omega]
  · rw [if_neg hi, show (512 * l + i) / 512 = l + 1 by omega, show (512 * l + i) % 512 = i - 512 by omega]

theorem Core.testBit_spBits (c : Core) {off len : Nat} (h : off % 512 + len ≤ 1024) (i : Nat) :
    (c.spBits off len).testBit i = (decide (i < len) && c.spBit (off + i)) := by
  change (c.spPair (off / 512) / 2 ^ (off % 512) % 2 ^ len).testBit i = _
  rw [Nat.testBit_mod_two_pow, Nat.testBit_div_two_pow]
  by_cases hi : i < len
  · rw [Core.testBit_spPair c _ _ (by omega), show 512 * (off / 512) + (i + off % 512) = off + i by omega]
  · rw [decide_eq_false hi, Bool.false_and, Bool.false_and]

/-- The two lines of a run with it written. -/
def Core.spPairSet (c : Core) (off len v : Nat) : Nat := setField (c.spPair (off / 512)) (off % 512) len v

theorem Core.testBit_spPairSet (c : Core) (off len v : Nat) {k : Nat} (hlo : 512 * (off / 512) ≤ k)
    (hhi : k < 512 * (off / 512) + 1024) : (c.spPairSet off len v).testBit (k - 512 * (off / 512)) =
      if off ≤ k ∧ k < off + len then v.testBit (k - off) else c.spBit k := by
  have hrange : (off % 512 ≤ k - 512 * (off / 512) ∧ k - 512 * (off / 512) < off % 512 + len) ↔
      (off ≤ k ∧ k < off + len) := by omega
  rw [Core.spPairSet, testBit_setField, Core.testBit_spPair c _ _ (by omega),
    show 512 * (off / 512) + (k - 512 * (off / 512)) = k by omega, show k - 512 * (off / 512) - off % 512 = k - off by omega]
  simp only [hrange]

theorem Core.spLine_setSpBits (c : Core) {off len : Nat} (v l : Nat) (hlen : len ≠ 0) : (c.setSpBits off len v).spLine l =
    if l = off / 512 then c.spPairSet off len v % 2 ^ 512
    else if l = off / 512 + 1 ∧ 512 < off % 512 + len then c.spPairSet off len v / 2 ^ 512 % 2 ^ 512
    else c.spLine l := by
  have hfirst : (c.setSp (off / 512) (c.spPairSet off len v % 2 ^ 512)).spLine l =
      if l = off / 512 then c.spPairSet off len v % 2 ^ 512 else c.spLine l := by
    rw [Core.spLine_setSp, Nat.mod_mod]
    simp only [eq_comm]
  unfold Core.setSpBits
  rw [if_neg hlen]
  extract_lets both c1
  have hboth : both = c.spPairSet off len v := by simp only [both, Core.spPairSet, Core.spPair]
  rw [← hboth] at hfirst ⊢
  by_cases hcross : off % 512 + len ≤ 512
  · rw [if_pos hcross, if_neg (c := l = off / 512 + 1 ∧ 512 < off % 512 + len) (by omega)]
    exact (Core.spLine_congr rfl l).trans hfirst
  · rw [if_neg hcross, Core.spLine_setSp]
    by_cases hl : l = off / 512 + 1
    · rw [if_pos hl.symm, if_neg (by omega), if_pos ⟨hl, by omega⟩]
    · rw [if_neg (Ne.symm hl), if_neg (c := l = off / 512 + 1 ∧ 512 < off % 512 + len) fun h => hl h.1]
      exact (Core.spLine_congr rfl l).trans hfirst

/-- A run written reads as written, and every other bit as before. -/
theorem Core.spBit_setSpBits (c : Core) {off len : Nat} (v : Nat) (h : off % 512 + len ≤ 1024) (k : Nat) :
    (c.setSpBits off len v).spBit k = if off ≤ k ∧ k < off + len then v.testBit (k - off) else c.spBit k := by
  by_cases hlen : len = 0
  · rw [Core.setSpBits, if_pos hlen, if_neg (by omega)]
  have hmod : k % 512 < 512 := Nat.mod_lt _ (by decide)
  rw [Core.spBit, Core.spLine_setSpBits c v _ hlen]
  by_cases hfirst : k / 512 = off / 512
  · rw [if_pos hfirst, Nat.testBit_mod_two_pow _ 512, decide_eq_true hmod, Bool.true_and,
      show k % 512 = k - 512 * (off / 512) by omega, Core.testBit_spPairSet c off len v (by omega) (by omega)]
  rw [if_neg hfirst]
  by_cases hsecond : k / 512 = off / 512 + 1 ∧ 512 < off % 512 + len
  · rw [if_pos hsecond, Nat.testBit_mod_two_pow _ 512, decide_eq_true hmod, Bool.true_and, Nat.testBit_div_two_pow (n := 512),
      show k % 512 + 512 = k - 512 * (off / 512) by omega, Core.testBit_spPairSet c off len v (by omega) (by omega)]
  · rw [if_neg hsecond, if_neg (by omega), Core.spBit]

/-! ### Elements of tiles -/

/-- A plain type's width divides a line (R68). -/
theorem ElemType.width_of_isPlain {ty : ElemType} (h : ty.isPlain = true) : 0 < ty.width ∧ ty.width ≤ 512 ∧ ty.width ∣ 512 := by
  cases ty with
  | mxf8 | mxf6 | mxf4 | mxi8 | bp2 | bp3 | bp4 | bp5 | bp6 | bp7 | bp8 => cases h
  | _ => decide

/-- An element is read of the scratchpad alone. -/
theorem Core.tileElem_congr {c c' : Core} (h : c.sp = c'.sp) (t : Tile) (r j : Nat) : c.tileElem t r j = c'.tileElem t r j := by
  simp only [Core.tileElem, Core.spBits, Core.spLine_congr h]

/-- The rows of a tile do not overlap (R274). -/
def Tile.rowsApart (t : Tile) : Prop := t.cols * t.ety.width ≤ 512 * t.pitch

theorem Core.tileElem_of_inside {c : Core} {t : Tile} {r j : Nat} (hr : r < t.rows) (hj : j < t.cols) :
    c.tileElem t r j = c.spBits (t.elemAt r j) t.ety.width :=
  if_neg (by simp [hr, hj])

theorem Core.setTileElem_of_inside {c : Core} {t : Tile} {r j v : Nat} (hr : r < t.rows) (hj : j < t.cols) :
    c.setTileElem t r j v = c.setSpBits (t.elemAt r j) t.ety.width v :=
  if_neg (by simp [hr, hj])

theorem Core.setTileElem_of_outside {c : Core} {t : Tile} {r j v : Nat} (h : ¬ (r < t.rows ∧ j < t.cols)) :
    c.setTileElem t r j v = c :=
  if_pos (by rw [Bool.or_eq_true, decide_eq_true_eq, decide_eq_true_eq]; omega)

/-- Elements of one tile lie apart. -/
theorem Tile.elemAt_apart {t : Tile} (h : t.rowsApart) {r j r' j' : Nat} (hj : j < t.cols) (hj' : j' < t.cols)
    (hne : (r', j') ≠ (r, j)) : t.elemAt r' j' + t.ety.width ≤ t.elemAt r j ∨ t.elemAt r j + t.ety.width ≤ t.elemAt r' j' := by
  have hcol {a b : Nat} (hab : a < b) : a * t.ety.width + t.ety.width ≤ b * t.ety.width :=
    Nat.succ_mul a _ ▸ Nat.mul_le_mul_right _ hab
  have hrow {a b : Nat} (hab : a < b) : a * t.pitch + t.pitch ≤ b * t.pitch := Nat.succ_mul a _ ▸ Nat.mul_le_mul_right _ hab
  have hend := hcol hj
  have hend' := hcol hj'
  unfold Tile.rowsApart at h
  unfold Tile.elemAt Tile.rowAt
  rcases Nat.lt_trichotomy r r' with hr | rfl | hr
  · have := hrow hr; omega
  · rcases Nat.lt_trichotomy j j' with hj | rfl | hj
    · have := hcol hj; omega
    · exact absurd rfl hne
    · have := hcol hj; omega
  · have := hrow hr; omega

theorem Core.tileElem_setTileElem_same {c : Core} {t : Tile} {r j v : Nat} (hw : t.ety.width ≤ 512) (hr : r < t.rows)
    (hj : j < t.cols) : (c.setTileElem t r j v).tileElem t r j = v % 2 ^ t.ety.width := by
  have hfits : t.elemAt r j % 512 + t.ety.width ≤ 1024 := by omega
  rw [Core.tileElem_of_inside hr hj, Core.setTileElem_of_inside hr hj]
  refine Nat.eq_of_testBit_eq fun i => ?_
  rw [Core.testBit_spBits _ hfits, Core.spBit_setSpBits c v hfits, Nat.testBit_mod_two_pow]
  by_cases hi : i < t.ety.width <;> simp [hi]

theorem Core.tileElem_setTileElem_other {c : Core} {t : Tile} {r j v r' j' : Nat} (hw : t.ety.width ≤ 512) (h : t.rowsApart)
    (hr' : r' < t.rows) (hj' : j' < t.cols) (hne : (r', j') ≠ (r, j)) :
    (c.setTileElem t r j v).tileElem t r' j' = c.tileElem t r' j' := by
  by_cases hin : r < t.rows ∧ j < t.cols
  · obtain ⟨hr, hj⟩ := hin
    have hfits : t.elemAt r j % 512 + t.ety.width ≤ 1024 := by omega
    have hfits' : t.elemAt r' j' % 512 + t.ety.width ≤ 1024 := by omega
    have hapart := Tile.elemAt_apart h hj hj' hne
    rw [Core.tileElem_of_inside hr' hj', Core.tileElem_of_inside hr' hj', Core.setTileElem_of_inside hr hj]
    refine Nat.eq_of_testBit_eq fun i => ?_
    rw [Core.testBit_spBits _ hfits', Core.testBit_spBits _ hfits', Core.spBit_setSpBits c v hfits]
    by_cases hi : i < t.ety.width
    · rw [if_neg (by omega)]
    · rw [decide_eq_false hi, Bool.false_and, Bool.false_and]
  · rw [Core.setTileElem_of_outside hin]

@[simp] theorem Core.setSpBits_acc (c : Core) (off len v : Nat) : (c.setSpBits off len v).acc = c.acc := by
  unfold Core.setSpBits; repeat' split
  all_goals rfl
@[simp] theorem Core.setSpBits_seqr (c : Core) (off len v : Nat) : (c.setSpBits off len v).seqr = c.seqr := by
  unfold Core.setSpBits; repeat' split
  all_goals rfl
@[simp] theorem Core.setTileElem_acc (c : Core) (t : Tile) (r j v : Nat) : (c.setTileElem t r j v).acc = c.acc := by
  unfold Core.setTileElem; split <;> simp
@[simp] theorem Core.setTileElem_seqr (c : Core) (t : Tile) (r j v : Nat) : (c.setTileElem t r j v).seqr = c.seqr := by
  unfold Core.setTileElem; split <;> simp

/-! ### Lines that race (R246) -/

theorem raced_eq_or {α : Type} (key : Nat) (old new : α) : raced key old new = new ∨ raced key old new = old := by
  unfold raced; split
  · exact .inr rfl
  · exact .inl rfl

theorem racedLine_lt {w : Nat} (hw : w ∣ 512) (key old new : Nat) : racedLine key w old new < 2 ^ 512 := by
  refine Nat.lt_of_lt_of_eq (ofElems_lt ..) ?_
  rw [List.length_map, List.length_range, Nat.mul_div_cancel' hw]

/-- An element of a line that races is that of the one line or of the other. -/
theorem elem_racedLine {key w old new e : Nat} (he : e < 512 / w) :
    elem w (racedLine key w old new) e = raced (key + e) (elem w old e) (elem w new e) := by
  rw [racedLine, elem_ofElems w (by simpa using he), List.getElem_map, List.getElem_range]
  rcases raced_eq_or (key + e) (elem w old e) (elem w new e) with h | h <;> rw [h] <;> exact Nat.mod_mod ..

theorem spLine_raceLines {key w : Nat} (lines : List Nat) (old new : Core) (l : Nat) : (raceLines key w lines old new).spLine l =
    if l ∈ lines ∧ old.spLine l ≠ new.spLine l then racedLine (key + 512 * l) w (old.spLine l) (new.spLine l) % 2 ^ 512
    else new.spLine l := by
  suffices hfold : ∀ c : Core, (lines.foldl (fun c k => if old.spLine k = new.spLine k then c
      else c.setSp k (racedLine (key + 512 * k) w (old.spLine k) (new.spLine k))) c).spLine l =
        if l ∈ lines ∧ old.spLine l ≠ new.spLine l then racedLine (key + 512 * l) w (old.spLine l) (new.spLine l) % 2 ^ 512
        else c.spLine l from hfold new
  induction lines with
  | nil => exact fun c => (if_neg (by simp)).symm
  | cons k lines ih =>
    intro c
    rw [List.foldl_cons, ih]
    by_cases hkl : k = l
    · subst hkl
      by_cases heq : old.spLine k = new.spLine k
      · rw [if_pos heq, if_neg fun h => h.2 heq, if_neg fun h => h.2 heq]
      · rw [if_neg heq, Core.spLine_setSp, if_pos rfl, ite_self, if_pos ⟨List.mem_cons_self, heq⟩]
    · have hkeep : (if old.spLine k = new.spLine k then c
          else c.setSp k (racedLine (key + 512 * k) w (old.spLine k) (new.spLine k))).spLine l = c.spLine l := by
        split
        · rfl
        · rw [Core.spLine_setSp, if_neg hkl]
      rw [hkeep]
      simp only [List.mem_cons, Ne.symm hkl, false_or]

@[simp] theorem raceLines_acc (key w : Nat) (lines : List Nat) (old new : Core) : (raceLines key w lines old new).acc = new.acc :=
  List.foldlRecOn (motive := fun (c : Core) => c.acc = new.acc) lines _ rfl fun c hc l _ => by split <;> exact hc
@[simp] theorem raceLines_seqr (key w : Nat) (lines : List Nat) (old new : Core) : (raceLines key w lines old new).seqr = new.seqr :=
  List.foldlRecOn (motive := fun (c : Core) => c.seqr = new.seqr) lines _ rfl fun c hc l _ => by split <;> exact hc

/-- An element of a width that divides a line lies in one line. -/
theorem Core.spBits_eq_elem {c : Core} {w off : Nat} (hpos : 0 < w) (hw : w ∣ 512) (hoff : w ∣ off) :
    c.spBits off w = elem w (c.spLine (off / 512)) (off % 512 / w) ∧ off % 512 / w < 512 / w := by
  obtain ⟨n, hn⟩ := hw
  have hin : w ∣ off % 512 := (Nat.dvd_mod_iff ⟨n, hn⟩).2 hoff
  have hat : w * (off % 512 / w) = off % 512 := Nat.mul_div_cancel' hin
  have hlt : off % 512 / w < 512 / w := by
    rw [hn, Nat.mul_div_cancel_left n hpos, Nat.div_lt_iff_lt_mul hpos, Nat.mul_comm n, ← hn]
    exact Nat.mod_lt _ (by decide)
  have hend : off % 512 + w ≤ 512 := by
    rw [← hat, ← Nat.mul_succ]
    exact Nat.le_trans (Nat.mul_le_mul_left w hlt) (Nat.le_of_eq (Nat.mul_div_cancel' ⟨n, hn⟩))
  refine ⟨Nat.eq_of_testBit_eq fun i => ?_, hlt⟩
  rw [Core.testBit_spBits c (by omega), elem_eq_field, testBit_field, hat, Core.spBit]
  by_cases hi : i < w
  · rw [show (off + i) / 512 = off / 512 by omega, show (off + i) % 512 = off % 512 + i by omega]
  · rw [decide_eq_false hi, Bool.false_and, Bool.false_and]

/-- An element of a tile after a race of lines is the new one; or, where its line raced, the old one. -/
theorem tileElem_raceLines {t : Tile} (hplain : t.ety.isPlain = true) (key : Nat) (lines : List Nat) (old new : Core) {r j : Nat}
    (hr : r < t.rows) (hj : j < t.cols) : (raceLines key t.ety.width lines old new).tileElem t r j = new.tileElem t r j ∨
      (t.elemAt r j / 512 ∈ lines ∧ (raceLines key t.ety.width lines old new).tileElem t r j = old.tileElem t r j) := by
  obtain ⟨hpos, -, hw⟩ := ElemType.width_of_isPlain hplain
  have hoff : t.ety.width ∣ t.elemAt r j := Nat.dvd_add (Nat.dvd_trans hw ⟨_, rfl⟩) ⟨j, Nat.mul_comm ..⟩
  have helem (c : Core) := (Core.spBits_eq_elem (c := c) hpos hw hoff).1
  simp only [Core.tileElem_of_inside hr hj, helem, spLine_raceLines]
  split
  · rename_i hraced
    rw [Nat.mod_eq_of_lt (racedLine_lt hw ..), elem_racedLine (Core.spBits_eq_elem (c := new) hpos hw hoff).2]
    exact (raced_eq_or ..).imp_right fun h => ⟨hraced.1, h⟩
  · exact .inl rfl

/-- The line of an element is among the lines that it touches. -/
theorem Tile.line_mem_elemLines {t : Tile} {r j : Nat} (hpos : 0 < t.ety.width) (hr : r < t.rows) (hj : j < t.cols) :
    t.elemAt r j / 512 ∈ t.elemLines r j 1 := by
  have hlen : (min (j + 1) t.cols - j) * t.ety.width ≠ 0 := Nat.mul_ne_zero (by omega) (Nat.ne_of_gt hpos)
  rw [Tile.elemLines, if_neg (by simp [hr, hj]), bitLines, if_neg hlen]
  exact List.mem_map.2 ⟨0, List.mem_range.2 (Nat.succ_pos _), rfl⟩

/-- A key that is listed has a value. -/
theorem SMap.find_ne_none_of_mem_keys {α : Type} {m : SMap α} {k : Nat} (h : k ∈ SMap.keys m) : SMap.find m k ≠ none := by
  induction m with
  | nil => cases h
  | cons e m ih =>
    obtain ⟨a, v⟩ := e
    by_cases ha : a = k
    · simp [SMap.find, ha]
    · rw [SMap.find, if_neg ha]
      exact ih ((List.mem_cons.1 h).resolve_left (Ne.symm ha))

end Sys2Proof.Machine
end
section
/-! PROOFS. `accz`, `accm`, `drain` and `chk` (R255 to R259): rows zeroed, elements merged and drained one by one, counts that hold. -/

namespace Sys2Proof.Machine

theorem State.myCore_nextWord (s t : State) :
    (s.nextWord t).myCore = { t.myCore with seqr := { t.seqr with upc := s.seqr.upc + 1 } } := State.myCore_setMyCore ..
theorem State.seqr_nextWord (s t : State) : (s.nextWord t).seqr = { t.seqr with upc := s.seqr.upc + 1 } := State.setSeqr_seqr ..
theorem State.seqr_setMyCore (s : State) (c : Core) : (s.setMyCore c).seqr = c.seqr := by rw [State.seqr, State.myCore_setMyCore]
theorem State.myCore_setSeqr (s : State) (q : Sequencer) : (s.setSeqr q).myCore = { s.myCore with seqr := q } :=
  State.myCore_setMyCore ..

/-! ### Rows zeroed (R255) -/

theorem mem_rowRun {a n r : Nat} (hr : r < 128) : r ∈ rowRun a n false ↔ a ≤ r ∧ r < a + n := by
  simp only [rowRun, Bool.false_eq_true, if_false, List.append_nil, List.mem_filter, List.mem_map, List.mem_range, hr, decide_true,
    and_true]
  exact ⟨fun ⟨i, hi, h⟩ => by omega, fun ⟨hle, hlt⟩ => ⟨r - a, by omega, by omega⟩⟩

theorem Core.zeroRows_cons (c : Core) (k : Nat) (rows : List Nat) :
    c.zeroRows (k :: rows) = Core.zeroRows { c with acc := SMap.erase c.acc k, accv := setOne c.accv k } rows := rfl

theorem Core.zeroRows_valid (c : Core) (rows : List Nat) {r : Nat} (hr : r < 128) :
    (c.zeroRows rows).accv.getLsbD r = (c.accv.getLsbD r || decide (r ∈ rows)) := by
  induction rows generalizing c with
  | nil => simp [Core.zeroRows]
  | cons k rows ih =>
    rw [Core.zeroRows_cons, ih, getLsbD_setOne c.accv hr, Bool.or_assoc, ← Bool.decide_or]
    simp only [List.mem_cons, eq_comm]

theorem Core.accGet_zeroRows (c : Core) (rows : List Nat) (r j : Nat) :
    (c.zeroRows rows).accGet r j = if r ∈ rows then 0 else c.accGet r j := by
  induction rows generalizing c with
  | nil => rw [if_neg List.not_mem_nil]; rfl
  | cons k rows ih =>
    rw [Core.zeroRows_cons, ih]
    by_cases hrows : r ∈ rows
    · rw [if_pos hrows, if_pos (List.mem_cons_of_mem k hrows)]
    · have hread : Core.accGet { c with acc := SMap.erase c.acc k, accv := setOne c.accv k } r j =
          if k = r then 0 else c.accGet r j := by
        rw [Core.accGet, SMap.get, SMap.find_erase, Core.accGet, SMap.get]
        split
        · change elem 32 (BitVec.toNat (0#4096)) j = 0
          rw [BitVec.toNat_zero, elem_zero]
        · rfl
      rw [if_neg hrows, hread]
      simp only [List.mem_cons, hrows, or_false, eq_comm]

theorem Core.zeroRows_seqr (c : Core) (rows : List Nat) : (c.zeroRows rows).seqr = c.seqr :=
  List.foldlRecOn (motive := fun (x : Core) => x.seqr = c.seqr) rows _ rfl fun _ h _ _ => h

theorem exec_accz {s : State} {d n : Nat} (hruns : callRuns s = true) (ha : s.seqr.a = some d) : exec (.accz n) s =
    .next (s.nextWord (s.setMyCore (s.myCore.zeroRows (rowRun (dAr d) n false)))) := by
  change execAccz .. = _
  refine microOp_of_next hruns ?_
  simp only [ha]

section Accz
variable (s : State) (d n : Nat)

theorem State.nextWord_zeroRows_seqr : (s.nextWord (s.setMyCore (s.myCore.zeroRows (rowRun (dAr d) n false)))).seqr =
    { s.seqr with upc := s.seqr.upc + 1 } := by
  rw [State.seqr_nextWord, State.seqr_setMyCore, Core.zeroRows_seqr]; rfl

theorem State.nextWord_zeroRows_valid {r : Nat} (hr : r < 128) :
    (s.nextWord (s.setMyCore (s.myCore.zeroRows (rowRun (dAr d) n false)))).myCore.accv.getLsbD r =
      (s.myCore.accv.getLsbD r || decide (dAr d ≤ r ∧ r < dAr d + n)) := by
  rw [State.myCore_nextWord, State.myCore_setMyCore, ← decide_eq_decide.2 (mem_rowRun hr), ← Core.zeroRows_valid _ _ hr]

theorem State.nextWord_accGet_zeroRows {r : Nat} (hr : r < 128) (j : Nat) :
    (s.nextWord (s.setMyCore (s.myCore.zeroRows (rowRun (dAr d) n false)))).myCore.accGet r j =
      if dAr d ≤ r ∧ r < dAr d + n then 0 else s.myCore.accGet r j := by
  rw [State.myCore_nextWord, State.myCore_setMyCore]
  refine (Core.accGet_zeroRows ..).trans ?_
  simp only [mem_rowRun hr]

end Accz

/-! ### Writes of one cell among many -/

/-- The elements of `m` vectors, row after row. -/
def cells (m : Nat) : List (Nat × Nat) := (List.range m).flatMap fun i => (List.range 128).map (Prod.mk i)

theorem mem_cells {m i j : Nat} : (i, j) ∈ cells m ↔ i < m ∧ j < 128 := by
  simp only [cells, List.mem_flatMap, List.mem_map, List.mem_range, Prod.mk.injEq]
  exact ⟨fun ⟨_, hi, _, hj, rfl, rfl⟩ => ⟨hi, hj⟩, fun ⟨hi, hj⟩ => ⟨i, hi, j, hj, rfl, rfl⟩⟩

theorem nodup_cells (m : Nat) : (cells m).Nodup := by
  refine List.pairwise_flatMap.2 ⟨fun i _ => ?_, List.nodup_range.imp fun hne a ha b hb hab => hne ?_⟩
  · exact List.Pairwise.map _ (fun j k hne h => hne (Prod.mk.inj h).2) List.nodup_range
  · obtain ⟨_, -, rfl⟩ := List.mem_map.1 ha
    obtain ⟨_, -, rfl⟩ := List.mem_map.1 hb
    exact (Prod.mk.inj hab).1

theorem foldl_cells {β : Type} (f : β → Nat → Nat → β) (m : Nat) (b : β) :
    (List.range m).foldl (fun b i => (List.range 128).foldl (fun b n => f b i n) b) b =
      (cells m).foldl (fun b a => f b a.1 a.2) b := by
  rw [cells, List.foldl_flatMap]
  simp only [List.foldl_map]

/-- Writes at keys that differ from `a` leave what is read at `a`. -/
theorem foldl_read_other {S K V : Type} {step : S → K → S} {read : S → V} {l : List K} {a : K} (ha : a ∉ l)
    (other : ∀ r, ∀ b ∈ l, b ≠ a → read (step r b) = read r) (r : S) : read (l.foldl step r) = read r :=
  List.foldlRecOn (motive := fun x => read x = read r) l step rfl fun x hx b hb =>
    (other x b hb fun h => ha (h ▸ hb)).trans hx

/-- Of writes at keys that all differ, what is read at `a` is changed by the one at `a` alone; `inv` holds all along. -/
theorem foldl_read_same {S K V : Type} {step : S → K → S} {read : S → V} {new : V → V} {inv : S → Prop} {l : List K} {a : K}
    (hl : l.Nodup) (ha : a ∈ l) (keep : ∀ r b, inv r → inv (step r b)) (same : ∀ r, inv r → read (step r a) = new (read r))
    (other : ∀ r, ∀ b ∈ l, b ≠ a → read (step r b) = read r) {r : S} (hr : inv r) : read (l.foldl step r) = new (read r) := by
  induction l generalizing r with
  | nil => cases ha
  | cons b l ih =>
    obtain ⟨hb, hl⟩ := List.nodup_cons.1 hl
    have other' : ∀ r, ∀ c ∈ l, c ≠ a → read (step r c) = read r := fun r c hc => other r c (List.mem_cons_of_mem b hc)
    rw [List.foldl_cons]
    by_cases hab : b = a
    · subst hab
      rw [foldl_read_other hb other', same r hr]
    · rw [ih hl ((List.mem_cons.1 ha).resolve_left (Ne.symm hab)) other' (keep r b hr), other r b List.mem_cons_self hab]

/-- What the write at `a` makes hold, and every later one keeps, holds in the end. -/
theorem foldl_holds {S K : Type} {step : S → K → S} {p : S → Prop} {l : List K} {a : K} (ha : a ∈ l)
    (keep : ∀ r, ∀ b ∈ l, p r → p (step r b)) (write : ∀ r, p (step r a)) (r : S) : p (l.foldl step r) := by
  obtain ⟨before, after, rfl⟩ := List.append_of_mem ha
  rw [List.foldl_append, List.foldl_cons]
  exact List.foldlRecOn (motive := p) after step (write _) fun r h b hb => keep r b (by simp [hb]) h

/-! ### Merging (R257) -/

theorem mergeOne_of_row {c : Core} {ar mode i : Nat} {fresh : Bool} {beta : SMap BetaElem} {n : Nat} (hmode : mode ≠ 3)
    (hrow : ar + i < 128) : (mergeOne c ar mode fresh beta i n).1 =
      c.accSet (ar + i) n (mergeElem mode fresh (c.accVal (ar + i) n) (SMap.get beta (128 * i + n) {})).1 := by
  simp only [mergeOne, if_neg hmode, if_neg (Nat.not_le.2 hrow)]
  rfl

/-- What `accm` makes of `acc`, with the flags (R257). -/
def State.merged (s : State) (d n : Nat) : Core × Nat :=
  (cells s.seqr.m).foldl (fun r a => ((mergeOne r.1 (dAr d) (n % 4) (bit n 2) s.seqr.beta a.1 a.2).1,
    flOr r.2 (mergeOne r.1 (dAr d) (n % 4) (bit n 2) s.seqr.beta a.1 a.2).2)) (s.myCore, 0)

section Merged
variable {s : State} {d n i j : Nat} (hmode : n % 4 ≤ 2) (hrows : dAr d + s.seqr.m ≤ 128) (hi : i < s.seqr.m) (hj : j < 128)
include hmode hrows hi hj

theorem State.accVal_merged : (s.merged d n).1.accVal (dAr d + i) j =
    (mergeElem (n % 4) (bit n 2) (s.myCore.accVal (dAr d + i) j) (SMap.get s.seqr.beta (128 * i + j) {})).1 % 2 ^ 32 := by
  refine foldl_read_same (read := fun r : Core × Nat => r.1.accVal (dAr d + i) j) (inv := fun _ => True)
    (new := fun v => (mergeElem (n % 4) (bit n 2) v (SMap.get s.seqr.beta (128 * i + j) {})).1 % 2 ^ 32)
    (nodup_cells s.seqr.m) (mem_cells.2 ⟨hi, hj⟩) (fun _ _ h => h) (fun r _ => ?_) (fun r b hb hne => ?_) trivial
  · dsimp only
    rw [mergeOne_of_row (by omega) (by omega), Core.accVal_accSet _ _ _ hj (by omega), if_pos ⟨rfl, rfl⟩]
  · obtain ⟨i', j'⟩ := b
    obtain ⟨hi', hj'⟩ := mem_cells.1 hb
    have hother : ¬ (dAr d + i' = dAr d + i ∧ j' = j) := fun ⟨h, h'⟩ => hne (by rw [Nat.add_left_cancel h, h'])
    dsimp only
    rw [mergeOne_of_row (by omega) (by omega), Core.accVal_accSet _ _ _ hj' (by omega), if_neg hother]

theorem State.merged_valid : (s.merged d n).1.accv.getLsbD (dAr d + i) = true := by
  refine foldl_holds (p := fun r : Core × Nat => r.1.accv.getLsbD (dAr d + i) = true) (mem_cells.2 ⟨hi, hj⟩) (fun r b hb h => ?_)
    (fun r => ?_) _
  · obtain ⟨hi', -⟩ := mem_cells.1 hb
    dsimp only
    rw [mergeOne_of_row (by omega) (by omega), Core.accSet_valid _ _ _ _ (by omega), h, Bool.true_or]
  · dsimp only
    rw [mergeOne_of_row (by omega) (by omega), Core.accSet_valid _ _ _ _ (by omega), decide_eq_true rfl, Bool.or_true]

end Merged

theorem exec_accm {s : State} {d n : Nat} (hruns : callRuns s = true) (ha : s.seqr.a = some d) (hmode : s.seqr.mode = some (n % 4)) :
    exec (.accm n) s = .next (s.nextWord (((s.setMyCore (s.merged d n).1).onCall fun m =>
      { m with flags := flOr m.flags (s.merged d n).2 }).setSeqr { s.seqr with beta := [], mode := none })) := by
  change execAccm .. = _
  refine microOp_of_next hruns ?_
  simp only [ha, hmode, bne_self_eq_false, Bool.false_eq_true, if_false]
  rw [foldl_cells (fun (r : Core × Nat) i n_1 => ((mergeOne r.1 (dAr d) (n % 4) (bit n 2) s.seqr.beta i n_1).1,
    flOr r.2 (mergeOne r.1 (dAr d) (n % 4) (bit n 2) s.seqr.beta i n_1).2))]
  rfl

/-! ### Draining (R258) -/

@[simp] theorem drainClear_seqr (c : Core) (src ar i n : Nat) : (drainClear c src ar i n).seqr = c.seqr := by
  unfold drainClear; split <;> rfl

theorem drainSource_congr {c c' : Core} (h : c.acc = c'.acc) (src ar i n : Nat) :
    drainSource c src ar i n = drainSource c' src ar i n := by
  simp only [drainSource, Core.accGet64, Core.accGet, h]

section Drain
variable (s : State) (ma n : Nat) (t : Tile)

/-- What `drain` computes of an element of `acc` that a core holds, with its flags (R258). -/
def State.drainVal (c : Core) (i j : Nat) : Nat × Nat :=
  drainElem (n % 4) s.seqr.pl (bit n 3) (drainFactors s s.call s.seqr (bit n 2) j) t.ety
    (drainSource c (n % 4) (dAr (s.call.param ma)) i j)

/-- One element drained: written to the tile, and cleared where `drain` asks so. -/
def State.drainOne (r : Core × Nat) (i j : Nat) : Core × Nat :=
  let c := r.1.setTileElem t (dRow (s.call.param ma) + i) (dCol (s.call.param ma) + j) (s.drainVal ma n t r.1 i j).1
  (if bit n 4 then drainClear c (n % 4) (dAr (s.call.param ma)) i j else c, flOr r.2 (s.drainVal ma n t r.1 i j).2)

/-- The core and the flags after all elements are drained. -/
def State.tileDrained : Core × Nat := (cells s.seqr.m).foldl (fun r a => s.drainOne ma n t r a.1 a.2) (s.myCore, 0)

/-- The core after a drain: lines that other agents wrote since the call was issued race (R246). -/
def State.drainCore : Core :=
  raceLines (s.tick * 2 ^ 20) t.ety.width (SMap.keys s.call.touched) s.myCore (s.tileDrained ma n t).1

theorem State.drainOne_seqr (r : Core × Nat) (i j : Nat) : (s.drainOne ma n t r i j).1.seqr = r.1.seqr := by
  unfold State.drainOne; dsimp only; split <;> simp

theorem State.drainCore_seqr : (s.drainCore ma n t).seqr = s.seqr :=
  (raceLines_seqr ..).trans (List.foldlRecOn (motive := fun r : Core × Nat => r.1.seqr = s.seqr) _ _ rfl
    fun _ h _ _ => (s.drainOne_seqr ..).trans h)

section Uncleared
variable {n} (hkeep : bit n 4 = false)
include hkeep

theorem State.drainOne_core (r : Core × Nat) (i j : Nat) : (s.drainOne ma n t r i j).1 =
    r.1.setTileElem t (dRow (s.call.param ma) + i) (dCol (s.call.param ma) + j) (s.drainVal ma n t r.1 i j).1 :=
  if_neg (ne_true_of_eq_false hkeep)

theorem State.drainOne_acc (r : Core × Nat) (i j : Nat) : (s.drainOne ma n t r i j).1.acc = r.1.acc := by
  rw [State.drainOne_core _ _ _ hkeep, Core.setTileElem_acc]

theorem State.drainCore_acc : (s.drainCore ma n t).acc = s.myCore.acc :=
  (raceLines_acc ..).trans (List.foldlRecOn (motive := fun r : Core × Nat => r.1.acc = s.myCore.acc) _ _ rfl
    fun _ h _ _ => (s.drainOne_acc ma t hkeep ..).trans h)

variable {i j : Nat} (hplain : t.ety.isPlain = true) (hapart : t.rowsApart) (hi : i < s.seqr.m) (hj : j < 128)
  (hrow : dRow (s.call.param ma) + i < t.rows) (hcol : dCol (s.call.param ma) + j < t.cols)
include hplain hapart hi hj hrow hcol

/-- Each element drained is what is computed of its element of `acc`, which the drain leaves. -/
theorem State.tileElem_tileDrained : (s.tileDrained ma n t).1.tileElem t (dRow (s.call.param ma) + i) (dCol (s.call.param ma) + j) =
    (s.drainVal ma n t s.myCore i j).1 % 2 ^ t.ety.width := by
  obtain ⟨-, hw, -⟩ := ElemType.width_of_isPlain hplain
  refine foldl_read_same (read := fun r : Core × Nat => r.1.tileElem t (dRow (s.call.param ma) + i) (dCol (s.call.param ma) + j))
    (inv := fun r => r.1.acc = s.myCore.acc) (new := fun _ => (s.drainVal ma n t s.myCore i j).1 % 2 ^ t.ety.width)
    (nodup_cells s.seqr.m) (mem_cells.2 ⟨hi, hj⟩) (fun r b h => (s.drainOne_acc ma t hkeep ..).trans h) (fun r h => ?_)
    (fun r b _ hne => ?_) rfl
  · dsimp only
    rw [State.drainOne_core _ _ _ hkeep, Core.tileElem_setTileElem_same hw hrow hcol, State.drainVal, State.drainVal,
      drainSource_congr h]
  · have hother : (dRow (s.call.param ma) + i, dCol (s.call.param ma) + j) ≠
        (dRow (s.call.param ma) + b.1, dCol (s.call.param ma) + b.2) :=
      fun h => hne (Prod.ext (Nat.add_left_cancel (Prod.mk.inj h).1).symm (Nat.add_left_cancel (Prod.mk.inj h).2).symm)
    rw [State.drainOne_core _ _ _ hkeep, Core.tileElem_setTileElem_other hw hapart hrow hcol hother]

/-- After the race an element is the drained one; or the old one, where another agent wrote its line since the call was issued
(R246). -/
theorem State.tileElem_drainCore :
    (s.drainCore ma n t).tileElem t (dRow (s.call.param ma) + i) (dCol (s.call.param ma) + j) =
      (s.drainVal ma n t s.myCore i j).1 % 2 ^ t.ety.width ∨
    ((∃ l ∈ t.elemLines (dRow (s.call.param ma) + i) (dCol (s.call.param ma) + j) 1, SMap.find s.call.touched l ≠ none) ∧
      (s.drainCore ma n t).tileElem t (dRow (s.call.param ma) + i) (dCol (s.call.param ma) + j) =
        s.myCore.tileElem t (dRow (s.call.param ma) + i) (dCol (s.call.param ma) + j)) := by
  obtain ⟨hpos, -, -⟩ := ElemType.width_of_isPlain hplain
  rcases tileElem_raceLines hplain (s.tick * 2 ^ 20) (SMap.keys s.call.touched) s.myCore (s.tileDrained ma n t).1 hrow hcol
    with h | ⟨hl, h⟩
  · exact .inl (h.trans (s.tileElem_tileDrained ma t hkeep hplain hapart hi hj hrow hcol))
  · exact .inr ⟨⟨_, Tile.line_mem_elemLines hpos hrow hcol, SMap.find_ne_none_of_mem_keys hl⟩, h⟩

end Uncleared

end Drain

/-- What a drain notes in its call: its flags, and the lines that it wrote as they were before (R246, R255). -/
def State.drainNotes (s : State) (ma n : Nat) (t : Tile) (m : MCall) : MCall :=
  let lines := (List.range s.seqr.m).flatMap fun i => t.elemLines (dRow (s.call.param ma) + i) (dCol (s.call.param ma)) 128
  { m with flags := flOr m.flags (s.tileDrained ma n t).2, wrote := noteLines s.myCore (fun v => (t.ety.width, v)) lines m.wrote,
           unsynced := noteLines s.myCore id lines m.unsynced }

theorem exec_drain {s : State} {ma n d : Nat} {t : Tile} (hruns : callRuns s = true) (ha : s.seqr.a = some d)
    (htile : descTile s (s.call.param ma) .loc = some t) (hsp : dMram (s.call.param ma) = false) (hplain : t.ety.isPlain = true)
    (hrow : dRow (s.call.param ma) < t.rows) (hcol : dCol (s.call.param ma) < t.cols)
    (hacc : dAr (s.call.param ma) + s.seqr.m ≤ (if n % 4 = 2 then 64 else 128)) :
    exec (.drain ma n) s = .next (s.nextWord ((s.setMyCore (s.drainCore ma n t)).onCall (s.drainNotes ma n t))) := by
  change execDrain .. = _
  refine microOp_of_next hruns ?_
  simp only [ha, htile, hsp, hplain, Nat.not_le.2 hrow, Nat.not_le.2 hcol, Nat.not_lt.2 hacc, Bool.not_true, decide_false,
    Bool.or_self, Bool.false_eq_true, if_false]
  unfold State.drainCore State.drainNotes State.tileDrained
  rw [← foldl_cells (s.drainOne ma n t)]
  rfl

/-! ### Checksums (R259) -/

section Chk
variable {s : State} {o : Nat} (hruns : callRuns s = true) (hb : s.seqr.b = some o)

section Stream
variable {ty : ElemType} (hmram : dMram o = true) (hty : dMramTy o = some ty)
include hruns hb hmram hty

theorem exec_chk_of_block {bs : List Byte} (h : readBlock s ty (dMramAddr o + s.seqr.kappa * blockBytes ty) = .bytes bs) :
    exec .chk s = .next (s.setSeqr { s.seqr with upc := s.seqr.upc + 1 }) := by
  change execChk .. = _
  refine microOp_of_same hruns ?_
  simp only [hb, hmram, hty, h, if_true]

theorem exec_chk_of_block_wait {u : State} (h : readBlock s ty (dMramAddr o + s.seqr.kappa * blockBytes ty) = .wait u) :
    exec .chk s = .next u := by
  change execChk .. = _
  refine microOp_of_stay hruns ?_
  simp only [hb, hmram, hty, h, if_true]

theorem exec_chk_of_block_fault {x i : Nat} (h : readBlock s ty (dMramAddr o + s.seqr.kappa * blockBytes ty) = .fault x i) :
    exec .chk s = .next (s.callFaulted x i) := by
  change execChk .. = _
  refine microOp_of_fault hruns ?_
  simp only [hb, hmram, hty, h, if_true]

end Stream

/-- Does a count held with a tile differ from its planes' count, in the rows of the K-block of `chk` (R124, R259)? -/
def State.countsDiffer (s : State) (o : Nat) (t : Tile) : Bool :=
  (List.range 64).any fun i =>
    let k := dRow o + 64 * s.seqr.kappa + i
    decide (k < t.rows) && (readStrips t.ety s.seqr.pl s.seqr.lk).any fun st =>
      s.myCore.planeCount t k st.1 != SMap.get s.myCore.counts (stripKey t k st.1) 0

theorem State.countsDiffer_eq_false_iff {t : Tile} : s.countsDiffer o t = false ↔
    ∀ i < 64, 64 * s.seqr.kappa + dRow o + i < t.rows → ∀ st ∈ readStrips t.ety s.seqr.pl s.seqr.lk,
      s.myCore.planeCount t (64 * s.seqr.kappa + dRow o + i) st.1 =
        SMap.get s.myCore.counts (stripKey t (64 * s.seqr.kappa + dRow o + i) st.1) 0 := by
  simp only [State.countsDiffer, Nat.add_comm (dRow o), List.any_eq_false, List.mem_range, Bool.and_eq_true, decide_eq_true_eq,
    List.any_eq_true, bne_iff_ne, ne_eq, not_and, not_exists, Classical.not_not]

variable {t : Tile} (hstack : dMram o = false) (htile : SMap.find s.myCluster.tiles (dH o) = some t)
include hruns hb hstack htile

theorem exec_chk_of_counts (h : s.countsDiffer o t = false) :
    exec .chk s = .next (s.setSeqr { s.seqr with upc := s.seqr.upc + 1 }) := by
  change execChk .. = _
  refine microOp_of_same hruns ?_
  simp only [State.countsDiffer] at h
  simp only [hb, hstack, htile, h, Bool.false_eq_true, if_false]

/-- A count that differs poisons the tile and ends the call (R259). -/
theorem exec_chk_of_difference (h : s.countsDiffer o t = true) : exec .chk s =
    .next ((s.setMyCluster { s.myCluster with tiles := SMap.insert s.myCluster.tiles (dH o) { t with poisoned := true } }).callFaulted
      cPOISON (2 ^ 63 + dH o)) := by
  change execChk .. = _
  refine microOp_of_fault hruns ?_
  simp only [State.countsDiffer] at h
  simp only [hb, hstack, htile, h, Bool.false_eq_true, if_false, if_true]

end Chk

/-- Settles O22: each micro-operation by what it writes, element by element. -/
theorem microAcc : Obligations.MicroAcc := by
  unfold Obligations.MicroAcc
  refine ⟨fun s ma n d o t hruns ha => ?_, fun s ma n i j t hruns ha => ?_⟩
  · intro q m c k held block
    refine ⟨?_, fun hmode => ?_, fun htile hsp hplain hrow hcol hacc => ?_, fun hb hmram ty hty => ?_,
      fun hb hstack htile hheld => ?_, fun hb hstack htile hheld => ?_⟩
    · refine ⟨_, exec_accz hruns ha, State.nextWord_zeroRows_seqr .., fun r hr => ?_⟩
      simp only [State.nextWord_zeroRows_valid _ _ _ hr, State.nextWord_accGet_zeroRows _ _ _ hr]
      exact ⟨fun hin => ⟨by rw [decide_eq_true hin, Bool.or_true], fun j => if_pos hin⟩,
        fun hout => ⟨by rw [decide_eq_false hout, Bool.or_false], fun j => if_neg hout⟩⟩
    · refine ⟨_, exec_accm hruns ha hmode, ?_, fun hlow _ hrows i hi j hj => ?_⟩
      · rw [State.seqr_nextWord, State.setSeqr_seqr]
      · have hvalid := State.merged_valid (d := d) hlow hrows hi hj
        rw [State.myCore_nextWord, State.myCore_setSeqr, State.onCall_myCore, State.myCore_setMyCore]
        exact ⟨hvalid, (Core.accGet_of_valid hvalid j).trans (State.accVal_merged hlow hrows hi hj)⟩
    · refine ⟨_, exec_drain hruns ha htile hsp hplain hrow hcol hacc, ?_, rfl, fun hkeep => ?_⟩
      · rw [State.seqr_nextWord, State.onCall_seqr, State.seqr_setMyCore, State.drainCore_seqr]
      · rw [State.myCore_nextWord, State.onCall_myCore, State.myCore_setMyCore]
        exact s.drainCore_acc ma t hkeep
    · refine ⟨fun bs => exec_chk_of_block hruns hb hmram hty, fun u => exec_chk_of_block_wait hruns hb hmram hty, fun x i h => ?_⟩
      exact ⟨_, exec_chk_of_block_fault hruns hb hmram hty h, by rw [State.callFaulted_seqr], rfl⟩
    · exact exec_chk_of_counts hruns hb hstack htile (State.countsDiffer_eq_false_iff.2 hheld)
    · have hdiffer := eq_true_of_ne_false (mt State.countsDiffer_eq_false_iff.1 hheld)
      refine ⟨_, exec_chk_of_difference hruns hb hstack htile hdiffer, by rw [State.callFaulted_seqr], ?_⟩
      rw [State.myCluster_callFaulted, State.myCluster_setMyCluster, SMap.find_insert_same]
  · intro q d apart htile hsp hplain hacc hapart hi hj hrow hcol hkeep
    obtain ⟨da, ha⟩ := Option.ne_none_iff_exists'.1 ha
    refine ⟨_, exec_drain hruns ha htile hsp hplain (Nat.lt_of_le_of_lt (Nat.le_add_right ..) hrow)
      (Nat.lt_of_le_of_lt (Nat.le_add_right ..) hcol) hacc, ?_⟩
    rw [State.myCore_nextWord, State.onCall_myCore, State.myCore_setMyCore]
    rw [Core.tileElem_congr (c' := s.drainCore ma n t)]
    · exact (s.tileElem_drainCore ma t hkeep hplain hapart hi hj hrow hcol).imp_right fun ⟨⟨l, hl, hwritten⟩, h⟩ =>
        ⟨fun hall => hwritten (hall l hl), h⟩
    · rfl

end Sys2Proof.Machine
end
section
/-! PROOFS. Global loads and atomics (R58, R287 to R296): the checks on an address in their order, and the forms whose checks pass. -/

namespace Sys2Proof.Machine

/-! ### Checks -/

theorem lgWait_eq_none_iff {s : State} {named : List Nat} : lgWait s named = none ↔ s.lanesOn named = true := by
  refine ⟨fun h => ?_, lgWait_none⟩
  unfold lgWait at h
  split at h
  · cases h
  · rw [Option.map_eq_none_iff, List.find?_eq_none] at h
    exact List.all_eq_true.2 fun g hg => by simpa using h g hg

@[simp] theorem firstStop_nil (k : Unit → Res) : firstStop [] k = k () := rfl
@[simp] theorem firstStop_none (l : List (Option Res)) (k : Unit → Res) : firstStop (none :: l) k = firstStop l k := rfl
@[simp] theorem firstStop_some (r : Res) (l : List (Option Res)) (k : Unit → Res) : firstStop (some r :: l) k = r := rfl

theorem State.rangeWaits_eq_false_iff {s : State} {sid a n : Nat} : s.rangeWaits sid a n = false ↔ s.waitAt sid a n = none := by
  rw [State.rangeWaits, Option.isSome_eq_false_iff, Option.isNone_iff_eq_none]

/-- The checks on one address, in their order (R292); that the lanegroups come last is the model's reading (log 14, log 17). -/
theorem globalCheck_one (s : State) (a len w : Nat) (write : Bool) (named : List Nat) : globalCheck s [a] [a] len w write named =
    if 2 ^ 52 ≤ a then some (.trap cPERM a)
    else if a % (w / 8) ≠ 0 then some (.trap cALIGN a)
    else ((s.waitAt s.cur a len).map fun va => .stall (.translation va)).or
      (((s.deniedAt s.cur a len write).map (.trap cPERM)).or (lgWait s named)) := by
  unfold globalCheck
  by_cases hwide : 2 ^ 52 ≤ a
  · simp [-Nat.reducePow, hwide]
  by_cases halign : a % (w / 8) = 0
  · cases hwait : s.waitAt s.cur a len <;> cases hdenied : s.deniedAt s.cur a len write <;>
      simp [-Nat.reducePow, hwide, halign, hwait, hdenied]
  · simp [-Nat.reducePow, hwide, halign]

theorem globalCheck_one_eq_none_iff {s : State} {a len w : Nat} {write : Bool} {named : List Nat} :
    globalCheck s [a] [a] len w write named = none ↔ a < 2 ^ 52 ∧ a % (w / 8) = 0 ∧ s.lanesOn named = true ∧
      s.rangeWaits s.cur a len = false ∧ s.deniedAt s.cur a len write = none := by
  rw [globalCheck_one, State.rangeWaits_eq_false_iff, ← lgWait_eq_none_iff]
  by_cases hwide : 2 ^ 52 ≤ a
  · simp [-Nat.reducePow, hwide, Nat.not_lt.2 hwide]
  by_cases halign : a % (w / 8) = 0
  · simp [-Nat.reducePow, hwide, halign, Nat.lt_of_not_le hwide, and_comm, and_assoc]
  · simp [-Nat.reducePow, hwide, halign]

/-- A new entry leaves the x registers (R288). -/
theorem State.xGet_newEntry (s : State) (n addr : Nat) (refetch : List Part) (r : Nat) :
    (s.newEntry n addr refetch).1.me.xGet r = s.me.xGet r := by
  rw [State.newEntry, State.me_setMe]
  rfl

theorem loadRoom_none {s : State} (h : s.me.lq.length < 32) : loadRoom s = none := if_neg (Nat.not_le.2 h)
theorem storeRoom_none {s : State} (h : s.me.storesHeld < 32) : storeRoom s = none := if_neg (Nat.not_le.2 h)

theorem qRoom_of_pattern {s : State} {n : Nat} (h : (s.me.qGet n).kind = .pattern) :
    qRoom s n = some (.trap cHANDLE (0xFF + 2 ^ 8 * n)) := if_pos (beq_iff_eq.2 h)

/-! ### LD-slot forms with their checks passed -/

section Forms
variable {s : State} {d a b c ag lgm off : Nat} {ty : ElemType} {sc : Scope} {ord : Order}

theorem exec_ldG_of_room {va : Nat} (hva : globalAddr (s.me.xGet a) off ty.width = va)
    (ok : formOk s (.ldG d a ty sc ord off) = true) (hq : qRoom s d = none)
    (hcheck : globalCheck s [va] [va] 512 ty.width false [] = none) (hroom : s.me.lq.length < 32) :
    exec (.ldG d a ty sc ord off) s = .next ((s.newEntry d va (s.partsOf va 512 0 false [])).1.queueLoad
      { seq := 0, op := .load, sc := sc, ord := ord, q := d, tag := s.me.tagNext, ety := ty, addr := va,
        parts := s.partsOf va 512 0 false [] }) := by
  subst hva
  change execLdG .. = _
  refine (slotOp_ok ok).trans ?_
  simp only [hq, hcheck, loadRoom_none hroom, firstStop_none, firstStop_nil]
  rfl

theorem exec_ldG_of_pattern (ok : formOk s (.ldG d a ty sc ord off) = true) (h : (s.me.qGet d).kind = .pattern) :
    exec (.ldG d a ty sc ord off) s = .next (s.endTrap cHANDLE (0xFF + 2 ^ 8 * d)) := by
  change execLdG .. = _
  refine (slotOp_ok ok).trans ?_
  simp only [qRoom_of_pattern h, firstStop_some, finish_trap]

/-- The parts of a gather: one element for each address, where it stands in the entry (R294). -/
def State.gatherParts (s : State) (a lgm n : Nat) : List Part :=
  (pairAddrs s.me a lgm).flatMap fun p => s.partsOf p.2.2 n (64 * p.1 + n * p.2.1) false []

theorem exec_gath_of_room {addrs : List Nat} (haddrs : (pairAddrs s.me a lgm).map (fun p => p.2.2) = addrs)
    (ok : formOk s (.gath d a ty sc ord lgm) = true) (hq : qRoom s d = none)
    (hcheck : globalCheck s addrs addrs (ty.width / 8) ty.width false (groups lgm) = none) (hroom : s.me.lq.length < 32) :
    exec (.gath d a ty sc ord lgm) s = .next ((s.newEntry d (addrs.headD 0) (s.gatherParts a lgm (ty.width / 8))).1.queueLoad
      { seq := 0, op := .gather, sc := sc, ord := ord, q := d, tag := s.me.tagNext, ety := ty, lgm := lgm,
        addr := addrs.headD 0, parts := s.gatherParts a lgm (ty.width / 8) }) := by
  subst haddrs
  change execGath .. = _
  refine (slotOp_ok ok).trans ?_
  simp only [hq, hcheck, loadRoom_none hroom, firstStop_none, firstStop_nil]
  rfl

/-- The parts of an atomic, with what it compares with (R295). -/
def State.atomicParts (s : State) (va n b cmp : Nat) : List Part :=
  (s.partsOf va n 0 true (toBytes (s.me.xGet b) n)).map fun p => { p with cmp := toBytes cmp n }

section Atomics
variable {va : Nat} (hva : globalAddr (s.me.xGet a) off ty.width = va) (hq : qRoom s d = none)
  (hread : globalCheck s [va] [va] (ty.width / 8) ty.width false [] = none)
  (hwrite : globalCheck s [va] [va] (ty.width / 8) ty.width true [] = none) (hroom : s.me.storesHeld < 32)
include hva hq hread hwrite hroom

theorem atomicOp_of_room {i : Instr} {op : AccOp} {cmp : Strand → Nat} (ok : formOk s i = true) :
    atomicOp i d a ty sc ord off op (·.xGet b) cmp s = .next ((s.newEntry d va []).1.queueStore
      { seq := 0, op := op, sc := sc, ord := ord, q := d, tag := s.me.tagNext, ety := ty, addr := va,
        dat := BitVec.ofNat 4096 (s.me.xGet b), parts := s.atomicParts va (ty.width / 8) b (cmp s.me) }) := by
  subst hva
  refine (slotOp_ok ok).trans ?_
  simp only [hq, hread, hwrite, storeRoom_none hroom, firstStop_none, firstStop_nil, State.xGet_newEntry]
  rfl

theorem exec_amo_of_room {op : AmoOp} (ok : formOk s (.amo op d a b ty sc ord off) = true) :
    exec (.amo op d a b ty sc ord off) s = .next ((s.newEntry d va []).1.queueStore
      { seq := 0, op := .amo op ty.isSigned, sc := sc, ord := ord, q := d, tag := s.me.tagNext, ety := ty, addr := va,
        dat := BitVec.ofNat 4096 (s.me.xGet b), parts := s.atomicParts va (ty.width / 8) b 0 }) := by
  change execAmo .. = _
  exact atomicOp_of_room hva hq hread hwrite hroom ok

theorem exec_cas_of_room (ok : formOk s (.cas d a b c ty sc ord off) = true) :
    exec (.cas d a b c ty sc ord off) s = .next ((s.newEntry d va []).1.queueStore
      { seq := 0, op := .cas ty.isSigned, sc := sc, ord := ord, q := d, tag := s.me.tagNext, ety := ty, addr := va,
        dat := BitVec.ofNat 4096 (s.me.xGet b), parts := s.atomicParts va (ty.width / 8) b (s.me.xGet c) }) := by
  change execCas .. = _
  exact atomicOp_of_room hva hq hread hwrite hroom ok

end Atomics

theorem exec_qbind (ok : formOk s (.qbind d ag ty) = true) : exec (.qbind d ag ty) s = .next { s with iss := { s.iss with
    binds := s.iss.binds ++ [(d, { kind := .pattern, ety := ty, gen := s.me.agGet ag })] } } := by
  change execQbind .. = _
  exact slotOp_ok ok

theorem exec_qfree (ok : formOk s (.qfree d) = true) :
    exec (.qfree d) s = .next { s with iss := { s.iss with binds := s.iss.binds ++ [(d, {})] } } := by
  change execQfree .. = _
  exact slotOp_ok ok

end Forms

/-- Settles O25: the checks on an address one after another, and each form with its checks passed. -/
theorem globalLoads : Obligations.GlobalLoads := by
  unfold Obligations.GlobalLoads
  refine ⟨fun s a len w write named => ?_, fun s d a b c ty sc ord off lgm ag op => ?_⟩
  · intro r
    have hr : r = _ := globalCheck_one s a len w write named
    refine ⟨fun hwide => ?_, fun hwide halign => ?_, fun hwide halign hwaits => ?_, fun hwide halign hwaits l hdenied => ?_,
      globalCheck_one_eq_none_iff⟩
    · rw [hr, if_pos hwide]; rfl
    · rw [hr, if_neg (Nat.not_le.2 hwide), if_pos halign]; rfl
    · obtain ⟨va, hva⟩ := Option.isSome_iff_exists.1 hwaits
      refine ⟨va, hva, ?_⟩
      rw [hr, if_neg (Nat.not_le.2 hwide), if_neg (not_not_intro halign), hva]; rfl
    · rw [hr, if_neg (Nat.not_le.2 hwide), if_neg (not_not_intro halign), State.rangeWaits_eq_false_iff.1 hwaits, hdenied]; rfl
  · intro n va rows e ga tag ps gs ops both
    refine ⟨fun ok hq hcheck hroom => ?_, fun ok hq hcheck hroom => ?_, fun ok hq hboth hroom => ?_, fun ok hq hboth hroom => ?_,
      exec_qbind, exec_qfree, exec_ldG_of_pattern⟩
    · exact exec_ldG_of_room rfl ok hq hcheck hroom
    · exact exec_gath_of_room rfl ok hq hcheck hroom
    · exact exec_amo_of_room rfl hq hboth.1 hboth.2 hroom ok
    · exact exec_cas_of_room rfl hq hboth.1 hboth.2 hroom ok

end Sys2Proof.Machine
end
section
/-! PROOFS. Global stores (R197, R294) and stores to endpoint windows (R470 to R472), each with its checks passed. -/

namespace Sys2Proof.Machine

theorem stRoom_none {s : State} (h : s.me.inRollback s.iss.idx = true ∨ s.me.storesHeld < 32) : stRoom s = none := by
  unfold stRoom
  split
  · rfl
  · exact storeRoom_none (h.resolve_left ‹_›)

/-- The open packet that an append of the issuing strand to a window joins (R471). -/
def State.packetOf (s : State) (w : Nat) : Option EpPacket :=
  s.link.packets.find? fun p => !p.sealed && p.launch == s.me.launch && p.task == (s.group s.me.grp).task && p.place == s.placeOf s.cur
    && p.window == w

/-- The parts of a stream store: each is poisoned where the head entry's bytes are (R294, R297). -/
def State.streamParts (s : State) (a va : Nat) : List Part :=
  (s.partsOf va 512 0 true (toBytes (headData s.me a).toNat 512)).map fun p => { p with
    poison := (List.range p.len).any fun i => (((s.me.qGet a).entries.head?.map QEntry.bad).getD 0).getLsbD (p.pos + i) }

section Forms
variable {s : State} {vs : Bool} {a b va off lgm : Nat} {ty : ElemType} {sc : Scope} {ord : Order}

theorem exec_stG_of_room {rs : List (Nat × List Byte)} (hva : globalAddr (s.me.xGet b) off ty.width = va)
    (hrs : storeRanges s.me vs a va ty.width lgm = rs) (ok : formOk s (.stG vs a b ty sc ord off lgm) = true)
    (hcheck : globalCheck s [va] (rs.map (·.1)) (if vs then 64 else ty.width / 8) ty.width true (if vs then groups lgm else []) = none)
    (hroom : s.me.inRollback s.iss.idx = true ∨ s.me.storesHeld < 32) :
    exec (.stG vs a b ty sc ord off lgm) s = .next (s.store
      { seq := 0, op := .store, sc := sc, ord := ord, ety := ty, lgm := lgm, addr := va,
        dat := if vs then s.me.vRaw a else BitVec.ofNat 4096 (s.me.xGet a),
        parts := rs.flatMap fun r => s.partsOf r.1 (if vs then 64 else ty.width / 8) 0 true r.2 }) := by
  subst hva hrs
  change execStG .. = _
  refine (slotOp_ok ok).trans ?_
  simp only [hcheck, stRoom_none hroom, firstStop_none, firstStop_nil, finish_ok]

theorem exec_scat_of_room {rows : List (Nat × Nat × Nat)} (hrows : pairAddrs s.me b lgm = rows)
    (ok : formOk s (.scat a b ty sc ord lgm) = true)
    (hcheck : globalCheck s (rows.map fun p => p.2.2) (rows.map fun p => p.2.2) (ty.width / 8) ty.width true (groups lgm) = none)
    (hroom : s.me.inRollback s.iss.idx = true ∨ s.me.storesHeld < 32) :
    exec (.scat a b ty sc ord lgm) s = .next (s.store
      { seq := 0, op := .scatter, sc := sc, ord := ord, ety := ty, lgm := lgm, addr := (rows.map fun p => p.2.2).headD 0,
        addrs := s.me.vRaw b, dat := s.me.vRaw a, parts := rows.flatMap fun p =>
          s.partsOf p.2.2 (ty.width / 8) 0 true (toBytes (elem ty.width (s.me.vGet a p.1) p.2.1) (ty.width / 8)) }) := by
  subst hrows
  change execScat .. = _
  refine (slotOp_ok ok).trans ?_
  simp only [hcheck, stRoom_none hroom, firstStop_none, firstStop_nil, finish_ok]

theorem exec_qout_of_room (hva : globalAddr (s.me.xGet b) off ty.width = va) (ok : formOk s (.qout a b ty sc ord off) = true)
    (haddr : popAddress s a = none) (hcheck : globalCheck s [va] [va] 512 ty.width true [] = none) (hpop : popWait s a = none)
    (hroom : s.me.storesHeld < 32) : exec (.qout a b ty sc ord off) s = .next ((s.popQ a).store
      { seq := 0, op := .qstore, sc := sc, ord := ord, ety := ty, addr := va, dat := headData s.me a, parts := s.streamParts a va }) := by
  subst hva
  have hstops : lowestStop [none, none] = none := rfl
  change execQout .. = _
  refine (slotOp_ok ok).trans ?_
  simp only [haddr, hcheck, hstops, hpop, storeRoom_none hroom, firstStop_none, firstStop_nil, finish_ok]
  unfold State.streamParts
  generalize (s.me.qGet a).entries = entries
  cases entries <;> rfl

theorem exec_epSt_of_room {w : Nat} {bytes : List Byte} (hva : globalAddr (s.me.xGet b) off ty.width = va)
    (hbytes : ((storeRanges s.me vs a va ty.width lgm).map (·.2)).flatten = bytes) (ok : formOk s (.epSt vs a b ty off lgm) = true)
    (hnarrow : va < 2 ^ 52) (halign : va % (ty.width / 8) = 0) (hlanes : s.lanesOn (if vs then groups lgm else []) = true)
    (hwalk : s.needsWalk s.cur s.me.ctx va = false) (hwindow : s.windowOf s.me.ctx va = some w)
    (hfits : ((s.packetOf w).map (·.data.length)).getD 0 + bytes.length ≤ 4096)
    (henabled : (SMap.find s.link.windows w).any (·.enabled) = true) (hopen : (s.packetOf w).isSome = true ∨ s.openPackets < 256)
    (hlink : s.linkHeld (2 * dieOf s.cur + 1) = false) (hroom : s.me.storesHeld < 32) :
    let t := s.appendPacket s.me.launch (s.group s.me.grp).task (s.placeOf s.cur) w bytes (bit va 6)
    exec (.epSt vs a b ty off lgm) s = .next (t.1.queueStore
      { seq := 0, op := .epstore, q := w, tag := t.2, ety := ty, lgm := lgm, addr := va,
        dat := if vs then s.me.vRaw a else BitVec.ofNat 4096 (s.me.xGet a),
        parts := [{ va := va, len := bytes.length, pa := some 0 }] }) := by
  subst hva hbytes
  have hfull : ((s.packetOf w).isNone && decide (256 ≤ s.openPackets)) = false := by
    rcases hopen with h | h
    · rw [Option.isNone_eq_false_iff.2 h, Bool.false_and]
    · rw [decide_eq_false (Nat.not_le.2 h), Bool.and_false]
  unfold State.packetOf at hfits hfull
  change execEpSt .. = _
  refine (slotOp_ok ok).trans ?_
  simp only [if_neg (Nat.not_le.2 hnarrow), if_neg (not_not_intro halign), hwalk, hwindow, if_neg (Nat.not_lt.2 hfits), henabled,
    lgWait_none hlanes, hfull, hlink, storeRoom_none hroom, Bool.not_true, Bool.or_self, Bool.false_eq_true, if_false,
    firstStop_none, firstStop_nil, finish_ok]

end Forms

/-- Settles O26: each form with its checks passed. -/
theorem globalStores : Obligations.GlobalStores := by
  unfold Obligations.GlobalStores
  intro s vs a b ty sc ord off lgm st n va rs len named dat rows room q g bytes mine
  refine ⟨exec_stG_of_room rfl rfl, exec_scat_of_room rfl, exec_qout_of_room rfl,
    fun ok hnarrow halign hlanes hwalk w hwindow hfits henabled hopen hlink hroom => ?_⟩
  have hmine : mine = s.packetOf w := by simp only [mine, hwindow]; rfl
  rw [hmine] at hfits hopen
  have hbytes : ((storeRanges s.me vs a va ty.width lgm).map (·.2)).flatten = bytes := rfl
  exact exec_epSt_of_room rfl hbytes ok hnarrow halign hlanes hwalk hwindow hfits henabled hopen hlink hroom

end Sys2Proof.Machine
end
section
/-! PROOFS. Tile access (R281 to R286): what the runs of a store leave and what a load finds of them, the races with unjoined matrix
calls (R246), and `ld.sp`, `ld.b` and `st.sp` each with its checks passed or failed. -/

namespace Sys2Proof.Machine

/-! ### Lines of runs -/

theorem mem_bitLines {off len l : Nat} : l ∈ bitLines off len ↔ len ≠ 0 ∧ off / 512 ≤ l ∧ l ≤ (off + len - 1) / 512 := by
  unfold bitLines
  split
  · simp [*]
  · simp only [List.mem_map, List.mem_range]
    constructor
    · rintro ⟨i, hi, rfl⟩
      omega
    · exact fun ⟨_, hlo, hhi⟩ => ⟨l - off / 512, by omega, by omega⟩

theorem Core.spLine_setSpBits_of_not_mem {c : Core} {off len l : Nat} (v : Nat) (h : l ∉ bitLines off len) :
    (c.setSpBits off len v).spLine l = c.spLine l := by
  rw [mem_bitLines] at h
  by_cases hlen : len = 0
  · rw [Core.setSpBits, if_pos hlen]
  · rw [Core.spLine_setSpBits c v l hlen, if_neg (by omega), if_neg (by omega)]

/-- A run that is one line. -/
theorem Core.spLine_setSpBits_line (c : Core) (k v l : Nat) :
    (c.setSpBits (512 * k) 512 v).spLine l = if l = k then v % 2 ^ 512 else c.spLine l := by
  have hline : c.spPairSet (512 * k) 512 v % 2 ^ 512 = v % 2 ^ 512 := by
    have hfield := field_setField_same (c.spPair k) 0 512 v
    rw [field, Nat.pow_zero, Nat.div_one] at hfield
    rw [Core.spPairSet, Nat.mul_div_cancel_left k (by decide), Nat.mul_mod_right, hfield]
  rw [Core.spLine_setSpBits c v l (by decide), Nat.mul_div_cancel_left k (by decide), Nat.mul_mod_right, hline,
    if_neg (c := l = k + 1 ∧ _) (by omega)]

theorem Core.spBits_line (c : Core) (k : Nat) : c.spBits (512 * k) 512 = c.spLine k := by
  rw [Core.spBits, Nat.mul_div_cancel_left k (by decide), Nat.mul_mod_right, Nat.pow_zero, Nat.div_one, Nat.add_mul_mod_self_left,
    Nat.mod_eq_of_lt (c.spLine_lt k)]

@[simp] theorem Core.setSpBits_calls (c : Core) (off len v : Nat) : (c.setSpBits off len v).calls = c.calls := by
  unfold Core.setSpBits; repeat' split
  all_goals rfl

theorem storeMoves_calls (c : Core) (f : Nat → Nat) (ms : List Move) : (storeMoves c f ms).calls = c.calls :=
  List.foldlRecOn (motive := fun r : Core => r.calls = c.calls) ms _ rfl fun r hr _ _ => (r.setSpBits_calls ..).trans hr

theorem spLine_storeMoves (c : Core) (f : Nat → Nat) (ms : List Move) (l : Nat) :
    (storeMoves c f ms).spLine l = (c.setRuns f ms).spLine l := Core.spLine_congr rfl l

/-- A store leaves the lines that none of its runs touches (R282). -/
theorem spLine_storeMoves_of_not_mem {c : Core} {f : Nat → Nat} {ms : List Move} {l : Nat} (h : l ∉ moveLines ms) :
    (storeMoves c f ms).spLine l = c.spLine l := by
  rw [spLine_storeMoves]
  refine List.foldlRecOn (motive := fun r : Core => r.spLine l = c.spLine l) ms _ rfl fun r hr m hm => ?_
  exact (Core.spLine_setSpBits_of_not_mem _ fun hl => h (List.mem_flatMap.2 ⟨m, hm, hl⟩)).trans hr

/-! ### Races with unjoined matrix calls (R246) -/

/-- A race leaves the lines that the write did not change. -/
theorem Core.spLine_raceWrite {old new : Core} {l : Nat} (h : new.spLine l = old.spLine l) (tick : Nat) (lines : List Nat) :
    (old.raceWrite new tick lines).spLine l = old.spLine l := by
  refine (Core.spLine_congr rfl l).trans
    (List.foldlRecOn (motive := fun c : Core => c.spLine l = old.spLine l) new.calls _ h fun c hc m _ =>
      List.foldlRecOn (motive := fun c : Core => c.spLine l = old.spLine l) m.wrote _ hc fun c hc e _ => ?_)
  rw [spLine_raceLines, if_neg fun h => h.2 hc.symm, hc]

/-- Without calls nothing races. -/
theorem Core.raceWrite_of_no_calls {new : Core} (hnew : new.calls = []) (old : Core) (tick : Nat) (lines : List Nat) :
    old.raceWrite new tick lines = new := by
  simp only [Core.raceWrite, hnew, List.foldl_nil, List.map_nil]
  rw [← hnew]

/-! ### A store of rows, read back (R274, R281, R282) -/

/-- The move of a lanegroup whose elements stand in line `l` of a tile (R281). -/
def Tile.lineMove (t : Tile) (l g : Nat) : Move :=
  { lg := g, off := 512 * (t.base + l), len := 512, real := min 512 (t.rowBits - 512 * (l % t.pitch)), span := 512 }

/-- Each lanegroup of an access by rows moves a line of its own. -/
theorem rowMoves_eq {t : Tile} {a : TileArg} {e : Nat} {ms : List Move} (hw : 512 % a.ty.width = 0) (h : rowMoves t a e = .ok ms) :
    ms = (groups a.lgm).map fun g => t.lineMove (e / (512 / a.ty.width) + g) g := by
  have hdvd : a.ty.width ∣ 512 := Nat.dvd_of_mod_eq_zero hw
  have hn : 0 < 512 / a.ty.width := Nat.div_pos (Nat.le_of_dvd (by decide) hdvd) (Nat.pos_of_dvd_of_pos hdvd (by decide))
  have hline (g : Nat) : (e + 512 / a.ty.width * g) / (512 / a.ty.width) = e / (512 / a.ty.width) + g :=
    Nat.add_mul_div_left e g hn
  have hoff (l : Nat) : t.rowAt (l / t.pitch) + 512 * (l % t.pitch) = 512 * (t.base + l) := by
    rw [Tile.rowAt, ← Nat.mul_add, Nat.add_assoc, Nat.mul_comm _ t.pitch, Nat.div_add_mod]
  unfold rowMoves at h
  simp only [hline, hoff] at h
  split at h
  · cases h
  split at h
  · cases h
  split at h
  · cases h
  · exact (Except.ok.inj h).symm

theorem moveValue_of_mem {c : Core} {ms : List Move} {m : Move} (hm : m ∈ ms) (hone : ∀ m' ∈ ms, m'.lg = m.lg → m' = m) :
    moveValue c ms m.lg = c.spBits m.off m.len % 2 ^ m.real := by
  obtain ⟨m', hfind⟩ := Option.isSome_iff_exists.1
    (List.find?_isSome (p := fun x : Move => x.lg == m.lg) |>.2 ⟨m, hm, beq_self_eq_true m.lg⟩)
  have hlg : (m'.lg == m.lg) = true := List.find?_some (p := fun x : Move => x.lg == m.lg) hfind
  have hsame : m' = m := hone m' (List.mem_of_find?_eq_some hfind) (beq_iff_eq.1 hlg)
  simp only [moveValue, hfind, hsame]

/-- Of lines written by lanegroups, each holds what its own lanegroup stored. -/
theorem spLine_storeMoves_lineMove (c : Core) (f : Nat → Nat) (t : Tile) (k : Nat) {gs : List Nat} (hgs : gs.Nodup) {g : Nat}
    (hg : g ∈ gs) : (storeMoves c f (gs.map fun g => t.lineMove (k + g) g)).spLine (t.base + (k + g)) =
      f g % 2 ^ (t.lineMove (k + g) g).real % 2 ^ 512 := by
  rw [spLine_storeMoves, Core.setRuns, List.foldl_map]
  refine foldl_read_same (read := fun r : Core => r.spLine (t.base + (k + g))) (inv := fun _ => True)
    (new := fun _ => f g % 2 ^ (t.lineMove (k + g) g).real % 2 ^ 512) hgs hg (fun _ _ h => h) (fun r _ => ?_) (fun r b _ hb => ?_) trivial
  · exact (r.spLine_setSpBits_line ..).trans (if_pos rfl)
  · exact (r.spLine_setSpBits_line ..).trans (if_neg (by omega))

/-- What a store of rows left, a load of the same elements finds, up to the padding. -/
theorem moveValue_storeMoves_rowMoves {t : Tile} {a : TileArg} {e : Nat} {ms : List Move} (c : Core) (f : Nat → Nat)
    (hw : 512 % a.ty.width = 0) (h : rowMoves t a e = .ok ms) {m : Move} (hm : m ∈ ms) :
    moveValue (storeMoves c f ms) ms m.lg = f m.lg % 2 ^ 512 % 2 ^ m.real := by
  have hms := rowMoves_eq hw h
  generalize e / (512 / a.ty.width) = k at hms
  subst hms
  obtain ⟨g, hg, rfl⟩ := List.mem_map.1 hm
  have hone : ∀ m' ∈ (groups a.lgm).map fun g => t.lineMove (k + g) g,
      m'.lg = (t.lineMove (k + g) g).lg → m' = t.lineMove (k + g) g := by
    intro m' hm' hlg
    obtain ⟨g', _, rfl⟩ := List.mem_map.1 hm'
    rw [show g' = g from hlg]
  have hreal : 2 ^ (t.lineMove (k + g) g).real ∣ 2 ^ 512 := Nat.pow_dvd_pow 2 (Nat.min_le_left ..)
  calc moveValue (storeMoves c f _) _ (t.lineMove (k + g) g).lg
      = (storeMoves c f _).spBits (512 * (t.base + (k + g))) 512 % 2 ^ (t.lineMove (k + g) g).real := moveValue_of_mem hm hone
    _ = f g % 2 ^ (t.lineMove (k + g) g).real % 2 ^ 512 % 2 ^ (t.lineMove (k + g) g).real := by
        rw [Core.spBits_line, spLine_storeMoves_lineMove c f t k (groups_nodup _) hg]
    _ = f g % 2 ^ 512 % 2 ^ (t.lineMove (k + g) g).real := by
        rw [Nat.mod_mod_of_dvd _ hreal, Nat.mod_mod_of_dvd _ hreal, Nat.mod_mod]

/-! ### The forms -/

/-- Poison that is consumed where no rollback is due is a POISON trap (R198). -/
theorem poisonRes_of_none {s : State} {pr : Option Nat} (h : s.me.rollbackTo s.iss.idx pr = none) (info : Nat) :
    poisonRes s pr info = .trap cPOISON info := by simp only [poisonRes, h]

theorem poisonRes_of_some {s : State} {pr : Option Nat} {i : Nat} (h : s.me.rollbackTo s.iss.idx pr = some i) (info : Nat) :
    poisonRes s pr info = .rollback i := by simp only [poisonRes, h]

section Loads
variable {s : State} {t : TileArg}

section LdSp
variable (ok : formOk s (.ldSp t) = true)
include ok

theorem exec_ldSp_of_error {cause info : Nat} (hmoves : spMoves s t = .error (cause, info)) :
    exec (.ldSp t) s = .next (s.endTrap cause info) := by
  change execLdSp .. = _
  refine (slotOp_ok ok).trans ?_
  simp only [hmoves, finish_trap]

variable {ms : List Move} (hmoves : spMoves s t = .ok ms)
include hmoves

theorem exec_ldSp_of_conflict {i : Nat} (hconflict : ldConflict s ms = some i) :
    exec (.ldSp t) s = .next (s.endTrap cBANKCONF i) := by
  change execLdSp .. = _
  refine (slotOp_ok ok).trans ?_
  simp only [hmoves, hconflict, finish_trap]

variable (hconflict : ldConflict s ms = none) (hlanes : s.lanesOn (groups t.lgm) = true)
include hconflict hlanes

theorem exec_ldSp_of_good (hgood : s.myCore.movesBad ms = false) :
    exec (.ldSp t) s = .next (postLoad s 4 t.r t.lgm (moveValue (s.myCore.raceView s.tick) ms)) := by
  change execLdSp .. = _
  refine (slotOp_ok ok).trans ?_
  simp only [hmoves, hconflict, lgWait_none hlanes, hgood, Bool.false_eq_true, if_false, finish_ok]

theorem exec_ldSp_of_bad (hbad : s.myCore.movesBad ms = true) :
    exec (.ldSp t) s = finish s (poisonRes s none (2 ^ 63 + t.h)) := by
  change execLdSp .. = _
  refine (slotOp_ok ok).trans ?_
  simp only [hmoves, hconflict, lgWait_none hlanes, hbad, if_true]

end LdSp

/-- Does `ld.b` consume poison: of the tile, or of a line of its image (R283, R493, R494)? -/
def State.imageBad (s : State) (t : TileArg) (x : Tile) : Bool :=
  x.poisoned || (groups t.lgm).any fun g => s.myCore.stackBad (64 * x.base + tileIndex s.me t + 64 * g) 64

section LdB
variable {x : Tile} (ok : formOk s (.ldB t) = true) (htile : SMap.find s.myCluster.tiles t.h = some x) (hlevel : x.level = .bstack)
  (hcore : x.core = localCore s.cur) (halign : tileIndex s.me t % 64 = 0)
  (hinside : ∀ g ∈ groups t.lgm, tileIndex s.me t + 64 * g < 64 * x.lines) (hlanes : s.lanesOn (groups t.lgm) = true)
include ok htile hlevel hcore halign hinside hlanes

theorem exec_ldB_of_image : exec (.ldB t) s = finish s (if s.imageBad t x then poisonRes s none (2 ^ 63 + t.h)
    else .ok (postLoad s 1 t.r t.lgm fun g => s.myCore.bLine (x.base + tileIndex s.me t / 64 + g))) := by
  have hfind : ((groups t.lgm).find? fun g => decide (64 * x.lines ≤ tileIndex s.me t + 64 * g)) = none :=
    List.find?_eq_none.2 fun g hg => by simpa using hinside g hg
  change execLdB .. = _
  refine (slotOp_ok ok).trans ?_
  simp only [htile, hlevel, hcore, bne_self_eq_false, Bool.or_self, Bool.false_eq_true, if_false, if_neg (not_not_intro halign), hfind,
    lgWait_none hlanes]
  rfl

end LdB

end Loads

section StSp
variable {s : State} {t : TileArg} {ms : List Move} (ok : formOk s (.stSp t) = true) (hmoves : spMoves s t = .ok ms)
include ok hmoves

theorem exec_stSp_of_conflict (hrb : s.me.inRollback s.iss.idx = false) {i : Nat} (hconflict : stConflict s ms = some i) :
    exec (.stSp t) s = .next (s.endTrap cBANKCONF i) := by
  change execStSp .. = _
  refine (slotOp_ok ok).trans ?_
  simp only [hmoves, hrb, hconflict, Bool.false_eq_true, if_false, finish_trap]

variable (hlanes : s.lanesOn (groups t.lgm) = true)
include hlanes

theorem exec_stSp_of_free (hrb : s.me.inRollback s.iss.idx = false) (hconflict : stConflict s ms = none) :
    exec (.stSp t) s = .next (s.setMyCore
      (s.myCore.raceWrite (storeMoves s.myCore (fun g => s.me.vGet t.r g) ms) s.tick (moveLines ms))) := by
  change execStSp .. = _
  refine (slotOp_ok ok).trans ?_
  simp only [hmoves, hrb, hconflict, lgWait_none hlanes, Bool.false_eq_true, if_false, finish_ok]

/-- In a rollback loop a store of a tile waits in its buffer (R197). -/
theorem exec_stSp_of_rollback (hrb : s.me.inRollback s.iss.idx = true) : exec (.stSp t) s = .next (s.setMe { s.me with
    stbuf := s.me.stbuf ++ [.tile s.me.storeIter t.h t.ty t.lgm (tileIndex s.me t) (s.me.vRaw t.r)] }) := by
  change execStSp .. = _
  refine (slotOp_ok ok).trans ?_
  simp only [hmoves, hrb, lgWait_none hlanes, if_true, finish_ok]

end StSp

/-- Settles O24: loads and stores by the ways in which they end; the lines of a store of rows lie apart, so each is found by a load. -/
theorem tileAccess : Obligations.TileAccess := by
  unfold Obligations.TileAccess
  refine ⟨fun s t => ?_, fun s t ms ok hmoves hlanes => ?_, fun c t a e ms f _ hw h m hm => ?_⟩
  · intro c
    refine ⟨fun ok ms hmoves hconflict hlanes => exec_ldSp_of_good ok hmoves hconflict hlanes,
      fun ok cause info => exec_ldSp_of_error ok, fun ok ms i hmoves => exec_ldSp_of_conflict ok hmoves,
      fun ok ms hmoves hconflict hlanes hbad => ?_, fun ok x htile hlevel hcore halign hinside hlanes => ?_⟩
    · rw [exec_ldSp_of_bad ok hmoves hconflict hlanes hbad]
      exact ⟨fun h => by rw [poisonRes_of_none h]; rfl, fun i h => by rw [poisonRes_of_some h]; rfl⟩
    · intro bad
      rw [exec_ldB_of_image ok htile hlevel hcore halign hinside hlanes]
      refine ⟨fun hgood => ?_, fun hbad hnone => ?_⟩
      · rw [if_neg (ne_true_of_eq_false (show s.imageBad t x = false from hgood))]; rfl
      · rw [if_pos (show s.imageBad t x = true from hbad), poisonRes_of_none hnone]; rfl
  · intro c st
    refine ⟨fun hrb hconflict =>
        ⟨_, exec_stSp_of_free ok hmoves hlanes hrb hconflict, rfl, rfl, rfl, fun hcalls => ?_, fun l hl => ?_⟩,
      fun hrb i => exec_stSp_of_conflict ok hmoves hrb, exec_stSp_of_rollback ok hmoves hlanes⟩
    · rw [State.myCore_setMyCore, Core.raceWrite_of_no_calls ((storeMoves_calls ..).trans hcalls)]
    · rw [State.myCore_setMyCore, Core.spLine_raceWrite (spLine_storeMoves_of_not_mem hl)]
  · exact moveValue_storeMoves_rowMoves c f hw h hm

end Sys2Proof.Machine
end
section
/-! PROOFS. Entries of stream registers (R288, R290, R295, R297): the fill of an entry, and the fetch ahead of a pattern's; what the
records that a fetched line may raise leave alone (R332, R348, R492, R496). -/

namespace Sys2Proof.Machine

/-! ### Records leave the strands -/

@[simp] theorem State.signal_strands (s : State) (c : Completion) : (s.signal c).strands = s.strands := by
  dsimp only [State.signal]
  repeat' split
  all_goals rfl

@[simp] theorem State.flushOne_strands (s : State) (n : Nat) : (s.flushOne n).strands = s.strands := by
  dsimp only [State.flushOne]
  split
  · rfl
  · split
    · rfl
    · rw [State.signal_strands]
      split <;> rfl

theorem State.queuesNaming_strands (s : State) (n : Nat) (f : CmdQueue → CmdQueue) :
    (s.queuesNaming n f).strands = s.strands := by
  unfold State.queuesNaming
  rfl

@[simp] theorem State.flushCq_strands (s : State) (n : Nat) : (s.flushCq n).strands = s.strands := by
  rw [State.flushCq, State.queuesNaming_strands]
  exact List.foldlRecOn (motive := fun t : State => t.strands = s.strands) (s.cq n).held _ rfl
    fun t ht _ _ => (t.flushOne_strands n).trans ht

@[simp] theorem State.postRecord_strands (s : State) (n : Nat) (c : Completion) : (s.postRecord n c).strands = s.strands := by
  dsimp only [State.postRecord]
  split
  · rw [State.signal_strands]
  · rw [State.flushCq_strands]; rfl

@[simp] theorem State.trigger_strands (s : State) (src code : Nat) : (s.trigger src code).strands = s.strands := by
  unfold State.trigger; split <;> rfl

@[simp] theorem State.machineCheck_strands (s : State) (kind src ctx addr band : Nat) :
    (s.machineCheck kind src ctx addr band).strands = s.strands :=
  (State.trigger_strands ..).trans (State.postRecord_strands ..)

@[simp] theorem State.lineCheckRecord_strands (s : State) (ctx pa : Nat) : (s.lineCheckRecord ctx pa).strands = s.strands := by
  dsimp only [State.lineCheckRecord]
  split
  · split
    · rfl
    · rw [State.machineCheck_strands]
  · rw [State.machineCheck_strands]

@[simp] theorem State.openLine_strands (s : State) (ctx key pa : Nat) : (s.openLine ctx key pa).strands = s.strands := by
  dsimp only [State.openLine]
  split
  · rfl
  · rw [State.lineCheckRecord_strands]

/-- A range that is opened at its homes leaves every strand (R332). -/
theorem State.openRange_strand (s : State) (ctx : Nat) (bound : Nat → Nat) (va n m : Nat) :
    (s.openRange ctx bound va n).strand m = s.strand m := by
  refine congrArg (fun strands : SMap Strand => SMap.get strands m {}) ?_
  refine List.foldlRecOn (motive := fun t : State => t.strands = s.strands) (cutLines va n) _ rfl fun t ht l _ => ?_
  split
  · split
    · exact ht
    · rw [State.openLine_strands, ht]
  · exact ht

/-- A range that is fetched notes that its lines leave scratchpad and MRAM, and leaves every strand (R322). -/
theorem State.leavesRange_strand (s : State) (sid a n m : Nat) : (s.leavesRange sid a n).strand m = s.strand m := by
  refine List.foldlRecOn (motive := fun t : State => t.strand m = s.strand m) (cutLines a n) _ rfl fun t ht l _ => ?_
  split
  · rw [State.leavesScratch_strand, ht]
  · exact ht

/-! ### Filling (R288, R295) -/

/-- The entry that waits for an operation is filled, in its place. -/
theorem QReg.fill_entry {r : QReg} {k : Nat} {e : QEntry} (hkind : r.kind = .explicit) (hentry : r.entries[k]? = some e)
    (hwaits : e.arrived = false) (f : QEntry → QEntry) : (r.fill e.tag f).entries[k]? = some (f e) := by
  rw [QReg.fill, if_pos (beq_iff_eq.2 hkind), List.getElem?_map, hentry, Option.map_some, hwaits, beq_self_eq_true]
  rfl

theorem Strand.qGet_sweep_fillEntry (st : Strand) (q tag : Nat) (f : QEntry → QEntry) :
    (st.fillEntry q tag f).sweep.qGet q = (st.qGet q).fill tag f := SMap.get_put_same ..

section Fill
variable {s : State} {sid q k : Nat} {e : QEntry} {a : Access}
  (hentry : ((s.strand sid).qGet q).entries[k]? = some e) (hwaits : e.arrived = false)
  (hkind : ((s.strand sid).qGet q).kind = .explicit) (hop : ((s.strand sid).lq ++ (s.strand sid).sq).find?
    (fun a => a.q == q && a.tag == e.tag && (AccOp.isLoad a.op || AccOp.isAtomic a.op)) = some a)
include hentry hwaits hkind hop

theorem exec_streamFill : exec (.streamFill sid q k) s = .next (if a.parts.all (·.returned)
    then s.setStrand sid ((s.strand sid).fillEntry q e.tag a.entryData).sweep else s) := by
  change execStreamFill .. = _
  simp only [execStreamFill, hentry, hwaits, hkind, hop, bne_self_eq_false, Bool.or_self, Bool.false_eq_true, if_false]
  split <;> rfl

end Fill

/-! ### Fetching ahead (R290) -/

/-- A pattern whose strand does not wait for it gets its next entry from the address that the loops predict (R290, log 16). -/
theorem exec_streamPrefetch_of_room {s : State} {sid q : Nat} {a : Nat} {e : QEntry}
    (hkind : ((s.strand sid).qGet q).kind = .pattern) (hlive : (s.strand sid).life = .live) (hkiln : s.power.kiln = .running)
    (hstall : (s.strand sid).stall = none) (hroom : ((s.strand sid).qGet q).entries.length < 4)
    (ha : (s.strand sid).predict ((s.strand sid).qGet q).gen ((s.strand sid).qGet q).entries.length = a) (hnarrow : a < 2 ^ 52)
    (hwaits : s.rangeWaits sid a 512 = false) (hfetch : s.fetchEntry sid a = some e) :
    exec (.streamPrefetch sid q) s = .next ((((s.setStrand sid ((s.strand sid).setQ q { (s.strand sid).qGet q with
      entries := ((s.strand sid).qGet q).entries ++ [e] })).leavesRange sid a 512).openRange (s.strand sid).ctx (s.boundOf sid) a
        512).bump) := by
  have hidle : ((s.strand sid).stall == some (.prefetch q)) = false := by rw [hstall]; rfl
  have hfree : (decide (4 ≤ ((s.strand sid).qGet q).entries.length) || decide (2 ^ 52 ≤ a)) = false := by
    rw [decide_eq_false (Nat.not_le.2 hroom), decide_eq_false (Nat.not_le.2 hnarrow), Bool.or_self]
  change execStreamPrefetch .. = _
  simp only [execStreamPrefetch, hkind, hlive, hkiln, bne_self_eq_false, Bool.or_self, hidle, Bool.false_and, Bool.false_eq_true,
    if_false, ha, hfree, State.rangeWaits_eq_false_iff.1 hwaits, hfetch]

/-- With four entries fetched ahead no more is fetched. -/
theorem exec_streamPrefetch_of_full {s : State} {sid q : Nat} (hstall : (s.strand sid).stall = none)
    (hfull : 4 ≤ ((s.strand sid).qGet q).entries.length) : exec (.streamPrefetch sid q) s = .next s := by
  have hidle : ((s.strand sid).stall == some (.prefetch q)) = false := by rw [hstall]; rfl
  change execStreamPrefetch .. = _
  simp only [execStreamPrefetch, hidle, Bool.false_and, Bool.false_eq_true, if_false, decide_eq_true hfull, Bool.true_or, if_true,
    ite_self]

/-- Settles O28: an entry by its operation's parts, a pattern's next entry by the room for it. -/
theorem streamEvents : Obligations.StreamEvents := by
  unfold Obligations.StreamEvents
  intro s sid q k st r
  refine ⟨fun e a hentry hwaits hkind hop => ?_, fun hkind hlive hkiln hstall hroom => ?_,
    fun _ hfull hstall => exec_streamPrefetch_of_full hstall hfull⟩
  · have hexec := exec_streamFill hentry hwaits hkind hop
    refine ⟨fun hall => ⟨?_, ?_⟩, fun hsome => ?_, rfl⟩
    · rw [hexec, if_pos hall]
    · rw [Strand.qGet_sweep_fillEntry]
      exact QReg.fill_entry hkind hentry hwaits _
    · rw [hexec, if_neg (ne_true_of_eq_false hsome)]
  · intro a hnarrow hwaits e hfetch st' t
    refine ⟨exec_streamPrefetch_of_room hkind hlive hkiln hstall hroom rfl hnarrow hwaits hfetch, ?_⟩
    calc t.strand sid = (((s.setStrand sid st').leavesRange sid a 512).openRange st.ctx (s.boundOf sid) a 512).strand sid :=
          State.strand_bump ..
      _ = st' := by rw [State.openRange_strand, State.leavesRange_strand, State.strand_setStrand_same]

end Sys2Proof.Machine
end

section
/-! PROOFS. What the end of groups and of launches leaves (R299, R303, R309, R324, R392, R406): power and health, and every launch's
status but of those that end. -/

namespace Sys2Proof.Machine

/-- Power and health stand as they stood, and every launch has the status that it had. -/
structure State.leavesStatuses (s t : State) : Prop where
  power : t.power = s.power
  status : ∀ n, (t.launch n).status = (s.launch n).status

theorem State.leavesStatuses_refl (s : State) : s.leavesStatuses s := ⟨rfl, fun _ => rfl⟩

theorem State.leavesStatuses.trans {s t u : State} (h : s.leavesStatuses t) (h' : t.leavesStatuses u) : s.leavesStatuses u :=
  ⟨h'.power.trans h.power, fun n => (h'.status n).trans (h.status n)⟩

/-- A change that reaches neither power nor the table of launches. -/
theorem State.leavesStatuses_of_eq {s t : State} (hpower : t.power = s.power) (hlaunches : t.cmd.launches = s.cmd.launches) :
    s.leavesStatuses t := ⟨hpower, fun n => by rw [State.launch, hlaunches]; rfl⟩

theorem State.leavesStatuses_foldl {α : Type} {f : State → α → State} (h : ∀ (s : State) (a : α), s.leavesStatuses (f s a)) (l : List α) (s : State) :
    s.leavesStatuses (l.foldl f s) :=
  List.foldlRecOn (motive := s.leavesStatuses) l f s.leavesStatuses_refl fun t ht a _ => ht.trans (h t a)

/-- A launch written with the status that it has. -/
theorem State.leavesStatuses_setLaunch {s : State} {n : Nat} {l : Launch} (h : l.status = (s.launch n).status) :
    s.leavesStatuses (s.setLaunch n l) := by
  refine ⟨rfl, fun m => ?_⟩
  by_cases hm : m = n
  · subst hm; rw [State.launch_setLaunch_same, h]
  · rw [State.launch_setLaunch_other hm]

theorem State.launch_of_find {s : State} {n : Nat} {l : Launch} (h : SMap.find s.cmd.launches n = some l) : s.launch n = l := by
  rw [State.launch, SMap.get, h]; rfl

/-! ### The end of a strand (R303, R309) -/

theorem State.countStrand_leavesStatuses (s : State) (st : Strand) : s.leavesStatuses (s.countStrand st) := by
  unfold State.countStrand
  split
  next l hl => exact State.leavesStatuses_setLaunch (by rw [State.launch_of_find hl])
  next => exact s.leavesStatuses_refl

theorem State.forgetAsks_leavesStatuses (s : State) (l : List Access) : s.leavesStatuses (s.forgetAsks l) := by
  dsimp only [State.forgetAsks]
  split
  · exact s.leavesStatuses_refl
  · exact State.leavesStatuses_of_eq rfl rfl

theorem State.dropStrand_leavesStatuses (s : State) (sid : Nat) : s.leavesStatuses (s.dropStrand sid) := by
  have hgone : s.leavesStatuses ((s.countStrand (s.strand sid)).forgetAsks (s.strand sid).lq) :=
    (s.countStrand_leavesStatuses _).trans (State.forgetAsks_leavesStatuses ..)
  refine hgone.trans ?_
  dsimp only [State.dropStrand]
  split <;> exact State.leavesStatuses_of_eq rfl rfl

/-! ### Tiles that are freed (R277, R406) -/

theorem State.zeroTile_leavesStatuses (s : State) (k : Nat) (t : Tile) : s.leavesStatuses (s.zeroTile k t) := by
  dsimp only [State.zeroTile]
  split <;> exact State.leavesStatuses_of_eq rfl rfl

theorem State.releaseTile_leavesStatuses (s : State) (k : Nat) (t : Tile) : s.leavesStatuses (s.releaseTile k t) := by
  unfold State.releaseTile
  split
  · exact s.leavesStatuses_refl
  · exact s.zeroTile_leavesStatuses k t

theorem State.freeTable_leavesStatuses (s : State) (k : Nat) : s.leavesStatuses (s.freeTable k) :=
  (State.leavesStatuses_foldl (fun (s : State) t => s.releaseTile_leavesStatuses k t) _ s).trans (State.leavesStatuses_of_eq rfl rfl)

theorem State.freeShadow_leavesStatuses (s : State) (k : Nat) : s.leavesStatuses (s.freeShadow k) :=
  (State.leavesStatuses_foldl (fun (s : State) t => s.releaseTile_leavesStatuses k t) _ s).trans (State.leavesStatuses_of_eq rfl rfl)

/-! ### The end of a group (R309, R392) -/

theorem State.forceCores_leavesStatuses (s : State) (l : List Nat) : s.leavesStatuses (s.forceCores l) := by
  rw [State.forceCores_eq]; exact State.leavesStatuses_of_eq rfl rfl

theorem State.settleSwap_leavesStatuses (s : State) (k : Nat) : s.leavesStatuses (s.settleSwap k) := by
  unfold State.settleSwap
  split <;> exact State.leavesStatuses_of_eq rfl rfl

theorem State.settleEnded_leavesStatuses (s : State) (ctx kernel : Nat) : s.leavesStatuses (s.settleEnded ctx kernel) := by
  dsimp only [State.settleEnded]
  repeat' split
  all_goals exact State.leavesStatuses_of_eq rfl rfl

/-- The tiles of a group are freed in the table in which they stand. -/
theorem State.freeTiles_leavesStatuses (s : State) (g : Group) : s.leavesStatuses
    (if g.foreground then s.freeTable g.cluster else if g.shadow then s.freeShadow g.cluster else s) := by
  split
  · exact s.freeTable_leavesStatuses _
  · split
    · exact s.freeShadow_leavesStatuses _
    · exact s.leavesStatuses_refl

theorem State.cancelCommands_leavesStatuses (s : State) (gid : Nat) : s.leavesStatuses (s.cancelCommands gid) :=
  State.leavesStatuses_of_eq rfl rfl

theorem State.endGroup_leavesStatuses (s : State) (gid : Nat) (into : GroupState) : s.leavesStatuses (s.endGroup gid into) := by
  have hstrands := (State.leavesStatuses_foldl State.countStrand_leavesStatuses (s.group gid).saved s).trans
    (State.leavesStatuses_foldl State.dropStrand_leavesStatuses (s.group gid).strands _)
  have hfreed := (hstrands.trans (State.cancelCommands_leavesStatuses _ gid)).trans (State.freeTiles_leavesStatuses _ (s.group gid))
  dsimp only [State.endGroup]
  split
  · exact s.leavesStatuses_refl
  · refine (State.leavesStatuses.trans ?_ (State.forceCores_leavesStatuses ..)).trans
      ((State.settleSwap_leavesStatuses ..).trans (State.settleEnded_leavesStatuses ..))
    exact hfreed.trans (State.leavesStatuses_of_eq rfl rfl)

theorem State.dropPreload_leavesStatuses (s : State) (gid : Nat) (back : Bool) : s.leavesStatuses (s.dropPreload gid back) := by
  have hended := s.endGroup_leavesStatuses gid .faulted
  dsimp only [State.dropPreload]
  split
  · exact hended.trans (State.leavesStatuses_setLaunch rfl)
  · exact hended

/-! ### The end of a launch (R309, R324, R392) -/

theorem State.abortLaunch_leavesStatuses (s : State) (lid : Nat) : s.leavesStatuses (s.abortLaunch lid) := by
  have hopen : s.leavesStatuses (s.abortBarrier lid) := State.leavesStatuses_setLaunch rfl
  have hgroups := State.leavesStatuses_foldl (fun (s : State) g => s.endGroup_leavesStatuses g .faulted) (s.groupsOf lid) (s.abortBarrier lid)
  refine (hopen.trans hgroups).trans ?_
  unfold State.abortLaunch State.closeBarrier
  split
  · exact State.leavesStatuses_setLaunch rfl
  · exact State.leavesStatuses_refl _

@[simp] theorem State.fixStatus_power (s : State) (lid : Nat) (st : Status) (esc : EscRecord) :
    (s.fixStatus lid st esc).power = s.power := by
  dsimp only [State.fixStatus]
  split <;> rfl

/-- A launch takes a status once; the others keep theirs (R324). -/
theorem State.status_fixStatus (s : State) (lid n : Nat) (st : Status) (esc : EscRecord) :
    ((s.fixStatus lid st esc).launch n).status = if n = lid then some ((s.launch lid).status.getD st) else (s.launch n).status := by
  by_cases hn : n = lid
  · subst hn
    rw [if_pos rfl]
    cases hst : (s.launch n).status with
    | some x => simp only [State.fixStatus, hst, Option.getD_some]
    | none =>
      simp only [State.fixStatus, hst, Option.getD_none]
      exact congrArg Launch.status (State.launch_setLaunch_same ..)
  · rw [if_neg hn]
    dsimp only [State.fixStatus]
    split
    · rfl
    · exact congrArg Launch.status (State.launch_setLaunch_other hn)

@[simp] theorem State.endLaunches_power (s : State) (ids : List Nat) (st : Status) (esc : EscRecord) :
    (s.endLaunches ids st esc).power = s.power :=
  List.foldlRecOn (motive := fun t : State => t.power = s.power) ids _ rfl fun t ht lid _ =>
    (State.fixStatus_power ..).trans ((t.abortLaunch_leavesStatuses lid).power.trans ht)

/-- Launches that end take the status where they have none; the others keep theirs (R324). -/
theorem State.status_endLaunches (s : State) (ids : List Nat) (n : Nat) (st : Status) (esc : EscRecord) :
    ((s.endLaunches ids st esc).launch n).status =
      if n ∈ ids then some ((s.launch n).status.getD st) else (s.launch n).status := by
  induction ids generalizing s with
  | nil => rfl
  | cons lid ids ih =>
    have hfixed : (((s.abortLaunch lid).fixStatus lid st esc).launch n).status =
        if n = lid then some ((s.launch lid).status.getD st) else (s.launch n).status := by
      rw [State.status_fixStatus, (s.abortLaunch_leavesStatuses lid).status, (s.abortLaunch_leavesStatuses lid).status]
    have hrest : ((s.endLaunches (lid :: ids) st esc).launch n).status =
        if n ∈ ids then some ((((s.abortLaunch lid).fixStatus lid st esc).launch n).status.getD st)
        else (((s.abortLaunch lid).fixStatus lid st esc).launch n).status := ih _
    rw [hrest, hfixed]
    by_cases hn : n = lid
    · subst hn; simp
    · simp [hn]

/-- A status that is fixed stays (R324). -/
theorem State.status_endLaunches_of_some {s : State} {n : Nat} {x : Status} (h : (s.launch n).status = some x) (ids : List Nat)
    (st : Status) (esc : EscRecord) : ((s.endLaunches ids st esc).launch n).status = some x := by
  rw [State.status_endLaunches, h]
  exact ite_self _

theorem State.status_endLaunches_of_mem {s : State} {ids : List Nat} {n : Nat} (hn : n ∈ ids) (h : (s.launch n).status = none)
    (st : Status) (esc : EscRecord) : ((s.endLaunches ids st esc).launch n).status = some st := by
  rw [State.status_endLaunches, if_pos hn, h]; rfl

/-- A launch that escalation ends has FAULT, whatever else of its context ends with it (R307, R309). -/
theorem State.status_faultLaunch {s : State} {lid : Nat} (h : (s.launch lid).status = none) (esc : EscRecord) :
    ((s.faultLaunch lid esc).launch lid).status = some .fault := by
  have hfault : (((s.abortLaunch lid).fixStatus lid .fault esc).launch lid).status = some .fault := by
    rw [State.status_fixStatus, if_pos rfl, (s.abortLaunch_leavesStatuses lid).status, h]; rfl
  dsimp only [State.faultLaunch]
  split
  · exact State.status_endLaunches_of_some hfault ..
  · exact hfault

@[simp] theorem State.breakCtx_power (s : State) (ctx : Nat) : (s.breakCtx ctx).power = s.power := by
  dsimp only [State.breakCtx]
  split
  · exact State.endLaunches_power ..
  · rfl

theorem State.status_breakCtx_of_some {s : State} {n : Nat} {x : Status} (h : (s.launch n).status = some x) (ctx : Nat) :
    ((s.breakCtx ctx).launch n).status = some x := by
  dsimp only [State.breakCtx]
  split
  · exact State.status_endLaunches_of_some (s := s.setCtx ctx _) h ..
  · exact h

theorem mem_insertNat (l : List Nat) (n m : Nat) : m ∈ insertNat l n ↔ m = n ∨ m ∈ l := by
  induction l with
  | nil => simp [insertNat]
  | cons a l ih =>
    unfold insertNat
    split
    · simp
    · split
      · subst_vars; simp
      · simp only [List.mem_cons, ih]; tauto

/-- What some numbers are gathered from stands among them. -/
theorem mem_foldl_insertNat {α : Type} (f : α → Nat) {l : List α} {a : α} (h : a ∈ l) (r : List Nat) :
    f a ∈ l.foldl (fun r x => insertNat r (f x)) r :=
  foldl_holds (p := fun r : List Nat => f a ∈ r) h (fun _ _ _ hr => (mem_insertNat ..).2 (.inr hr)) (fun _ => (mem_insertNat ..).2 (.inl rfl)) r

end Sys2Proof.Machine
end

section
/-! PROOFS. CREATE, DESTROY, PARK, UNPARK and RELOCK (R298, R299, R326, R327, R335, R341, R343, R352): one equation for each way in which a
command ends; what the record of a command leaves alone (R348, R357). -/

namespace Sys2Proof.Machine

/-! ### Records of completion queues -/

/-- Power and health, and the commands that are still to be taken, stand as they stood. -/
structure State.leavesCommands (s t : State) : Prop where
  power : t.power = s.power
  admin : t.cmd.admin = s.cmd.admin

theorem State.leavesCommands_refl (s : State) : s.leavesCommands s := ⟨rfl, rfl⟩

theorem State.leavesCommands.trans {s t u : State} (h : s.leavesCommands t) (h' : t.leavesCommands u) : s.leavesCommands u :=
  ⟨h'.power.trans h.power, h'.admin.trans h.admin⟩

theorem State.signal_leavesCommands (s : State) (c : Completion) : s.leavesCommands (s.signal c) := by
  dsimp only [State.signal]
  repeat' split
  all_goals exact ⟨rfl, rfl⟩

theorem State.flushOne_leavesCommands (s : State) (n : Nat) : s.leavesCommands (s.flushOne n) := by
  dsimp only [State.flushOne]
  split
  · exact s.leavesCommands_refl
  · split
    · exact s.leavesCommands_refl
    · refine State.leavesCommands.trans ?_ (State.signal_leavesCommands ..)
      split <;> exact ⟨rfl, rfl⟩

theorem State.queuesNaming_leavesCommands (s : State) (n : Nat) (f : CmdQueue → CmdQueue) :
    s.leavesCommands (s.queuesNaming n f) := by
  unfold State.queuesNaming
  exact ⟨rfl, rfl⟩

theorem State.flushCq_leavesCommands (s : State) (n : Nat) : s.leavesCommands (s.flushCq n) := by
  have hflushed : s.leavesCommands ((s.cq n).held.foldl (fun s _ => s.flushOne n) s) :=
    List.foldlRecOn (motive := s.leavesCommands) _ _ s.leavesCommands_refl fun t ht _ _ => ht.trans (t.flushOne_leavesCommands n)
  rw [State.flushCq]
  exact hflushed.trans (State.queuesNaming_leavesCommands ..)

theorem State.postRecord_leavesCommands (s : State) (n : Nat) (c : Completion) : s.leavesCommands (s.postRecord n c) := by
  dsimp only [State.postRecord]
  split
  · exact s.signal_leavesCommands c
  · exact State.leavesCommands.trans (t := s.setCq n _) ⟨rfl, rfl⟩ (State.flushCq_leavesCommands ..)

/-- A command leaves the list with its record (R357). -/
theorem State.adminEnd_admin (s : State) (status tag tasks : Nat) :
    (s.adminEnd status tag tasks).cmd.admin = s.cmd.admin.drop 1 := by
  dsimp only [State.adminEnd]
  split
  · rfl
  · exact (State.postRecord_leavesCommands ..).admin

/-! ### CREATE (R298, R299, R327, R335, R343) -/

/-- The count of CREATE commands with one more (R335). -/
def State.countCreate (s : State) : State := { s with sec := { s.sec with creations := s.sec.creations + 1 } }

/-- Keys for one more slot are taken (R326). -/
def State.takeKey (s : State) : State := { s with sec := { s.sec with keyNext := s.sec.keyNext + 1 } }

theorem State.slot_of_emptySlot {s : State} {n : Nat} (h : s.emptySlot = some n) :
    1 ≤ n ∧ n < 64 ∧ SMap.find s.sec.slots n = none ∧ ∀ m, 1 ≤ m → m < n → SMap.find s.sec.slots m ≠ none := by
  obtain ⟨hempty, i, hi, hn, hbefore⟩ := List.find?_eq_some_iff_getElem.1 h
  simp only [List.getElem_map, List.getElem_range, List.length_map, List.length_range] at hi hn hbefore
  refine ⟨by omega, by omega, Option.isNone_iff_eq_none.1 hempty, fun m h1 hm hnone => ?_⟩
  have hnot := hbefore (m - 1) (by omega)
  rw [Nat.sub_add_cancel h1, hnone] at hnot
  exact absurd hnot (by decide)

section Create
variable {s : State} {ctx policy root save len tag : Nat} {world : Bool}

theorem exec_create_of_waits (hworld : world = true) (hbusy : ¬ s.sec.signQ = []) :
    exec (.create ctx world policy root save len tag) s = .next s := by
  change execCreate .. = _
  simp [execCreate, hworld, hbusy]

/-- What CREATE comes to once it does not wait (R28). -/
theorem exec_create_of_turn (hturn : world = false ∨ s.sec.signQ = []) :
    exec (.create ctx world policy root save len tag) s = .next
      (if s.countCreate.createOk ctx world root save len = false then s.countCreate.adminFault tag
        else if world = false then (s.countCreate.openCtx ctx false policy root save len 0 0).adminOk tag
        else if s.sec.debug ≠ 0 then s.countCreate.adminEnd 0x0B tag 0
        else match s.countCreate.emptySlot with
          | none => s.countCreate.adminEnd 0x0A tag 0
          | some n => ((s.countCreate.takeKey.fillSlot n ctx s.sec.keyNext).openCtx ctx true policy root save len n s.sec.keyNext).adminOk tag) := by
  have hgo : (world && !s.sec.signQ.isEmpty) = false := by rcases hturn with h | h <;> simp [h]
  change execCreate .. = _
  simp only [execCreate, hgo, Bool.false_eq_true, if_false, Bool.not_eq_true', bne_iff_ne, ne_eq]
  rfl

end Create

/-- A context that CREATE opened (R299, R335). -/
theorem State.ctx_openCtx (s : State) (ctx : Nat) (world : Bool) (policy root save len slot key : Nat) :
    (s.openCtx ctx world policy root save len slot key).ctx ctx =
      { state := .opened, root := root, world := world, slot := slot, keyId := key, saveBase := save, saveLen := len, policy := policy,
        chain := chain0 ctx world s.sec.creations } :=
  State.ctx_setCtx_same ..

/-! ### DESTROY (R299) -/

section Destroy
variable {s : State} {ctx : Nat} {x : Ctx} (tag : Nat)

theorem exec_destroy_of_free (h : SMap.find s.ctxs ctx = none) : exec (.destroy ctx tag) s = .next (s.adminFault tag) := by
  change execDestroy .. = _
  simp only [execDestroy, h]

theorem exec_destroy_of_found (h : SMap.find s.ctxs ctx = some x) : exec (.destroy ctx tag) s = .next
    (if x.state = .closing then s.adminOk tag else ((s.closeCtx ctx).settleClosing ctx).adminOk tag) := by
  change execDestroy .. = _
  simp only [execDestroy, h, beq_iff_eq]

end Destroy

/-! ### PARK and UNPARK (R326, R327) -/

/-- The package with the keys of a world wrapped under a generation into a blob, its cache lines dropped and its slot EMPTY. -/
def State.wrapKeys (s : State) (ctx blob gen : Nat) : State :=
  { s with sec := { s.sec with gens := SMap.insert s.sec.gens ctx gen, slots := SMap.erase s.sec.slots (s.ctx ctx).slot },
           mem := (s.mem.dropSlot (s.ctx ctx).keyId).write agentCp 7 (2 ^ 51 + blob)
             (parkBlob ctx (s.ctx ctx).slot gen (s.ctx ctx).keyId) false 0 }

section Park
variable {s : State} {ctx blob : Nat} (tag : Nat)

theorem exec_park_of_not_ok (h : s.parkOk ctx = false) : exec (.park ctx blob tag) s = .next (s.adminFault tag) := by
  change execPark .. = _
  simp [execPark, h]

variable (hblob : blob + 256 ≤ 2 ^ 51) (hhost : s.link.hostUp = true) (hidle : s.sec.signQ = [])
include hblob hhost hidle

theorem exec_park_of_ok (h : s.parkOk ctx = true) : exec (.park ctx blob tag) s = .next
    (((s.wrapKeys ctx blob (SMap.get s.sec.gens ctx 0 + 1)).setCtx ctx { s.ctx ctx with parked := true }).adminOk tag) := by
  change execPark .. = _
  simp only [execPark, State.wrapKeys, blobAddr, h, hhost, hidle, Nat.not_lt.2 hblob, List.isEmpty_nil, Bool.not_true, Bool.or_self,
    decide_false, Bool.false_eq_true, if_false]

theorem exec_unpark_of_parked (h : s.usable ctx = true) (hparked : (s.ctx ctx).parked = true) :
    exec (.unpark ctx blob tag) s = .next
      (if s.mem.bytesFor (Reader.of agentCp s.tick) (2 ^ 51 + blob) 256 ≠
          parkBlob ctx (s.ctx ctx).slot (SMap.get s.sec.gens ctx 0) (s.ctx ctx).keyId then s.adminFault tag
        else match s.emptySlot with
          | none => s.adminEnd 0x0A tag 0
          | some n => ((s.fillSlot n ctx (s.ctx ctx).keyId).setCtx ctx { s.ctx ctx with parked := false, slot := n }).adminOk tag) := by
  change execUnpark .. = _
  simp only [execUnpark, h, hparked, hhost, hidle, Nat.not_lt.2 hblob, List.isEmpty_nil, Bool.not_true, Bool.or_self, decide_false,
    Bool.false_eq_true, if_false, bne_iff_ne]
  rfl

end Park

/-! ### The statement -/

/-- Settles O43: CREATE by its operands, debug and the key slots, DESTROY by the state of its context, PARK by what the world owns, UNPARK by
its blob; a command leaves the list with its record, whatever queue takes that. -/
theorem contextCommands : Obligations.ContextCommands := by
  unfold Obligations.ContextCommands
  intro s ctx policy root save len blob tag n world s1 ok make idle c gen
  have hok (b : Bool) : ok = b → s.countCreate.createOk ctx world root save len = b := id
  refine ⟨fun hbad hturn => ?_, exec_create_of_waits, fun h hplain => ?_, fun h hworld hidle hdebug => ?_,
    fun h hworld hidle hdebug hfull => ?_, fun h hworld hidle hdebug hslot => ?_, State.slot_of_emptySlot, ?_,
    exec_destroy_of_free tag, fun x hx hstate => ?_, fun x hx hstate => ?_, fun h hblob hhost hidle => exec_park_of_ok tag hblob hhost hidle h,
    exec_park_of_not_ok tag, fun h hparked hblob hhost hidle => ?_, rfl, rfl, fun st => State.adminEnd_admin ..⟩
  · exact (exec_create_of_turn hturn).trans (by rw [if_pos (hok _ hbad)]; rfl)
  · exact (exec_create_of_turn (.inl hplain)).trans (by rw [hok _ h, if_neg Bool.noConfusion, if_pos hplain]; rfl)
  · exact (exec_create_of_turn (.inr hidle)).trans (by
      rw [hok _ h, if_neg Bool.noConfusion, if_neg (ne_of_eq_of_ne hworld Bool.noConfusion), if_pos hdebug]; rfl)
  · have hnone : s.countCreate.emptySlot = none := hfull
    exact (exec_create_of_turn (.inr hidle)).trans (by
      rw [hok _ h, if_neg Bool.noConfusion, if_neg (ne_of_eq_of_ne hworld Bool.noConfusion), if_neg (not_not.2 hdebug), hnone]; rfl)
  · have hsome : s.countCreate.emptySlot = some n := hslot
    exact (exec_create_of_turn (.inr hidle)).trans (by
      rw [hok _ h, if_neg Bool.noConfusion, if_neg (ne_of_eq_of_ne hworld Bool.noConfusion), if_neg (not_not.2 hdebug), hsome]; rfl)
  · dsimp only
    rw [State.ctx_openCtx]
    exact ⟨rfl, rfl, rfl, rfl, rfl, rfl, rfl⟩
  · rw [exec_destroy_of_found tag hx, if_neg hstate]
  · rw [exec_destroy_of_found tag hx, if_pos hstate]
  · rw [exec_unpark_of_parked tag hblob hhost hidle h hparked]
    refine ⟨fun hbad => by rw [if_pos hbad], fun hgood hnone => ?_, fun hgood hslot => ?_⟩
    · rw [if_neg (not_not.2 hgood), hnone]
    · rw [if_neg (not_not.2 hgood), hslot]

end Sys2Proof.Machine
end

section
/-! PROOFS. What stays of a core while its storage, its units and its code change: its power, its saved images, its foreground set
(R310, R319); and what moves only banks and cores. -/

namespace Sys2Proof.Machine

/-! ### One core -/

/-- What gating and swaps set of a core: its power, whether its images are saved, its foreground set. -/
def Core.gate (c : Core) : Bool × Bool × Nat := (c.on, c.saved, c.fgSet)

@[simp] theorem Core.gate_withUnits (c units : Core) : (c.withUnits units).gate = c.gate := rfl
@[simp] theorem Core.gate_ownedBy (c : Core) (sid : Nat) : (c.ownedBy sid).gate = c.gate := rfl
@[simp] theorem Core.gate_lanesOn (c : Core) (set : Nat) : (c.lanesOn set).gate = c.gate := rfl
@[simp] theorem Core.gate_setB (c : Core) (l v : Nat) : (c.setB l v).gate = c.gate := rfl
@[simp] theorem Core.gate_loadMicro (c : Core) (o : List Byte) (load key : Nat) : (c.loadMicro o load key).gate = c.gate := rfl
@[simp] theorem Core.gate_formCounts (c : Core) (t : Tile) (r0 n : Nat) : (c.formCounts t r0 n).gate = c.gate := rfl

@[simp] theorem Core.gate_setHalf (c : Core) (h : Nat) (v : ImemHalf) : (c.setHalf h v).gate = c.gate := by
  unfold Core.setHalf
  split <;> rfl

@[simp] theorem Core.gate_setSpBits (c : Core) (off len v : Nat) : (c.setSpBits off len v).gate = c.gate := by
  dsimp only [Core.setSpBits]
  split
  · rfl
  · split <;> rfl

/-- Changes that each leave a core's gate leave it together. -/
theorem Core.gate_foldl {α : Type} {f : Core → α → Core} (h : ∀ (c : Core) (a : α), (f c a).gate = c.gate) (l : List α) (c : Core) :
    (l.foldl f c).gate = c.gate :=
  List.foldlRecOn (motive := fun d : Core => d.gate = c.gate) l f rfl fun d hd a _ => (h d a).trans hd

@[simp] theorem Core.gate_writeDense (c : Core) (t : Tile) (bs : List Byte) : (c.writeDense t bs).gate = c.gate :=
  Core.gate_foldl (fun _ _ => Core.gate_foldl (fun _ _ => Core.gate_setSpBits ..) _ _) _ _

@[simp] theorem Core.gate_putBBytes (c : Core) (at_ : Nat) (bs : List Byte) : (c.putBBytes at_ bs).gate = c.gate :=
  Core.gate_foldl (fun _ _ => Core.gate_setB ..) _ _

/-! ### The cores of the package -/

/-- Every core has the power, the saved images and the foreground set that it had. -/
structure State.sameGates (s t : State) : Prop where
  gate : ∀ n, (t.core n).gate = (s.core n).gate

theorem State.sameGates_refl (s : State) : s.sameGates s := ⟨fun _ => rfl⟩

theorem State.sameGates.trans {s t u : State} (h : s.sameGates t) (h' : t.sameGates u) : s.sameGates u :=
  ⟨fun n => (h'.gate n).trans (h.gate n)⟩

theorem State.sameGates.on {s t : State} (h : s.sameGates t) (n : Nat) : (t.core n).on = (s.core n).on := congrArg (·.1) (h.gate n)
theorem State.sameGates.saved {s t : State} (h : s.sameGates t) (n : Nat) : (t.core n).saved = (s.core n).saved :=
  congrArg (·.2.1) (h.gate n)
theorem State.sameGates.fgSet {s t : State} (h : s.sameGates t) (n : Nat) : (t.core n).fgSet = (s.core n).fgSet :=
  congrArg (·.2.2) (h.gate n)

theorem State.sameGates_of_cores {s t : State} (h : t.cores = s.cores) : s.sameGates t := ⟨fun n => by rw [State.core, h]; rfl⟩

theorem State.setStrand_sameGates (s : State) (n : Nat) (x : Strand) : s.sameGates (s.setStrand n x) := State.sameGates_of_cores rfl
theorem State.setCluster_sameGates (s : State) (n : Nat) (x : Cluster) : s.sameGates (s.setCluster n x) := State.sameGates_of_cores rfl
theorem State.setGroup_sameGates (s : State) (n : Nat) (x : Group) : s.sameGates (s.setGroup n x) := State.sameGates_of_cores rfl

theorem State.sameGates_foldl {α : Type} {f : State → α → State} (h : ∀ (s : State) (a : α), s.sameGates (f s a)) (l : List α)
    (s : State) : s.sameGates (l.foldl f s) :=
  List.foldlRecOn (motive := s.sameGates) l f s.sameGates_refl fun t ht a _ => ht.trans (h t a)

theorem State.sameGates_setCore {s : State} {n : Nat} {c : Core} (h : c.gate = (s.core n).gate) : s.sameGates (s.setCore n c) := by
  refine ⟨fun m => ?_⟩
  by_cases hm : m = n
  · subst hm; rw [State.core_setCore_same, h]
  · rw [State.core_setCore_other hm]

/-- What holds at the start and after each step that succeeds holds where all of them succeed. -/
theorem holds_of_foldl_bind {σ α : Type} {p : σ → Prop} {step : σ → α → Option σ} (h : ∀ x a y, p x → step x a = some y → p y)
    {l : List α} {x y : σ} (hx : p x) (hy : l.foldl (fun r a => r.bind fun x => step x a) (some x) = some y) : p y :=
  List.foldlRecOn (motive := fun r : Option σ => ∀ y, r = some y → p y) l _ (fun _ hsome => Option.some.inj hsome ▸ hx)
    (fun r hr a _ y hy => by
      obtain ⟨z, hz, hstep⟩ := Option.bind_eq_some_iff.1 hy
      exact h z a y (hr z hz) hstep) y hy

/-! ### Tiles (R277, R317, R380) -/

theorem State.zeroTile_sameGates (s : State) (k : Nat) (t : Tile) : s.sameGates (s.zeroTile k t) := by
  dsimp only [State.zeroTile]
  split <;> exact State.sameGates_setCore rfl

theorem State.fillTiles_sameGates (s : State) (k : Nat) (o : List Byte) (ts : SMap Tile) : s.sameGates (s.fillTiles k o ts) := by
  refine (State.sameGates_foldl (fun (s : State) t => s.zeroTile_sameGates k t) (ts.map (·.2)) s).trans
    (State.sameGates_foldl (fun s i => ?_) _ _)
  dsimp only
  split
  · exact State.sameGates_setCore (Core.gate_writeDense ..)
  · exact s.sameGates_refl

theorem State.restageTile_sameGates {s t : State} {k ctx : Nat} {bound : Nat → Nat} {a b : Tile}
    (h : s.restageTile k ctx bound a = some (t, b)) : s.sameGates t := by
  refine holds_of_foldl_bind (p := fun x : State × Tile => s.sameGates x.1) (fun x e y hx hy => ?_) s.sameGates_refl h
  split at hy
  · cases hy
  · cases hy; exact hx
  · cases hy
    refine hx.trans (State.sameGates_setCore ?_)
    split <;> simp

theorem State.restage_sameGates {s : State} {k ctx : Nat} {bound : Nat → Nat} {on : Nat → Bool} {ts : SMap Tile} {x : State × SMap Tile}
    (h : s.restage k ctx bound on ts = some x) : s.sameGates x.1 := by
  refine holds_of_foldl_bind (p := fun x : State × SMap Tile => s.sameGates x.1) (fun x e y hx hy => ?_) s.sameGates_refl h
  split at hy
  · cases hy; exact hx
  · obtain ⟨z, hz, rfl⟩ := Option.map_eq_some_iff.1 hy
    exact hx.trans (State.restageTile_sameGates hz)

theorem State.restageGroup_sameGates {s t : State} {gid : Nat} (h : s.restageGroup gid = some t) : s.sameGates t := by
  dsimp only [State.restageGroup] at h
  split at h <;>
  · obtain ⟨x, hx, rfl⟩ := Option.map_eq_some_iff.1 h
    exact (State.restage_sameGates hx).trans (State.setCluster_sameGates ..)

/-! ### Code (R331, R385) -/

theorem State.takeLoadId_cores (s : State) (gid : Nat) : (s.takeLoadId gid).1.cores = s.cores := by
  unfold State.takeLoadId
  split <;> rfl

theorem State.writeHalf_sameGates (s : State) (gid core h pc : Nat) : s.sameGates (s.writeHalf gid core h pc) := by
  dsimp only [State.writeHalf]
  refine State.sameGates.trans ?_ (State.sameGates_setCore rfl)
  split
  · exact s.sameGates_refl
  · have htaken : s.sameGates (s.takeLoadId gid).1 := State.sameGates_of_cores (s.takeLoadId_cores gid)
    exact htaken.trans (State.sameGates_setCore ((Core.gate_setHalf ..).trans (htaken.gate core).symm))

theorem State.writeMicro_sameGates (s : State) (gid core : Nat) : s.sameGates (s.writeMicro gid core) := State.sameGates_setCore rfl

theorem State.reloadOn_sameGates (s : State) (gid : Nat) : s.sameGates (s.reloadOn gid) := by
  refine State.sameGates_foldl (fun s e => ?_) _ s
  dsimp only
  split
  · exact (State.writeHalf_sameGates ..).trans (State.writeMicro_sameGates ..)
  · exact State.writeHalf_sameGates ..

/-! ### Only banks, only cores -/

/-- Strands and cores alone have changed. -/
def State.onlyBanks (s t : State) : Prop := t = { s with strands := t.strands, cores := t.cores }

theorem State.onlyBanks_refl (s : State) : s.onlyBanks s := rfl

theorem State.onlyBanks.trans {s t u : State} (h : s.onlyBanks t) (h' : t.onlyBanks u) : s.onlyBanks u := by
  unfold State.onlyBanks at *
  rw [h', h]

theorem State.onlyBanks_foldl {α : Type} {f : State → α → State} (h : ∀ (s : State) (a : α), s.onlyBanks (f s a)) (l : List α)
    (s : State) : s.onlyBanks (l.foldl f s) :=
  List.foldlRecOn (motive := s.onlyBanks) l f s.onlyBanks_refl fun t ht a _ => ht.trans (h t a)

theorem State.onlyBanks.mem {s t : State} (h : s.onlyBanks t) : t.mem = s.mem := by rw [h]
theorem State.onlyBanks.cmd {s t : State} (h : s.onlyBanks t) : t.cmd = s.cmd := by rw [h]
theorem State.onlyBanks.group {s t : State} (h : s.onlyBanks t) (n : Nat) : t.group n = s.group n := by rw [h]; rfl
theorem State.onlyBanks.cluster {s t : State} (h : s.onlyBanks t) (n : Nat) : t.cluster n = s.cluster n := by rw [h]; rfl

theorem State.setCore_onlyBanks (s : State) (n : Nat) (c : Core) : s.onlyBanks (s.setCore n c) := rfl
theorem State.setStrand_onlyBanks (s : State) (n : Nat) (x : Strand) : s.onlyBanks (s.setStrand n x) := rfl

theorem State.zeroTile_onlyBanks (s : State) (k : Nat) (t : Tile) : s.onlyBanks (s.zeroTile k t) := by
  dsimp only [State.zeroTile]
  split <;> exact State.setCore_onlyBanks ..

theorem State.fillTiles_onlyBanks (s : State) (k : Nat) (o : List Byte) (ts : SMap Tile) : s.onlyBanks (s.fillTiles k o ts) := by
  refine (State.onlyBanks_foldl (fun (s : State) t => s.zeroTile_onlyBanks k t) (ts.map (·.2)) s).trans
    (State.onlyBanks_foldl (fun s i => ?_) _ _)
  dsimp only
  split
  · exact State.setCore_onlyBanks ..
  · exact s.onlyBanks_refl

end Sys2Proof.Machine
end

section
/-! PROOFS. Gating, retention, waking and draining of cores (R319, R320, R328, R386, R400): one equation for each way in which the power of a
core changes. -/

namespace Sys2Proof.Machine

/-! ### Gating (R319, R400) -/

section Gating
variable {s : State} {n : Nat} (hn : n < 384) (hlost : s.power.lost = false) (hoff : s.power.off = false)
  (hkiln : s.power.kiln = .running) (hown : (s.core n).ownership ≠ .draining) (hon : (s.core n).on = true)
include hn hlost hoff hkiln hown hon

/-- What a gating comes to where the package lets one be. -/
theorem exec_coreGate_of_may : exec (.coreGate n) s = .next
    (if s.coreClaimed n = false then
      if (s.strandsOn n).isEmpty then ((s.setCore n (s.core n).gated).settleResident).settleDie (n / 48) else s
    else if s.mayRetain (s.gateSet n) (s.groupsOver n (s.gateSet n)) then
      (((s.groupsOver n (s.gateSet n)).foldl State.retainGroup ((s.gateSet n).foldl State.retain s)).settleResident).settleDie (n / 48)
    else s) := by
  have hopen : (!(s.core n).on || decide (384 ≤ n) || !s.alarms || (s.core n).ownership == .draining) = false := by
    simp [State.alarms, hn, hlost, hoff, hkiln, hown, hon]
  change execCoreGate .. = _
  simp only [execCoreGate, hopen, Bool.false_eq_true, if_false, Bool.not_eq_true']

end Gating

theorem exec_coreGate_of_off {s : State} {n : Nat} (h : (s.core n).on = false) : exec (.coreGate n) s = .next s := by
  change execCoreGate .. = _
  simp [execCoreGate, h]

/-- Cores are retained only where the command processor expects a wait past GATEIDLE, and every strand on them has stopped to wait, with its
queues empty (R316, R319). -/
theorem State.waits_of_mayRetain {s : State} {cores groups : List Nat} (h : s.mayRetain cores groups = true) :
    s.power.gateIdle ≠ 0 ∧ s.power.gateIdle < s.power.expected ∧ ∀ m ∈ cores, ∀ x ∈ s.strandsOn m,
      (s.strand x).waits = true ∧ (s.strand x).stopped = true ∧ s.queuesQuiet x = true := by
  simp only [State.mayRetain, Bool.and_eq_true, bne_iff_ne, decide_eq_true_eq, List.all_eq_true, and_assoc] at h
  obtain ⟨hidle, hexpected, hstrands, -⟩ := h
  exact ⟨hidle, hexpected, hstrands⟩

/-! ### Waking (R318, R320, R386) -/

theorem State.clearRetention_core (s : State) (n m : Nat) : (s.clearRetention n).core m = s.core m := rfl

theorem exec_coreWake_of_on {s : State} {n : Nat} (h : (s.core n).on = true) : exec (.coreWake n) s = .next s := by
  change execCoreWake .. = _
  simp [execCoreWake, h]

/-- The cores with saved images that are gated, and wake, together with a core. -/
def State.sleepers (s : State) (n : Nat) : List Nat := (s.gateSet n).filter fun m => (s.core m).saved

theorem exec_coreWake_of_saved {s : State} {n : Nat} (hoff : (s.core n).on = false) (hsaved : (s.core n).saved = true)
    (hpower : s.power.lost = false) (hpack : s.power.off = false) (hsome : s.sleepers n ≠ []) : exec (.coreWake n) s = .next
      (if !(s.sleepers n).all s.retentionGood then s.loseCores (s.sleepers n) (s.groupsOver n (s.sleepers n))
      else if s.mayWake (s.groupsOver n (s.sleepers n)) then
        (s.wake (s.sleepers n) (s.groupsOver n (s.sleepers n))).setDie (n / 48) { s.die (n / 48) with off := false }
      else s) := by
  have hlist : (s.sleepers n).isEmpty = false := by simpa using hsome
  change execCoreWake .. = _
  unfold State.sleepers at *
  simp only [execCoreWake, hoff, hsaved, hpower, hpack, hlist, Bool.not_true, Bool.or_self, Bool.false_eq_true, if_false]

theorem State.wakeGroup_sameGates (s : State) (gid : Nat) : s.sameGates (s.wakeGroup gid) := by
  dsimp only [State.wakeGroup]
  refine (State.sameGates.trans ?_ (State.setGroup_sameGates ..)).trans (State.reloadOn_sameGates ..)
  refine State.sameGates_foldl (fun s n => ?_) _ s
  split
  · exact State.setStrand_sameGates ..
  · exact s.sameGates_refl

/-- Cores that wake have power, and no saved images (R320). -/
theorem State.core_wake {s : State} {cores : List Nat} (groups : List Nat) {m : Nat} (hm : m ∈ cores) :
    ((s.wake cores groups).core m).on = true ∧ ((s.wake cores groups).core m).saved = false := by
  let awake (t : State) : Prop := (t.core m).on = true ∧ (t.core m).saved = false
  have hpowered : awake (cores.foldl (fun s n => (s.setCore n { s.core n with on := true, saved := false }).clearRetention n) s) := by
    refine foldl_holds (p := awake) hm (fun r b _ hr => ?_) (fun r => ?_) s
    · by_cases hb : m = b
      · subst hb; simp [awake, State.clearRetention_core]
      · simpa [awake, State.clearRetention_core, State.core_setCore_other hb] using hr
    · simp [awake, State.clearRetention_core]
  have hkept {t u : State} (h : t.sameGates u) (ht : awake t) : awake u := ⟨(h.on m).trans ht.1, (h.saved m).trans ht.2⟩
  dsimp only [State.wake]
  split
  · exact hpowered
  next t ht =>
    have hstaged : awake t := hkept (holds_of_foldl_bind (p := State.sameGates _)
      (fun x g y hx hy => hx.trans (State.restageGroup_sameGates hy)) (State.sameGates_refl _) ht) hpowered
    exact hkept (State.sameGates_foldl State.wakeGroup_sameGates groups t) hstaged

/-- The items of groups whose images fail their checks are LOST (R318). -/
theorem State.status_loseCores {s : State} (cores : List Nat) {groups : List Nat} {m : Nat} (hm : m ∈ groups)
    (h : (s.launch (s.group m).launch).status = none) :
    ((s.loseCores cores groups).launch (s.group m).launch).status = some .lost := by
  have hlost := State.status_endLaunches_of_mem (mem_foldl_insertNat (fun g => (s.group g).launch) hm []) h .lost {}
  refine Eq.trans ?_ hlost
  exact List.foldlRecOn (motive := fun t : State => (t.launch (s.group m).launch).status = _) cores _ rfl fun t ht _ _ => ht

/-! ### Drains (R328) -/

theorem exec_coreDrainComplete_of_worked {s : State} {n : Nat} (h : s.coreWorked n = true) :
    exec (.coreDrainComplete n) s = .next s := by
  change execCoreDrainComplete .. = _
  simp [execCoreDrainComplete, h]

theorem exec_coreDrainComplete_of_not_draining {s : State} {n : Nat} (h : (s.core n).ownership ≠ .draining) :
    exec (.coreDrainComplete n) s = .next s := by
  change execCoreDrainComplete .. = _
  simp [execCoreDrainComplete, h]

/-- A core that has drained, cleared and CLEAN, its tiles named no more, also where the snapshot has latched them (R328, R497). -/
def State.coreDrained (s : State) (n : Nat) : State :=
  let t := (s.setCore n { (s.core n).gated with on := (s.core n).on, ownership := .clean }).setCluster (n / 8)
    ((s.cluster (n / 8)).withoutCore (n % 8))
  let latched := fun (e : Nat × Cluster) => (e.1, if e.1 = n / 8 then e.2.withoutCore (n % 8) else e.2)
  let clear := fun (x : Snap) => { x with cores := SMap.erase x.cores n, strands := x.strands.filter (fun e => coreOf e.1 != n),
                                          clusters := x.clusters.map latched }
  { t with power := { t.power with snap := t.power.snap.map clear } }

theorem exec_coreDrainComplete_of_empty {s : State} {n : Nat} (hown : (s.core n).ownership = .draining) (hempty : s.coreEmpty n = true)
    (hidle : s.coreWorked n = false) : exec (.coreDrainComplete n) s = .next (s.coreDrained n).settleResident.settleAll := by
  change execCoreDrainComplete .. = _
  simp only [execCoreDrainComplete, hown, hempty, hidle, bne_self_eq_false, Bool.not_true, Bool.or_self, Bool.false_eq_true, if_false]
  rfl

theorem State.core_coreDrained (s : State) (n : Nat) :
    (s.coreDrained n).core n = { (s.core n).gated with on := (s.core n).on, ownership := .clean } := State.core_setCore_same ..

theorem State.core_coreDrained_other {s : State} {n m : Nat} (h : m ≠ n) : (s.coreDrained n).core m = s.core m := State.core_setCore_other h

/-- No handle of the cluster names a tile of a core that has drained. -/
theorem State.tiles_coreDrained (s : State) (n : Nat) {e : Nat × Tile}
    (he : e ∈ ((s.coreDrained n).cluster (n / 8)).tiles ++ ((s.coreDrained n).cluster (n / 8)).shadow) : e.2.core ≠ n % 8 := by
  have hcluster : (s.coreDrained n).cluster (n / 8) = (s.cluster (n / 8)).withoutCore (n % 8) := State.cluster_setCluster_same ..
  rw [hcluster] at he
  rcases List.mem_append.1 he with he | he <;> exact bne_iff_ne.1 (List.mem_filter.1 he).2

/-! ### The statement -/

/-- Settles O48: a core is gated by whether a group claims it, wakes by the checks of its images, and drains by what is at work there. -/
theorem corePower : Obligations.CorePower := by
  unfold Obligations.CorePower
  intro s n c ss cores gs saved asleep may wakes good cleared
  have hgate : may → _ := fun ⟨hn, hlost, hoff, hkiln, hown, hon⟩ => exec_coreGate_of_may hn hlost hoff hkiln hown hon
  refine ⟨fun hmay hnone hfree => ?_, fun hmay hclaimed hretain => ?_, fun hmay hclaimed hbusy => ?_, State.waits_of_mayRetain,
    exec_coreGate_of_off, fun ⟨hoff, hsaved, hlost, hpack, hsome⟩ => exec_coreWake_of_saved hoff hsaved hlost hpack hsome,
    fun m hm => State.core_wake asleep hm, fun m hm => State.status_loseCores saved hm, exec_coreWake_of_on, ?_,
    exec_coreDrainComplete_of_worked, fun hown hempty hidle => ?_, exec_coreDrainComplete_of_not_draining⟩
  · have hempty : (s.strandsOn n).isEmpty = true := List.isEmpty_iff.2 hnone
    rw [hgate hmay, if_pos hfree, if_pos hempty]
  · rw [hgate hmay, if_neg (ne_of_eq_of_ne hclaimed Bool.noConfusion), if_pos hretain]
  · rw [hgate hmay, if_neg (ne_of_eq_of_ne hclaimed Bool.noConfusion), if_neg (ne_true_of_eq_false hbusy)]
  · exact ⟨rfl, rfl, rfl, rfl, rfl, rfl, rfl, rfl, rfl, rfl⟩
  · have hcleared : cleared.core n = { c.gated with on := c.on, ownership := .clean } := State.core_setCore_same ..
    refine ⟨s.coreDrained n, exec_coreDrainComplete_of_empty hown hempty hidle, rfl, rfl, (s.core_coreDrained n).trans hcleared.symm, ?_⟩
    rw [hcleared]
    exact ⟨rfl, rfl, rfl, rfl, rfl, rfl, fun e he => s.tiles_coreDrained n he, fun m hm => State.core_coreDrained_other hm⟩

end Sys2Proof.Machine
end

section
/-! PROOFS. Loss and return of power, bring-up (R321, R322, R502): the save leaves no core on, the return ends what may not resume, a stage of
bring-up completes or fails. -/

namespace Sys2Proof.Machine

/-! ### Tables -/

theorem SMap.mem_of_find {α : Type} {m : SMap α} {k : Nat} {v : α} (h : SMap.find m k = some v) : (k, v) ∈ m := by
  induction m with
  | nil => cases h
  | cons e m ih =>
    simp only [SMap.find] at h
    split at h
    next hk => cases h; subst hk; exact List.mem_cons_self
    next => exact List.mem_cons_of_mem _ (ih h)

theorem SMap.find_map {α β : Type} (m : SMap α) (f : α → β) (k : Nat) :
    SMap.find (m.map fun e => (e.1, f e.2)) k = (SMap.find m k).map f := by
  induction m with
  | nil => rfl
  | cons e m ih =>
    simp only [List.map_cons, SMap.find]
    split
    · rfl
    · exact ih

/-! ### The save (R321) -/

/-- A core leaves power: with its images kept where a strand is on it, else with nothing in it. -/
def State.powerDown (s : State) (n : Nat) : State := if (s.strandsOn n).isEmpty then s.setCore n (s.core n).gated else s.retain n

theorem State.on_retain (s : State) (n m : Nat) : ((s.retain n).core m).on = if m = n then false else (s.core m).on := by
  dsimp only [State.retain]
  split
  next hm => subst hm; rw [State.core_setCore_same]
  next hm =>
    rw [State.core_setCore_other hm]
    refine State.sameGates.on (State.sameGates.trans (State.sameGates_of_cores ?_) (State.sameGates_foldl (fun t x => ?_) _ _)) m
    · rfl
    · split
      · exact State.setStrand_sameGates ..
      · exact t.sameGates_refl

theorem State.on_powerDown (s : State) (n m : Nat) : ((s.powerDown n).core m).on = if m = n then false else (s.core m).on := by
  unfold State.powerDown
  split
  · by_cases hm : m = n
    · subst hm; rw [State.core_setCore_same, if_pos rfl]; rfl
    · rw [State.core_setCore_other hm, if_neg hm]
  · exact s.on_retain n m

/-- Once every core that has power has left it, none has. -/
theorem State.on_powerDown_all (s : State) (n : Nat) :
    (((s.cores.filter fun e => e.2.on).foldl (fun s e => s.powerDown e.1) s).core n).on = false := by
  have hkeep (t : State) (e : Nat × Core) (ht : (t.core n).on = false) : ((t.powerDown e.1).core n).on = false := by
    rw [State.on_powerDown, ht, ite_self]
  cases hon : (s.core n).on with
  | false => exact List.foldlRecOn (motive := fun t : State => (t.core n).on = false) _ _ hon fun t ht e _ => hkeep t e ht
  | true =>
    cases hfind : SMap.find s.cores n with
    | none => rw [State.core, SMap.get, hfind] at hon; cases hon
    | some c =>
      have hc : c.on = true := by rwa [State.core, SMap.get, hfind] at hon
      refine foldl_holds (p := fun t : State => (t.core n).on = false) (List.mem_filter.2 ⟨SMap.mem_of_find hfind, hc⟩)
        (fun t e _ ht => hkeep t e ht) (fun t => ?_) s
      rw [State.on_powerDown, if_pos rfl]

/-- The save leaves no group RUNNING or SHADOWED (R398). -/
theorem Group.state_kept (g : Group) : g.kept.state ≠ .running ∧ g.kept.state ≠ .shadowed := by
  unfold Group.kept
  split
  · exact ⟨by simp, by simp⟩
  next h => simpa [not_or] using h

theorem State.saveAll_spec (s : State) : s.saveAll.power.off = true ∧ (∀ n, (s.saveAll.core n).on = false) ∧
    ∀ e ∈ s.saveAll.cmd.groups, e.2.state ≠ .running ∧ e.2.state ≠ .shadowed := by
  refine ⟨rfl, fun n => ?_, fun e he => ?_⟩
  · dsimp only [State.saveAll, State.settleResident, State.core]
    exact State.on_powerDown_all _ n
  · obtain ⟨e, -, rfl⟩ := List.mem_map.1 he
    exact Group.state_kept e.2

theorem exec_powerLossWarning_of_on {s : State} (hoff : s.power.off = false) : exec .powerLossWarning s = .next
    (if ({ s with power := { s.power with lost := true } } : State).saveReady then
      ({ s with power := { s.power with lost := true } } : State).saveAll else { s with power := { s.power with lost := true } }) := by
  change execPowerLossWarning s = _
  simp only [execPowerLossWarning, State.settleLoss, hoff, Bool.not_false, Bool.and_self, Bool.true_and]

theorem State.stopped_of_saveReady {s : State} (h : s.saveReady = true) :
    ∀ e ∈ s.strands, e.2.stopped = true ∧ s.queuesQuiet e.1 = true := by
  simp only [State.saveReady, Bool.and_eq_true, List.all_eq_true] at h
  exact h.1

/-! ### The return of power (R322, R479)

The steps of the return, in order. -/

/-- Power is back, with its registers at their reset values and bring-up at its start. -/
def State.powered (s : State) : State :=
  { s with power := { s.power.coldRegs with dtime := s.power.dtime + Config.freeNat s.tick, lost := false, off := false, stage := 0,
                                            err := 0, kiln := .running } }

/-- The launches of groups that were running and may not resume. -/
def State.lostItems (s : State) : List Nat :=
  (s.cmd.groups.filter fun e => e.2.ran && (e.2.state == .imaged || !s.mayResume e.1)).foldl (fun l e => insertNat l e.2.launch) []

/-- Those of them that are open complete LOST. -/
def State.loseItems (s : State) : State := s.endLaunches (s.lostItems.filter fun l => (s.launch l).status == none) .lost {}

/-- Preloads go back to the pool. -/
def State.returnPreloads (s : State) : State :=
  (s.cmd.groups.filter fun e => e.2.state == .preloaded || (e.2.state == .switching && e.2.entering && e.2.prior == .preloaded)).foldl
    (fun s e => s.dropPreload e.1 true) s

/-- Tasks that had not started are set up again. -/
def State.unloadWaking (s : State) : State :=
  { s with cmd := { s.cmd with groups := s.cmd.groups.map fun e =>
    (e.1, if e.2.state == .waking then { e.2 with halves := [], loadId := none } else e.2) } }

/-- Contexts whose key slot is not restored are BROKEN (R326). -/
def State.failSlots (s : State) : State := s.slotFails.foldl (fun s c => (s.endLaunches (s.runningOf c) .lost {}).breakCtx c) s

/-- A cluster after a loss of power: its engines and its TLB have nothing. -/
def Cluster.cold (c : Cluster) : Cluster := { c with ceq := [], tlb := [] }

/-- Links, sessions, engines, caches and registers as after a cold start. -/
def State.coldParts (s : State) : State :=
  { s with clusters := s.clusters.map (fun e => (e.1, e.2.cold)), dies := s.dies.map fun e => (e.1, e.2.cold),
           cmd := { s.cmd with age := 10000, reserve := 0, msix := [] }, sec := { s.sec with spdm := none, challenge := none },
           link := { s.link with packets := [], cols := [], colData := [], outbox := [], flows := [], peers := [], hostUp := false,
                                 hostFailed := false, ports := [], ucie := [], pto := 2000, kai := 250, sysid := 0, asks := [] } }

/-- What a return of power ends with, whatever state the groups and contexts are in by then. -/
def State.restart (s : State) : State := s.lostMemory.coldParts.bump

theorem State.restart_power (s : State) : s.restart.power = s.power := rfl
theorem State.restart_launch (s : State) (n : Nat) : s.restart.launch n = s.launch n := rfl

theorem State.restart_cluster (s : State) (k : Nat) : (s.restart.cluster k).ceq = [] ∧ (s.restart.cluster k).tlb = [] := by
  have hfind : SMap.find s.restart.clusters k = (SMap.find s.clusters k).map Cluster.cold :=
    SMap.find_map s.clusters Cluster.cold k
  rw [State.cluster, SMap.get, hfind]
  cases SMap.find s.clusters k <;> exact ⟨rfl, rfl⟩

/-- The package once power has returned. -/
def State.returned (s : State) : State := s.powered.loseItems.returnPreloads.unloadWaking.failSlots.restart

theorem exec_powerReturn_of_on {s : State} (h : s.power.off = false) : exec .powerReturn s = .next s := by
  change execPowerReturn s = _
  simp [execPowerReturn, h]

theorem exec_powerReturn_of_off {s : State} (h : s.power.off = true) : exec .powerReturn s = .next s.returned := by
  change execPowerReturn s = _
  simp only [execPowerReturn, h, Bool.not_true, Bool.false_eq_true, if_false, State.returned, State.restart, State.coldParts, State.failSlots,
    State.unloadWaking, State.returnPreloads, State.loseItems, State.lostItems, State.powered, Cluster.cold]

theorem State.returnPreloads_leavesStatuses (s : State) : s.leavesStatuses s.returnPreloads :=
  State.leavesStatuses_foldl (fun (s : State) (e : Nat × Group) => s.dropPreload_leavesStatuses e.1 true) _ s

theorem State.unloadWaking_leavesStatuses (s : State) : s.leavesStatuses s.unloadWaking := State.leavesStatuses_of_eq rfl rfl

theorem State.failSlots_power (s : State) : s.failSlots.power = s.power :=
  List.foldlRecOn (motive := fun t : State => t.power = s.power) s.slotFails _ rfl fun _ ht _ _ =>
    (State.breakCtx_power ..).trans ((State.endLaunches_power ..).trans ht)

theorem State.status_failSlots_of_some {s : State} {n : Nat} {x : Status} (h : (s.launch n).status = some x) :
    (s.failSlots.launch n).status = some x :=
  List.foldlRecOn (motive := fun t : State => (t.launch n).status = some x) s.slotFails _ h fun _ ht c _ =>
    State.status_breakCtx_of_some (State.status_endLaunches_of_some ht ..) c

theorem State.returned_power (s : State) : s.returned.power = s.powered.power :=
  calc s.returned.power = s.powered.loseItems.returnPreloads.unloadWaking.failSlots.power := State.restart_power _
    _ = s.powered.loseItems.returnPreloads.unloadWaking.power := State.failSlots_power _
    _ = s.powered.loseItems.power := ((State.returnPreloads_leavesStatuses _).trans (State.unloadWaking_leavesStatuses _)).power
    _ = s.powered.power := State.endLaunches_power ..

/-- The item of a group that was running and may not resume is LOST (R322). -/
theorem State.returned_status {s : State} {gid : Nat} {g : Group} (hg : SMap.find s.cmd.groups gid = some g) (hran : g.ran = true)
    (hgone : g.state = .imaged ∨ s.mayResume gid = false) (h : (s.launch g.launch).status = none) :
    (s.returned.launch g.launch).status = some .lost := by
  have hitem : g.launch ∈ s.powered.lostItems := by
    refine mem_foldl_insertNat (fun e : Nat × Group => e.2.launch) (a := (gid, g)) (List.mem_filter.2 ⟨SMap.mem_of_find hg, ?_⟩) []
    have hresume : s.powered.mayResume gid = s.mayResume gid := rfl
    rcases hgone with h | h <;> simp [hran, hresume, h]
  have hopen : (s.powered.launch g.launch).status = none := h
  have hlost : (s.powered.loseItems.launch g.launch).status = some .lost :=
    State.status_endLaunches_of_mem (List.mem_filter.2 ⟨hitem, by rw [hopen]; rfl⟩) hopen .lost {}
  have hback : (s.powered.loseItems.returnPreloads.unloadWaking.launch g.launch).status = some .lost :=
    (((State.returnPreloads_leavesStatuses _).trans (State.unloadWaking_leavesStatuses _)).status g.launch).trans hlost
  rw [State.returned, State.restart_launch]
  exact State.status_failSlots_of_some hback

/-! ### Bring-up (R451, R459, R489, R502) -/

/-- A machine-check record changes the ring of records and its count; the rest of power and health stands (R496). -/
theorem State.deliverCheck_power (s : State) (raw : List Byte) : (s.deliverCheck raw).power =
    { s.power with mcRing := SMap.insert s.power.mcRing (s.power.mcCount % 256) raw, mcCount := s.power.mcCount + 1 } :=
  (State.postRecord_leavesCommands ..).power

theorem State.commitRegion_power (s : State) (ctx region : Nat) : (s.commitRegion ctx region).power = s.power := rfl

/-- What a stage does leaves the stage itself and ERR (R502). -/
theorem State.stageDone_stage (s : State) (n : Nat) :
    (s.stageDone n).power.stage = s.power.stage ∧ (s.stageDone n).power.err = s.power.err := by
  unfold State.stageDone
  split
  · exact ⟨rfl, rfl⟩
  · exact ⟨rfl, rfl⟩
  · have hpower := List.foldlRecOn (motive := fun t : State => t.power = s.power) s.ctxs (fun s c => c.2.regions.foldl (fun s r =>
      if r.2.commit then s.commitRegion c.1 r.1 else if r.2.tx == .idle then s else s.setRegion c.1 r.1 r.2.rollBack) s) rfl
      fun t ht c _ => List.foldlRecOn (motive := fun u : State => u.power = s.power) c.2.regions _ ht fun u hu r _ => by
        split
        · exact (State.commitRegion_power ..).trans hu
        · split <;> exact hu
    rw [hpower]; exact ⟨rfl, rfl⟩
  · exact ⟨rfl, rfl⟩
  · dsimp only
    split
    · rw [State.deliverCheck_power]; exact ⟨rfl, rfl⟩
    · exact ⟨rfl, rfl⟩
  · exact ⟨rfl, rfl⟩

/-- The record of a thermal trip that waits is delivered (R489). -/
def State.deliverTrip (s : State) : State :=
  match s.power.tripped with
  | some raw => { s with power := { s.power with tripped := none } }.deliverCheck raw
  | none => s

/-- At stage 8 the record of a thermal trip is delivered, and waits no longer (R489). -/
theorem State.stageDone_tripped (s : State) : (s.stageDone 8).power.tripped = none := by
  have hdone : s.stageDone 8 = s.postStatus.deliverTrip := rfl
  rw [hdone, State.deliverTrip]
  split
  · rw [State.deliverCheck_power]
  next h => exact h

/-- At stage 4 every UCIe link is active (R459). -/
theorem State.stageDone_ucie (s : State) : ∀ n < 17, ((s.stageDone 4).ucie n).state = .active := by
  have htable : ∀ n < 17, (SMap.get ((List.range 17).map fun n => (n, ({ state := .active } : Ucie))) n {}).state = .active := by decide
  exact htable

theorem exec_bringUp_of_done {s : State} (h : 8 ≤ s.power.stage) : exec .bringUp s = .next s := by
  change execBringUp s = _
  simp [execBringUp, Nat.lt_succ_of_le h]

/-- A stage completes, or fails with an ERR. -/
theorem exec_bringUp_of_stage {s : State} (hstage : s.power.stage < 8) (herr : s.power.err = 0) (hoff : s.power.off = false)
    (hlost : s.power.lost = false) : exec .bringUp s = .next (if Config.bootFails s.tick
      then ({ s with power := { s.power with err := 1 + Config.freeNat s.tick % 255 } } : State).bump
      else (({ s with power := { s.power with stage := s.power.stage + 1 } } : State).stageDone (s.power.stage + 1)).bump) := by
  have hgo : (decide (8 < s.power.stage + 1) || s.power.err != 0 || s.power.off || s.power.lost) = false := by
    simp [herr, hoff, hlost]; omega
  change execBringUp s = _
  simp only [execBringUp, hgo, Bool.false_eq_true, if_false]

/-! ### The statement -/

/-- Settles O49: the warning by whether the save can be made, which leaves no core on; the return by what each of its steps leaves; bring-up
by whether its stage fails. -/
theorem powerCycle : Obligations.PowerCycle := by
  unfold Obligations.PowerCycle
  intro s lost
  refine ⟨exec_powerLossWarning_of_on, State.stopped_of_saveReady, lost.saveAll_spec, exec_powerReturn_of_on, fun hoff => ?_,
    fun hstage herr hoff hlost => ⟨_, exec_bringUp_of_stage hstage herr hoff hlost, ?_⟩, exec_bringUp_of_done, rfl, s.stageDone_tripped, rfl,
    s.stageDone_ucie⟩
  · refine ⟨s.returned, exec_powerReturn_of_off hoff, ?_⟩
    rw [State.returned_power]
    exact ⟨rfl, rfl, rfl, rfl, rfl, Nat.le_add_right .., rfl, rfl, rfl, rfl, State.restart_cluster _,
      fun _ _ hg hran hgone h => State.returned_status hg hran hgone h⟩
  · split
    · exact .inr ⟨rfl, Nat.le_add_right .., by change 1 + Config.freeNat s.tick % 255 < 256; omega⟩
    · obtain ⟨hdone, hclear⟩ := State.stageDone_stage { s with power := { s.power with stage := s.power.stage + 1 } } (s.power.stage + 1)
      exact .inl ⟨hdone, hclear.trans herr⟩

end Sys2Proof.Machine
end

section
/-! PROOFS. Pre-emption, bank swaps, images and their restore (R310 to R318, R363, R399, R404): one equation for each way in which a request, a
swap, the writing or the reading of images goes. -/

namespace Sys2Proof.Machine

/-! ### Pre-emption (R310, R312, R395) -/

section Preempt
variable {s : State} {k a : Nat} {g : Group} (hfore : s.foreOf k = some (a, g))
include hfore

/-- A two-set group is asked to stop only where its images have room. -/
theorem exec_preemptRequest_of_room
    (hroom : twoSet g.placements = false ∨ (s.saveRoom g.ctx (g.imageSize (s.cluster k).tiles)).isSome = true) :
    exec (.preemptRequest k) s = .next (s.setGroup a g.requested) := by
  have hopen : (twoSet g.placements && (s.saveRoom g.ctx (g.imageSize (s.cluster k).tiles)).isNone) = false := by
    rcases hroom with h | h
    · rw [h, Bool.false_and]
    · rw [← Option.not_isSome, h, Bool.not_true, Bool.and_false]
  change execPreemptRequest k s = _
  simp [execPreemptRequest, hfore, hopen]

theorem exec_preemptRequest_of_no_room
    (hroom : ¬ (twoSet g.placements = false ∨ (s.saveRoom g.ctx (g.imageSize (s.cluster k).tiles)).isSome = true)) :
    exec (.preemptRequest k) s = .next s := by
  obtain ⟨htwo, hnone⟩ := not_or.1 hroom
  change execPreemptRequest k s = _
  simp [execPreemptRequest, hfore, eq_true_of_ne_false htwo, Option.not_isSome_iff_eq_none.1 hnone]

end Preempt

theorem exec_preemptRequest_of_none {s : State} {k : Nat} (h : s.foreOf k = none) : exec (.preemptRequest k) s = .next s := by
  change execPreemptRequest k s = _
  simp [execPreemptRequest, h]

theorem Group.requested_of_running {g : Group} (h : g.state = .running) : g.requested = { g with state := .switching } := by
  simp [Group.requested, h]

/-! ### Which swap is due (R310, R395, R398) -/

theorem exec_bankSwapComplete_of_held {s : State} {k : Nat} (h : ¬ s.swapsGo k = true) : exec (.bankSwapComplete k) s = .next s := by
  change execBankSwapComplete k s = _
  simp [execBankSwapComplete, h]

section Swap
variable {s : State} {k a b : Nat} {g h : Group} (hgo : s.swapsGo k = true)
include hgo

/-- A group that has stopped gives way to the one in the shadow set, which first takes to SWITCHING. -/
theorem exec_bankSwapComplete_of_both (hfore : s.foreOf k = some (a, g)) (hstate : g.state = .switching) (hrun : g.overrun = false)
    (hone : twoSet g.placements = false) (hshadow : s.shadowOf k = some (b, h)) (hawake : h.state ≠ .retained) :
    exec (.bankSwapComplete k) s = .next (if h.entering then s.swapStep k (some a) (some b) else s.enter b) := by
  change execBankSwapComplete k s = _
  simp [execBankSwapComplete, hgo, hfore, hshadow, hstate, hrun, hone, hawake]

theorem exec_bankSwapComplete_of_fore (hfore : s.foreOf k = some (a, g)) (hstate : g.state = .switching) (hrun : g.overrun = false)
    (hone : twoSet g.placements = false) (hshadow : s.shadowOf k = none) :
    exec (.bankSwapComplete k) s = .next (s.swapStep k (some a) none) := by
  change execBankSwapComplete k s = _
  simp [execBankSwapComplete, hgo, hfore, hshadow, hstate, hrun, hone]

theorem exec_bankSwapComplete_of_shadow (hfore : s.foreOf k = none) (hshadow : s.shadowOf k = some (b, h)) (hawake : h.state ≠ .retained) :
    exec (.bankSwapComplete k) s = .next (if h.entering then s.swapStep k none (some b) else s.enter b) := by
  change execBankSwapComplete k s = _
  simp [execBankSwapComplete, hgo, hfore, hshadow, hawake]

theorem exec_bankSwapComplete_of_twoSet (hfore : s.foreOf k = some (a, g)) (hstate : g.state = .running)
    (htwo : twoSet g.placements = true) : exec (.bankSwapComplete k) s = .next (s.swapSecond a) := by
  change execBankSwapComplete k s = _
  simp [execBankSwapComplete, hgo, hfore, hstate, htwo]

end Swap

/-! ### The swap of one core (R310, R311) -/

theorem State.trySwap_of_running {s : State} {a c : Nat} (h : s.coreStopped a c = false) (k b : Nat) :
    s.trySwap k (some a) (some b) c = s := by
  simp [State.trySwap, h]

theorem State.trySwap_of_stopped {s : State} {k a b c : Nat} (hstopped : s.coreStopped a c = true)
    (hfirst : (s.cluster k).swapped.contains c = false) (howners : ownersMeet (s.group a) (s.group b) c = false) :
    s.trySwap k (some a) (some b) c = s.swapCore k (some a) (some b) c := by
  simp only [State.trySwap, hstopped, hfirst, howners, Option.all_some, Bool.not_true, Bool.or_self, Bool.false_eq_true, if_false]

theorem State.stowUnits_sameGates (s : State) (gid c : Nat) : s.sameGates (s.stowUnits gid c) := by
  dsimp only [State.stowUnits]
  split
  · exact (State.sameGates_setCore (Core.gate_withUnits ..)).trans (State.setGroup_sameGates ..)
  · exact s.sameGates_refl

theorem State.setLives_sameGates (s : State) (gid c : Nat) (old new : Life) : s.sameGates (s.setLives gid c old new) := by
  refine State.sameGates_foldl (fun s n => ?_) _ s
  dsimp only
  split
  · exact State.setStrand_sameGates ..
  · exact s.sameGates_refl

theorem State.activateOn_sameGates (s : State) (gid c : Nat) : s.sameGates (s.activateOn gid c) := by
  dsimp only [State.activateOn]
  split
  · exact State.sameGates_setCore rfl
  · exact s.sameGates_refl

theorem State.bringUnits_sameGates (s : State) (gid c : Nat) : s.sameGates (s.bringUnits gid c) := by
  dsimp only [State.bringUnits]
  split
  · exact s.sameGates_refl
  · refine State.sameGates.trans (State.sameGates_setCore ?_) ((State.writeMicro_sameGates ..).trans (State.setGroup_sameGates ..))
    split <;> simp

/-- A core that swaps has its other set in the foreground. -/
theorem State.fgSet_swapCore (s : State) (k a b c : Nat) :
    ((s.swapCore k (some a) (some b) c).core (coreAt k c)).fgSet = 1 - (s.core (coreAt k c)).fgSet := by
  have hout := (s.stowUnits_sameGates a c).trans (State.setLives_sameGates _ a c .live .shadowed)
  have hin (t : State) : t.sameGates (((t.setLives b c .shadowed .live).activateOn b c).bringUnits b c) :=
    (t.setLives_sameGates ..).trans ((State.activateOn_sameGates ..).trans (State.bringUnits_sameGates ..))
  have hflip (t : State) : ((t.flipCore (coreAt k c)).core (coreAt k c)).fgSet = 1 - (t.core (coreAt k c)).fgSet := by
    rw [State.flipCore, State.core_setCore_same]
  dsimp only [State.swapCore]
  rw [State.core_setCluster, (hin _).fgSet, hflip, hout.fgSet]

/-! ### The end of a swap (R310, R398) -/

theorem State.settleGroup_clusters (s : State) (gid : Nat) : (s.settleGroup gid).clusters = s.clusters := by
  dsimp only [State.settleGroup]
  split <;> rfl

theorem State.swapIn_clusters (s : State) (gid : Nat) : (s.swapIn gid).clusters = s.clusters := by
  dsimp only [State.swapIn]
  rw [State.settleGroup_clusters, State.setGroup_clusters]
  dsimp only [State.rerunTaken]
  split <;> rfl

theorem State.group_settleGroup_other {s : State} {gid n : Nat} (h : n ≠ gid) : (s.settleGroup gid).group n = s.group n := by
  dsimp only [State.settleGroup]
  split
  · exact State.group_setGroup_other h
  · rfl

theorem State.rerunTaken_group (s : State) (gid n : Nat) : (s.rerunTaken gid).group n = s.group n := by
  dsimp only [State.rerunTaken]
  split <;> rfl

/-- A group that comes in leaves every other group. -/
theorem State.group_swapIn_other {s : State} {gid n : Nat} (h : n ≠ gid) : (s.swapIn gid).group n = s.group n := by
  dsimp only [State.swapIn]
  rw [State.group_settleGroup_other h, State.group_setGroup_other h, State.rerunTaken_group]

/-- The tile tables change places. -/
theorem State.cluster_endSwap (s : State) (k a b : Nat) : ((s.endSwap k (some a) (some b)).cluster k).tiles = (s.cluster k).shadow ∧
    ((s.endSwap k (some a) (some b)).cluster k).shadow = (s.cluster k).tiles := by
  have hcluster : (s.endSwap k (some a) (some b)).cluster k =
      { s.cluster k with tiles := (s.cluster k).shadow, shadow := (s.cluster k).tiles, swapped := [] } := by
    dsimp only [State.endSwap]
    rw [State.cluster, State.swapIn_clusters]
    exact State.cluster_setCluster_same ..
  rw [hcluster]
  exact ⟨rfl, rfl⟩

theorem State.state_endSwap {s : State} {a b : Nat} (h : a ≠ b) (k : Nat) :
    ((s.endSwap k (some a) (some b)).group a).state = .shadowed := by
  dsimp only [State.endSwap]
  rw [State.group_swapIn_other h, State.group_setGroup_same]

/-! ### Images (R312, R316, R399) -/

section Images
variable {s : State} {gid room : Nat}

theorem exec_imageWrite_of_busy (h : ¬ ((s.group gid).strands.all s.queuesQuiet) = true) : exec (.imageWrite gid) s = .next s := by
  change execImageWrite gid s = _
  simp only [execImageWrite, eq_false_of_ne_true h, Bool.not_false, Bool.or_true, if_true]

variable (hstate : (s.group gid).state = .shadowed)
include hstate

theorem exec_imageWrite_of_no_room
    (h : s.saveRoom (s.group gid).ctx ((s.group gid).imageSize (s.cluster (s.group gid).cluster).shadow) = none) :
    exec (.imageWrite gid) s = .next s := by
  have hfore : ((s.group gid).state == .switching) = false := by rw [hstate]; rfl
  change execImageWrite gid s = _
  simp only [execImageWrite, hfore, Bool.false_and, Bool.false_eq_true, if_false, h, ite_self]

theorem exec_imageWrite_of_room (hfound : (SMap.find s.cmd.groups gid).isSome = true) (hacts : s.acts = true)
    (hquiet : ((s.group gid).strands.all s.queuesQuiet) = true)
    (hroom : s.saveRoom (s.group gid).ctx ((s.group gid).imageSize (s.cluster (s.group gid).cluster).shadow) = some room)
    (hopen : s.saveOpen (s.group gid).ctx (s.groupImages (s.group gid) (s.cluster (s.group gid).cluster).shadow room) = true) :
    exec (.imageWrite gid) s = .next ((s.writeImages (s.group gid).ctx
      (s.groupImages (s.group gid) (s.cluster (s.group gid).cluster).shadow room)).leaveCluster gid room
      ((s.group gid).imageSize (s.cluster (s.group gid).cluster).shadow) (s.cluster (s.group gid).cluster).shadow false) := by
  have hfore : ((s.group gid).state == .switching) = false := by rw [hstate]; rfl
  have hshadow : ((s.group gid).state == .shadowed) = true := by rw [hstate]; rfl
  have hnone : (SMap.find s.cmd.groups gid).isNone = false := by
    rw [← Option.not_isSome, hfound]; rfl
  change execImageWrite gid s = _
  simp only [execImageWrite, hfore, hshadow, hnone, hacts, hquiet, hroom, hopen, Bool.false_and, Bool.true_or, Bool.not_true, Bool.or_self,
    Bool.false_eq_true, if_false, if_true]

end Images

/-! ### The way back (R308, R318, R363, R399) -/

/-- What a free choice takes of a list that has something is in it. -/
theorem exists_mem_getElem?_mod {α : Type} {l : List α} (h : l ≠ []) (n : Nat) : ∃ a ∈ l, l[n % l.length]? = some a :=
  have hlt := Nat.mod_lt n (List.length_pos_of_ne_nil h)
  ⟨l[n % l.length], List.getElem_mem hlt, List.getElem?_eq_getElem hlt⟩

section Restore
variable {s : State} {gid : Nat} (hfound : (SMap.find s.cmd.groups gid).isSome = true) (hstate : (s.group gid).state = .imaged)
  (hacts : s.acts = true)

theorem exec_imageRestore_of_barred (h : s.mayReturn gid = false) : exec (.imageRestore gid) s = .next s := by
  change execImageRestore gid s = _
  simp only [execImageRestore, h, Bool.not_false, Bool.or_true, if_true]

include hfound hstate hacts

/-- A group that may come back is restored where a cluster can take it; else cores begin to drain for it, where that would help. -/
def State.returnTo (s : State) (gid : Nat) : Option Nat → Option Nat → State
  | some k, _ => (s.restore gid k).bump
  | none, some k => (s.drainFor (s.group gid) k).bump
  | none, none => s

theorem exec_imageRestore_of_may (hmay : s.mayReturn gid = true) : exec (.imageRestore gid) s = .next
    (s.returnTo gid
      ((List.range 48).filter (s.canRestore (s.group gid)))[
        Config.choice s.tick % ((List.range 48).filter (s.canRestore (s.group gid))).length]?
      ((List.range 48).filter (s.couldRestore (s.group gid)))[
        Config.choice s.tick % ((List.range 48).filter (s.couldRestore (s.group gid))).length]?) := by
  have hnone : (SMap.find s.cmd.groups gid).isNone = false := by
    rw [← Option.not_isSome, hfound]; rfl
  change execImageRestore gid s = _
  simp only [execImageRestore, hnone, hstate, hacts, hmay, bne_self_eq_false, Bool.not_true, Bool.or_self, Bool.false_eq_true, if_false]
  rfl

theorem exec_imageRestore_of_can (hmay : s.mayReturn gid = true) (hcan : (List.range 48).filter (s.canRestore (s.group gid)) ≠ []) :
    ∃ j, s.canRestore (s.group gid) j = true ∧ j < 48 ∧ exec (.imageRestore gid) s = .next (s.restore gid j).bump := by
  obtain ⟨j, hj, hchoice⟩ := exists_mem_getElem?_mod hcan (Config.choice s.tick)
  obtain ⟨hrange, hj⟩ := List.mem_filter.1 hj
  exact ⟨j, hj, List.mem_range.1 hrange, by rw [exec_imageRestore_of_may hfound hstate hacts hmay, hchoice]; rfl⟩

theorem exec_imageRestore_of_could (hmay : s.mayReturn gid = true) (hcannot : (List.range 48).filter (s.canRestore (s.group gid)) = [])
    (hcould : (List.range 48).filter (s.couldRestore (s.group gid)) ≠ []) :
    ∃ j, s.couldRestore (s.group gid) j = true ∧ j < 48 ∧ exec (.imageRestore gid) s = .next (s.drainFor (s.group gid) j).bump := by
  obtain ⟨j, hj, hchoice⟩ := exists_mem_getElem?_mod hcould (Config.choice s.tick)
  obtain ⟨hrange, hj⟩ := List.mem_filter.1 hj
  exact ⟨j, hj, List.mem_range.1 hrange, by rw [exec_imageRestore_of_may hfound hstate hacts hmay, hcannot, hchoice]; rfl⟩

theorem exec_imageRestore_of_cannot (hcannot : (List.range 48).filter (s.canRestore (s.group gid)) = [])
    (hnever : (List.range 48).filter (s.couldRestore (s.group gid)) = []) : exec (.imageRestore gid) s = .next s := by
  cases hmay : s.mayReturn gid with
  | false => exact exec_imageRestore_of_barred hmay
  | true => rw [exec_imageRestore_of_may hfound hstate hacts hmay, hcannot, hnever]; rfl

end Restore

section ReadBack
variable {s : State} {gid : Nat} (k : Nat)

theorem State.restore_of_good {imgs : List (List Byte)} (h : s.readImages (s.group gid) = some (some imgs)) :
    s.restore gid k = (s.restoreOn gid k imgs).getD s := by
  simp only [State.restore, h]

theorem State.restore_of_waiting (h : s.readImages (s.group gid) = none) : s.restore gid k = s := by
  simp only [State.restore, h]

/-- An image that fails its checks faults the launch (R308, R318). -/
theorem State.status_restore_of_bad (h : s.readImages (s.group gid) = some none)
    (hopen : (s.launch (s.group gid).launch).status = none) :
    ((s.restore gid k).launch (s.group gid).launch).status = some .fault := by
  simp only [State.restore, h]
  exact State.status_faultLaunch hopen _

end ReadBack

/-! ### The statement -/

/-- Settles O47: a request by the room for images, a swap by the groups of its cluster and the cores that have stopped, images by their room,
a restore by the clusters that can take the group and by its images. -/
theorem swapsAndImages : Obligations.SwapsAndImages := by
  unfold Obligations.SwapsAndImages
  intro s k a b c gid room g h imgs on stops w ts l quiet here soon room0 out back
  refine ⟨exec_preemptRequest_of_room, exec_preemptRequest_of_no_room, exec_bankSwapComplete_of_held, Group.requested_of_running,
    exec_preemptRequest_of_none,
    fun hgo hfore ⟨hstate, hrun, hone⟩ hshadow hawake => exec_bankSwapComplete_of_both hgo hfore hstate hrun hone hshadow hawake,
    fun hgo hfore ⟨hstate, hrun, hone⟩ hnone => exec_bankSwapComplete_of_fore hgo hfore hstate hrun hone hnone,
    exec_bankSwapComplete_of_shadow, exec_bankSwapComplete_of_twoSet, fun hruns => State.trySwap_of_running hruns k b,
    State.trySwap_of_stopped, s.fgSet_swapCore k a b c, ?_,
    fun ⟨hfound, hstate, hacts⟩ => exec_imageWrite_of_room hstate hfound hacts,
    fun ⟨_, hstate, _⟩ => exec_imageWrite_of_no_room hstate, fun _ => exec_imageWrite_of_busy,
    fun ⟨hfound, hstate, hacts⟩ => exec_imageRestore_of_can hfound hstate hacts,
    fun ⟨hfound, hstate, hacts⟩ => exec_imageRestore_of_could hfound hstate hacts,
    fun ⟨hfound, hstate, hacts⟩ hstays => ?_, State.restore_of_good k, State.restore_of_waiting k, State.status_restore_of_bad k⟩
  · obtain ⟨htiles, hshadow⟩ := s.cluster_endSwap k a b
    exact ⟨htiles, hshadow, fun hab => State.state_endSwap hab k⟩
  · rcases hstays with hbarred | ⟨hcannot, hnever⟩
    · exact exec_imageRestore_of_barred hbarred
    · exact exec_imageRestore_of_cannot hfound hstate hacts hcannot hnever

end Sys2Proof.Machine
end

section
/-! PROOFS. Dispatch, preload and set-up of a group (R299, R302, R358, R387, R394, R402, R403): what a new group is, what set-up leaves of the
package and what it makes of the group's strands. -/

namespace Sys2Proof.Machine

/-! ### A new group (R299, R394) -/

theorem State.powerCores_cmd (s : State) (k ctx : Nat) (cores : List Nat) : (s.powerCores k ctx cores).cmd = s.cmd :=
  List.foldlRecOn (motive := fun t : State => t.cmd = s.cmd) cores _ rfl fun _ ht _ _ => ht

theorem State.alignSets_onlyBanks (s : State) (k : Nat) : s.onlyBanks (s.alignSets k) := by
  unfold State.alignSets
  split
  · exact s.onlyBanks_refl
  · exact State.onlyBanks_foldl (fun s c => State.setCore_onlyBanks ..) _ s

theorem State.beginDrain_onlyBanks (s : State) (core : Nat) : s.onlyBanks (s.beginDrain core) := by
  unfold State.beginDrain
  split
  · exact State.setCore_onlyBanks ..
  · exact s.onlyBanks_refl

/-- A dispatched task is a group of its launch on its cluster, in the next place of the table of groups. -/
theorem State.newGroup_spec (s : State) (lid k : Nat) (st : GroupState) :
    ((s.newGroup lid k st).group s.cmd.groupNext).state = st ∧ ((s.newGroup lid k st).group s.cmd.groupNext).launch = lid ∧
      ((s.newGroup lid k st).group s.cmd.groupNext).cluster = k ∧ (s.newGroup lid k st).cmd.groupNext = s.cmd.groupNext + 1 := by
  unfold State.newGroup
  dsimp only [State.setGroup, State.setKernel, State.setCtx, State.setLaunch, State.group]
  rw [State.powerCores_cmd, SMap.get_insert_same]
  exact ⟨rfl, rfl, rfl, rfl⟩

/-! ### Dispatch (R358, R394) -/

/-- The account of turns as the choice of an item leaves it (R359). -/
def State.withTurns (s : State) (cmd : CmdState) : State :=
  { s with cmd := { s.cmd with turnsUsed := cmd.turnsUsed, lastQueue := cmd.lastQueue } }

/-- The cores of a cluster ready for a task of a context: foreign worlds drain, foreground sets agree (R328, R400). -/
def State.clearFor (s : State) (k ctx : Nat) : State := (s.foreignCores k ctx).foldl State.beginDrain (s.alignSets k)

theorem State.clearFor_cmd (s : State) (k ctx : Nat) : (s.clearFor k ctx).cmd = s.cmd :=
  ((s.alignSets_onlyBanks k).trans (State.onlyBanks_foldl State.beginDrain_onlyBanks ..)).cmd

theorem exec_taskDispatch_of_held {s : State} (h : s.acts = false) (k : Nat) : exec (.taskDispatch k) s = .next s := by
  change execTaskDispatch k s = _
  simp only [execTaskDispatch, h, Bool.not_false, Bool.or_true, if_true]

section Chosen
variable {s u r : State} {k lid : Nat} {cmd : CmdState} (hu : s.sweepStrict = u) (hk : k < 48) (hacts : s.acts = true)
  (hrerun : u.rerunItem = none) (hpick : u.pick k = some (lid, cmd))
include hu hk hacts hrerun hpick

/-- What a dispatch of the item that is chosen comes to. -/
theorem exec_taskDispatch_of_chosen : exec (.taskDispatch k) s = .next
    (if !u.takes k (u.launch lid).ctx (kPlaces (u.kernel ((u.launch lid).kernel.getD 0)).bytes)
        (kDecls (u.kernel ((u.launch lid).kernel.getD 0)).bytes) then u
      else if !(u.readyLaunch lid).2 then (u.readyLaunch lid).1
      else (((u.readyLaunch lid).1.withTurns cmd).clearFor k (u.launch lid).ctx).newGroup lid k .waking) := by
  have hgo : (decide (48 ≤ k) || !s.acts) = false := by rw [decide_eq_false (Nat.not_le.2 hk), hacts]; rfl
  change execTaskDispatch k s = _
  simp only [execTaskDispatch, hgo, hu, hrerun, hpick, Bool.false_eq_true, if_false]
  rfl

theorem exec_taskDispatch_of_full (htakes : u.takes k (u.launch lid).ctx (kPlaces (u.kernel ((u.launch lid).kernel.getD 0)).bytes)
    (kDecls (u.kernel ((u.launch lid).kernel.getD 0)).bytes) = false) : exec (.taskDispatch k) s = .next u := by
  rw [exec_taskDispatch_of_chosen hu hk hacts hrerun hpick, htakes, Bool.not_false, if_pos rfl]

section Takes
variable (htakes : u.takes k (u.launch lid).ctx (kPlaces (u.kernel ((u.launch lid).kernel.getD 0)).bytes)
  (kDecls (u.kernel ((u.launch lid).kernel.getD 0)).bytes) = true)
include htakes

theorem exec_taskDispatch_of_not_ready (hready : u.readyLaunch lid = (r, false)) : exec (.taskDispatch k) s = .next r := by
  rw [exec_taskDispatch_of_chosen hu hk hacts hrerun hpick, htakes, hready]
  simp only [Bool.not_true, Bool.not_false, Bool.false_eq_true, if_false, if_true]

/-- The next task of the item starts as a WAKING group, the cluster cleared for it. -/
theorem exec_taskDispatch_of_ready (hready : u.readyLaunch lid = (r, true)) : exec (.taskDispatch k) s =
    .next (((r.withTurns cmd).clearFor k (u.launch lid).ctx).newGroup lid k .waking) := by
  rw [exec_taskDispatch_of_chosen hu hk hacts hrerun hpick, htakes, hready]
  simp only [Bool.not_true, Bool.false_eq_true, if_false]

end Takes

/-- A preload: the group is PRELOADED, its code and its tiles in place, its strands in the shadow sets (R403). -/
def State.preloaded (s : State) (k lid : Nat) (o : List Byte) : State :=
  let t := (s.newGroup lid k .preloaded).loadAll s.cmd.groupNext k
  match placeDecls (t.cluster k).allTiles (kDecls o) with
  | some ts => (((t.setCluster k { t.cluster k with shadow := ts }).fillTiles k o ts).allocStrands s.cmd.groupNext true).writeMail s.cmd.groupNext
  | none => t

/-- What a preload of the item that is chosen comes to. -/
theorem exec_preload_of_chosen : exec (.preload k) s = .next
    (if !u.mayPreload k (u.launch lid).ctx (kPlaces (u.kernel ((u.launch lid).kernel.getD 0)).bytes)
          (kDecls (u.kernel ((u.launch lid).kernel.getD 0)).bytes) ||
        !((kPlaces (u.kernel ((u.launch lid).kernel.getD 0)).bytes).all fun p =>
          (u.loadHalf (coreAt k p.core) ((u.launch lid).kernel.getD 0) (u.launch lid).ctx).isSome) then u
      else if !(u.readyLaunch lid).2 then (u.readyLaunch lid).1
      else ((u.readyLaunch lid).1.withTurns cmd).preloaded k lid (u.kernel ((u.launch lid).kernel.getD 0)).bytes) := by
  have hgo : (decide (48 ≤ k) || !s.acts) = false := by rw [decide_eq_false (Nat.not_le.2 hk), hacts]; rfl
  change execPreload k s = _
  simp only [execPreload, hgo, hu, hrerun, hpick, Bool.false_eq_true, if_false]
  rfl

theorem exec_preload_of_barred (hmay : u.mayPreload k (u.launch lid).ctx (kPlaces (u.kernel ((u.launch lid).kernel.getD 0)).bytes)
    (kDecls (u.kernel ((u.launch lid).kernel.getD 0)).bytes) = false) : exec (.preload k) s = .next u := by
  rw [exec_preload_of_chosen hu hk hacts hrerun hpick, hmay, Bool.not_false, Bool.true_or, if_pos rfl]

theorem exec_preload_of_ready
    (hmay : u.mayPreload k (u.launch lid).ctx (kPlaces (u.kernel ((u.launch lid).kernel.getD 0)).bytes)
      (kDecls (u.kernel ((u.launch lid).kernel.getD 0)).bytes) = true)
    (hspare : ((kPlaces (u.kernel ((u.launch lid).kernel.getD 0)).bytes).all fun p =>
      (u.loadHalf (coreAt k p.core) ((u.launch lid).kernel.getD 0) (u.launch lid).ctx).isSome) = true)
    (hready : u.readyLaunch lid = (r, true)) : exec (.preload k) s =
      .next ((r.withTurns cmd).preloaded k lid (u.kernel ((u.launch lid).kernel.getD 0)).bytes) := by
  rw [exec_preload_of_chosen hu hk hacts hrerun hpick, hmay, hspare, hready]
  simp only [Bool.not_true, Bool.or_self, Bool.false_eq_true, if_false]

end Chosen

/-! ### Where groups stand, while their code, tiles and strands are put in place -/

/-- What a group is and where it stands: its state, its launch, its cluster. -/
def Group.seat (g : Group) : GroupState × Nat × Nat := (g.state, g.launch, g.cluster)

/-- Every group stands as it stood. -/
structure State.sameSeats (s t : State) : Prop where
  seat : ∀ n, (t.group n).seat = (s.group n).seat

theorem State.sameSeats_refl (s : State) : s.sameSeats s := ⟨fun _ => rfl⟩

theorem State.sameSeats.trans {s t u : State} (h : s.sameSeats t) (h' : t.sameSeats u) : s.sameSeats u :=
  ⟨fun n => (h'.seat n).trans (h.seat n)⟩

theorem State.sameSeats_of_groups {s t : State} (h : t.cmd.groups = s.cmd.groups) : s.sameSeats t := ⟨fun n => by rw [State.group, h]; rfl⟩

theorem State.sameSeats_setGroup {s : State} {n : Nat} {g : Group} (h : g.seat = (s.group n).seat) : s.sameSeats (s.setGroup n g) := by
  refine ⟨fun m => ?_⟩
  by_cases hm : m = n
  · subst hm; rw [State.group_setGroup_same, h]
  · rw [State.group_setGroup_other hm]

theorem State.takeLoadId_sameSeats (s : State) (gid : Nat) : s.sameSeats (s.takeLoadId gid).1 := by
  unfold State.takeLoadId
  split
  · exact s.sameSeats_refl
  · have hset : s.sameSeats (s.setGroup gid { s.group gid with loadId := some s.cmd.loadNext }) := State.sameSeats_setGroup rfl
    exact hset.trans (State.sameSeats_of_groups rfl)

theorem State.settleResident_sameSeats (s : State) : s.sameSeats s.settleResident := State.sameSeats_of_groups rfl

theorem State.writeHalf_sameSeats (s : State) (gid core h pc : Nat) : s.sameSeats (s.writeHalf gid core h pc) := by
  dsimp only [State.writeHalf]
  split
  · exact State.sameSeats_of_groups rfl
  · exact (s.takeLoadId_sameSeats gid).trans (State.sameSeats_of_groups rfl)

theorem State.loadAll_sameSeats (s : State) (gid k : Nat) : s.sameSeats (s.loadAll gid k) := by
  dsimp only [State.loadAll]
  refine State.sameSeats.trans ?_ (State.settleResident_sameSeats _)
  refine List.foldlRecOn (motive := s.sameSeats) _ _ s.sameSeats_refl fun t ht c _ => ht.trans ?_
  split
  · exact (State.writeHalf_sameSeats ..).trans (State.sameSeats_setGroup rfl)
  · exact t.sameSeats_refl

/-- Strands that are allocated are written down in their group; else only banks change (R302). -/
theorem State.allocStrands_banks (s : State) (gid : Nat) (shadow : Bool) : ∃ x : State, s.onlyBanks x ∧ s.allocStrands gid shadow =
    x.setGroup gid { x.group gid with strands := (s.group gid).placements.map (s.bankOf (s.group gid).cluster shadow) } := by
  refine ⟨_, State.onlyBanks_foldl (fun t p => ?_) _ s, rfl⟩
  rfl

theorem State.allocStrands_sameSeats (s : State) (gid : Nat) (shadow : Bool) : s.sameSeats (s.allocStrands gid shadow) := by
  obtain ⟨x, hbanks, halloc⟩ := s.allocStrands_banks gid shadow
  rw [halloc]
  exact (State.sameSeats_of_groups (congrArg CmdState.groups hbanks.cmd)).trans (State.sameSeats_setGroup rfl)

theorem State.writeMail_sameSeats (s : State) (gid : Nat) : s.sameSeats (s.writeMail gid) := State.sameSeats_of_groups rfl

/-- The group of a preload is PRELOADED on its cluster. -/
theorem State.seat_preloaded (s : State) (k lid : Nat) (o : List Byte) :
    ((s.preloaded k lid o).group s.cmd.groupNext).seat = (.preloaded, lid, k) := by
  obtain ⟨hstate, hlaunch, hcluster, -⟩ := s.newGroup_spec lid k .preloaded
  have hnew : ((s.newGroup lid k .preloaded).group s.cmd.groupNext).seat = (.preloaded, lid, k) := by
    rw [Group.seat, hstate, hlaunch, hcluster]
  have hloaded := State.loadAll_sameSeats (s.newGroup lid k .preloaded) s.cmd.groupNext k
  refine Eq.trans (State.sameSeats.seat ?_ s.cmd.groupNext) hnew
  dsimp only [State.preloaded]
  split
  · refine hloaded.trans (State.sameSeats.trans ?_ ((State.allocStrands_sameSeats ..).trans (State.writeMail_sameSeats ..)))
    exact State.sameSeats_of_groups (congrArg CmdState.groups (State.fillTiles_onlyBanks ..).cmd)
  · exact hloaded

/-! ### Set-up (R302, R387, R412) -/

theorem State.group_setLaunch (s : State) (n : Nat) (l : Launch) (m : Nat) : (s.setLaunch n l).group m = s.group m := rfl
theorem State.launch_setGroup (s : State) (n : Nat) (g : Group) (m : Nat) : (s.setGroup n g).launch m = s.launch m := rfl

/-- The tiles of a group in its cluster's table, filled. -/
def State.placeTiles (s : State) (gid : Nat) (ts : SMap Tile) : State :=
  (s.setCluster (s.group gid).cluster { s.cluster (s.group gid).cluster with tiles := ts }).fillTiles (s.group gid).cluster
    (s.kernel (s.group gid).kernel).bytes ts

/-- A group with its tiles filled, its strands allocated, its mailbox written, its code active. -/
def State.setUp (s : State) (gid : Nat) (ts : SMap Tile) : State :=
  ((((s.placeTiles gid ts).allocStrands gid false).swapAlone (s.group gid).cluster (s.group gid).placements).writeMail gid).activate gid

/-- A group that is set up, its first bundles free to issue. -/
def State.startGroup (s : State) (gid : Nat) (ts : SMap Tile) : State :=
  let t := s.setUp gid ts
  let t := t.setLaunch (s.group gid).launch { t.launch (s.group gid).launch with started := (t.launch (s.group gid).launch).started + 1 }
  t.setGroup gid { t.group gid with state := .running }

theorem exec_groupStart_of_not_waking {s : State} {gid : Nat} (h : (s.group gid).state ≠ .waking) :
    exec (.groupStart gid) s = .next s := by
  have hstate : ((s.group gid).state != .waking) = true := bne_iff_ne.2 h
  change execGroupStart gid s = _
  simp only [execGroupStart, hstate, Bool.or_true, Bool.true_or, if_true]

section Start
variable {s : State} {gid : Nat} {ts : SMap Tile} (hfound : (SMap.find s.cmd.groups gid).isSome = true)
  (hstate : (s.group gid).state = .waking) (hacts : s.acts = true) (hparked : (s.ctx (s.group gid).ctx).parked = false)
  (hcode : ((s.group gid).placements.all fun p => (SMap.find (s.group gid).halves p.core).isSome) = true)
include hfound hstate hacts hparked hcode

/-- What set-up comes to once every core of the group has its code. -/
theorem exec_groupStart_of_loaded (hplace : placeDecls ((s.group gid).taken ++ (s.cluster (s.group gid).cluster).allTiles)
    (kDecls (s.kernel (s.group gid).kernel).bytes) = some ts) : exec (.groupStart gid) s = .next
      (if s.late (s.launch (s.group gid).launch) then s.passDeadline (s.group gid).launch else s.startGroup gid ts) := by
  have hnone : (SMap.find s.cmd.groups gid).isNone = false := by rw [← Option.not_isSome, hfound]; rfl
  change execGroupStart gid s = _
  simp only [execGroupStart, hnone, hstate, hacts, hparked, hcode, hplace, bne_self_eq_false, Bool.not_true, Bool.or_self,
    Bool.false_eq_true, if_false]
  rfl

end Start

theorem State.swapAlone_cores (s : State) (k : Nat) (ps : List Placement) :
    s.onlyBanks (s.swapAlone k ps) ∧ (s.swapAlone k ps).strands = s.strands := by
  refine List.foldlRecOn (motive := fun t : State => s.onlyBanks t ∧ t.strands = s.strands) _ _ ⟨s.onlyBanks_refl, rfl⟩
    fun t ht c _ => ?_
  split
  · exact ⟨ht.1.trans (State.setCore_onlyBanks ..), ht.2⟩
  · exact ht

theorem State.activate_cores (s : State) (gid : Nat) : s.onlyBanks (s.activate gid) ∧ (s.activate gid).strands = s.strands :=
  List.foldlRecOn (motive := fun t : State => s.onlyBanks t ∧ t.strands = s.strands) _ _ ⟨s.onlyBanks_refl, rfl⟩
    fun _ ht _ _ => ⟨ht.1.trans (State.setCore_onlyBanks ..), ht.2⟩

theorem State.bankOf_of_sameGates {s t : State} (h : s.sameGates t) (k : Nat) (shadow : Bool) : t.bankOf k shadow = s.bankOf k shadow := by
  funext p
  unfold State.bankOf
  rw [h.fgSet]

/-- The strand of a group with one placement, in SET 0, runs from its entry with nothing in it (R302, R387). -/
theorem State.strand_allocStrands_of_single {s : State} {gid : Nat} {p : Placement} (hone : (s.group gid).placements = [p])
    (hset : p.set = 0) : (s.allocStrands gid false).strand (s.bankOf (s.group gid).cluster false p) =
      newStrand gid (s.group gid) (s.launch (s.group gid).launch) (s.kernel (s.group gid).kernel).bytes p .live true := by
  simp [State.allocStrands, hone, hset]

section SetUp
variable (s : State) (gid : Nat) (ts : SMap Tile)

theorem State.placeTiles_onlyBanks :
    (s.setCluster (s.group gid).cluster { s.cluster (s.group gid).cluster with tiles := ts }).onlyBanks (s.placeTiles gid ts) :=
  State.fillTiles_onlyBanks ..

theorem State.placeTiles_cmd : (s.placeTiles gid ts).cmd = s.cmd := (s.placeTiles_onlyBanks gid ts).cmd

theorem State.placeTiles_group : (s.placeTiles gid ts).group gid = s.group gid := (s.placeTiles_onlyBanks gid ts).group gid

theorem State.placeTiles_bankOf (k : Nat) (shadow : Bool) : (s.placeTiles gid ts).bankOf k shadow = s.bankOf k shadow :=
  State.bankOf_of_sameGates ((State.setCluster_sameGates ..).trans (State.fillTiles_sameGates ..)) k shadow

/-- The strands of the group once they are allocated stand while the rest is set up. -/
theorem State.setUp_strands : (s.setUp gid ts).strands = ((s.placeTiles gid ts).allocStrands gid false).strands :=
  (State.activate_cores ..).2.trans (State.swapAlone_cores ..).2

/-- Set-up leaves memory, and of the command processor's tables changes the strands of the group alone. -/
theorem State.setUp_tables : (s.setUp gid ts).mem = s.mem ∧ (s.setUp gid ts).cmd = (s.setGroup gid { s.group gid with
    strands := (s.group gid).placements.map (s.bankOf (s.group gid).cluster false) }).cmd := by
  obtain ⟨x, hbanks, halloc⟩ := (s.placeTiles gid ts).allocStrands_banks gid false
  have hactive := (State.activate_cores ((((s.placeTiles gid ts).allocStrands gid false).swapAlone (s.group gid).cluster
    (s.group gid).placements).writeMail gid) gid).1
  have hswapped := (State.swapAlone_cores ((s.placeTiles gid ts).allocStrands gid false) (s.group gid).cluster (s.group gid).placements).1
  have hgroup : x.group gid = s.group gid := (hbanks.group gid).trans (s.placeTiles_group gid ts)
  constructor
  · calc (s.setUp gid ts).mem = ((s.placeTiles gid ts).allocStrands gid false).mem := hactive.mem.trans hswapped.mem
      _ = x.mem := by rw [halloc]; rfl
      _ = s.mem := hbanks.mem.trans (s.placeTiles_onlyBanks gid ts).mem
  · calc (s.setUp gid ts).cmd = ((s.placeTiles gid ts).allocStrands gid false).cmd := hactive.cmd.trans hswapped.cmd
      _ = _ := by
        rw [halloc, hgroup, s.placeTiles_group, s.placeTiles_bankOf]
        dsimp only [State.setGroup]
        rw [hbanks.cmd, s.placeTiles_cmd]

theorem State.startGroup_mem : (s.startGroup gid ts).mem = s.mem := by
  dsimp only [State.startGroup]
  rw [State.setGroup_mem, State.setLaunch_mem, (s.setUp_tables gid ts).1]

theorem State.startGroup_strands : (s.startGroup gid ts).strands = ((s.placeTiles gid ts).allocStrands gid false).strands := by
  dsimp only [State.startGroup]
  rw [State.setGroup_strands, State.setLaunch_strands, s.setUp_strands]

/-- The group is RUNNING, its strands in the banks of its placements (R394). -/
theorem State.startGroup_group : (s.startGroup gid ts).group gid = { s.group gid with
    state := .running, strands := (s.group gid).placements.map (s.bankOf (s.group gid).cluster false) } := by
  have hgroup : (s.setUp gid ts).group gid = { s.group gid with
      strands := (s.group gid).placements.map (s.bankOf (s.group gid).cluster false) } := by
    rw [State.group, (s.setUp_tables gid ts).2]
    exact State.group_setGroup_same ..
  dsimp only [State.startGroup]
  rw [State.group_setGroup_same, State.group_setLaunch, hgroup]

/-- One more task of the launch has started (R356). -/
theorem State.startGroup_started : ((s.startGroup gid ts).launch (s.group gid).launch).started =
    (s.launch (s.group gid).launch).started + 1 := by
  have hlaunch : (s.setUp gid ts).launch (s.group gid).launch = s.launch (s.group gid).launch := by
    rw [State.launch, (s.setUp_tables gid ts).2]; rfl
  dsimp only [State.startGroup]
  rw [State.launch_setGroup, State.launch_setLaunch_same, hlaunch]

/-- The strand of a group with one placement, in SET 0, as set-up leaves it (R302, R387). -/
theorem State.startGroup_strand {p : Placement} (hone : (s.group gid).placements = [p]) (hset : p.set = 0) :
    (s.startGroup gid ts).strand (s.bankOf (s.group gid).cluster false p) =
      newStrand gid (s.group gid) (s.launch (s.group gid).launch) (s.kernel (s.group gid).kernel).bytes p .live true := by
  have hgroup := s.placeTiles_group gid ts
  have halloc := State.strand_allocStrands_of_single (s := s.placeTiles gid ts) (gid := gid) (hgroup ▸ hone) hset
  rw [hgroup, s.placeTiles_bankOf] at halloc
  have hstrand : (s.startGroup gid ts).strand (s.bankOf (s.group gid).cluster false p) =
      ((s.placeTiles gid ts).allocStrands gid false).strand (s.bankOf (s.group gid).cluster false p) := by
    rw [State.strand, s.startGroup_strands]; rfl
  rw [hstrand, halloc, State.launch, State.kernel, s.placeTiles_cmd]
  rfl

end SetUp

/-! ### The statement -/

/-- Settles O41: a dispatch and a preload by whether the cluster takes the item and whether that is ready, set-up by its deadline; a new group
keeps its seat while its code, its tiles and its strands are put in place. -/
theorem dispatching : Obligations.Dispatching := by
  unfold Obligations.Dispatching
  intro s k lid gid cmd r p u l kid o chosen ready spare g go
  have hstart : go → ∃ ts, exec (.groupStart gid) s =
      .next (if s.late (s.launch g.launch) then s.passDeadline g.launch else s.startGroup gid ts) := by
    rintro ⟨hfound, hstate, hacts, hparked, hcode, hplace⟩
    obtain ⟨ts, hts⟩ := Option.isSome_iff_exists.1 hplace
    exact ⟨ts, exec_groupStart_of_loaded hfound hstate hacts hparked hcode hts⟩
  refine ⟨fun ⟨hk, hacts, hrerun, hpick⟩ htakes hready => ?_,
    fun ⟨hk, hacts, hrerun, hpick⟩ htakes hready => exec_taskDispatch_of_not_ready rfl hk hacts hrerun hpick htakes hready,
    fun ⟨hk, hacts, hrerun, hpick⟩ htakes => exec_taskDispatch_of_full rfl hk hacts hrerun hpick htakes,
    fun h => exec_taskDispatch_of_held h k, fun ⟨hk, hacts, hrerun, hpick⟩ hmay hspare hready => ?_,
    fun ⟨hk, hacts, hrerun, hpick⟩ hmay => exec_preload_of_barred rfl hk hacts hrerun hpick hmay, fun hgo hlate => ?_,
    fun hgo hlate => ?_, exec_groupStart_of_not_waking⟩
  · have hgroup := State.newGroup_spec ((r.withTurns cmd).clearFor k (u.launch lid).ctx) lid k .waking
    have hnext : ((r.withTurns cmd).clearFor k (u.launch lid).ctx).cmd.groupNext = r.cmd.groupNext := by rw [State.clearFor_cmd]; rfl
    rw [hnext] at hgroup
    exact ⟨_, exec_taskDispatch_of_ready (u := u) rfl hk hacts hrerun hpick htakes hready, rfl, hgroup⟩
  · have hseat := State.seat_preloaded (r.withTurns cmd) k lid o
    have hnext : (r.withTurns cmd).cmd.groupNext = r.cmd.groupNext := rfl
    rw [hnext] at hseat
    obtain ⟨hstate, hrest⟩ := Prod.mk.inj hseat
    obtain ⟨hlaunch, hcluster⟩ := Prod.mk.inj hrest
    exact ⟨_, exec_preload_of_ready (u := u) rfl hk hacts hrerun hpick hmay hspare hready, hstate, hlaunch, hcluster⟩
  · obtain ⟨ts, hexec⟩ := hstart hgo
    rw [hexec, if_pos hlate]
  · obtain ⟨ts, hexec⟩ := hstart hgo
    refine ⟨s.startGroup gid ts, by rw [hexec, hlate]; rfl, s.startGroup_mem gid ts, by rw [s.startGroup_group], s.startGroup_started gid ts,
      by rw [s.startGroup_group], fun hone hset => ?_⟩
    dsimp only
    rw [s.startGroup_strand gid ts hone hset]
    exact ⟨rfl, rfl, rfl, rfl, rfl, rfl, rfl, rfl, rfl, rfl, rfl, rfl, rfl, rfl⟩

end Sys2Proof.Machine
end

section
/-! PROOFS. Clock hops, droops and the current controller (R481 to R485): one equation for each way in which an event ends. -/

namespace Sys2Proof.Machine

/-! ### Hops (R481 to R483) -/

section Hops
variable {s : State} {n v : Nat}

theorem Die.startHop_of_same {d : Die} (h : d.tgt = d.cur) : d.startHop = d := if_pos h

theorem Die.startHop_of_other {d : Die} (h : d.tgt ≠ d.cur) :
    d.startHop = { d with hop := .locking, hopTgt := d.tgt, abn := 0, raised := max d.raised d.tgt } := if_neg h

/-- A target is stored; it starts a hop only where no hop is under way and the clocks run. -/
theorem exec_dieclkTgtWrite (hn : n < 8) : exec (.dieclkTgtWrite n v) s =
    let w := { s.die n with tgt := clampTgt v, hopFail := (s.die n).hopFail && !bit v 32 }
    .next (s.setDie n (if (s.die n).hop = .none ∧ s.power.kiln = .running then w.startHop else w)) := by
  have h8 : ¬ 8 ≤ n := by omega
  show execDieclkTgtWrite n v s = _
  simp [execDieclkTgtWrite, h8]

theorem exec_hopPllLock_of_locking (hrun : s.power.kiln = .running) (h : (s.die n).hop = .locking) :
    exec (.hopPllLock n) s = .next (s.setDie n { s.die n with cur := (s.die n).hopTgt, hop := .lowering }) := by
  show execHopPllLock n s = _
  simp [execHopPllLock, hrun, h]

theorem exec_hopPllLock_of_none (h : (s.die n).hop = .none) : exec (.hopPllLock n) s = .next s := by
  show execHopPllLock n s = _
  simp [execHopPllLock, h]

/-- A hop ends; a target written meanwhile starts the next one. -/
theorem exec_hopComplete_of_lowering {d : Die} (hrun : s.power.kiln = .running) (h : (s.die n).hop = .lowering)
    (hd : ({ s.die n with hop := .none, raised := (s.die n).cur } : Die).startHop = d) :
    exec (.hopComplete n) s = .next (s.setDie n d) := by
  show execHopComplete n s = _
  simp [execHopComplete, hrun, h, ← hd]

theorem exec_hopComplete_of_none (h : (s.die n).hop = .none) : exec (.hopComplete n) s = .next s := by
  show execHopComplete n s = _
  simp [execHopComplete, h]

theorem State.quiet_iff : s.quiet n = true ↔
    (s.die n).stretch = false ∧ ∀ t, (s.die n).lastDroop = some t → t + 20000 ≤ s.power.dtime := by
  simp [State.quiet, Option.all_eq_true]

theorem exec_hopRetry_of_shaky (h : s.quiet n = false) : exec (.hopRetry n) s = .next s := by
  show execHopRetry n s = _
  simp [execHopRetry, h]

theorem exec_hopRetry_of_abandoned (hrun : s.power.kiln = .running) (hquiet : s.quiet n = true) (h : (s.die n).hop = .abandoned) :
    exec (.hopRetry n) s = .next (s.setDie n { s.die n with hop := .locking }) := by
  show execHopRetry n s = _
  simp [execHopRetry, hrun, hquiet, h]

theorem exec_hopRetry_of_paused (hrun : s.power.kiln = .running) (hquiet : s.quiet n = true) (h : (s.die n).hop = .paused) :
    exec (.hopRetry n) s = .next (s.setDie n { s.die n with hop := .lowering }) := by
  show execHopRetry n s = _
  simp [execHopRetry, hrun, hquiet, h]

theorem exec_hopRetry_of_none (h : (s.die n).hop = .none) : exec (.hopRetry n) s = .next s := by
  show execHopRetry n s = _
  simp [execHopRetry, h]

end Hops

/-! ### Droops (R482, R483) -/

section Droops
variable {s : State} {n : Nat}

theorem State.giveUp_of_hop (h : (s.die n).hop ≠ .abandoned) : s.giveUp n = s := by
  simp [State.giveUp, h]

theorem State.giveUp_of_few (h : (s.die n).abn < 16) : s.giveUp n = s := by
  simp [State.giveUp, h]

theorem State.giveUp_of_many (h : (s.die n).hop = .abandoned) (hmany : 16 ≤ (s.die n).abn) : s.giveUp n =
    (s.setDie n { s.die n with hop := .none, tgt := (s.die n).cur, hopFail := true }).machineCheck 7 n 0xFFFF 0 0 := by
  simp [State.giveUp, h, hmany]

/-- What a droop makes of a die: its clock is stretched, and a hop under way is abandoned before the switch, or pauses after it. -/
def Die.droop (d : Die) (now : Nat) : Die :=
  let d := { d with stretch := true, lastDroop := some now }
  match d.hop with
  | .locking => { d with hop := .abandoned, abn := min 255 (d.abn + 1) }
  | .lowering => if d.hopTgt < d.raised then { d with hop := .paused } else d
  | _ => d

theorem exec_droopDetect (hn : n < 8) :
    exec (.droopDetect n) s = .next ((s.setDie n ((s.die n).droop s.power.dtime)).giveUp n) := by
  have h8 : ¬ 8 ≤ n := by omega
  show execDroopDetect n s = _
  simp only [execDroopDetect, h8, if_false]
  rfl

theorem Die.droop_of_locking {d : Die} (h : d.hop = .locking) (now : Nat) :
    d.droop now = { d with stretch := true, lastDroop := some now, hop := .abandoned, abn := min 255 (d.abn + 1) } := by
  simp only [Die.droop, h]

theorem Die.droop_of_lowering {d : Die} (h : d.hop = .lowering) (hfalls : d.hopTgt < d.raised) (now : Nat) :
    d.droop now = { d with stretch := true, lastDroop := some now, hop := .paused } := by
  simp only [Die.droop, h, hfalls, if_true]

theorem Die.droop_of_none {d : Die} (h : d.hop = .none) (now : Nat) :
    d.droop now = { d with stretch := true, lastDroop := some now } := by
  simp only [Die.droop, h]

end Droops

/-! ### The current controller (R485) -/

section Current
variable {s : State} {n current : Nat}

theorem exec_currentLevelRaise (hn : n < 8) : exec (.currentLevelRaise n current) s =
    .next (s.setDie n (({ s.die n with amps := current } : Die).atLevel (max (s.die n).level (levelFor current)) s.power.dtime)) := by
  have h8 : ¬ 8 ≤ n := by omega
  show execCurrentLevelRaise n current s = _
  simp [execCurrentLevelRaise, h8]

/-- The current of a die has been low for 10 microseconds (R485). -/
def Die.longCalm (d : Die) (now : Nat) : Prop := ∃ t, d.calmSince = some t ∧ t + 10000 ≤ now

theorem Die.calmSince_any_iff {d : Die} {now : Nat} :
    (d.calmSince.any fun t => decide (t + 10000 ≤ now)) = true ↔ d.longCalm now := by
  simp [Die.longCalm, Option.any_eq_true]

theorem exec_currentLevelLower_of_calm (hheld : s.power.kiln ≠ .held) (hthrottle : (s.die n).throttle = false ∨ 2 < (s.die n).level)
    (hlow : (s.die n).longCalm s.power.dtime) :
    exec (.currentLevelLower n) s = .next (s.setDie n ((s.die n).atLevel ((s.die n).level - 1) s.power.dtime)) := by
  have hfree : ((s.die n).throttle && decide ((s.die n).level ≤ 2)) = false := by
    rcases hthrottle with h | h
    · simp [h]
    · simp [Nat.not_le.2 h]
  show execCurrentLevelLower n s = _
  simp only [execCurrentLevelLower, Die.calmSince_any_iff.2 hlow, hfree]
  simp [hheld]

theorem exec_currentLevelLower_of_high (hlow : ¬ (s.die n).longCalm s.power.dtime) : exec (.currentLevelLower n) s = .next s := by
  have hany := Bool.eq_false_iff.2 (mt Die.calmSince_any_iff.1 hlow)
  show execCurrentLevelLower n s = _
  simp only [execCurrentLevelLower, hany]
  simp

theorem exec_currentLevelLower_of_throttled (hthrottle : (s.die n).throttle = true) (hlevel : (s.die n).level ≤ 2) :
    exec (.currentLevelLower n) s = .next s := by
  show execCurrentLevelLower n s = _
  simp [execCurrentLevelLower, hthrottle, hlevel]

end Current

/-! ### The statement -/

/-- Settles O50: a write of a target and each event of a hop by where the hop stands, a droop by what it makes of its die, a level by the
current measured. -/
theorem clockHops : Obligations.ClockHops := by
  unfold Obligations.ClockHops
  intro s n v current hn d put tgt w shaken left low limit asked
  refine ⟨fun hhop hrun htgt => ?_, fun hstays => ?_, fun hrun => ⟨exec_hopPllLock_of_locking hrun, fun hhop htgt => ?_,
    fun hhop htgt => ?_, fun hquiet => exec_hopRetry_of_abandoned hrun hquiet, fun hquiet => exec_hopRetry_of_paused hrun hquiet,
    fun hhop => ⟨exec_hopPllLock_of_none hhop, exec_hopComplete_of_none hhop, exec_hopRetry_of_none hhop⟩⟩, fun hhop habn => ?_,
    fun hhop habn => ?_, fun hhop hfalls => ?_, fun hhop => ?_, exec_hopRetry_of_shaky, State.quiet_iff, rfl,
    exec_currentLevelRaise hn, rfl, exec_currentLevelLower_of_calm, exec_currentLevelLower_of_high,
    exec_currentLevelLower_of_throttled, rfl, rfl⟩
  · rw [exec_dieclkTgtWrite hn]
    dsimp only
    rw [if_pos ⟨hhop, hrun⟩, Die.startHop_of_other htgt]
    rfl
  · rw [exec_dieclkTgtWrite hn]
    dsimp only
    split
    · have hsame : tgt = d.cur := (hstays.resolve_left (not_not.2 ‹_ ∧ _›.1)).resolve_left (not_not.2 ‹_ ∧ _›.2)
      rw [Die.startHop_of_same hsame]
      rfl
    · rfl
  · exact exec_hopComplete_of_lowering hrun hhop (Die.startHop_of_same htgt)
  · exact exec_hopComplete_of_lowering hrun hhop (Die.startHop_of_other htgt)
  · rw [exec_droopDetect hn, Die.droop_of_locking hhop, State.giveUp_of_few]
    rw [State.die_setDie_same]
    show min 255 (d.abn + 1) < 16
    omega
  · rw [exec_droopDetect hn, Die.droop_of_locking hhop, State.giveUp_of_many (by simp)]
    · simp only [State.die_setDie_same]
      rfl
    · rw [State.die_setDie_same]
      show 16 ≤ min 255 (d.abn + 1)
      omega
  · rw [exec_droopDetect hn, Die.droop_of_lowering hhop hfalls, State.giveUp_of_hop (by simp)]
  · rw [exec_droopDetect hn, Die.droop_of_none hhop, State.giveUp_of_hop (by simpa using fun h => by cases hhop.symm.trans h)]

end Sys2Proof.Machine
end

section
/-! PROOFS. Heat (R487 to R490): what a sensor's reading throttles and asks for, the kiln hold and its end, forced 24k that runs out. -/

namespace Sys2Proof.Machine

/-! ### A sensor is read (R487) -/

section Heat
variable {s : State} {n temp : Nat}

@[simp] theorem State.settleThrottle_power (s : State) (n : Nat) : (s.settleThrottle n).power = s.power := by
  unfold State.settleThrottle
  split <;> rfl

@[simp] theorem State.readSensor_power (s : State) (n temp : Nat) :
    (s.readSensor n temp).power = { s.power with temps := SMap.insert s.power.temps n (temp % 2 ^ 16) } :=
  State.settleThrottle_power ..

theorem State.temp_readSensor (s : State) (n temp : Nat) : (s.readSensor n temp).temp n = sx 16 (temp % 2 ^ 16) := by
  rw [State.temp, State.readSensor_power, SMap.get_insert_same]

/-- The die of a sensor is throttled while one of its four stands at 95 °C or above, at level 2 at least. -/
theorem State.die_readSensor (hn : n < 32) : (s.readSensor n temp).die (n / 4) =
    let hot := (List.range 4).any fun i => decide (1520 ≤ (s.setTemp n temp).temp (4 * (n / 4) + i))
    ({ s.die (n / 4) with throttle := hot } : Die).atLevel (if hot then max 2 (s.die (n / 4)).level else (s.die (n / 4)).level)
      s.power.dtime := by
  have h32 : ¬ 32 ≤ n := by omega
  simp only [State.readSensor, State.settleThrottle, h32, if_false, State.die_setDie_same]
  rfl

theorem exec_sense (hn : n < 36) : s.sense n temp = (s.readSensor n temp).heatActs n := by
  have h36 : ¬ 36 ≤ n := by omega
  simp only [State.sense, h36, if_false]

/-! ### What a reading asks for (R488, R489) -/

theorem State.heatActs_of_cool (h : s.temp n < 1680) : s.heatActs n = s := by
  have h5 : ¬ 1840 ≤ s.temp n := by omega
  simp [State.heatActs, h5, Int.not_le.2 h]

theorem State.heatActs_of_stopping (h : s.temp n < 1840) (hkiln : s.power.kiln ≠ .running) : s.heatActs n = s := by
  simp [State.heatActs, Int.not_le.2 h, hkiln]

theorem State.heatActs_of_hot (h : 1680 ≤ s.temp n) (h5 : s.temp n < 1840) (hkiln : s.power.kiln = .running) : s.heatActs n =
    ({ s with power := { s.power with
        kiln := .entering, kilnSince := s.power.dtime, holds := (s.power.holds + 1) % 2 ^ 16 } } : State).settleHold := by
  simp [State.heatActs, Int.not_le.2 h5, h, hkiln]

/-- The record of a trip is made once, and may latch the snapshot (R489, R497). -/
def State.noteTrip (s : State) (n : Nat) : State :=
  if s.power.tripped.isSome then s else
    { s with power := { s.power with tripped := some (s.checkBytes 5 (sensorDie n) 0xFFFF 0 0) } }.trigger 2 5

theorem State.heatActs_of_trip (h : 1840 ≤ s.temp n) (hoff : s.power.off = false) : s.heatActs n =
    State.settleLoss { s.noteTrip n with power := { (s.noteTrip n).power with lost := true } } := by
  simp [State.heatActs, State.noteTrip, h, hoff]

theorem State.trigger_off (s : State) (src code : Nat) : (s.trigger src code).power.off = s.power.off := by
  unfold State.trigger
  split <;> rfl

theorem State.noteTrip_off (s : State) (n : Nat) : (s.noteTrip n).power.off = s.power.off := by
  unfold State.noteTrip
  split
  · rfl
  · exact State.trigger_off ..

/-- A loss of power saves at once what can be saved (R321). -/
theorem State.settleLoss_of_lost (hlost : s.power.lost = true) (hoff : s.power.off = false) :
    s.settleLoss = if s.saveReady then s.saveAll else s := by
  simp [State.settleLoss, hlost, hoff]

end Heat

/-! ### The kiln hold (R488) -/

section Hold
variable {s : State}

theorem State.settleHold_of_stopped (hkiln : s.power.kiln = .entering) (hstopped : s.allStopped = true) :
    s.settleHold = { s with power := { s.power with kiln := .held } } := by
  simp [State.settleHold, hkiln, hstopped]

theorem State.settleHold_of_moving (h : s.allStopped = false) : s.settleHold = s := by
  simp [State.settleHold, h]

/-- Every sensor stands at 90 °C or below. -/
def State.coolThroughout (s : State) : Prop := ∀ i < 36, s.temp i ≤ 1440

theorem State.coolThroughout_iff : ((List.range 36).all fun n => decide (s.temp n ≤ 1440)) = true ↔ s.coolThroughout := by
  simp only [List.all_eq_true, List.mem_range, decide_eq_true_eq]
  rfl

theorem exec_kilnHoldEnd_of_cool (hheld : s.power.kiln = .held) (hcool : s.coolThroughout)
    (hlong : s.power.kilnSince + 1000000 ≤ s.power.dtime) :
    ∃ t, exec .kilnHoldEnd s = .next t ∧ t.power = { s.power with kiln := .running } ∧ t.mem = s.mem ∧ t.strands = s.strands := by
  refine ⟨_, rfl, ?_⟩
  simp only [State.coolThroughout_iff.2 hcool, hheld, hlong, beq_self_eq_true, decide_true, Bool.and_self, if_true]
  exact ⟨State.flushOutbox_power _, State.flushOutbox_mem _, State.flushOutbox_strands _⟩

theorem exec_kilnHoldEnd_of_warm (h : ¬ s.coolThroughout) : exec .kilnHoldEnd s = .next s := by
  have hwarm := Bool.eq_false_iff.2 (mt State.coolThroughout_iff.1 h)
  show execKilnHoldEnd s = _
  simp only [execKilnHoldEnd, hwarm, Bool.and_false, Bool.false_and, Bool.false_eq_true, if_false]

end Hold

/-! ### Forced 24k (R490) -/

theorem exec_force24kExpiry_of_due {s : State} {core t : Nat} (h : (s.core core).forceUntil = some t) (hdue : t ≤ s.power.dtime) :
    exec (.force24kExpiry core) s = .next (s.setCore core { s.core core with forceUntil := none }) := by
  show execForce24kExpiry core s = _
  simp only [execForce24kExpiry, h, hdue, if_true]

theorem exec_force24kExpiry_of_none {s : State} {core : Nat} (h : (s.core core).forceUntil = none) :
    exec (.force24kExpiry core) s = .next s := by
  show execForce24kExpiry core s = _
  simp only [execForce24kExpiry, h]

/-! ### The statement -/

/-- Settles O51: the three events read their sensor, and what it shows decides; the hold by whether every strand has stopped, its end by
whether every sensor is cool. -/
theorem heatAndHolds : Obligations.HeatAndHolds := by
  unfold Obligations.HeatAndHolds
  intro s n temp core hn u hot held noted trip cool c reads
  have hreads : reads (.next (s.sense n temp)) := by
    rw [exec_sense hn]
    have hpower : u.power = { s.power with temps := SMap.insert s.power.temps n (temp % 2 ^ 16) } := State.readSensor_power ..
    refine ⟨fun h => congrArg _ (State.heatActs_of_cool h), fun h hkiln => congrArg _ (State.heatActs_of_stopping h ?_),
      fun h h5 hkiln => congrArg _ ((State.heatActs_of_hot h h5 ?_).trans ?_), fun h hoff => congrArg _ ?_⟩
    · rwa [State.readSensor_power]
    · rwa [State.readSensor_power]
    · show State.settleHold { u with power := _ } = held.settleHold
      simp only [held, hpower]
    · have huoff : u.power.off = false := by rw [hpower]; exact hoff
      exact (State.heatActs_of_trip h huoff).trans (State.settleLoss_of_lost rfl ((u.noteTrip_off n).trans huoff))
  refine ⟨hreads, hreads, hreads, s.temp_readSensor n temp, fun h32 => ?_, ⟨State.settleHold_of_stopped, State.settleHold_of_moving⟩,
    exec_kilnHoldEnd_of_cool, exec_kilnHoldEnd_of_warm, fun t => exec_force24kExpiry_of_due, exec_force24kExpiry_of_none⟩
  have hdie : u.die (n / 4) = _ := State.die_readSensor h32
  rw [hdie]
  exact ⟨rfl, rfl⟩

end Sys2Proof.Machine
end

section
/-! PROOFS. Errors (R440, R492 to R496): what a failed line check, an uncorrectable and a corrected error leave, and the ring of records. -/

namespace Sys2Proof.Machine

/-- A trigger latches the snapshot or does nothing: the ring of records stays (R496, R497). -/
theorem State.trigger_checks (s : State) (src code : Nat) :
    (s.trigger src code).power.mcCount = s.power.mcCount ∧ (s.trigger src code).power.mcRing = s.power.mcRing := by
  unfold State.trigger
  split <;> exact ⟨rfl, rfl⟩

/-- A record joins the ring of 256 at its count (R496). -/
theorem State.machineCheck_ring (s : State) (kind src ctx addr band : Nat) :
    (s.machineCheck kind src ctx addr band).power.mcCount = s.power.mcCount + 1 ∧
    SMap.find (s.machineCheck kind src ctx addr band).power.mcRing (s.power.mcCount % 256) = some (s.checkBytes kind src ctx addr band) := by
  obtain ⟨hcount, hring⟩ := State.trigger_checks (({ s with power :=
    { s.power with mcSuppressed := SMap.erase s.power.mcSuppressed kind } } : State).deliverCheck (s.checkBytes kind src ctx addr band)) 2 kind
  rw [State.machineCheck, hcount, hring, State.deliverCheck, State.toQueue0, (State.postRecord_leavesCommands ..).power]
  exact ⟨rfl, SMap.find_insert_same ..⟩

/-- Settles O52: an error by its place, a corrected one by how many its frame has had within the hour. -/
theorem errorReports : Obligations.ErrorReports := by
  unfold Obligations.ErrorReports
  intro s addr core line sid frame owned dirty gone bad now ts err ls core9 fails atHome onWay
  refine ⟨?_, (mem_insertNat ..).2 (.inl rfl), rfl, rfl, rfl, rfl, fun e he => ?_, fun o howner => ?_, rfl, fun hclean => ?_,
    fun hdirty => ?_, rfl, rfl, fun hfew => ?_, fun hmany => ?_, s.machineCheck_ring⟩
  · show execLineCheckFail addr s = _ ∨ execLineCheckFail addr s = _
    unfold execLineCheckFail
    dsimp only
    split
    · exact .inl rfl
    · exact .inr rfl
  · simp only [List.mem_cons, List.not_mem_nil, or_false] at he
    rcases he with rfl | rfl | rfl
    all_goals
      show Host.Outcome.next (s.coreError (coreOf sid) (if (s.strand sid).life == .unalloc then [] else [(s.strand sid).grp])) = _
      simp only [beq_iff_eq]
      rfl
  · have hgroup : s.ownerGroup core = [(s.strand o).grp] := by
      have : (s.core core).owner = some o := howner
      simp [State.ownerGroup, this]
    exact ⟨congrArg (fun l => Host.Outcome.next (s.coreError core l)) hgroup,
      congrArg (fun l => Host.Outcome.next (s.coreError core l)) hgroup⟩
  · show execUncorrectableError (.cacheLine addr) s = _
    simp only [execUncorrectableError, show (SMap.find s.mem.cache (addr / 64)).any (·.dirty) = false from hclean]
    rfl
  · show ∃ t, execUncorrectableError (.cacheLine addr) s = .next t ∧ _
    simp only [execUncorrectableError, show (SMap.find s.mem.cache (addr / 64)).any (·.dirty) = true from hdirty]
    refine ⟨_, rfl, ?_⟩
    simp only [Bool.not_true, Bool.false_eq_true, if_false]
    split
    · exact .inl rfl
    · exact .inr rfl
  · exact congrArg _ (if_pos hfew)
  · exact congrArg _ (if_neg (Nat.not_lt.2 hmany))

end Sys2Proof.Machine
end

section
/-! PROOFS. What the end of groups, of launches and of contexts leaves (R299, R309, R392, R416): the bytes of memory at their homes, and
a context that closes, until it is released. -/

namespace Sys2Proof.Machine

/-- A context that is closing, or is there no more (R299). -/
def State.ctxClosed (s : State) (n : Nat) : Prop := ∀ c, SMap.find s.ctxs n = some c → c.state = .closing

theorem State.ctxClosed_congr {s t : State} {n : Nat} (h : t.ctxs = s.ctxs) : t.ctxClosed n ↔ s.ctxClosed n := by
  rw [State.ctxClosed, State.ctxClosed, h]

theorem State.ctxClosed_setCtx {s : State} {m n : Nat} {c : Ctx} (h : s.ctxClosed n) (hc : n = m → c.state = .closing) :
    (s.setCtx m c).ctxClosed n := by
  intro x hx
  by_cases hn : n = m
  · subst hn
    rw [State.setCtx, SMap.find_insert_same] at hx
    exact Option.some.inj hx ▸ hc rfl
  · rw [State.setCtx, SMap.find_insert_other hn] at hx
    exact h x hx

/-- A change that leaves the bytes of memory at their homes, and contexts that close closing. -/
structure State.leavesBytes (s t : State) : Prop where
  cells : t.mem.cells = s.mem.cells
  closed : ∀ n, s.ctxClosed n → t.ctxClosed n

theorem State.leavesBytes_refl (s : State) : s.leavesBytes s := ⟨rfl, fun _ => id⟩

theorem State.leavesBytes.trans {s t u : State} (h : s.leavesBytes t) (h' : t.leavesBytes u) : s.leavesBytes u :=
  ⟨h'.cells.trans h.cells, fun n hn => h'.closed n (h.closed n hn)⟩

/-- A change that reaches neither memory at its homes nor the table of contexts. -/
theorem State.leavesBytes_of_eq {s t : State} (hcells : t.mem.cells = s.mem.cells) (hctxs : t.ctxs = s.ctxs) : s.leavesBytes t :=
  ⟨hcells, fun _ => (State.ctxClosed_congr hctxs).2⟩

theorem State.leavesBytes_foldl {α : Type} {f : State → α → State} (h : ∀ (s : State) (a : α), s.leavesBytes (f s a)) (l : List α)
    (s : State) : s.leavesBytes (l.foldl f s) :=
  List.foldlRecOn (motive := s.leavesBytes) l f s.leavesBytes_refl fun t ht a _ => ht.trans (h t a)

/-! ### The end of strands and groups (R303, R309, R392) -/

theorem State.countStrand_leavesBytes (s : State) (st : Strand) : s.leavesBytes (s.countStrand st) := by
  unfold State.countStrand
  split <;> exact State.leavesBytes_of_eq rfl rfl

theorem State.forgetAsks_leavesBytes (s : State) (l : List Access) : s.leavesBytes (s.forgetAsks l) := by
  dsimp only [State.forgetAsks]
  split <;> exact State.leavesBytes_of_eq rfl rfl

theorem State.dropStrand_leavesBytes (s : State) (sid : Nat) : s.leavesBytes (s.dropStrand sid) := by
  refine ((s.countStrand_leavesBytes (s.strand sid)).trans (State.forgetAsks_leavesBytes _ (s.strand sid).lq)).trans ?_
  dsimp only [State.dropStrand]
  split <;> exact State.leavesBytes_of_eq rfl rfl

theorem State.zeroTile_leavesBytes (s : State) (k : Nat) (t : Tile) : s.leavesBytes (s.zeroTile k t) := by
  dsimp only [State.zeroTile]
  split <;> exact State.leavesBytes_of_eq rfl rfl

theorem State.releaseTile_leavesBytes (s : State) (k : Nat) (t : Tile) : s.leavesBytes (s.releaseTile k t) := by
  unfold State.releaseTile
  split
  · exact s.leavesBytes_refl
  · exact s.zeroTile_leavesBytes k t

theorem State.freeTable_leavesBytes (s : State) (k : Nat) : s.leavesBytes (s.freeTable k) :=
  (State.leavesBytes_foldl (fun (s : State) t => s.releaseTile_leavesBytes k t) _ s).trans (State.leavesBytes_of_eq rfl rfl)

theorem State.freeShadow_leavesBytes (s : State) (k : Nat) : s.leavesBytes (s.freeShadow k) :=
  (State.leavesBytes_foldl (fun (s : State) t => s.releaseTile_leavesBytes k t) _ s).trans (State.leavesBytes_of_eq rfl rfl)

theorem State.freeTiles_leavesBytes (s : State) (g : Group) : s.leavesBytes
    (if g.foreground then s.freeTable g.cluster else if g.shadow then s.freeShadow g.cluster else s) := by
  split
  · exact s.freeTable_leavesBytes _
  · split
    · exact s.freeShadow_leavesBytes _
    · exact s.leavesBytes_refl

theorem State.forceCores_leavesBytes (s : State) (l : List Nat) : s.leavesBytes (s.forceCores l) := by
  rw [State.forceCores_eq]; exact State.leavesBytes_of_eq rfl rfl

theorem State.settleSwap_leavesBytes (s : State) (k : Nat) : s.leavesBytes (s.settleSwap k) := by
  unfold State.settleSwap
  split <;> exact State.leavesBytes_of_eq rfl rfl

/-- A context is OPEN again only from ACTIVE (R299). -/
theorem State.settleEnded_leavesBytes (s : State) (ctx kernel : Nat) : s.leavesBytes (s.settleEnded ctx kernel) := by
  have hopen : s.leavesBytes (if (s.ctx ctx).state == .active && !s.anyGroup (fun g => g.ctx == ctx) then
      s.setCtx ctx { s.ctx ctx with state := .opened } else s) := by
    split
    case isTrue hactive =>
      refine ⟨rfl, fun n hn x hx => ?_⟩
      by_cases hsame : n = ctx
      · subst hsame
        obtain ⟨hstate, -⟩ := Bool.and_eq_true_iff.1 hactive
        have hstate : (s.ctx n).state = .active := by simpa using hstate
        rw [State.ctx, SMap.get] at hstate
        cases hfind : SMap.find s.ctxs n with
        | none => rw [hfind] at hstate; cases hstate
        | some c => rw [hfind] at hstate; cases (hn c hfind).symm.trans hstate
      · rw [State.setCtx, SMap.find_insert_other hsame] at hx
        exact hn x hx
    case isFalse => exact s.leavesBytes_refl
  refine hopen.trans ?_
  dsimp only [State.settleEnded]
  generalize (if (s.ctx ctx).state == .active && !s.anyGroup (fun g => g.ctx == ctx) then
    s.setCtx ctx { s.ctx ctx with state := .opened } else s) = u
  repeat' split
  all_goals exact State.leavesBytes_of_eq rfl rfl

theorem State.endGroup_leavesBytes (s : State) (gid : Nat) (into : GroupState) : s.leavesBytes (s.endGroup gid into) := by
  have hstrands := (State.leavesBytes_foldl State.countStrand_leavesBytes (s.group gid).saved s).trans
    (State.leavesBytes_foldl State.dropStrand_leavesBytes (s.group gid).strands _)
  have hcancelled : ∀ t : State, t.leavesBytes (t.cancelCommands gid) := fun t => State.leavesBytes_of_eq rfl rfl
  have hfreed := (hstrands.trans (hcancelled _)).trans (State.freeTiles_leavesBytes _ (s.group gid))
  dsimp only [State.endGroup]
  split
  · exact s.leavesBytes_refl
  · refine (State.leavesBytes.trans ?_ (State.forceCores_leavesBytes ..)).trans
      ((State.settleSwap_leavesBytes ..).trans (State.settleEnded_leavesBytes ..))
    exact hfreed.trans (State.leavesBytes_of_eq rfl rfl)

/-! ### The end of launches (R309, R324, R392) -/

theorem State.closeBarrier_leavesBytes (s : State) (lid : Nat) : s.leavesBytes (s.closeBarrier lid) := by
  unfold State.closeBarrier
  split <;> exact State.leavesBytes_of_eq rfl rfl

theorem State.abortLaunch_leavesBytes (s : State) (lid : Nat) : s.leavesBytes (s.abortLaunch lid) := by
  have hopen : s.leavesBytes (s.abortBarrier lid) := State.leavesBytes_of_eq rfl rfl
  exact (hopen.trans (State.leavesBytes_foldl (fun (s : State) g => s.endGroup_leavesBytes g .faulted) _ _)).trans
    (State.closeBarrier_leavesBytes ..)

theorem State.fixStatus_leavesBytes (s : State) (lid : Nat) (st : Status) (esc : EscRecord) :
    s.leavesBytes (s.fixStatus lid st esc) := by
  dsimp only [State.fixStatus]
  split <;> exact State.leavesBytes_of_eq rfl rfl

theorem State.endLaunches_leavesBytes (s : State) (ids : List Nat) (st : Status) (esc : EscRecord) :
    s.leavesBytes (s.endLaunches ids st esc) :=
  State.leavesBytes_foldl (fun (s : State) lid => (s.abortLaunch_leavesBytes lid).trans (State.fixStatus_leavesBytes ..)) ids s

/-! ### The end of contexts (R299, R348) -/

/-- A token that is signalled changes the context that holds it, but not its state (R355). -/
theorem State.signal_leavesBytes (s : State) (c : Completion) : s.leavesBytes (s.signal c) := by
  dsimp only [State.signal]
  split
  · exact s.leavesBytes_refl
  · split
    · refine ⟨rfl, fun n hn => State.ctxClosed_setCtx hn fun heq => ?_⟩
      subst heq
      rename_i x hx
      rw [State.ctx, SMap.get, hx]
      exact hn x hx
    · exact s.leavesBytes_refl

theorem State.dropHeld_leavesBytes (s : State) (ctx : Nat) : s.leavesBytes (s.dropHeld ctx) := by
  refine State.leavesBytes_foldl (fun (s : State) n => ?_) _ s
  dsimp only
  split
  · have hset : s.leavesBytes (s.setCq n { s.cq n with held := [] }) := State.leavesBytes_of_eq rfl rfl
    exact hset.trans (State.leavesBytes_foldl State.signal_leavesBytes _ _)
  · exact s.leavesBytes_refl

theorem State.closeCtx_leavesBytes (s : State) (ctx : Nat) :
    (s.closeCtx ctx).mem.cells = s.mem.cells ∧ ∀ n, s.ctxClosed n ∨ n = ctx → (s.closeCtx ctx).ctxClosed n := by
  set closing : State := s.setCtx ctx { s.ctx ctx with
    state := .closing, notices := [], pages := (s.ctx ctx).pages.filter fun e => pteState e.2 != pgNonres && pteState e.2 != pgMigrating }
    with hclosing
  have hstart : ∀ n, s.ctxClosed n ∨ n = ctx → closing.ctxClosed n := by
    rintro n (hn | rfl)
    · exact State.ctxClosed_setCtx hn fun _ => rfl
    · intro x hx
      rw [hclosing, State.setCtx, SMap.find_insert_same] at hx
      exact Option.some.inj hx ▸ rfl
  suffices h : closing.leavesBytes (s.closeCtx ctx) from ⟨h.cells, fun n hn => h.closed n (hstart n hn)⟩
  refine (closing.dropHeld_leavesBytes ctx).trans ?_
  dsimp only [State.closeCtx]
  rw [← hclosing]
  generalize closing.dropHeld ctx = u
  set unbound : State := { u with cmd := { u.cmd with
    queues := u.cmd.queues.map (fun (e : Nat × CmdQueue) => (e.1, if e.2.ctx = ctx then { e.2 with state := .off } else e.2)),
    kernels := u.cmd.kernels.filter fun e => e.2.ctx != ctx } }
  have hunbound : u.leavesBytes unbound := State.leavesBytes_of_eq rfl rfl
  refine (hunbound.trans (State.endLaunches_leavesBytes _ (unbound.openLaunches ctx) .abort {})).trans ?_
  split <;> exact State.leavesBytes_of_eq rfl rfl

/-- A closing context with nothing left is released. -/
theorem State.settleClosing_leavesBytes (s : State) (ctx : Nat) : s.leavesBytes (s.settleClosing ctx) := by
  unfold State.settleClosing
  split
  · exact s.leavesBytes_refl
  · split
    · exact s.leavesBytes_refl
    · refine ⟨?_, fun n hn c hc => ?_⟩
      · dsimp only
        split <;> rfl
      · dsimp only at hc
        rw [SMap.find_erase] at hc
        split at hc
        · cases hc
        · exact hn c hc

end Sys2Proof.Machine
end

section
/-! PROOFS. UCIe links (R459), the host port (R462), Ibilman ports and SYSID (R463, R464): one equation for each way in which an event
ends. -/

namespace Sys2Proof.Machine

/-! ### UCIe links (R459) -/

section Ucie
variable {s : State} {n : Nat}

theorem exec_ucieRetrain_of_active (h : (s.ucie n).state = .active) :
    exec (.ucieRetrain n) s = .next (s.setUcie n { s.ucie n with state := .retrain }) := by
  show execUcieRetrain n s = _
  simp [execUcieRetrain, h]

theorem exec_ucieRetrainComplete_of_ok (h : (s.ucie n).state = .retrain) :
    exec (.ucieRetrainComplete n true) s = .next (s.setUcie n { s.ucie n with state := .active }).deliverHeld := by
  show execUcieRetrainComplete n true s = _
  simp [execUcieRetrainComplete, h]

/-- The failed retrains of a link within the last second, this one among them. -/
def State.ucieFails (s : State) (n : Nat) : List Nat :=
  s.power.dtime :: (s.ucie n).fails.filter fun t => decide (s.power.dtime < t + 1000000000)

theorem exec_ucieRetrainComplete_of_few (h : (s.ucie n).state = .retrain) (hfew : (s.ucieFails n).length < 3) :
    exec (.ucieRetrainComplete n false) s = .next (s.setUcie n { s.ucie n with fails := s.ucieFails n }) := by
  show execUcieRetrainComplete n false s = _
  unfold State.ucieFails at *
  simp only [execUcieRetrainComplete, h, hfew, bne_self_eq_false, Bool.false_eq_true, if_false, if_true]

theorem exec_ucieRetrainComplete_of_third (h : (s.ucie n).state = .retrain) (hmany : 3 ≤ (s.ucieFails n).length) :
    exec (.ucieRetrainComplete n false) s =
      let failed := s.setUcie n { state := .failed, fails := s.ucieFails n }
      .next (if n < 16 then failed.failDie (n / 2) else failed.machineCheck 4 8 0xFFFF 0 0) := by
  show execUcieRetrainComplete n false s = _
  unfold State.ucieFails at *
  simp only [execUcieRetrainComplete, h, Nat.not_lt.2 hmany, bne_self_eq_false, Bool.false_eq_true, if_false]

end Ucie

/-! ### The host port (R462) -/

section HostPort
variable {s : State}

theorem exec_hostLinkDown_of_up (h : s.link.hostUp = true) : exec .hostLinkDown s =
    .next { s with link := { s.link with hostUp := false, hostDownSince := s.power.dtime, hostFailed := false } } := by
  show execHostLinkDown s = _
  simp only [execHostLinkDown, h, if_true]

theorem exec_hostLinkTimeout_of_due (h : s.link.hostUp = false) (hopen : s.link.hostFailed = false)
    (hdue : s.link.hostDownSince + 50000000 ≤ s.power.dtime) :
    exec .hostLinkTimeout s = .next (({ s with link := { s.link with hostFailed := true } } : State).failFrames isHost) := by
  show execHostLinkTimeout s = _
  simp [execHostLinkTimeout, h, hopen, hdue]

theorem exec_hostLinkTimeout_of_up (h : s.link.hostUp = true) : exec .hostLinkTimeout s = .next s := by
  show execHostLinkTimeout s = _
  simp [execHostLinkTimeout, h]

end HostPort

/-! ### Ibilman ports (R463, R464) -/

section Ports
variable {s : State} {n v lane : Nat}

theorem exec_portEnable_of_down (hn : n < 8) (hbit : bit v 3 = true) (h : (s.port n).state = .down ∨ (s.port n).state = .failed) :
    exec (.portEnable n v) s = .next (s.setPort n
      { s.port n with state := .training, en := true, trn := 0, lane0 := false, lane1 := false, since := s.power.dtime }) := by
  have h8 : ¬ 8 ≤ n := by omega
  show execPortEnable n v s = _
  rcases h with h | h <;> simp [execPortEnable, h8, hbit, h]

theorem exec_portDisable (hn : n < 8) (hbit : bit v 3 = false) : exec (.portDisable n v) s =
    .next (s.setPort n { s.port n with state := .down, en := false, nbr := 0, lane0 := false, lane1 := false }) := by
  have h8 : ¬ 8 ≤ n := by omega
  show execPortDisable n v s = _
  simp [execPortDisable, h8, hbit]

/-- A port with one of its lanes locked or lost. -/
def Port.withLane (p : Port) (lane : Nat) (on : Bool) : Port := if lane = 0 then { p with lane0 := on } else { p with lane1 := on }

theorem Port.withLane_state (p : Port) (lane : Nat) (on : Bool) : (p.withLane lane on).state = p.state := by
  unfold Port.withLane
  split <;> rfl

/-- A port with no lane, or with one, after one is lost. -/
theorem Port.lanes_withLane_false (p : Port) (lane : Nat) : ((p.withLane lane false).lane0 && (p.withLane lane false).lane1) = false := by
  unfold Port.withLane
  split <;> simp

theorem exec_portLaneLock (s : State) (n lane : Nat) : exec (.portLaneLock n lane) s =
    let p := (s.port n).withLane lane true
    .next (match (s.port n).state with
      | .training =>
        if p.lane0 && p.lane1 then (s.setPort n { p with state := .up, nbr := Config.freeNat s.tick % 4096 }).bump
        else { s with link := { s.link with ports := SMap.insert s.link.ports n p } }
      | .degraded => if p.lane0 && p.lane1 then s.setPort n { p with state := .up } else s
      | _ => s) := by
  rw [← (s.port n).withLane_state lane true]
  rfl

theorem exec_portLaneLoss (s : State) (n lane : Nat) : exec (.portLaneLoss n lane) s =
    let p := (s.port n).withLane lane false
    .next (match (s.port n).state with
      | .training => { s with link := { s.link with ports := SMap.insert s.link.ports n p } }
      | .up => if p.lane0 && p.lane1 then s else s.setPort n { p with state := .degraded }
      | .degraded => if p.lane0 || p.lane1 then s else s.setPort n { p with state := .training, nbr := 0, since := s.power.dtime }
      | _ => s) := by
  rw [← (s.port n).withLane_state lane false]
  rfl

/-- Both lanes of a port in training are locked: it is UP, with a neighbour that the training met (R463). -/
theorem exec_portLaneLock_of_trained (h : (s.port n).state = .training) (h0 : ((s.port n).withLane lane true).lane0 = true)
    (h1 : ((s.port n).withLane lane true).lane1 = true) : exec (.portLaneLock n lane) s =
      .next (s.setPort n { (s.port n).withLane lane true with state := .up, nbr := Config.freeNat s.tick % 4096 }).bump := by
  simp only [exec_portLaneLock, h, h0, h1, Bool.and_self, if_true]

theorem exec_portLaneLock_of_training (h : (s.port n).state = .training)
    (hlane : ((s.port n).withLane lane true).lane0 = false ∨ ((s.port n).withLane lane true).lane1 = false) :
    exec (.portLaneLock n lane) s =
      .next { s with link := { s.link with ports := SMap.insert s.link.ports n ((s.port n).withLane lane true) } } := by
  rcases hlane with hlane | hlane <;> simp [exec_portLaneLock, h, hlane]

theorem exec_portLaneLock_of_degraded (h : (s.port n).state = .degraded) (h0 : ((s.port n).withLane lane true).lane0 = true)
    (h1 : ((s.port n).withLane lane true).lane1 = true) :
    exec (.portLaneLock n lane) s = .next (s.setPort n { (s.port n).withLane lane true with state := .up }) := by
  simp only [exec_portLaneLock, h, h0, h1, Bool.and_self, if_true]

theorem exec_portLaneLoss_of_up (h : (s.port n).state = .up) :
    exec (.portLaneLoss n lane) s = .next (s.setPort n { (s.port n).withLane lane false with state := .degraded }) := by
  simp only [exec_portLaneLoss, h, Port.lanes_withLane_false, Bool.false_eq_true, if_false]

theorem exec_portLaneLoss_of_degraded (h : (s.port n).state = .degraded) (h0 : ((s.port n).withLane lane false).lane0 = false)
    (h1 : ((s.port n).withLane lane false).lane1 = false) : exec (.portLaneLoss n lane) s =
      .next (s.setPort n { (s.port n).withLane lane false with state := .training, nbr := 0, since := s.power.dtime }) := by
  simp only [exec_portLaneLoss, h, h0, h1, Bool.or_self, Bool.false_eq_true, if_false]

theorem exec_portTrainTimeout_of_lane (h : (s.port n).state = .training) (hlane : (s.port n).lane0 = true ∨ (s.port n).lane1 = true)
    (hdue : (s.port n).since + 100000000 ≤ s.power.dtime) : exec (.portTrainTimeout n) s =
      .next (s.setPort n { s.port n with state := .degraded, nbr := Config.freeNat s.tick % 4096 }).bump := by
  show execPortTrainTimeout n s = _
  rcases hlane with hlane | hlane <;> simp [execPortTrainTimeout, h, hlane, hdue]

theorem exec_portTrainTimeout_of_dark (h : (s.port n).state = .training) (h0 : (s.port n).lane0 = false) (h1 : (s.port n).lane1 = false)
    (hdue : (s.port n).since + 500000000 ≤ s.power.dtime) : exec (.portTrainTimeout n) s =
      .next (s.setPort n { s.port n with trn := min 255 ((s.port n).trn + 1), since := s.power.dtime,
                                         state := if 3 ≤ (s.port n).trn + 1 then .failed else .training }) := by
  show execPortTrainTimeout n s = _
  simp [execPortTrainTimeout, h, h0, h1, hdue]

end Ports

/-! ### SYSID (R461, R464) -/

theorem exec_sysidWrite_of_down {s : State} (h : ∀ m < 8, (s.port m).state = .down) (hlocked : s.sec.tdi ≠ .locked) (hrun : s.sec.tdi ≠ .run)
    (v : Nat) : exec (.sysidWrite v) s = .next { s with link := { s.link with sysid := v % 4096 } } := by
  have hdown : ((List.range 8).all fun n => (s.port n).state == .down) = true := by simpa using h
  show execSysidWrite v s = _
  simp only [execSysidWrite, hdown]
  simp [hlocked, hrun]

theorem exec_sysidWrite_of_live {s : State} {m : Nat} (hm : m < 8) (h : (s.port m).state ≠ .down) (v : Nat) :
    exec (.sysidWrite v) s = .next s := by
  have hlive : ((List.range 8).all fun n => (s.port n).state == .down) = false := by
    rw [List.all_eq_false]
    exact ⟨m, List.mem_range.2 hm, by simpa using h⟩
  show execSysidWrite v s = _
  simp only [execSysidWrite, hlive, Bool.and_false, Bool.false_eq_true, if_false]

/-! ### The statement -/

/-- Settles O53: each event of a link or a port by the state in which it meets it. -/
theorem linkStates : Obligations.LinkStates := by
  unfold Obligations.LinkStates
  intro s n v lane table index u p now fails failed l q r keep upOr alone
  have hlt : Config.freeNat s.tick % 4096 < 4096 := Nat.mod_lt _ (by decide)
  refine ⟨exec_ucieRetrain_of_active, exec_ucieRetrainComplete_of_ok, exec_ucieRetrainComplete_of_few, exec_ucieRetrainComplete_of_third,
    exec_hostLinkDown_of_up, exec_hostLinkTimeout_of_due, exec_hostLinkTimeout_of_up, rfl, exec_portEnable_of_down, exec_portDisable,
    fun h h0 h1 => ⟨_, exec_portLaneLock_of_trained h h0 h1, _, hlt, rfl⟩, exec_portLaneLock_of_training, exec_portLaneLock_of_degraded,
    fun h _ _ => exec_portLaneLoss_of_up h, exec_portLaneLoss_of_degraded,
    fun h hlane hdue => ⟨_, exec_portTrainTimeout_of_lane h hlane hdue, _, hlt, rfl⟩, exec_portTrainTimeout_of_dark,
    fun h hlocked hrun => exec_sysidWrite_of_down h hlocked hrun v, fun m hm h => exec_sysidWrite_of_live hm h v, rfl⟩

end Sys2Proof.Machine
end

section
/-! PROOFS. Security states (R333, R340 to R344, R461): the TDI and the worlds that end with it, channels, challenges, tokens and the expiry
of the debug state. -/

namespace Sys2Proof.Machine

/-! ### The TDI (R461) -/

section Tdi
variable {s : State}

theorem exec_lockInterface (s : State) : exec .lockInterface s = .next (if s.sec.tdi = .unlocked then s.setTdi .locked else s) := by
  show execLockInterface s = _
  simp [execLockInterface]

theorem exec_startInterface (s : State) : exec .startInterface s = .next (if s.sec.tdi = .locked then s.setTdi .run else s) := by
  show execStartInterface s = _
  simp [execStartInterface]

theorem exec_stopInterface_of_held (h : s.sec.tdi = .locked ∨ s.sec.tdi = .run) :
    exec .stopInterface s = .next (s.setTdi .unlocked).closeWorlds := by
  show execStopInterface s = _
  rcases h with h | h <;> simp only [execStopInterface, h]

theorem exec_tdiError_of_held (h : s.sec.tdi = .locked ∨ s.sec.tdi = .run) : exec .tdiError s = .next (s.setTdi .error).closeWorlds := by
  show execTdiError s = _
  rcases h with h | h <;> simp only [execTdiError, h]

theorem exec_stopInterface_of_error (h : s.sec.tdi = .error) : exec .stopInterface s = .next (s.setTdi .unlocked) := by
  show execStopInterface s = _
  simp only [execStopInterface, h]

theorem exec_tdiError_of_error (h : s.sec.tdi = .error) : exec .tdiError s = .next s := by
  show execTdiError s = _
  simp only [execTdiError, h]

/-- A context that is ended closes, or is gone at once, and no other that closes is opened again. -/
theorem State.ctxClosed_endWorld (s : State) (m n : Nat) (h : s.ctxClosed n ∨ n = m) : ((s.closeCtx m).settleClosing m).ctxClosed n :=
  (State.settleClosing_leavesBytes ..).closed n ((s.closeCtx_leavesBytes m).2 n h)

/-- The end of the interface closes every world (R461). -/
theorem State.closeWorlds_closes {n : Nat} {x : Ctx} (hfind : SMap.find s.ctxs n = some x) (hworld : x.world = true) :
    s.closeWorlds.ctxClosed n := by
  by_cases hclosing : x.state = .closing
  · have hn : s.ctxClosed n := fun c hc => by rw [hfind] at hc; exact Option.some.inj hc ▸ hclosing
    exact List.foldlRecOn (motive := fun t : State => t.ctxClosed n) _ _ hn fun t ht m _ => t.ctxClosed_endWorld m n (.inl ht)
  · refine foldl_holds (a := n) (p := fun t : State => t.ctxClosed n) ?_ (fun t m _ ht => t.ctxClosed_endWorld m n (.inl ht))
      (fun t => t.ctxClosed_endWorld n n (.inr rfl)) s
    exact List.mem_map.2 ⟨(n, x), List.mem_filter.2 ⟨SMap.mem_of_find hfind, by simp [hworld, hclosing]⟩, rfl⟩

end Tdi

/-! ### Channels (R344) -/

section Channels
variable {s : State} {ctx chan key : Nat}

/-- A channel of a context of the package has an identifier. -/
def State.channelUsed (s : State) (chan : Nat) : Bool := s.ctxs.any fun e => e.2.channels.any fun (x : Channel) => x.id == chan

theorem exec_channelInstall_of_free (hworld : (s.ctx ctx).world = true) (hspdm : s.sec.spdm ≠ none) (hused : s.channelUsed chan = false)
    (hroom : (s.ctx ctx).channels.length < 16) (hchan : chan < 2 ^ 32) : exec (.channelInstall ctx chan key) s =
      .next (s.setCtx ctx { s.ctx ctx with channels := (s.ctx ctx).channels ++ [{ id := chan, key := key }] }) := by
  unfold State.channelUsed at hused
  show execChannelInstall ctx chan key s = _
  simp only [execChannelInstall, hworld, Option.isSome_iff_ne_none.2 hspdm, hused, hroom, hchan, Bool.not_false, decide_true, Bool.and_self,
    if_true]

theorem exec_channelInstall_of_barred
    (h : (s.ctx ctx).world = false ∨ s.channelUsed chan = true ∨ 16 ≤ (s.ctx ctx).channels.length) :
    exec (.channelInstall ctx chan key) s = .next s := by
  unfold State.channelUsed at h
  show execChannelInstall ctx chan key s = _
  rcases h with h | h | h
  · simp only [execChannelInstall, h, Bool.false_and, Bool.false_eq_true, if_false]
  · simp only [execChannelInstall, h, Bool.not_true, Bool.and_false, Bool.false_and, Bool.false_eq_true, if_false]
  · simp only [execChannelInstall, Nat.not_lt.2 h, decide_false, Bool.and_false, Bool.false_and, Bool.false_eq_true, if_false]

end Channels

/-! ### Debug state (R340, R341) -/

section Debug
variable {s : State} {token : List Byte}

theorem exec_debugUnlock_of_idle (h : s.sec.signQ = []) : exec (.debugUnlock token) s =
    let spent : State := { s with sec := { s.sec with challenge := none } }
    .next (if s.tokenGood token then spent.unlock (ofBytes ((token.drop 6).take 1)) (ofBytes ((token.drop 72).take 8)) else spent) := by
  show execDebugUnlock token s = _
  simp only [execDebugUnlock, h, List.isEmpty_nil, Bool.not_true, Bool.false_eq_true, if_false]

theorem exec_debugUnlock_of_busy (h : s.sec.signQ ≠ []) : exec (.debugUnlock token) s = .next s := by
  have hbusy : s.sec.signQ.isEmpty = false := by simpa using h
  show execDebugUnlock token s = _
  simp only [execDebugUnlock, hbusy, Bool.not_false, if_true]

/-- A token answers a challenge (R340). -/
theorem State.tokenGood_of_none (h : s.sec.challenge = none) : s.tokenGood token = false := by
  simp [State.tokenGood, h]

theorem exec_debugExpiry_of_due (h : s.sec.debug ≠ 0) (hdue : s.sec.expiry ≤ s.power.dtime) : exec .debugExpiry s = .next s.lockDebug := by
  show execDebugExpiry s = _
  simp [execDebugExpiry, h, hdue]

theorem exec_debugExpiry_of_early (h : s.sec.debug = 0 ∨ s.power.dtime < s.sec.expiry) : exec .debugExpiry s = .next s := by
  show execDebugExpiry s = _
  rcases h with h | h <;> simp [execDebugExpiry, h]

/-- A strand that the debugger has let go (R341). -/
def Strand.freed (st : Strand) : Strand := { st with debugHalt := false, debugSteps := 0 }

/-- No strand stays halted by the debugger once the debug state is locked (R341). -/
theorem State.debugHalt_lockDebug (s : State) (n : Nat) : (s.lockDebug.strand n).debugHalt = false := by
  have hfind : SMap.find s.lockDebug.strands n = (SMap.find s.strands n).map Strand.freed := SMap.find_map s.strands Strand.freed n
  rw [State.strand, SMap.get, hfind]
  cases SMap.find s.strands n <;> rfl

end Debug

/-! ### The statement -/

/-- Settles O55: each event of the interface by the TDI's state, a channel by whether it finds room, a token by what stands before it. -/
theorem securityStates : Obligations.SecurityStates := by
  unfold Obligations.SecurityStates
  intro s ctx chan key token c used t level expiry spent
  refine ⟨fun h => ?_, fun h => ?_, fun h => ?_, fun h => ?_, fun h => ⟨exec_stopInterface_of_held h, exec_tdiError_of_held h⟩,
    fun n x y hx hworld => State.closeWorlds_closes hx hworld y, fun h => ⟨exec_stopInterface_of_error h, exec_tdiError_of_error h⟩,
    ⟨_, rfl⟩, exec_channelInstall_of_free, exec_channelInstall_of_barred, ⟨_, BitVec.isLt _, rfl⟩, exec_debugUnlock_of_idle,
    exec_debugUnlock_of_busy, State.tokenGood_of_none, ⟨rfl, rfl⟩, exec_debugExpiry_of_due, exec_debugExpiry_of_early,
    rfl, s.debugHalt_lockDebug⟩
  · rw [exec_lockInterface, if_pos h]
  · rw [exec_lockInterface, if_neg h]
  · rw [exec_startInterface, if_pos h]
  · rw [exec_startInterface, if_neg h]

end Sys2Proof.Machine
end

section
/-! PROOFS. The debugger (R501) and the snapshot trigger (R497). -/

namespace Sys2Proof.Machine

section Debugger
variable {s : State} {f : Strand → Strand} {steps : Nat → Nat}

/-- A command of the debugger reaches the strand that DBGSID names (R501). -/
theorem State.debugCommand_of_open (h : s.sec.debug = 2) (hopen : (s.core (coreOf s.power.dbgSid)).isOwned = false)
    (hlife : (s.strand s.power.dbgSid).life ≠ .unalloc) : s.debugCommand f steps =
      { s.setStrand s.power.dbgSid (f (s.strand s.power.dbgSid)) with
        power := { s.power with dbgRefused := false, dbgSteps := steps s.power.dbgSteps } } := by
  simp [State.debugCommand, h, hopen, hlife]

theorem State.debugCommand_of_locked (h : s.sec.debug ≠ 2) : s.debugCommand f steps = s := by
  simp [State.debugCommand, h]

theorem State.debugCommand_of_owned (h : s.sec.debug = 2) (howned : (s.core (coreOf s.power.dbgSid)).isOwned = true) :
    s.debugCommand f steps = { s with power := { s.power with dbgRefused := true } } := by
  simp [State.debugCommand, h, howned]

theorem State.debugAccess_of_locked (h : s.sec.debug ≠ 2) (w : Bool) (g : State → Nat → Nat → State) : s.debugAccess w g = s := by
  simp [State.debugAccess, h]

/-- An access that nothing denies runs, its flags cleared. -/
theorem State.debugAccess_of_open {w : Bool} {g : State → Nat → Nat → State} (h : s.sec.debug = 2)
    (hopen : s.debugDenied (field s.power.dbgVa 52 10) (s.power.dbgVa % 2 ^ 52) w = none) : s.debugAccess w g =
      g { s with power := { s.power with dbgRefused := false, dbgErr := false } } (field s.power.dbgVa 52 10) (s.power.dbgVa % 2 ^ 52) := by
  have hlevel : (s.sec.debug != 2) = false := by simp [h]
  simp only [State.debugAccess, hlevel, hopen, Bool.false_eq_true, if_false]

/-- A world's memory is refused to the debugger. -/
theorem State.debugDenied_of_world {ctx : Nat} (h : (s.ctx ctx).world = true) (va : Nat) (w : Bool) : s.debugDenied ctx va w = some true := by
  simp [State.debugDenied, h]

end Debugger

/-! ### The snapshot (R497) -/

theorem State.armed_iff (s : State) : s.armed = true ↔ s.power.snapArm = true ∧ s.power.snapDone = false := by
  simp [State.armed]

theorem exec_snapTrigger (s : State) : exec .snapTrigger s = .next (if s.armed then s.latch else s) := rfl

theorem exec_snapcmpMatch_of_due {s : State} (h : s.armed = true) (hsrc : s.power.snapSrc = 3) (hdue : s.power.snapCmp ≤ s.power.dtime) :
    exec .snapcmpMatch s = .next s.latch := by
  show execSnapcmpMatch s = _
  simp [execSnapcmpMatch, h, hsrc, hdue]

theorem exec_snapcmpMatch_of_idle {s : State} (h : s.armed = false) : exec .snapcmpMatch s = .next s := by
  show execSnapcmpMatch s = _
  simp [execSnapcmpMatch, h]

/-! ### The statement -/

/-- Settles O56: a command by the debug level and the core of its strand, an access by what denies it, a trigger by whether it is armed. -/
theorem debugger : Obligations.Debugger := by
  unfold Obligations.Debugger
  intro s v pa bad track sid st may put refused ctx va quiet latest armed
  have hidle : ¬ armed → s.armed = false := fun h => Bool.eq_false_iff.2 (mt s.armed_iff.1 h)
  refine ⟨fun ⟨h, hopen, hlife⟩ => congrArg _ (State.debugCommand_of_open h hopen hlife), fun ⟨h, hopen, hlife⟩ hhalt => ?_,
    fun ⟨h, hopen, hlife⟩ => congrArg _ (State.debugCommand_of_open h hopen hlife), fun h => ?_, fun h howned => ?_, fun h hopen htrans => ?_,
    fun h hopen => congrArg _ (State.debugAccess_of_open h hopen), fun w _ hworld => State.debugDenied_of_world hworld va w, rfl,
    fun h => ?_, fun h => ?_, fun h => exec_snapcmpMatch_of_due (s.armed_iff.2 h), fun h => exec_snapcmpMatch_of_idle (hidle h),
    rfl, rfl, rfl⟩
  · refine congrArg _ ((State.debugCommand_of_open h hopen hlife).trans ?_)
    rw [if_pos hhalt]
    rfl
  · exact ⟨congrArg _ (State.debugCommand_of_locked h), congrArg _ (State.debugCommand_of_locked h),
      congrArg _ (State.debugCommand_of_locked h), congrArg _ (State.debugAccess_of_locked h ..),
      congrArg _ (State.debugAccess_of_locked h ..)⟩
  · exact ⟨congrArg _ (State.debugCommand_of_owned h howned), congrArg _ (State.debugCommand_of_owned h howned),
      congrArg _ (State.debugCommand_of_owned h howned)⟩
  · refine congrArg _ ((State.debugAccess_of_open h hopen).trans ?_)
    have htrans : quiet.transIn (quiet.ctx ctx) va false false (fun r => (SMap.get (quiet.ctx ctx).regions r {}).current) =
      .ok pa bad track := htrans
    dsimp only
    rw [htrans]
    rfl
  · rw [exec_snapTrigger, if_pos (s.armed_iff.2 h)]
  · rw [exec_snapTrigger, hidle h]
    rfl

end Sys2Proof.Machine
end

section
/-! PROOFS. Markers, joins and their fences (R415 to R418, R421 to R423), and a join of matrix calls (R118, R243, R247). -/

namespace Sys2Proof.Machine

/-! ### What a fence leaves of memory (R420 to R423) -/

@[simp] theorem Mem.order_cells (m : Mem) (ids : List Nat) (agent n : Nat) : (m.order ids agent n).cells = m.cells := rfl
@[simp] theorem Mem.noteRead_cells (m : Mem) (ids : List Nat) (agent : Nat) : (m.noteRead ids agent).cells = m.cells := rfl

@[simp] theorem Mem.acquire_cells (m : Mem) (heads : List Release) (agent : Nat) (sc : Scope) (n : Nat) :
    (m.acquire heads agent sc n).cells = m.cells := by
  refine List.foldlRecOn (motive := fun k : Mem => k.cells = m.cells) heads _ rfl fun k hk h _ => ?_
  split
  · exact hk
  · exact hk

theorem State.fenceAcquire_cells (s : State) (ms : List Marker) : (s.fenceAcquire ms).mem.cells = s.mem.cells := by
  refine List.foldlRecOn (motive := fun k : Mem => k.cells = s.mem.cells) _ _ rfl fun k hk h _ => ?_
  exact List.foldlRecOn (motive := fun k : Mem => k.cells = s.mem.cells) _ _ hk fun k' hk' m _ => (Mem.acquire_cells ..).trans hk'

theorem State.fenceFull_eq (s : State) (ms : List Marker) :
    s.fenceFull ms = { s with mem := (s.fenceFull ms).mem } ∧ (s.fenceFull ms).mem.cells = s.mem.cells := by
  unfold State.fenceFull
  split
  · exact ⟨rfl, Mem.acquire_cells ..⟩
  · exact ⟨rfl, rfl⟩

/-- What a fence acquires and observes, before its release side. -/
def State.fenced (s : State) (ms : List Marker) : State := ((s.fenceAcquire ms).fenceEngines ms).fenceFull ms

theorem State.fenced_eq (s : State) (ms : List Marker) : s.fenced ms = { s with mem := (s.fenced ms).mem } :=
  (State.fenceFull_eq ((s.fenceAcquire ms).fenceEngines ms) ms).1

theorem State.fenced_cells (s : State) (ms : List Marker) : (s.fenced ms).mem.cells = s.mem.cells :=
  (State.fenceFull_eq ((s.fenceAcquire ms).fenceEngines ms) ms).2.trans (s.fenceAcquire_cells ms)

theorem State.fenced_me (s : State) (ms : List Marker) : (s.fenced ms).me = s.me := by rw [s.fenced_eq ms]; rfl
theorem State.fenced_cur (s : State) (ms : List Marker) : (s.fenced ms).cur = s.cur := by rw [s.fenced_eq ms]
theorem State.fenced_myCore (s : State) (ms : List Marker) : (s.fenced ms).myCore = s.myCore := by rw [s.fenced_eq ms]; rfl

/-- The strand after the release side of a fence, which changes its release sides alone. -/
theorem State.me_fenced_fenceRelease (s : State) (ms : List Marker) :
    ∃ f, ((s.fenced ms).fenceRelease ms).me = { s.me with fences := f } := by
  rw [State.fenceRelease, State.me_setMe, State.fenced_me]
  exact ⟨_, rfl⟩

theorem State.fence_eq_setMe (s : State) (ms : List Marker) : s.fence ms =
    let u := (s.fenced ms).fenceRelease ms
    u.setMe (({ u.me with markers := u.me.markers.filter fun m => !ms.contains m } : Strand).dropFetched fun _ => true) := rfl

/-- What a fence leaves of its strand (R290, R418, R421). -/
theorem State.me_fence (s : State) (ms : List Marker) : ∃ f, (s.fence ms).me =
    ({ s.me with fences := f, markers := s.me.markers.filter fun m => !ms.contains m } : Strand).dropFetched fun _ => true := by
  obtain ⟨f, hf⟩ := s.me_fenced_fenceRelease ms
  refine ⟨f, ?_⟩
  rw [s.fence_eq_setMe]
  dsimp only
  rw [State.me_setMe, hf]

theorem State.fence_cells (s : State) (ms : List Marker) : (s.fence ms).mem.cells = s.mem.cells := s.fenced_cells ms

theorem State.fence_myCore (s : State) (ms : List Marker) : (s.fence ms).myCore = s.myCore := s.fenced_myCore ms

/-- Each marker of the store queue makes a release side of its scope (R421). -/
theorem State.fence_releases (s : State) {ms : List Marker} {m : Marker} (hm : m ∈ ms) (hqueue : m.queue = 1) :
    ∃ f ∈ (s.fence ms).me.fences, f.agent = s.cur ∧ f.sc = m.sc ∧ f.seq = s.me.seq := by
  have hfences : (s.fence ms).me.fences = ((s.fenced ms).fenceRelease ms).me.fences := by
    rw [s.fence_eq_setMe]
    dsimp only
    rw [State.me_setMe]
    rfl
  rw [hfences, State.fenceRelease, State.me_setMe, State.fenced_me, State.fenced_cur]
  exact ⟨_, List.mem_append.2 (.inr (List.mem_map.2 ⟨_, List.mem_map.2 ⟨m, List.mem_filter.2 ⟨hm, by simp [hqueue]⟩, rfl⟩, rfl⟩)),
    rfl, rfl, rfl⟩

/-! ### `mark` and `join` (R415 to R418) -/

section Forms
variable {s : State} {qm : Nat} {sc : Scope}

/-- The markers that `mark` places, one behind each queue of its mask. -/
def Strand.newMarkers (st : Strand) (qm : Nat) (sc : Scope) : List Marker :=
  ((List.range 6).filter fun n => bit qm n).map fun n => { queue := n, sc := sc, seq := st.seq, hnd := st.hnd }

/-- Fewer than four markers stand behind each queue of a mask. -/
def Strand.markRoom (st : Strand) (qm : Nat) : Prop := ∀ n < 6, bit qm n = true → (st.markers.filter (·.queue == n)).length < 4

theorem Strand.markFull_iff (st : Strand) (qm : Nat) :
    ((markQueues qm).any fun n => decide (4 ≤ (st.markers.filter (·.queue == n)).length)) = true ↔ ¬ st.markRoom qm := by
  simp [markQueues, Strand.markRoom]

theorem exec_mark_of_room (hform : formOk s (.mark qm sc) = true) (hroom : s.me.markRoom qm) :
    exec (.mark qm sc) s = .next (s.setMe { s.me with markers := s.me.markers ++ s.me.newMarkers qm sc }) := by
  have hfree := Bool.eq_false_iff.2 (mt (s.me.markFull_iff qm).1 (not_not.2 hroom))
  show execMark qm sc s = _
  rw [execMark, slotOp_ok hform]
  simp only [hfree, Bool.false_eq_true, if_false]
  rfl

theorem exec_mark_of_full (hform : formOk s (.mark qm sc) = true) (hfull : ¬ s.me.markRoom qm) :
    exec (.mark qm sc) s = .next (s.endStall .markerFull) := by
  show execMark qm sc s = _
  rw [execMark, slotOp_ok hform]
  simp only [(s.me.markFull_iff qm).2 hfull, if_true]
  rfl

theorem exec_markerReachHead {sid k : Nat} {m : Marker} (hk : (s.strand sid).markers[k]? = some m) : exec (.markerReachHead sid k) s =
    .next (if s.markerMet sid m then
      s.setStrand sid { s.strand sid with markers := (s.strand sid).markers.set k { m with reached := true } } else s) := by
  show execMarkerReachHead sid k s = _
  simp only [execMarkerReachHead, hk]

theorem exec_join_of_ahead (hform : formOk s .join = true) (h : s.me.joinMarkers.any (fun m => !m.reached) = true) :
    exec .join s = .next (s.endStall .markers) := by
  show execJoin s = _
  rw [execJoin, slotOp_ok hform]
  simp only [h, if_true]
  rfl

/-- A join without a matrix call's marker is its fence alone. -/
theorem exec_join_of_plain (hform : formOk s .join = true) (hreached : s.me.joinMarkers.all (·.reached) = true)
    (hplain : s.me.joinMarkers.all (·.queue != 2) = true) : exec .join s = .next (s.fence s.me.joinMarkers) := by
  have hreached : (s.me.joinMarkers.any fun m => !m.reached) = false := by simpa using hreached
  have hplain : s.me.joinMarkers.filter (·.queue == 2) = [] := by simpa using hplain
  show execJoin s = _
  rw [execJoin, slotOp_ok hform]
  simp only [hreached, hplain, Bool.false_eq_true, if_false]
  rfl

/-- The last bundle of the calls that a join's markers stand behind. -/
def joinUpto (ms : List Marker) : Nat := (ms.filter (·.queue == 2)).foldl (fun n m => max n m.seq) 0

theorem exec_join_of_calls (hform : formOk s .join = true) (hreached : s.me.joinMarkers.all (·.reached) = true)
    (hcalls : s.me.joinMarkers.any (·.queue == 2) = true) : exec .join s =
      finish s ((joinCalls s (joinUpto s.me.joinMarkers)).bind fun t => .ok (t.fence s.me.joinMarkers)) := by
  have hreached : (s.me.joinMarkers.any fun m => !m.reached) = false := by simpa using hreached
  have hsome : s.me.joinMarkers.filter (·.queue == 2) ≠ [] := by simpa [List.filter_eq_nil_iff] using hcalls
  obtain ⟨m, l, hml⟩ := List.exists_cons_of_ne_nil hsome
  show execJoin s = _
  rw [execJoin, slotOp_ok hform]
  simp only [hreached, joinUpto, hml, Bool.false_eq_true, if_false]

end Forms

/-! ### A join of matrix calls (R118, R243, R247) -/

/-- The least of a cause and those of some records, which one of them has. -/
theorem foldl_min_spec (l : List Deferred) (c : Nat) :
    l.foldl (fun c f => min c f.cause) c ≤ c ∧ (∀ f ∈ l, l.foldl (fun c f => min c f.cause) c ≤ f.cause) ∧
      (l.foldl (fun c f => min c f.cause) c = c ∨ ∃ f ∈ l, l.foldl (fun c f => min c f.cause) c = f.cause) := by
  induction l generalizing c with
  | nil => simp
  | cons a l ih =>
    obtain ⟨hle, hall, hex⟩ := ih (min c a.cause)
    simp only [List.foldl_cons, List.mem_cons, forall_eq_or_imp, exists_eq_or_imp]
    refine ⟨by omega, ⟨by omega, hall⟩, ?_⟩
    rcases hex with h | h
    · rcases Nat.le_total c a.cause with hc | hc
      · exact .inl (by omega)
      · exact .inr (.inl (by omega))
    · exact .inr (.inr h)

/-- Of records that are not none, the one of the largest residual is one of them. -/
theorem foldl_worst_mem (l : List Deferred) (best : Option Deferred) (hsome : best.isSome = true ∨ l ≠ []) :
    ∃ f, l.foldl (fun best f => match best with
        | some b => if b.rho < f.rho then some f else some b
        | none => some f) best = some f ∧ (best = some f ∨ f ∈ l) := by
  induction l generalizing best with
  | nil =>
    obtain ⟨f, rfl⟩ := Option.isSome_iff_exists.1 (hsome.resolve_right (by simp))
    exact ⟨f, rfl, .inl rfl⟩
  | cons a l ih =>
    rw [List.foldl_cons]
    cases best with
    | none =>
      obtain ⟨f, hf, hin⟩ := ih (some a) (.inl rfl)
      exact ⟨f, hf, .inr (hin.elim (fun h => by simp [Option.some.inj h]) fun h => by simp [h])⟩
    | some b =>
      dsimp only
      split
      · obtain ⟨f, hf, hin⟩ := ih (some a) (.inl rfl)
        exact ⟨f, hf, .inr (hin.elim (fun h => by simp [Option.some.inj h]) fun h => by simp [h])⟩
      · obtain ⟨f, hf, hin⟩ := ih (some b) (.inl rfl)
        exact ⟨f, hf, hin.imp id fun h => by simp [h]⟩

theorem joinRecord_of_clean {calls : List MCall} (h : calls.all (·.faults.isEmpty) = true) : joinRecord calls = none := by
  have hnil : calls.flatMap (·.faults) = [] := by simpa [List.flatMap_eq_nil_iff] using h
  simp only [joinRecord, hnil]

/-- The record that a join raises is one of the lowest cause (R247). -/
theorem joinRecord_of_faults {calls : List MCall} (h : calls.all (·.faults.isEmpty) = false) :
    ∃ f, joinRecord calls = some f ∧ f ∈ calls.flatMap (·.faults) ∧ ∀ g ∈ calls.flatMap (·.faults), f.cause ≤ g.cause := by
  have hne : calls.flatMap (·.faults) ≠ [] := by
    intro hnil
    rw [List.flatMap_eq_nil_iff] at hnil
    exact Bool.false_ne_true (h.symm.trans (List.all_eq_true.2 fun c hc => by simp [hnil c hc]))
  obtain ⟨r, rs, hrecs⟩ := List.exists_cons_of_ne_nil hne
  set cause := rs.foldl (fun c f => min c f.cause) r.cause with hcause
  obtain ⟨hr, hrs, hex⟩ := foldl_min_spec rs r.cause
  have hleast : ∀ g ∈ r :: rs, cause ≤ g.cause := by
    intro g hg
    rcases List.mem_cons.1 hg with rfl | hg
    · exact hr
    · exact hrs g hg
  have hsame : (r :: rs).filter (·.cause == cause) ≠ [] := by
    rw [Ne, List.filter_eq_nil_iff]
    intro hnone
    rcases hex with heq | ⟨f, hf, heq⟩
    · exact hnone r (by simp) (by simp [cause, heq])
    · exact hnone f (by simp [hf]) (by simp [cause, heq])
  have hof : ∀ f ∈ (r :: rs).filter (·.cause == cause), f ∈ r :: rs ∧ ∀ g ∈ r :: rs, f.cause ≤ g.cause := by
    intro f hf
    obtain ⟨hmem, heq⟩ := List.mem_filter.1 hf
    exact ⟨hmem, fun g hg => (beq_iff_eq.1 heq).symm ▸ hleast g hg⟩
  simp only [joinRecord, hrecs, ← hcause]
  split
  · obtain ⟨f, hf, hin⟩ := foldl_worst_mem ((r :: rs).filter (·.cause == cause)) none (.inr hsame)
    exact ⟨f, hf, hof f (hin.resolve_left nofun)⟩
  · obtain ⟨f, l, hfl⟩ := List.exists_cons_of_ne_nil hsame
    exact ⟨f, by rw [hfl]; rfl, hof f (by rw [hfl]; simp)⟩

section Calls
variable {s : State} {upto : Nat}

/-- The calls that a join takes: the strand's own up to a bundle. -/
def State.joinedCalls (s : State) (upto : Nat) : List MCall := s.myCore.calls.filter fun m => m.sid == s.cur && decide (m.seq ≤ upto)

/-- The strand's counters with the credits of the calls that a join takes. -/
def State.joinCredit (s : State) (upto : Nat) : Strand :=
  s.me.credit ((s.joinedCalls upto).foldl (fun c m => c.add m.credits) {})

/-- Calls without a fault leave the queue, and their credits reach the strand (R118, R243). -/
theorem joinCalls_of_clean (h : (s.joinedCalls upto).all (·.faults.isEmpty) = true) : ∃ t, joinCalls s upto = .ok t ∧ t.mem = s.mem ∧
    t.myCore.calls = s.myCore.calls.filter (fun m => !(m.sid == s.cur && decide (m.seq ≤ upto))) ∧
    ∃ d, t.me = { s.joinCredit upto with dbuf := d } := by
  have hrecord := joinRecord_of_clean h
  unfold State.joinedCalls at hrecord
  simp only [joinCalls, hrecord]
  refine ⟨_, rfl, ?_⟩
  split
  · refine ⟨rfl, congrArg Core.calls (s.myCore_setMyCore _), ?_⟩
    rw [State.me_setMe]
    exact ⟨_, rfl⟩
  · refine ⟨rfl, congrArg Core.calls (s.myCore_setMyCore _), ?_⟩
    rw [State.me_post, State.me_setMe]
    exact ⟨_, rfl⟩

theorem joinCalls_of_faults (h : (s.joinedCalls upto).all (·.faults.isEmpty) = false) : ∃ f, joinCalls s upto = .deferred f.cause f.info upto ∧
    f ∈ (s.joinedCalls upto).flatMap (·.faults) ∧ ∀ g ∈ (s.joinedCalls upto).flatMap (·.faults), f.cause ≤ g.cause := by
  obtain ⟨f, hf, hmem, hleast⟩ := joinRecord_of_faults h
  refine ⟨f, ?_, hmem, hleast⟩
  unfold State.joinedCalls at hf
  simp only [joinCalls, hf]

end Calls

/-! ### The statement -/

/-- Settles O29: `mark` by the room behind the queues, `join` by its markers and by the faults of the calls that it takes. -/
theorem markers : Obligations.Markers := by
  unfold Obligations.Markers
  refine ⟨fun s qm sid k sc m => ?_, fun s hform => ?_⟩
  · intro st new room ms
    refine ⟨exec_mark_of_room, exec_mark_of_full, fun hk hmet => ?_, fun hk hmet => ?_, exec_join_of_ahead,
      fun hform hreached hplain => ⟨exec_join_of_plain hform hreached hplain, s.fence_cells ms, ?_, ?_, fun m hm => s.fence_releases hm⟩⟩
    · rw [exec_markerReachHead hk, if_pos hmet]
    · rw [exec_markerReachHead hk, hmet]
      rfl
    · obtain ⟨f, hf⟩ := s.me_fence ms
      rw [hf]
      rfl
    · obtain ⟨f, hf⟩ := s.me_fence ms
      rw [hf]
      rfl
  · intro ms upto joined hreached hcalls
    rw [exec_join_of_calls hform hreached hcalls]
    refine ⟨fun hclean => ?_, fun hfaults => ?_⟩
    · obtain ⟨t, ht, -, hqueue, d, hme⟩ := joinCalls_of_clean (upto := upto) hclean
      obtain ⟨f, hf⟩ := t.me_fence ms
      refine ⟨t.fence ms, ?_, (congrArg Core.calls (t.fence_myCore ms)).trans hqueue, ?_, ?_⟩
      · show finish s ((joinCalls s upto).bind _) = _
        rw [ht]
        rfl
      · rw [hf, hme]
        rfl
      · rw [hf, hme]
        rfl
    · obtain ⟨f, hf, hmem, hleast⟩ := joinCalls_of_faults (upto := upto) hfaults
      refine ⟨s.endDeferred f.cause f.info upto, f, ?_, State.endDeferred_ended .., hmem, hleast⟩
      show finish s ((joinCalls s upto).bind _) = _
      rw [hf]
      rfl

end Sys2Proof.Machine
end

section
/-! PROOFS. The superstep barrier (R425 to R429) and the cluster barrier (R410, R411). -/

namespace Sys2Proof.Machine

/-! ### The superstep barrier -/

section Superstep
variable {s : State} {sid lid g n : Nat}

/-- The strand's last arrival is of a generation that is not complete (R425). -/
def State.arrivalOpen (s : State) : Bool := s.me.arrival.any fun g => s.genOpen s.me.launch g

theorem exec_ssarr_of_open (hform : formOk s .ssarr = true) (hfree : s.arrivalOpen = false) (hgen : s.myLaunch.barrier = .open_ g) :
    exec .ssarr s = .next (s.setMe { s.me with arrival := some g, arriving := some s.me.seq, arrivedAt := s.me.seq }) := by
  unfold State.arrivalOpen at hfree
  show execSsarr s = _
  rw [execSsarr, slotOp_ok hform]
  simp only [hfree, hgen, Bool.false_eq_true, if_false, finish_ok]

theorem exec_ssarr_of_waiting (hform : formOk s .ssarr = true) (hwaits : s.arrivalOpen = true) :
    exec .ssarr s = .next (s.endStall .superstep) := by
  unfold State.arrivalOpen at hwaits
  show execSsarr s = _
  rw [execSsarr, slotOp_ok hform]
  simp only [hwaits, if_true, finish_stall]

theorem exec_sswait_of_complete (hform : formOk s .sswait = true) (hfree : s.arrivalOpen = false) : exec .sswait s =
    .next ((if s.me.arrival.isSome then { s with mem := s.mem.order s.myLaunch.carried s.cur (s.me.seq + 1) } else s).setMe
      (({ s.me with arrival := none } : Strand).dropFetched fun _ => true)) := by
  unfold State.arrivalOpen at hfree
  show execSswait s = _
  rw [execSswait, slotOp_ok hform]
  simp only [hfree, Bool.false_eq_true, if_false, finish_ok]

theorem exec_sswait_of_waiting (hform : formOk s .sswait = true) (hwaits : s.arrivalOpen = true) :
    exec .sswait s = .next (s.endStall .superstep) := by
  unfold State.arrivalOpen at hwaits
  show execSswait s = _
  rw [execSswait, slotOp_ok hform]
  simp only [hwaits, if_true, finish_stall]

theorem exec_superstepArrival_of_performed (harriving : (s.strand sid).arriving = some n)
    (hstores : ((s.strand sid).sq.all fun a => decide (n < a.seq) || a.doneAt 5) = true) (hengines : s.enginesBusy sid (n + 1) = false)
    (hwrites : s.writesBelow sid (n + 1) 5 = false) (hcols : ((s.colsOf sid).all fun c => decide (n < c.seq)) = true) :
    exec (.superstepArrival sid) s = .next (s.setStrand sid { s.strand sid with arriving := none }) := by
  show execSuperstepArrival sid s = _
  simp only [execSuperstepArrival, harriving, hstores, hengines, hwrites, hcols, Bool.not_false, Bool.and_self, if_true]

theorem exec_superstepGenerationComplete_of_arrived (hgen : (s.launch lid).barrier = .open_ g) (hall : s.allArrived lid g = true)
    (hsnap : s.snapshotDue lid g = false) : exec (.superstepGenerationComplete lid) s = .next (s.setLaunch lid { s.launch lid with
      barrier := .open_ (g + 1), carried := ((s.launch lid).carried ++ s.arrivalsOf lid).filter s.mem.hidden }) := by
  show execSuperstepGenerationComplete lid s = _
  simp only [execSuperstepGenerationComplete, hgen, hall, hsnap, Bool.not_false, Bool.and_self, if_true]

theorem exec_superstepGenerationComplete_of_missing (hgen : (s.launch lid).barrier = .open_ g) (hall : s.allArrived lid g = false) :
    exec (.superstepGenerationComplete lid) s = .next s := by
  show execSuperstepGenerationComplete lid s = _
  simp only [execSuperstepGenerationComplete, hgen, hall, Bool.false_and, Bool.false_eq_true, if_false]

end Superstep

/-! ### The cluster barrier -/

section Cluster
variable {s : State} {grp : Nat}

/-- A store or an engine command of the strand's earlier bundles is not performed at .cl (R410). -/
def State.cbarBusy (s : State) : Bool :=
  (s.me.sq.any fun a => decide (a.seq < s.me.seq) && a.op != .epstore && !a.doneAt 3) || s.enginesBusy s.cur s.me.seq ||
    s.writesBelow s.cur s.me.seq 3

theorem exec_cbar (hform : formOk s .cbar = true) : exec .cbar s = if s.cbarBusy then .next (s.endStall .barrier)
    else .next (s.setMe { s.me with cbarGen := some (s.group s.me.grp).gen }) := by
  unfold State.cbarBusy
  show execCbar s = _
  rw [execCbar, slotOp_ok hform, apply_ite (finish s)]
  rfl

/-- A member that a generation releases goes on with nothing fetched ahead; the others stay (R411, R428). -/
theorem State.strand_releaseMembers (s : State) (grp : Nat) (live : List Nat) :
    (∀ n ∈ live, ((s.releaseMembers grp live).strand n).cbarGen = none) ∧
    ∀ n, n ∉ live → (s.releaseMembers grp live).strand n = s.strand n := by
  constructor
  · intro n hn
    refine foldl_holds (p := fun t : State => (t.strand n).cbarGen = none) hn (fun t m _ ht => ?_) (fun t => ?_) s
    · by_cases h : n = m
      · subst h; rw [State.strand_setStrand_same]; rfl
      · rw [State.strand_setStrand_other h]; exact ht
    · rw [State.strand_setStrand_same]; rfl
  · intro n hn
    refine List.foldlRecOn (motive := fun t : State => t.strand n = s.strand n) live _ rfl fun t ht m hm => ?_
    have hne : n ≠ m := fun h => hn (h ▸ hm)
    rw [State.strand_setStrand_other hne]
    exact ht

theorem exec_cbarGenerationComplete_of_standing (hsome : s.barrierMembers (s.group grp) ≠ [])
    (hall : ((s.barrierMembers (s.group grp)).all fun n => (s.strand n).cbarGen == some (s.group grp).gen) = true) :
    exec (.cbarGenerationComplete grp) s = .next ((s.releaseMembers grp (s.barrierMembers (s.group grp))).setGroup grp
      { s.group grp with gen := (s.group grp).gen + 1 }) := by
  have hne : (s.barrierMembers (s.group grp)).isEmpty = false := by simpa using hsome
  show execCbarGenerationComplete grp s = _
  simp only [execCbarGenerationComplete, hne, hall, Bool.not_false, Bool.and_self, if_true]

theorem exec_cbarGenerationComplete_of_missing
    (hall : ((s.barrierMembers (s.group grp)).all fun n => (s.strand n).cbarGen == some (s.group grp).gen) = false) :
    exec (.cbarGenerationComplete grp) s = .next s := by
  show execCbarGenerationComplete grp s = _
  simp only [execCbarGenerationComplete, hall, Bool.and_false, Bool.false_eq_true, if_false]

end Cluster

/-! ### The statement -/

/-- Settles O30: the forms by whether the strand's last generation is complete, or its stores are performed; a generation by whether
every member stands at it. -/
theorem barriers : Obligations.Barriers := by
  unfold Obligations.Barriers
  refine ⟨fun s sid lid g n => ?_, fun s grp => ?_⟩
  · intro st waits
    exact ⟨exec_ssarr_of_open, exec_ssarr_of_waiting, exec_sswait_of_complete, exec_sswait_of_waiting, exec_superstepArrival_of_performed,
      exec_superstepGenerationComplete_of_arrived, exec_superstepGenerationComplete_of_missing⟩
  · intro st busy g live
    refine ⟨fun hform hbusy => (exec_cbar hform).trans (if_pos hbusy), fun hform hfree => (exec_cbar hform).trans (if_neg ?_),
      fun hsome hall => ?_, exec_cbarGenerationComplete_of_missing⟩
    · show ¬ busy = true
      simp [hfree]
    · obtain ⟨hreleased, hother⟩ := s.strand_releaseMembers grp live
      exact ⟨_, exec_cbarGenerationComplete_of_standing hsome hall, by rw [State.group_setGroup_same], hreleased, hother⟩

end Sys2Proof.Machine
end

section
/-! PROOFS. `halt`, the retirement of a strand, and the end of a tile task (R389, R390, R398). -/

namespace Sys2Proof.Machine

section Halt
variable {s : State}

/-- A call of the strand runs, or a row command of the core that it owns stands (R390). -/
def State.haltBusy (s : State) : Bool :=
  (s.myCore.calls.any fun m => m.sid == s.cur && !m.ended) || (s.myCore.owner == some s.cur && !s.myCore.rowq.isEmpty)

theorem exec_halt_of_busy (hform : formOk s .halt = true) (hbusy : s.haltBusy = true) : exec .halt s = .next (s.endStall .halt) := by
  unfold State.haltBusy at hbusy
  show execHalt s = _
  rw [execHalt, slotOp_ok hform]
  simp only [hbusy, if_true, finish_stall]

theorem exec_halt_of_idle (hform : formOk s .halt = true) (hidle : s.haltBusy = false) :
    exec .halt s = finish s ((joinCalls s s.me.seq).bind fun t => .ok (t.setMe { t.me with halting := true })) := by
  unfold State.haltBusy at hidle
  show execHalt s = _
  rw [execHalt, slotOp_ok hform]
  simp only [hidle, Bool.false_eq_true, if_false]

/-- A strand without a call is marked, and keeps its registers (R390). -/
theorem exec_halt_of_no_calls (hform : formOk s .halt = true) (hidle : s.haltBusy = false) (hnone : s.myCore.calls = []) :
    ∃ t, exec .halt s = .next t ∧ t.me.halting = true ∧ t.mem = s.mem ∧ t.me.x = s.me.x ∧ t.me.v = s.me.v ∧ t.me.sbc = s.me.sbc := by
  have hclean : (s.joinedCalls s.me.seq).all (·.faults.isEmpty) = true := by simp [State.joinedCalls, hnone]
  obtain ⟨u, hu, hmem, -, d, hme⟩ := joinCalls_of_clean hclean
  refine ⟨u.setMe { u.me with halting := true }, ?_, ?_⟩
  · rw [exec_halt_of_idle hform hidle, hu]
    rfl
  · rw [State.me_setMe, hme]
    exact ⟨rfl, hmem, rfl, rfl, rfl⟩

theorem exec_haltRetire_of_drained {sid : Nat} (hhalting : (s.strand sid).halting = true) (hlive : (s.strand sid).life = .live)
    (hdrained : s.drained sid = true) : exec (.haltRetire sid) s =
      .next { s.setStrand sid { s.strand sid with life := .halted, halting := false, sq := [] } with halts := SMap.erase s.halts sid } := by
  show execHaltRetire sid s = _
  simp only [execHaltRetire, hhalting, hlive, hdrained, beq_self_eq_true, Bool.and_self, if_true]

theorem exec_haltRetire_of_working {sid : Nat} (h : s.drained sid = false) : exec (.haltRetire sid) s = .next s := by
  show execHaltRetire sid s = _
  simp only [execHaltRetire, h, Bool.and_false, Bool.false_eq_true, if_false]

end Halt

/-! ### The end of a group (R303, R309, R392) -/

section EndGroup
variable {s : State} {gid : Nat} {into : GroupState}

/-- What of the end of groups reaches neither strands nor the table of groups: both stay. -/
structure State.leavesMembers (s t : State) : Prop where
  strands : t.strands = s.strands
  groups : t.cmd.groups = s.cmd.groups

theorem State.leavesMembers_refl (s : State) : s.leavesMembers s := ⟨rfl, rfl⟩

theorem State.leavesMembers.trans {s t u : State} (h : s.leavesMembers t) (h' : t.leavesMembers u) : s.leavesMembers u :=
  ⟨h'.strands.trans h.strands, h'.groups.trans h.groups⟩

theorem State.leavesMembers.strand {s t : State} (h : s.leavesMembers t) (n : Nat) : t.strand n = s.strand n := by
  rw [State.strand, h.strands]; rfl

theorem State.releaseTile_leavesMembers (s : State) (k : Nat) (t : Tile) : s.leavesMembers (s.releaseTile k t) := by
  unfold State.releaseTile
  split
  · exact s.leavesMembers_refl
  · dsimp only [State.zeroTile]
    split <;> exact ⟨rfl, rfl⟩

theorem State.releaseTiles_leavesMembers (s : State) (k : Nat) (ts : List Tile) :
    s.leavesMembers (ts.foldl (fun s t => s.releaseTile k t) s) :=
  List.foldlRecOn (motive := s.leavesMembers) ts _ s.leavesMembers_refl fun u hu t _ => hu.trans (u.releaseTile_leavesMembers k t)

theorem State.freeTiles_leavesMembers (s : State) (g : Group) : s.leavesMembers
    (if g.foreground then s.freeTable g.cluster else if g.shadow then s.freeShadow g.cluster else s) := by
  split
  · exact (s.releaseTiles_leavesMembers g.cluster _).trans ⟨rfl, rfl⟩
  · split
    · exact (s.releaseTiles_leavesMembers g.cluster _).trans ⟨rfl, rfl⟩
    · exact s.leavesMembers_refl

theorem State.settleSwap_leavesMembers (s : State) (k : Nat) : s.leavesMembers (s.settleSwap k) := by
  unfold State.settleSwap
  split <;> exact ⟨rfl, rfl⟩

theorem State.settleEnded_leavesMembers (s : State) (ctx kernel : Nat) : s.leavesMembers (s.settleEnded ctx kernel) := by
  dsimp only [State.settleEnded]
  repeat' split
  all_goals exact ⟨rfl, rfl⟩

theorem State.forceCores_leavesMembers (s : State) (l : List Nat) : s.leavesMembers (s.forceCores l) := by
  rw [State.forceCores_eq]; exact ⟨rfl, rfl⟩

theorem State.strands_countStrand (s : State) (st : Strand) : (s.countStrand st).strands = s.strands := by
  unfold State.countStrand
  split <;> rfl

theorem State.strands_forgetAsks (s : State) (l : List Access) : (s.forgetAsks l).strands = s.strands := by
  dsimp only [State.forgetAsks]
  split <;> rfl

theorem State.strands_dropStrand (s : State) (sid : Nat) : (s.dropStrand sid).strands = SMap.erase s.strands sid := by
  have hgone : ((s.countStrand (s.strand sid)).forgetAsks (s.strand sid).lq).strands = s.strands := by
    rw [State.strands_forgetAsks, State.strands_countStrand]
  dsimp only [State.dropStrand]
  split <;> exact congrArg (SMap.erase · sid) hgone

/-- A strand that is dropped is UNALLOC, and stays so while others are (R303). -/
theorem State.strand_dropStrands (s : State) {l : List Nat} {n : Nat} (hn : n ∈ l) : (l.foldl State.dropStrand s).strand n = {} := by
  refine foldl_holds (p := fun t : State => t.strand n = {}) hn (fun t m _ ht => ?_) (fun t => ?_) s
  · rw [State.strand, SMap.get, State.strands_dropStrand, SMap.find_erase]
    split
    · rfl
    · exact ht
  · rw [State.strand, SMap.get, State.strands_dropStrand, SMap.find_erase, if_pos rfl]
    rfl

/-- A group that ends: its state, and its strands UNALLOC (R303, R392). -/
theorem State.endGroup_of_standing (hstanding : (s.group gid).state ≠ .halted ∧ (s.group gid).state ≠ .faulted) :
    ((s.endGroup gid into).group gid).state = into ∧ ∀ n ∈ (s.group gid).strands, (s.endGroup gid into).strand n = {} := by
  have hgo : ((s.group gid).state == .halted || (s.group gid).state == .faulted) = false := by simp [hstanding]
  simp only [State.endGroup, hgo, Bool.false_eq_true, if_false]
  set dropped := (((s.group gid).strands.foldl State.dropStrand ((s.group gid).saved.foldl State.countStrand s)).cancelCommands gid)
    with hdropped
  have hfreed := dropped.freeTiles_leavesMembers (s.group gid)
  generalize (if (s.group gid).foreground then dropped.freeTable (s.group gid).cluster
    else if (s.group gid).shadow then dropped.freeShadow (s.group gid).cluster else dropped) = freed at hfreed
  have hlater : ∀ u : State, u.leavesMembers (((u.forceCores (s.group gid).cores).settleSwap (s.group gid).cluster).settleEnded
      (s.group gid).ctx (s.group gid).kernel) := fun u =>
    ((u.forceCores_leavesMembers _).trans (State.settleSwap_leavesMembers ..)).trans (State.settleEnded_leavesMembers ..)
  refine ⟨?_, fun n hn => ?_⟩
  · rw [State.group, (hlater _).groups]
    exact congrArg Group.state (State.group_setGroup_same ..)
  · rw [(hlater _).strand]
    exact (hfreed.strand n).trans (State.strand_dropStrands _ hn)

end EndGroup

section TaskEnd
variable {s : State} {grp : Nat}

theorem exec_tileTaskEnd_of_halted (hstate : (s.group grp).state = .draining) (hspent : s.spent (s.group grp) = false)
    (hsome : (s.group grp).strands ≠ []) (hall : ((s.group grp).strands.all fun n => (s.strand n).life == .halted) = true) :
    exec (.tileTaskEnd grp) s = .next ((s.endGroup grp .halted).settleLaunch (s.group grp).launch) := by
  have hne : (s.group grp).strands.isEmpty = false := by simpa using hsome
  show execTileTaskEnd grp s = _
  simp only [execTileTaskEnd, hstate, hspent, hne, hall, beq_self_eq_true, Bool.not_false, Bool.and_self, if_true]

theorem exec_tileTaskEnd_of_running
    (h : ((s.group grp).strands.all fun n => (s.strand n).life == .halted) = false ∨ (s.group grp).state ≠ .draining) :
    exec (.tileTaskEnd grp) s = .next s := by
  show execTileTaskEnd grp s = _
  rcases h with h | h
  · simp only [execTileTaskEnd, h, Bool.and_false, Bool.false_eq_true, if_false]
  · simp [execTileTaskEnd, h]

end TaskEnd

/-! ### The statement -/

/-- Settles O31: `halt` by whether a call or a row command still runs, a retirement by whether the strand has drained, the end of a task
by whether its strands have halted. -/
theorem halting : Obligations.Halting := by
  unfold Obligations.Halting
  intro s sid grp g c busy st
  refine ⟨exec_halt_of_busy, exec_halt_of_no_calls, exec_haltRetire_of_drained, exec_haltRetire_of_working,
    fun hstate hspent hsome hall => ⟨exec_tileTaskEnd_of_halted hstate hspent hsome hall, State.endGroup_of_standing ?_⟩,
    exec_tileTaskEnd_of_running⟩
  have hstate : (s.group grp).state = .draining := hstate
  simp [hstate]

end Sys2Proof.Machine
end

section
/-! PROOFS. Work items (R349 to R351, R358, R359): the reading of the next one, age; deadlines (R362) and budgets (R363). -/

namespace Sys2Proof.Machine

/-! ### Reading (R349 to R351) -/

section Reading
variable {s : State} {q : Nat}

/-- The command processor's item that is next on a queue, as the bytes of its entry. -/
def State.itemAddr (s : State) (q : Nat) : Nat :=
  queueAddr (s.queue q).loc (s.queue q).base + 128 * ((s.queue q).head % 2 ^ (s.queue q).log2n)
def State.itemWord (s : State) (q : Nat) : Nat := ofBytes (s.mem.bytesFor (Reader.of agentCp s.tick) (s.itemAddr q) 128)
def State.itemPoisoned (s : State) (q : Nat) : Bool := s.mem.poisonIn (Reader.of agentCp s.tick) (s.itemAddr q) 128

/-- An item that was read: HEAD, the launch identity and the queue that is read next advance (R349). -/
def State.afterItem (s : State) (q : Nat) (c : CmdQueue) : State :=
  { s.setQueue q { c with head := (c.head + 1) % 2 ^ 32 } with
    cmd := { (s.setQueue q { c with head := (c.head + 1) % 2 ^ 32 }).cmd with launchNext := s.cmd.launchNext + 1, readPtr := (q + 1) % 64 } }

/-- The item joins the administrative commands, or becomes a launch. -/
def State.takeItem (s : State) (q : Nat) : State :=
  if q = 0 && itemBytes (s.itemWord q) 0 1 = 1 then
    { s with cmd := { s.cmd with admin := s.cmd.admin ++
      [if s.itemPoisoned q then 2 ^ 1024 * s.cmd.launchNext else s.itemWord q + 2 ^ 1024 * s.cmd.launchNext] } }
  else s.newLaunch q (s.itemWord q) (s.itemPoisoned q)

theorem exec_workItemRead_of_next (hnext : s.nextQueue = some q) (hlost : s.power.lost = false) :
    exec (.workItemRead q) s = .next ((s.takeItem q).afterItem q (s.queue q)) := by
  show execWorkItemRead q s = _
  simp only [execWorkItemRead, hnext, hlost, bne_self_eq_false, Bool.or_self, Bool.false_eq_true, if_false]
  rfl

theorem exec_workItemRead_of_other (hnext : s.nextQueue ≠ some q) : exec (.workItemRead q) s = .next s := by
  show execWorkItemRead q s = _
  simp [execWorkItemRead, hnext]

/-- Fixing a status leaves memory and the identities of the command processor. -/
theorem State.fixStatus_keeps (s : State) (lid : Nat) (st : Status) (e : EscRecord) :
    (s.fixStatus lid st e).mem = s.mem ∧ (s.fixStatus lid st e).cmd.launchNext = s.cmd.launchNext := by
  dsimp only [State.fixStatus]
  split <;> exact ⟨rfl, rfl⟩

theorem State.launch_fixStatus_of_open {s : State} {lid : Nat} (h : (s.launch lid).status = none) (st : Status) (e : EscRecord) :
    (s.fixStatus lid st e).launch lid = { s.launch lid with
      status := some st, esc := e, tend := s.power.dtime,
      debugMax := if (s.launch lid).started = 0 then s.sec.debug else (s.launch lid).debugMax } := by
  dsimp only [State.fixStatus]
  split
  next x hx => cases h.symm.trans hx
  next => exact State.launch_setLaunch_same ..

/-- The launch that an item becomes; one that is not valid ends FAULT (R351). -/
theorem State.newLaunch_spec (s : State) (q w : Nat) (bad : Bool) :
    let t := s.newLaunch q w bad
    let l := t.launch s.cmd.launchNext
    t.mem = s.mem ∧ t.cmd.launchNext = s.cmd.launchNext ∧ l.item = w ∧ l.queue = q ∧ l.ctx = (s.queue q).ctx ∧
      l.status = if itemBad w q = true ∨ bad = true ∨ (s.ctx (s.queue q).ctx).state = .broken then some .fault else none := by
  intro t l
  set u := s.setLaunch s.cmd.launchNext { item := w, queue := q, ctx := (s.queue q).ctx, cls := itemBytes w 1 1, readAt := s.power.dtime }
    with hu
  have hlaunch : u.launch s.cmd.launchNext =
    { item := w, queue := q, ctx := (s.queue q).ctx, cls := itemBytes w 1 1, readAt := s.power.dtime } := State.launch_setLaunch_same ..
  have hiff : (itemBad w q || bad || (u.ctx (s.queue q).ctx).state == .broken) = true ↔
      itemBad w q = true ∨ bad = true ∨ (s.ctx (s.queue q).ctx).state = .broken := by
    rw [hu, State.ctx_setLaunch]
    simp [or_assoc]
  have ht : t = if itemBad w q || bad || (u.ctx (s.queue q).ctx).state == .broken then u.fixStatus s.cmd.launchNext .fault {} else u := rfl
  by_cases h : itemBad w q = true ∨ bad = true ∨ (s.ctx (s.queue q).ctx).state = .broken
  · rw [if_pos (hiff.2 h)] at ht
    have hl : l = _ := (congrArg (State.launch · s.cmd.launchNext) ht).trans
      (State.launch_fixStatus_of_open (by rw [hlaunch]) .fault {})
    obtain ⟨hmem, hnext⟩ := u.fixStatus_keeps s.cmd.launchNext .fault {}
    rw [if_pos h, hl, hlaunch, ht]
    exact ⟨hmem, hnext, rfl, rfl, rfl, rfl⟩
  · rw [if_neg (mt hiff.1 h)] at ht
    have hl : l = _ := (congrArg (State.launch · s.cmd.launchNext) ht).trans hlaunch
    rw [if_neg h, hl, ht]
    exact ⟨rfl, rfl, rfl, rfl, rfl, rfl⟩

theorem State.takeItem_of_admin (hq : q = 0) (hop : itemBytes (s.itemWord q) 0 1 = 1) (hgood : s.itemPoisoned q = false) :
    s.takeItem q = { s with cmd := { s.cmd with admin := s.cmd.admin ++ [s.itemWord q + 2 ^ 1024 * s.cmd.launchNext] } } := by
  simp only [State.takeItem, hop, hgood]
  simp [hq]

theorem State.takeItem_of_launch (h : q ≠ 0 ∨ itemBytes (s.itemWord q) 0 1 ≠ 1) :
    s.takeItem q = s.newLaunch q (s.itemWord q) (s.itemPoisoned q) :=
  if_neg (by simpa [← not_and_or] using h)

/-- Taking an item leaves memory and the identity that it takes. -/
theorem State.takeItem_keeps (s : State) (q : Nat) : (s.takeItem q).mem = s.mem ∧ (s.takeItem q).cmd.launchNext = s.cmd.launchNext := by
  unfold State.takeItem
  split
  · exact ⟨rfl, rfl⟩
  · obtain ⟨hmem, hnext, -⟩ := s.newLaunch_spec q (s.itemWord q) (s.itemPoisoned q)
    exact ⟨hmem, hnext⟩

end Reading

/-! ### Age and deadlines (R359, R362) -/

section Deadlines
variable {s : State} {lid : Nat}

theorem exec_itemAged (hhere : (SMap.find s.cmd.launches lid).isSome = true) :
    exec (.itemAged lid) s = .next (s.setLaunch lid { s.launch lid with aged := s.ages (s.launch lid) }) := by
  obtain ⟨l, hl⟩ := Option.isSome_iff_exists.1 hhere
  show execItemAged lid s = _
  simp only [execItemAged, hl, Option.isNone_some, Bool.false_eq_true, if_false]

theorem State.ages_iff (s : State) (l : Launch) :
    s.ages l = true ↔ l.cls = 1 ∧ l.status = none ∧ s.cmd.age ≠ 0 ∧ l.readAt + 1000 * s.cmd.age ≤ s.power.dtime := by
  simp [State.ages, and_assoc]

theorem State.alarms_iff (s : State) : s.alarms = true ↔ s.power.kiln = .running ∧ s.power.lost = false ∧ s.power.off = false := by
  simp [State.alarms, and_assoc]

/-- A deadline that has passed takes effect, and is a wake event. -/
theorem exec_deadlinePass_of_late (hhere : (SMap.find s.cmd.launches lid).isSome = true) (hopen : (s.launch lid).status = none)
    (hlate : s.late (s.launch lid) = true) (halarms : s.alarms = true) : exec (.deadlinePass lid) s =
      .next { s.passDeadline lid with power := { (s.passDeadline lid).power with wakes := (s.passDeadline lid).power.wakes + 1 } } := by
  obtain ⟨l, hl⟩ := Option.isSome_iff_exists.1 hhere
  show execDeadlinePass lid s = _
  simp only [execDeadlinePass, hl, hopen, hlate, halarms]
  rfl

theorem exec_deadlinePass_of_early (h : s.late (s.launch lid) = false) : exec (.deadlinePass lid) s = .next s := by
  show execDeadlinePass lid s = _
  simp [execDeadlinePass, h]

theorem exec_deadlinePass_of_held (h : s.alarms = false) : exec (.deadlinePass lid) s = .next s := by
  show execDeadlinePass lid s = _
  simp [execDeadlinePass, h]

theorem State.passDeadline_of_unstarted (h : (s.launch lid).started = 0) : s.passDeadline lid = s.endLaunches [lid] .late {} := if_pos h

theorem State.passDeadline_of_started (h : (s.launch lid).started ≠ 0) : s.passDeadline lid =
    ((s.setLaunch lid { s.launch lid with deadlineHit := true }).discardPreloads lid false).settleLaunch lid := if_neg h

end Deadlines

/-! ### Budgets (R363) -/

section Budgets
variable {s : State} {gid : Nat}

/-- A group that runs, of a launch whose status is open: what a budget can stop. -/
structure State.budgetOpen (s : State) (gid : Nat) : Prop where
  found : (SMap.find s.cmd.groups gid).isSome = true
  occupies : (s.group gid).occupies = true
  unended : (s.launch (s.group gid).launch).status = none

/-- The item of a task that has overrun its budget for good ends, once the group has stopped. -/
def State.endOverrun (s : State) (g : Group) : State :=
  if s.groupStopped g then s.endLaunches [g.launch] .budget (s.budgetEsc g) else s

theorem exec_budgetExpiry_of_open (hon : s.budgetOpen gid) : exec (.budgetExpiry gid) s =
    let g := s.group gid
    let l := s.launch g.launch
    .next (if g.overrun then s.endOverrun g
      else if !s.spent g then s
      else if l.cls = 0 || g.rerun then (s.setGroup gid { g.requested with overrun := true }).endOverrun g
      else
        let t := s.setGroup gid { g.requested with rerun := true, charged := 0 }
        if g.state == .draining then t else t.setLaunch g.launch { l with reruns := l.reruns ++ [gid] }) := by
  obtain ⟨hfound, hoccupies, hopen⟩ := hon
  obtain ⟨g, hg⟩ := Option.isSome_iff_exists.1 hfound
  show execBudgetExpiry gid s = _
  have hgo : ((SMap.find s.cmd.groups gid).isNone || !(s.group gid).occupies || (s.launch (s.group gid).launch).status != none) = false := by
    simp [hg, hoccupies, hopen]
  simp only [execBudgetExpiry, hgo, Bool.false_eq_true, if_false]
  rfl

theorem State.spent_of_due (hopen : (s.launch (s.group gid).launch).status = none) (hbudget : (s.launch (s.group gid).launch).budget ≠ 0)
    (hcharged : (s.launch (s.group gid).launch).budget ≤ (s.group gid).charged) : s.spent (s.group gid) = true := by
  simp [State.spent, hopen, hbudget, hcharged]

/-- A task whose charge has reached its budget, which is still to be raised. -/
structure State.budgetDue (s : State) (gid : Nat) : Prop extends s.budgetOpen gid where
  fresh : (s.group gid).overrun = false
  limited : (s.launch (s.group gid).launch).budget ≠ 0
  reached : (s.launch (s.group gid).launch).budget ≤ (s.group gid).charged

theorem State.budgetDue.spent (h : s.budgetDue gid) : s.spent (s.group gid) = true := State.spent_of_due h.unended h.limited h.reached

/-- A batch or background task stops to run again (R363). -/
theorem exec_budgetExpiry_of_batch (h : s.budgetDue gid) (hcls : (s.launch (s.group gid).launch).cls ≠ 0)
    (hrerun : (s.group gid).rerun = false) (hstate : (s.group gid).state ≠ .draining) : exec (.budgetExpiry gid) s =
      .next ((s.setGroup gid { (s.group gid).requested with rerun := true, charged := 0 }).setLaunch (s.group gid).launch
        { s.launch (s.group gid).launch with reruns := (s.launch (s.group gid).launch).reruns ++ [gid] }) := by
  rw [exec_budgetExpiry_of_open h.tobudgetOpen]
  simp [h.fresh, h.spent, hcls, hrerun, hstate]

/-- An interactive task, or one that overruns again, is to end its item (R363). -/
theorem exec_budgetExpiry_of_last (h : s.budgetDue gid) (hlast : (s.launch (s.group gid).launch).cls = 0 ∨ (s.group gid).rerun = true) :
    exec (.budgetExpiry gid) s = .next ((s.setGroup gid { (s.group gid).requested with overrun := true }).endOverrun (s.group gid)) := by
  rw [exec_budgetExpiry_of_open h.tobudgetOpen]
  simp [h.fresh, h.spent, hlast]

theorem exec_budgetExpiry_of_overrun (hon : s.budgetOpen gid) (hover : (s.group gid).overrun = true) :
    exec (.budgetExpiry gid) s = .next (s.endOverrun (s.group gid)) := by
  rw [exec_budgetExpiry_of_open hon]
  simp [hover]

theorem exec_budgetExpiry_of_within (hcharged : (s.group gid).charged < (s.launch (s.group gid).launch).budget)
    (hoverrun : (s.group gid).overrun = false) : exec (.budgetExpiry gid) s = .next s := by
  have hspent : s.spent (s.group gid) = false := by simp [State.spent, hoverrun, hcharged]
  show execBudgetExpiry gid s = _
  simp [execBudgetExpiry, hspent, hoverrun]

end Budgets

/-- A launch that ends with a status has its record and its time (R356). -/
theorem State.launch_endLaunches_single {s : State} {lid : Nat} (h : (s.launch lid).status = none) (st : Status) (e : EscRecord) :
    ((s.endLaunches [lid] st e).launch lid).status = some st ∧ ((s.endLaunches [lid] st e).launch lid).esc = e ∧
      ((s.endLaunches [lid] st e).launch lid).tend = s.power.dtime := by
  have hleaves := s.abortLaunch_leavesStatuses lid
  have hopen : ((s.abortLaunch lid).launch lid).status = none := (hleaves.status lid).trans h
  have hlaunch : (s.endLaunches [lid] st e).launch lid = _ := State.launch_fixStatus_of_open hopen st e
  rw [hlaunch, hleaves.power]
  exact ⟨rfl, rfl, rfl⟩

/-! ### The statement -/

/-- Settles O39: an item by the queue that is next and by what it holds, a deadline by whether a task of the launch has started, a budget
by the class of the launch and by whether the task ran again before. -/
theorem workItems : Obligations.WorkItems := by
  unfold Obligations.WorkItems
  intro s q lid gid c pa w bad id l here ticks woken g m on overDue exceeds again ends
  have hdue : overDue → s.budgetDue gid := fun ⟨⟨hfound, hocc, hopen⟩, hover, hbudget, hle⟩ => ⟨⟨hfound, hocc, hopen⟩, hover, hbudget, hle⟩
  refine ⟨fun hnext hlost => ?_, exec_workItemRead_of_other, exec_itemAged, s.ages_iff l, fun hhere hopen hlate hticks hstart => ?_,
    fun hhere hopen hlate hticks hstart => ?_, exec_deadlinePass_of_early,
    fun h => exec_deadlinePass_of_held (Bool.eq_false_iff.2 (mt s.alarms_iff.1 h)), fun h => exec_budgetExpiry_of_batch (hdue h),
    fun h => exec_budgetExpiry_of_last (hdue h), fun ⟨hfound, hocc, hopen⟩ => exec_budgetExpiry_of_overrun ⟨hfound, hocc, hopen⟩,
    exec_budgetExpiry_of_within, fun hopen st e => State.launch_endLaunches_single hopen st e⟩
  · obtain ⟨hmem, hid⟩ := s.takeItem_keeps q
    refine ⟨_, exec_workItemRead_of_next hnext hlost, congrArg CmdQueue.head (State.queue_setQueue_same ..), congrArg (· + 1) hid, rfl,
      hmem, fun hq hop hgood => ?_, fun hlaunch => ?_⟩
    · have hadmin : (s.takeItem q).cmd.admin = s.cmd.admin ++ [s.itemWord q + 2 ^ 1024 * s.cmd.launchNext] := by
        rw [State.takeItem_of_admin hq hop hgood]
      have hlaunches : (s.takeItem q).cmd.launches = s.cmd.launches := by rw [State.takeItem_of_admin hq hop hgood]
      exact ⟨hadmin, hlaunches⟩
    · obtain ⟨-, -, hspec⟩ := s.newLaunch_spec q (s.itemWord q) (s.itemPoisoned q)
      rw [← State.takeItem_of_launch hlaunch] at hspec
      exact hspec
  · rw [exec_deadlinePass_of_late hhere hopen hlate (s.alarms_iff.2 hticks), State.passDeadline_of_unstarted hstart]
  · rw [exec_deadlinePass_of_late hhere hopen hlate (s.alarms_iff.2 hticks), State.passDeadline_of_started hstart]

end Sys2Proof.Machine
end

section
/-! PROOFS. Stage 9 of a launch (R335 to R338, R355, R356, R393): its steps in their order, and the signature of a hallmark. -/

namespace Sys2Proof.Machine

/-! ### The order of statuses (R357) -/

theorem State.signal_statusOrder (s : State) (c : Completion) : (s.signal c).cmd.statusOrder = s.cmd.statusOrder := by
  dsimp only [State.signal]
  repeat' split
  all_goals rfl

theorem State.setCq_statusOrder (s : State) (n : Nat) (q : CmplQueue) : (s.setCq n q).cmd.statusOrder = s.cmd.statusOrder := rfl

theorem State.flushOne_statusOrder (s : State) (n : Nat) : (s.flushOne n).cmd.statusOrder = s.cmd.statusOrder := by
  dsimp only [State.flushOne]
  split
  · rfl
  · split
    · rfl
    · refine (State.signal_statusOrder ..).trans ?_
      split
      · rfl
      · rfl

theorem State.queuesNaming_statusOrder (s : State) (n : Nat) (f : CmdQueue → CmdQueue) :
    (s.queuesNaming n f).cmd.statusOrder = s.cmd.statusOrder := by
  rw [State.queuesNaming]

theorem State.flushCq_statusOrder (s : State) (n : Nat) : (s.flushCq n).cmd.statusOrder = s.cmd.statusOrder := by
  rw [State.flushCq, State.queuesNaming_statusOrder]
  exact List.foldlRecOn (motive := fun t : State => t.cmd.statusOrder = s.cmd.statusOrder) _ _ rfl fun t ht _ _ =>
    (t.flushOne_statusOrder n).trans ht

theorem State.postRecord_statusOrder (s : State) (n : Nat) (c : Completion) : (s.postRecord n c).cmd.statusOrder = s.cmd.statusOrder := by
  dsimp only [State.postRecord]
  split
  · exact s.signal_statusOrder c
  · exact (State.flushCq_statusOrder _ n).trans (s.setCq_statusOrder n _)

theorem State.postAdmin_statusOrder (s : State) (lid : Nat) : (s.postAdmin lid).cmd.statusOrder = s.cmd.statusOrder :=
  List.foldlRecOn (motive := fun t : State => t.cmd.statusOrder = s.cmd.statusOrder) _ _ rfl fun t ht _ _ =>
    (t.postRecord_statusOrder ..).trans ht

theorem State.settleClosing_statusOrder (s : State) (ctx : Nat) : (s.settleClosing ctx).cmd.statusOrder = s.cmd.statusOrder := by
  unfold State.settleClosing
  split
  · rfl
  · split <;> rfl

/-- A launch that leaves stage 9 gives the turn to the next status (R357). -/
theorem State.closeLaunch_statusOrder (s : State) (lid : Nat) : (s.closeLaunch lid).cmd.statusOrder = s.cmd.statusOrder.drop 1 := by
  rw [State.closeLaunch, State.settleClosing_statusOrder, State.postAdmin_statusOrder, State.postRecord_statusOrder]
  rfl

/-! ### Measuring (R335, R393) -/

theorem State.launch_of_cmd {s t : State} (h : t.cmd = s.cmd) (n : Nat) : t.launch n = s.launch n := by
  rw [State.launch, h, State.launch]

theorem State.measureLaunch_cmd (s : State) (lid : Nat) (st : Status) (bufs : List (Nat × Nat × List Byte)) :
    ∃ cbase chain body, (s.measureLaunch lid st bufs).cmd = (s.setLaunch lid
      { s.launch lid with status := some st, cbase := cbase, chain := chain, stage9 := 1, hmBody := body }).cmd := by
  dsimp only [State.measureLaunch]
  refine ⟨(s.finalChain lid (s.launch lid) bufs).1, (s.finalChain lid (s.launch lid) bufs).2, if (s.launch lid).wantsHm then
    s.hallmarkBody lid (s.launch lid) st (s.finalChain lid (s.launch lid) bufs).1 (s.finalChain lid (s.launch lid) bufs).2 bufs
    else [], ?_⟩
  generalize s.hallmarkBody lid (s.launch lid) st _ _ bufs = body
  generalize s.finalChain lid (s.launch lid) bufs = chain
  generalize s.launch lid = l
  cases l.wantsHm
  · simp only [Bool.false_eq_true, ↓reduceIte]
    split <;> rfl
  · simp only [↓reduceIte]
    split <;> rfl

theorem State.measureLaunch_signQ (s : State) (lid : Nat) (st : Status) (bufs : List (Nat × Nat × List Byte)) :
    (s.measureLaunch lid st bufs).sec.signQ = if (s.launch lid).wantsHm then s.sec.signQ ++ [lid] else s.sec.signQ := by
  dsimp only [State.measureLaunch]
  generalize s.hallmarkBody lid (s.launch lid) st _ _ bufs = body
  generalize s.finalChain lid (s.launch lid) bufs = chain
  generalize s.launch lid = l
  cases l.wantsHm
  · simp only [Bool.false_eq_true, ↓reduceIte]
    split <;> rfl
  · simp only [↓reduceIte]
    split <;> rfl

/-- A launch after stage 9 up to the signature: its status stands, and a body to sign waits for the security controller. -/
theorem State.measureLaunch_spec (s : State) (lid : Nat) (st : Status) (bufs : List (Nat × Nat × List Byte)) :
    ((s.measureLaunch lid st bufs).launch lid).status = some st ∧ ((s.measureLaunch lid st bufs).launch lid).stage9 = 1 ∧
    (s.measureLaunch lid st bufs).sec.signQ = if (s.launch lid).wantsHm then s.sec.signQ ++ [lid] else s.sec.signQ := by
  obtain ⟨cbase, chain, body, hcmd⟩ := s.measureLaunch_cmd lid st bufs
  rw [State.launch_of_cmd hcmd, State.launch_setLaunch_same]
  exact ⟨rfl, rfl, s.measureLaunch_signQ lid st bufs⟩

/-! ### The steps of stage 9 (R393) -/

section Steps
variable {s : State} {lid va : Nat} {st : Status} {bufs : List (Nat × Nat × List Byte)}

/-- A launch stands first, the package has power, its writes are performed and its status is fixed. -/
structure State.stage9Turn (s : State) (lid : Nat) (st : Status) : Prop where
  first : s.cmd.statusOrder.head? = some lid
  power : s.power.off = false
  done : s.writesDone lid = true
  status : (s.launch lid).status = some st

theorem exec_launchComplete_of_turn (h : s.stage9Turn lid st) : exec (.launchComplete lid) s =
    let l := s.launch lid
    .next (if l.stage9 = 0 then
        if st != .ok then s.measureLaunch lid st []
        else match s.results l with
          | .held va => s.cpPark l.ctx va lid false
          | .failed => s.measureLaunch lid .fault []
          | .done bufs => s.measureLaunch lid .ok bufs
      else if l.wantsHm then
        if !l.hmSigned then s
        else match s.hallmarkWay l with
          | some (false, va) => s.cpPark l.ctx va lid true
          | some (true, _) => (s.setLaunch lid { l with hmLost := true }).closeLaunch lid
          | none => (s.writeRange agentCp 7 l.ctx (l.it 64 8) l.hmBody false).closeLaunch lid
      else s.closeLaunch lid) := by
  obtain ⟨hfirst, hpower, hdone, hstatus⟩ := h
  show execLaunchComplete lid s = _
  simp only [execLaunchComplete, hfirst, hpower, hdone, hstatus, bne_self_eq_false, Bool.not_true, Bool.or_self, Bool.false_eq_true, if_false]
    <;> rfl

theorem exec_launchComplete_of_bad (h : s.stage9Turn lid st) (h9 : (s.launch lid).stage9 = 0) (hst : st ≠ .ok) :
    exec (.launchComplete lid) s = .next (s.measureLaunch lid st []) := by
  rw [exec_launchComplete_of_turn h]
  simp [h9, hst]

/-- The results of a launch that ended OK are hashed; they may be held, or fail (R335, R525). -/
theorem exec_launchComplete_of_good (h : s.stage9Turn lid .ok) (h9 : (s.launch lid).stage9 = 0) : exec (.launchComplete lid) s =
    .next (match s.results (s.launch lid) with
      | .held va => s.cpPark (s.launch lid).ctx va lid false
      | .failed => s.measureLaunch lid .fault []
      | .done bufs => s.measureLaunch lid .ok bufs) := by
  rw [exec_launchComplete_of_turn h]
  simp only [h9, bne_self_eq_false, Bool.false_eq_true, if_true, if_false]

theorem exec_launchComplete_of_plain (h : s.stage9Turn lid st) (h9 : (s.launch lid).stage9 ≠ 0) (hwants : (s.launch lid).wantsHm = false) :
    exec (.launchComplete lid) s = .next (s.closeLaunch lid) := by
  rw [exec_launchComplete_of_turn h]
  simp only [h9, hwants, Bool.false_eq_true, if_false]

theorem exec_launchComplete_of_unsigned (h : s.stage9Turn lid st) (h9 : (s.launch lid).stage9 ≠ 0) (hwants : (s.launch lid).wantsHm = true)
    (hsigned : (s.launch lid).hmSigned = false) : exec (.launchComplete lid) s = .next s := by
  rw [exec_launchComplete_of_turn h]
  simp only [h9, hwants, hsigned, Bool.not_false, if_true, if_false]

/-- A signed hallmark is written, or lost where its place denies it, or held (R338, R525). -/
theorem exec_launchComplete_of_signed (h : s.stage9Turn lid st) (h9 : (s.launch lid).stage9 ≠ 0) (hwants : (s.launch lid).wantsHm = true)
    (hsigned : (s.launch lid).hmSigned = true) : exec (.launchComplete lid) s =
      .next (match s.hallmarkWay (s.launch lid) with
        | some (false, va) => s.cpPark (s.launch lid).ctx va lid true
        | some (true, _) => (s.setLaunch lid { s.launch lid with hmLost := true }).closeLaunch lid
        | none => (s.writeRange agentCp 7 (s.launch lid).ctx ((s.launch lid).it 64 8) (s.launch lid).hmBody false).closeLaunch lid) := by
  rw [exec_launchComplete_of_turn h]
  simp only [h9, hwants, hsigned, Bool.not_true, Bool.false_eq_true, if_true, if_false]

theorem exec_launchComplete_of_other (h : s.cmd.statusOrder.head? ≠ some lid) : exec (.launchComplete lid) s = .next s := by
  show execLaunchComplete lid s = _
  simp [execLaunchComplete, h]

theorem exec_launchComplete_of_writing (h : s.writesDone lid = false) : exec (.launchComplete lid) s = .next s := by
  show execLaunchComplete lid s = _
  simp [execLaunchComplete, h]

theorem exec_hallmarkSign_of_turn (hfirst : s.sec.signQ.head? = some lid) (hpower : s.power.off = false) : exec (.hallmarkSign lid) s =
    .next (match dsaSign identityKey hallmarkContext (s.launch lid).hmBody (secretKey s.tick) with
      | none => s.bump
      | some sig =>
        let t := s.setLaunch lid { s.launch lid with hmBody := (s.launch lid).hmBody ++ sig, hmSigned := true }
        { t with sec := { t.sec with signQ := t.sec.signQ.drop 1 } }.bump) := by
  show execHallmarkSign lid s = _
  simp only [execHallmarkSign, hfirst, hpower, bne_self_eq_false, Bool.or_self, Bool.false_eq_true, if_false]
    <;> rfl

theorem exec_hallmarkSign_of_other (h : s.sec.signQ.head? ≠ some lid) : exec (.hallmarkSign lid) s = .next s := by
  show execHallmarkSign lid s = _
  simp [execHallmarkSign, h]

end Steps

/-! ### The statement -/

/-- Settles O42: stage 9 by how far the launch has come, by its results, and by the way of its hallmark. -/
theorem launchCompletion : Obligations.LaunchCompletion := by
  unfold Obligations.LaunchCompletion
  intro s lid va st bufs l turn go made
  have hturn : turn → s.stage9Turn lid st := fun ⟨hfirst, hpower, hdone, hstatus⟩ => ⟨hfirst, hpower, hdone, hstatus⟩
  obtain ⟨hstatus, hstage, hqueue⟩ := s.measureLaunch_spec lid st bufs
  refine ⟨fun h => exec_launchComplete_of_bad (hturn h), fun h h9 hst hres => ?_, fun h h9 hst hres => ?_, fun h h9 hst hres => ?_,
    fun h => exec_launchComplete_of_plain (hturn h), fun h => exec_launchComplete_of_unsigned (hturn h), fun h h9 hwants hsigned hway => ?_,
    fun h h9 hwants hsigned hway => ?_, fun h h9 hwants hsigned hway => ?_, exec_launchComplete_of_other, exec_launchComplete_of_writing,
    hstatus, hstage, hqueue, s.closeLaunch_statusOrder lid, fun hfirst hpower hmade => ?_, fun sig hfirst hpower hmade => ?_,
    exec_hallmarkSign_of_other⟩
  iterate 3
    · subst hst
      refine (exec_launchComplete_of_good (hturn h) h9).trans ?_
      rw [show s.results (s.launch lid) = _ from hres]
  iterate 3
    · refine (exec_launchComplete_of_signed (hturn h) h9 hwants hsigned).trans ?_
      rw [show s.hallmarkWay (s.launch lid) = _ from hway]
  · refine (exec_hallmarkSign_of_turn hfirst hpower).trans ?_
    rw [show dsaSign identityKey hallmarkContext (s.launch lid).hmBody (secretKey s.tick) = none from hmade]
  · refine ⟨_, exec_hallmarkSign_of_turn hfirst hpower, ?_⟩
    rw [show dsaSign identityKey hallmarkContext (s.launch lid).hmBody (secretKey s.tick) = some sig from hmade]
    have hlaunch := s.launch_setLaunch_same lid { s.launch lid with hmBody := (s.launch lid).hmBody ++ sig, hmSigned := true }
    exact ⟨congrArg Launch.hmBody hlaunch, congrArg Launch.hmSigned hlaunch, rfl, rfl⟩

end Sys2Proof.Machine
end

section
/-! PROOFS. Kernels (R331, R333, R381 to R385): the staging, reading and measuring of an object, and the loading of its code. -/

namespace Sys2Proof.Machine

/-! ### Staging and reading (R382, R383) -/

section Reading
variable {s : State} {lid k : Nat} {r : KernelRec}

/-- A launch whose kernel is still to be found, while the command processor acts. -/
structure State.seeksKernel (s : State) (lid : Nat) : Prop where
  present : (SMap.find s.cmd.launches lid).isSome = true
  none : (s.launch lid).kernel = none
  acts : s.acts = true

theorem exec_kernelRead_of_seeks (h : s.seeksKernel lid) : exec (.kernelRead lid) s =
    .next (if s.mustAbort (s.launch lid) then s.endLaunches [lid] .abort {}
      else if !s.eligible (s.launch lid) then s
      else match s.kernelAt (s.launch lid).ctx ((s.launch lid).it 8 8) with
        | .none => s.stageKernel (s.launch lid).ctx ((s.launch lid).it 8 8) lid
        | some (k, r) =>
          if r.state == .staged && !s.reads lid r then s
          else if r.state == .staged then
            s.finishRead lid k (s.ctx (s.launch lid).ctx).world ((s.launch lid).it 8 8)
              (if (s.ctx (s.launch lid).ctx).world then s.readEnvelope (s.launch lid).ctx ((s.launch lid).it 8 8)
                else s.readPlain (s.launch lid).ctx ((s.launch lid).it 8 8))
          else s.setLaunch lid { s.launch lid with kernel := some k }) := by
  show execKernelRead lid s = _
  exact congrArg Host.Outcome.next (if_neg (by simp [h.none, h.acts, Option.isSome_iff_ne_none.1 h.present]))

theorem exec_kernelRead_of_abort (h : s.seeksKernel lid) (ha : s.mustAbort (s.launch lid) = true) :
    exec (.kernelRead lid) s = .next (s.endLaunches [lid] .abort {}) := by
  rw [exec_kernelRead_of_seeks h, if_pos ha]

theorem State.mustAbort_of_eligible {l : Launch} (h : s.eligible l = true) : s.mustAbort l = false := by
  rw [State.eligible] at h
  simp only [Bool.and_eq_true, Bool.not_eq_true'] at h
  exact h.1.2

/-- A launch that may run looks its object up by context and address. -/
theorem exec_kernelRead_of_eligible (h : s.seeksKernel lid) (he : s.eligible (s.launch lid) = true) : exec (.kernelRead lid) s =
    .next (match s.kernelAt (s.launch lid).ctx ((s.launch lid).it 8 8) with
        | .none => s.stageKernel (s.launch lid).ctx ((s.launch lid).it 8 8) lid
        | some (k, r) =>
          if r.state == .staged && !s.reads lid r then s
          else if r.state == .staged then
            s.finishRead lid k (s.ctx (s.launch lid).ctx).world ((s.launch lid).it 8 8)
              (if (s.ctx (s.launch lid).ctx).world then s.readEnvelope (s.launch lid).ctx ((s.launch lid).it 8 8)
                else s.readPlain (s.launch lid).ctx ((s.launch lid).it 8 8))
          else s.setLaunch lid { s.launch lid with kernel := some k }) := by
  rw [exec_kernelRead_of_seeks h, if_neg (by simp [State.mustAbort_of_eligible he]), if_neg (by simp [he])]

theorem exec_kernelRead_of_standing (h : s.seeksKernel lid) (he : s.eligible (s.launch lid) = true)
    (hfound : s.kernelAt (s.launch lid).ctx ((s.launch lid).it 8 8) = some (k, r)) (hst : r.state ≠ .staged) :
    exec (.kernelRead lid) s = .next (s.setLaunch lid { s.launch lid with kernel := some k }) := by
  rw [exec_kernelRead_of_eligible h he]
  simp [hfound, hst]

theorem exec_kernelRead_of_other_reader (h : s.seeksKernel lid) (he : s.eligible (s.launch lid) = true)
    (hfound : s.kernelAt (s.launch lid).ctx ((s.launch lid).it 8 8) = some (k, r)) (hst : r.state = .staged)
    (hreads : s.reads lid r = false) : exec (.kernelRead lid) s = .next s := by
  rw [exec_kernelRead_of_eligible h he]
  simp [hfound, hst, hreads]

theorem exec_kernelRead_of_reader (h : s.seeksKernel lid) (he : s.eligible (s.launch lid) = true)
    (hfound : s.kernelAt (s.launch lid).ctx ((s.launch lid).it 8 8) = some (k, r)) (hst : r.state = .staged)
    (hreads : s.reads lid r = true) : exec (.kernelRead lid) s =
      .next (s.finishRead lid k (s.ctx (s.launch lid).ctx).world ((s.launch lid).it 8 8)
        (if (s.ctx (s.launch lid).ctx).world then s.readEnvelope (s.launch lid).ctx ((s.launch lid).it 8 8)
          else s.readPlain (s.launch lid).ctx ((s.launch lid).it 8 8))) := by
  rw [exec_kernelRead_of_eligible h he]
  simp [hfound, hst, hreads]

theorem exec_kernelRead_of_held (h : s.acts = false) : exec (.kernelRead lid) s = .next s := by
  show execKernelRead lid s = _
  rw [execKernelRead, if_pos (by simp [h])]

end Reading

/-! ### Measuring (R333) -/

theorem State.finishRead_of_bad {s : State} {lid k va : Nat} {bs : List Byte} (h : objectOk bs = false) :
    s.finishRead lid k false va (.object bs) = (s.dropKernel k).endLaunches [lid] .fault {} := by
  rw [State.finishRead]
  simp [h]

theorem State.finishRead_of_good {s : State} {lid k va : Nat} {bs : List Byte} (h : objectOk bs = true) {t : State}
    (ht : (s.setKernel k { s.kernel k with state := .measured, bytes := bs, digest := sha3 bs }).measureLoad (s.launch lid).ctx bs = t) :
    s.finishRead lid k false va (.object bs) = t.setLaunch lid { t.launch lid with kernel := some k } := by
  rw [State.finishRead]
  simp [h, ht]

theorem State.measureLoad_chain {s : State} {ctx : Nat} {bs : List Byte} {c : Ctx} (h : SMap.find s.ctxs ctx = some c) :
    ((s.measureLoad ctx bs).ctx ctx).chain = sha3 (c.chain ++ le 1 1 ++ le bs.length 8 ++ sha3 bs) := by
  rw [State.measureLoad, h]
  exact congrArg Ctx.chain (State.ctx_setCtx_same ..)

/-! ### Loading (R331, R385) -/

@[simp] theorem Core.halfAt_setHalf (c : Core) (h : Nat) (v : ImemHalf) : (c.setHalf h v).halfAt h = v := by
  unfold Core.setHalf Core.halfAt
  split <;> rfl

/-- A state that loads from now on keeps what a load does not touch. -/
structure State.leavesLoads (s t : State) : Prop where
  mem : t.mem = s.mem
  ctxs : t.ctxs = s.ctxs

/-- The load identifier is the group's own, or the next one, which the group then keeps. -/
theorem State.takeLoadId_spec (s : State) (gid : Nat) :
    (s.takeLoadId gid).2 = (s.group gid).loadId.getD s.cmd.loadNext ∧
    ((s.takeLoadId gid).1.group gid).loadId = some ((s.group gid).loadId.getD s.cmd.loadNext) ∧ s.leavesLoads (s.takeLoadId gid).1 := by
  unfold State.takeLoadId
  cases hload : (s.group gid).loadId with
  | some n => exact ⟨rfl, hload, rfl, rfl⟩
  | none => exact ⟨rfl, congrArg Group.loadId (s.group_setGroup_same gid _), rfl, rfl⟩

section Writing
variable {s : State} {gid core h : Nat}

/-- Does a half hold the code of a group? -/
def State.halfHolds (s : State) (gid core h : Nat) : Bool :=
  ((s.core core).halfAt h).kernel == some (s.group gid).kernel && ((s.core core).halfAt h).ctx == (s.group gid).ctx

/-- The half that a group's code is written into, under a load identifier and a key. -/
def State.newHalf (s : State) (gid pc n key : Nat) : ImemHalf :=
  let g := s.group gid
  let o := (s.kernel g.kernel).bytes
  { kernel := some g.kernel, ctx := g.ctx, loadId := n, key := key, bundles := kBundles o pc n key, traps := kTraps o pc }

/-- The owner that a core has once the code of a group stands in it (R328). -/
def State.newOwner (s : State) (gid : Nat) : Ownership :=
  if (s.ctx (s.group gid).ctx).world then .owned (s.group gid).ctx else .opened

theorem State.writeHalf_of_held (pc : Nat) (hh : s.halfHolds gid core h = true) :
    s.writeHalf gid core h pc = s.setCore core { s.core core with ownership := s.newOwner gid } := by
  have hite : ∀ a b : State, (if (((s.core core).halfAt h).kernel == some (s.group gid).kernel &&
      ((s.core core).halfAt h).ctx == (s.group gid).ctx) = true then a else b) = a := fun a b => if_pos hh
  simp only [State.writeHalf, hite]
  rfl

theorem State.writeHalf_of_spare (pc : Nat) (hh : s.halfHolds gid core h = false) :
    s.writeHalf gid core h pc =
      let key := (s.takeLoadId gid).1.codeKey (s.group gid).ctx
      let u := (s.takeLoadId gid).1.setCore core ((s.core core).setHalf h (s.newHalf gid pc (s.takeLoadId gid).2 key))
      u.setCore core { u.core core with ownership := s.newOwner gid } := by
  have hite : ∀ a b : State, (if (((s.core core).halfAt h).kernel == some (s.group gid).kernel &&
      ((s.core core).halfAt h).ctx == (s.group gid).ctx) = true then a else b) = b :=
    fun a b => if_neg (by rw [show (_ && _) = false from hh]; exact Bool.false_ne_true)
  simp only [State.writeHalf, hite]
  rfl

/-- A core after its half was written: the half holds the group's code, under the load's own identifier where it is new. -/
structure State.halfWritten (s : State) (gid core h : Nat) (t : State) : Prop extends s.leavesLoads t where
  kernel : ((t.core core).halfAt h).kernel = some (s.group gid).kernel
  ctx : ((t.core core).halfAt h).ctx = (s.group gid).ctx
  ownership : (t.core core).ownership = s.newOwner gid
  loadId : ((s.core core).halfAt h).kernel ≠ some (s.group gid).kernel →
    ((t.core core).halfAt h).loadId = (s.group gid).loadId.getD s.cmd.loadNext ∧
    (t.group gid).loadId = some ((s.group gid).loadId.getD s.cmd.loadNext)

@[simp] theorem Core.halfAt_ownership (c : Core) (o : Ownership) (h : Nat) : ({ c with ownership := o } : Core).halfAt h = c.halfAt h := rfl

theorem State.writeHalf_written (s : State) (gid core h pc : Nat) : s.halfWritten gid core h (s.writeHalf gid core h pc) := by
  cases hh : s.halfHolds gid core h with
  | true =>
    rw [State.writeHalf_of_held pc hh]
    simp only [State.halfHolds, Bool.and_eq_true, beq_iff_eq] at hh
    obtain ⟨hkernel, hctx⟩ := hh
    refine { mem := rfl, ctxs := rfl, kernel := ?_, ctx := ?_, ownership := ?_, loadId := fun hne => absurd hkernel hne }
    · rw [State.core_setCore_same, Core.halfAt_ownership, hkernel]
    · rw [State.core_setCore_same, Core.halfAt_ownership, hctx]
    · rw [State.core_setCore_same]
  | false =>
    obtain ⟨hid, hkept, hmem, hctxs⟩ := s.takeLoadId_spec gid
    rw [State.writeHalf_of_spare pc hh]
    refine { mem := hmem, ctxs := hctxs, kernel := ?_, ctx := ?_, ownership := ?_, loadId := fun _ => ⟨?_, hkept⟩ }
    all_goals simp only [State.core_setCore_same, Core.halfAt_ownership, Core.halfAt_setHalf]
    · rfl
    · rfl
    · exact hid

end Writing

/-! ### One core of a group (R385) -/

section Loading
variable {s : State} {gid core h i : Nat}

/-- What a step of a load may still do to a core whose half was written. -/
structure State.keepsHalves (s t : State) (core : Nat) : Prop extends s.leavesLoads t where
  half : ∀ h, (t.core core).halfAt h = (s.core core).halfAt h
  ownership : (t.core core).ownership = (s.core core).ownership
  groups : t.cmd.groups = s.cmd.groups

theorem State.writeMicro_keepsHalves (s : State) (gid core : Nat) : s.keepsHalves (s.writeMicro gid core) core where
  mem := rfl
  ctxs := rfl
  half h := by rw [State.writeMicro, State.core_setCore_same]; rfl
  ownership := by rw [State.writeMicro, State.core_setCore_same]; rfl
  groups := rfl

theorem State.settleResident_keepsHalves (s : State) (core : Nat) : s.keepsHalves s.settleResident core where
  mem := rfl
  ctxs := rfl
  half _ := rfl
  ownership := rfl
  groups := rfl

theorem State.keepsHalves.trans {s t u : State} {core : Nat} (h : s.keepsHalves t core) (h' : t.keepsHalves u core) :
    s.keepsHalves u core where
  mem := h'.mem.trans h.mem
  ctxs := h'.ctxs.trans h.ctxs
  half i := (h'.half i).trans (h.half i)
  ownership := h'.ownership.trans h.ownership
  groups := h'.groups.trans h.groups

theorem State.keepsHalves.group {s t : State} {core : Nat} (h : s.keepsHalves t core) (gid : Nat) : t.group gid = s.group gid := by
  rw [State.group, h.groups, State.group]

theorem State.halfWritten.keeps {s t u : State} (h : s.halfWritten gid core i t) (hu : t.keepsHalves u core) :
    s.halfWritten gid core i u where
  mem := hu.mem.trans h.mem
  ctxs := hu.ctxs.trans h.ctxs
  kernel := by rw [hu.half, h.kernel]
  ctx := by rw [hu.half, h.ctx]
  ownership := by rw [hu.ownership, h.ownership]
  loadId hne := by rw [hu.half, hu.group]; exact h.loadId hne

theorem State.halfWritten.setHalves {s t : State} (h : s.halfWritten gid core i t) (m : SMap Nat) :
    s.halfWritten gid core i (t.setGroup gid { t.group gid with halves := m }) where
  mem := h.mem
  ctxs := h.ctxs
  kernel := h.kernel
  ctx := h.ctx
  ownership := h.ownership
  loadId hne := ⟨(h.loadId hne).1, (congrArg Group.loadId (t.group_setGroup_same gid _)).trans (h.loadId hne).2⟩

/-- A core that may take the code of a group: its half is written, and the group knows it. -/
theorem State.loadCore_spec (hmay : s.mayLoad core (s.group gid).ctx = true)
    (hhalf : s.loadHalf core (s.group gid).kernel (s.group gid).ctx = some h) :
    s.halfWritten gid core h (s.loadCore gid core) ∧ SMap.find ((s.loadCore gid core).group gid).halves (core % 8) = some h := by
  have hw := s.writeHalf_written gid core h (core % 8)
  unfold State.loadCore
  rw [if_neg (by simp [hmay]), hhalf]
  dsimp only
  generalize s.writeHalf gid core h (core % 8) = w at hw
  have hu := hw.setHalves (SMap.insert (s.group gid).halves (core % 8) h)
  have hfind : SMap.find ((w.setGroup gid { w.group gid with halves := SMap.insert (s.group gid).halves (core % 8) h }).group gid).halves
      (core % 8) = some h := by
    rw [State.group_setGroup_same, SMap.find_insert_same]
  generalize w.setGroup gid { w.group gid with halves := SMap.insert (s.group gid).halves (core % 8) h } = u at hu hfind
  split
  · have hkeeps := (u.writeMicro_keepsHalves gid core).trans (State.settleResident_keepsHalves _ core)
    exact ⟨hu.keeps hkeeps, hkeeps.group gid ▸ hfind⟩
  · have hkeeps := u.settleResident_keepsHalves core
    exact ⟨hu.keeps hkeeps, hkeeps.group gid ▸ hfind⟩

theorem exec_kernelLoad_of_wanted {lid : Nat} {g : Group} (hacts : s.acts = true)
    (hfind : s.cmd.groups.find? (fun e => e.2.launch == lid && e.2.state == .waking && e.2.cluster == core / 8 &&
      e.2.placements.any (fun p => p.core == core % 8) && (SMap.find e.2.halves (core % 8)).isNone && !(s.ctx e.2.ctx).parked) =
      some (gid, g)) : exec (.kernelLoad lid core) s = .next (s.loadCore gid core) := by
  show execKernelLoad lid core s = _
  rw [execKernelLoad]
  simp only [hacts, hfind]
  rfl

theorem exec_kernelLoad_of_unwanted {lid : Nat} (hacts : s.acts = true)
    (hfind : s.cmd.groups.find? (fun e => e.2.launch == lid && e.2.state == .waking && e.2.cluster == core / 8 &&
      e.2.placements.any (fun p => p.core == core % 8) && (SMap.find e.2.halves (core % 8)).isNone && !(s.ctx e.2.ctx).parked) =
      none) : exec (.kernelLoad lid core) s = .next s := by
  show execKernelLoad lid core s = _
  rw [execKernelLoad]
  simp only [hacts, hfind]
  rfl

end Loading

/-! ### The statement -/

/-- Settles O40: the reading of an object by what stands at its address, the measuring by whether the object is good, the loading by whether
the half holds the code already. -/
theorem kernelLoads : Obligations.KernelLoads := by
  unfold Obligations.KernelLoads
  intro s lid core k gid h r g bs l va wants measured
  refine ⟨fun hpresent hnone hacts => ?_, exec_kernelRead_of_held, fun hgood => State.finishRead_of_good hgood rfl,
    fun c hc => State.measureLoad_chain hc, State.finishRead_of_bad, fun hacts hfind hg hmay hhalf => ?_,
    fun hacts hfind => exec_kernelLoad_of_unwanted hacts hfind⟩
  · have hseeks : s.seeksKernel lid := ⟨hpresent, hnone, hacts⟩
    refine ⟨exec_kernelRead_of_abort hseeks, fun he => ⟨fun hfound => ?_, exec_kernelRead_of_standing hseeks he,
      exec_kernelRead_of_other_reader hseeks he, fun hfound hst hreads hworld => ?_, fun hfound hst hreads hworld => ?_⟩⟩
    · rw [exec_kernelRead_of_eligible hseeks he, hfound]
    · rw [exec_kernelRead_of_reader hseeks he hfound hst hreads, hworld]
      rfl
    · rw [exec_kernelRead_of_reader hseeks he hfound hst hreads, hworld]
      rfl
  · subst hg
    obtain ⟨hw, hhalves⟩ := State.loadCore_spec hmay hhalf
    exact ⟨_, exec_kernelLoad_of_wanted hacts hfind, hw.mem, hw.kernel, hw.ctx, hw.ownership, hhalves, hw.loadId⟩

end Sys2Proof.Machine
end

section
/-! PROOFS. Sealed records (R345, R373): the checks of `open`, the end of a sealed form, and AES-GCM, which opens what it sealed. -/

namespace Sys2Proof.Machine

/-! ### AES-256: a block has 16 bytes -/

/-- Words of a key schedule: four bytes each. -/
theorem aesExpand_spec (n i : Nat) (rc : Byte) (rev : List (List Byte)) (h8 : 8 ≤ rev.length) (h4 : ∀ w ∈ rev, w.length = 4) :
    (aesExpand n i rc rev).length = n + rev.length ∧ ∀ w ∈ aesExpand n i rc rev, w.length = 4 := by
  induction n generalizing i rc rev with
  | zero => simpa [aesExpand] using h4
  | succ n ih =>
    have hword : ∀ j, j < rev.length → ((rev[j]?).getD []).length = 4 := fun j hj => by
      rw [List.getElem?_eq_getElem hj, Option.getD_some]
      exact h4 _ (List.getElem_mem hj)
    have hprev := hword 0 (by omega)
    have hback := hword 7 (by omega)
    rw [aesExpand]
    have hnew : ∀ t : List Byte, t.length = 4 → (xorBytes ((rev[7]?).getD []) t).length = 4 := fun t ht => by
      rw [xorBytes, List.length_zipWith, hback, ht, Nat.min_self]
    have hrot : (List.map aesSub (((rev[0]?).getD []).drop 1 ++ ((rev[0]?).getD []).take 1)).length = 4 := by
      rw [List.length_map, List.length_append, List.length_drop, List.length_take, hprev]
      rfl
    have hstep : ∀ w, w.length = 4 →
        (aesExpand n (i + 1) (if i % 8 = 0 then aesX2 rc else rc) (w :: rev)).length = n + 1 + rev.length ∧
        ∀ v ∈ aesExpand n (i + 1) (if i % 8 = 0 then aesX2 rc else rc) (w :: rev), v.length = 4 := fun w hw => by
      obtain ⟨hlen, hall⟩ := ih (i + 1) (if i % 8 = 0 then aesX2 rc else rc) (w :: rev) (by rw [List.length_cons]; omega)
        (by simpa [hw] using h4)
      exact ⟨by rw [hlen, List.length_cons]; omega, hall⟩
    refine hstep _ (hnew _ ?_)
    split
    · split
      · next x l hl => rw [hl] at hrot; exact hrot
      · next hl => rw [hl] at hrot; exact hrot
    · split
      · rw [List.length_map, hprev]
      · exact hprev

/-- The last round key has 16 bytes. -/
theorem aesKeys_last_length {key : List Byte} (h : key.length = 32) : (((aesKeys key)[14]?).getD []).length = 16 := by
  obtain ⟨hlen, hall⟩ := aesExpand_spec 52 8 1 ((List.range 8).map fun i => (key.drop (4 * i)).take 4).reverse (by simp) fun w hw => by
    obtain ⟨i, hi, rfl⟩ := List.mem_map.1 (List.mem_reverse.1 hw)
    have := List.mem_range.1 hi
    rw [List.length_take, List.length_drop, h]
    omega
  generalize hws : aesExpand 52 8 1 ((List.range 8).map fun i => (key.drop (4 * i)).take 4).reverse = ws at hlen hall
  have hlast : ((aesKeys key)[14]?).getD [] = ((ws.drop 56).take 4).flatten := by
    rw [aesKeys, hws]
    rfl
  have hfour : ((ws.drop 56).take 4).map List.length = List.replicate 4 4 := by
    refine List.eq_replicate_iff.2 ⟨?_, fun n hn => ?_⟩
    · rw [List.length_map, List.length_take, List.length_drop, hlen]
      simp
    · obtain ⟨w, hw, rfl⟩ := List.mem_map.1 hn
      exact hall w (List.mem_of_mem_drop (List.mem_of_mem_take hw))
  rw [hlast, List.length_flatten, hfour]
  rfl

theorem aesBlock_length {key : List Byte} (h : key.length = 32) (blk : List Byte) : (aesBlock (aesKeys key) blk).length = 16 := by
  rw [aesBlock, xorBytes, List.length_zipWith, aesKeys_last_length h, aesShift, List.length_map, List.length_range, Nat.min_self]

/-! ### Counter mode is its own inverse -/

theorem xorBytes_cancel (a b : List Byte) (h : a.length ≤ b.length) : xorBytes (xorBytes a b) b = a := by
  induction a generalizing b with
  | nil => rfl
  | cons x a ih =>
    cases b with
    | nil => exact absurd h (by simp)
    | cons y b =>
      simp only [xorBytes, List.zipWith_cons_cons, BitVec.xor_assoc, BitVec.xor_self, BitVec.xor_zero] at ih ⊢
      rw [ih b (by simpa using h)]

section Counter
variable {keys : List (List Byte)} {iv : List Byte}

theorem gctr_length (hblock : ∀ ctr, (aesBlock keys (iv ++ beBytes ctr 4)).length = 16) (n ctr : Nat) (bs : List Byte)
    (h : bs.length ≤ 16 * n) : (gctr keys iv n ctr bs).length = bs.length := by
  induction n generalizing ctr bs with
  | zero =>
    have hnil : bs.length = 0 := by omega
    rw [gctr, hnil, List.length_nil]
  | succ n ih =>
    rw [gctr, List.length_append, ih _ _ (by rw [List.length_drop]; omega), xorBytes, List.length_zipWith, hblock, List.length_take,
      List.length_drop]
    omega

theorem gctr_gctr (hblock : ∀ ctr, (aesBlock keys (iv ++ beBytes ctr 4)).length = 16) (n ctr : Nat) (bs : List Byte)
    (h : bs.length ≤ 16 * n) : gctr keys iv n ctr (gctr keys iv n ctr bs) = bs := by
  induction n generalizing ctr bs with
  | zero => simpa [gctr] using h
  | succ n ih =>
    have hrest : (bs.drop 16).length ≤ 16 * n := by rw [List.length_drop]; omega
    have hhead : (xorBytes (bs.take 16) (aesBlock keys (iv ++ beBytes ctr 4))).length = min 16 bs.length := by
      rw [xorBytes, List.length_zipWith, hblock, List.length_take]
      omega
    have htail := gctr_length hblock n (ctr + 1) (bs.drop 16) hrest
    have hshort : bs.length < 16 → gctr keys iv n (ctr + 1) (bs.drop 16) = [] := fun hs => by
      rw [← List.length_eq_zero_iff, htail, List.length_drop]
      omega
    have hsplit : (xorBytes (bs.take 16) (aesBlock keys (iv ++ beBytes ctr 4)) ++ gctr keys iv n (ctr + 1) (bs.drop 16)).take 16 =
          xorBytes (bs.take 16) (aesBlock keys (iv ++ beBytes ctr 4)) ∧
        (xorBytes (bs.take 16) (aesBlock keys (iv ++ beBytes ctr 4)) ++ gctr keys iv n (ctr + 1) (bs.drop 16)).drop 16 =
          gctr keys iv n (ctr + 1) (bs.drop 16) := by
      rcases Nat.lt_or_ge bs.length 16 with hs | hs
      · rw [hshort hs, List.append_nil]
        exact ⟨List.take_of_length_le (by omega), List.drop_of_length_le (by omega)⟩
      · have h16 : (xorBytes (bs.take 16) (aesBlock keys (iv ++ beBytes ctr 4))).length = 16 := by omega
        exact ⟨List.take_left' h16, List.drop_left' h16⟩
    rw [gctr, gctr, hsplit.1, hsplit.2, ih _ _ hrest, xorBytes_cancel _ _ (by rw [hblock, List.length_take]; omega), List.take_append_drop]

end Counter

/-- What AES-GCM seals under a 32-byte key it opens under it. -/
theorem gcmOpen_gcmSeal {key iv aad p : List Byte} (hkey : key.length = 32) :
    gcmOpen key iv aad (gcmSeal key iv aad p).1 (gcmSeal key iv aad p).2 = some p := by
  have hlen : (gctr (aesKeys key) iv ((p.length + 15) / 16) 2 p).length = p.length :=
    gctr_length (fun _ => aesBlock_length hkey _) _ _ _ (by omega)
  rw [gcmSeal, gcmOpen, if_pos rfl, hlen, gctr_gctr (fun _ => aesBlock_length hkey _) _ _ _ (by omega)]

/-! ### The checks of `open` (R345) -/

section Checks
variable {s : State} {k : Nat} {cmd : CeCmd} {h bs : List Byte} {q : Bool} {ch : Channel}

/-- The fields of a record's header: its channel, counter and length. -/
def recChannel (h : List Byte) : Nat := ofBytes (h.take 4)
def recCounter (h : List Byte) : Nat := ofBytes ((h.drop 4).take 8)
def recLength (h : List Byte) : Nat := ofBytes ((h.drop 12).take 4)

/-- A record whose header stands as R345 gives it, on a channel of the context of the command that opens it. -/
structure State.opensRecord (s : State) (k : Nat) (cmd : CeCmd) (h : List Byte) (ch : Channel) : Prop where
  world : (s.ctx cmd.ctx).world = true
  pages : (s.ctx cmd.ctx).allState cmd.a 64 pgSealed = true
  header : s.readFor k cmd cmd.a 64 = .bytes h false
  named : recChannel h = cmd.c
  device : bit (recChannel h) 31 = false
  whole : recLength h % 64 = 0
  least : 64 ≤ recLength h
  most : recLength h ≤ 65536
  zeros : ∀ b ∈ h.drop 16, b = 0
  channel : (s.ctx cmd.ctx).channel (recChannel h) = some ch

theorem State.opensRecord.headerGood (hr : s.opensRecord k cmd h ch) :
    (false || ofBytes (h.take 4) != cmd.c || bit (ofBytes (h.take 4)) 31 || !recordLen (ofBytes ((h.drop 12).take 4)) ||
      (h.drop 16).any (· != 0)) = false := by
  have hlen : recordLen (recLength h) = true := by simp [recordLen, hr.whole, hr.least, hr.most]
  have hnone : (h.drop 16).any (· != 0) = false := List.any_eq_false.2 fun b hb => by simp [hr.zeros b hb]
  unfold recLength at hlen
  have hnamed := hr.named
  have hdevice := hr.device
  unfold recChannel at hnamed hdevice
  rw [hlen, hnone, hdevice, hnamed]
  simp

/-- Such a record is judged by the failures of its channel, then by its counter. -/
theorem checkOpen_of_failures (hr : s.opensRecord k cmd h ch) (hf : ch.failures = 16) : checkOpen s k cmd = .stop s .tagfail := by
  have hchannel := hr.channel
  unfold recChannel at hchannel
  simp only [checkOpen, hr.world, hr.pages, hr.header, hchannel, hr.headerGood, hf, Bool.not_true, Bool.or_self, Bool.false_eq_true,
    if_false, if_true]

theorem checkOpen_of_replay (hr : s.opensRecord k cmd h ch) (hf : ch.failures ≠ 16) (hctr : recCounter h ≠ ch.e) :
    checkOpen s k cmd = .stop s .replay := by
  have hchannel := hr.channel
  have hreplay : (decide (ofBytes ((h.drop 4).take 8) ≠ ch.e) || decide (2 ^ 64 - 1 ≤ ch.e)) = true := by
    rw [Bool.or_eq_true, decide_eq_true_eq]
    exact .inl hctr
  unfold recChannel at hchannel
  simp only [checkOpen, hr.world, hr.pages, hr.header, hchannel, hr.headerGood, hf, hreplay, Bool.not_true, Bool.or_self,
    Bool.false_eq_true, if_false, if_true]

/-- A record that is the next of its channel, with its ciphertext and its tag read. -/
structure State.nextRecord (s : State) (k : Nat) (cmd : CeCmd) (h bs : List Byte) (q : Bool) (ch : Channel) : Prop where
  failures : ch.failures ≠ 16
  counter : recCounter h = ch.e
  last : ch.e < 2 ^ 64 - 1
  room : cmd.a + 80 + recLength h ≤ 2 ^ 52
  read : s.readFor k cmd (cmd.a + 64) (recLength h + 16) = .bytes bs q

/-- Its counter and its end pass. -/
theorem State.nextRecord.counterGood (hn : s.nextRecord k cmd h bs q ch) :
    (decide (ofBytes ((h.drop 4).take 8) ≠ ch.e) || decide (2 ^ 64 - 1 ≤ ch.e)) = false ∧
    ¬ 2 ^ 52 < cmd.a + 80 + ofBytes ((h.drop 12).take 4) :=
  ⟨by rw [Bool.or_eq_false_iff, decide_eq_false_iff_not, decide_eq_false_iff_not]
      exact ⟨not_not_intro hn.counter, Nat.not_le.2 hn.last⟩, Nat.not_lt.2 hn.room⟩

section Next
variable (hr : s.opensRecord k cmd h ch) (hn : s.nextRecord k cmd h bs q ch)
include hr hn

theorem checkOpen_of_tagfail
    (hopen : gcmOpen (keyBytes ch.key) (recordIv (recChannel h) (recCounter h)) h (bs.take (recLength h)) (bs.drop (recLength h)) = none) :
    checkOpen s k cmd = .stop ((s.haveRead cmd cmd.a (80 + recLength h)).setCtx cmd.ctx
      (((s.haveRead cmd cmd.a (80 + recLength h)).ctx cmd.ctx).setChannel { ch with failures := ch.failures + 1 })) .tagfail := by
  have hchannel := hr.channel
  have hread := hn.read
  obtain ⟨hctr, hroom⟩ := hn.counterGood
  unfold recChannel recCounter recLength at *
  simp only [checkOpen, hr.world, hr.pages, hr.header, hchannel, hr.headerGood, hn.failures, hctr, hroom, hread, hopen, Bool.not_true,
    Bool.or_self, Bool.false_eq_true, if_false]

theorem checkOpen_of_good {p : List Byte}
    (hopen : gcmOpen (keyBytes ch.key) (recordIv (recChannel h) (recCounter h)) h (bs.take (recLength h)) (bs.drop (recLength h)) = some p)
    (hkey : (s.ctx cmd.ctx).underKey cmd.b (recLength h) = true)
    (hprobe : (s.haveRead cmd cmd.a (80 + recLength h)).probeWrite (engineOf k) cmd.ctx false cmd.b (recLength h) = none) :
    checkOpen s k cmd =
      .pass (s.haveRead cmd cmd.a (80 + recLength h)) p (s.badLines k cmd (cmd.a + 64) (recLength h)) := by
  have hchannel := hr.channel
  have hread := hn.read
  obtain ⟨hctr, hroom⟩ := hn.counterGood
  unfold recChannel recCounter recLength at *
  simp only [checkOpen, hr.world, hr.pages, hr.header, hchannel, hr.headerGood, hn.failures, hctr, hroom, hread, hopen, hkey, hprobe,
    Bool.not_true, Bool.or_self, Bool.false_eq_true, if_false]

end Next

end Checks

/-! ### The end of a sealed form (R373) -/

section Ends
variable {s t : State} {k : Nat} {cmd : CeCmd} {st : Status}

theorem State.endSealed_of_open_stop (hop : cmd.op = .openRec) (hout : cmd.out = none) (hcheck : checkOpen s k cmd = .stop t st) :
    s.endSealed k cmd = s.endCopy k cmd (.done t st false 0) := by
  simp [State.endSealed, hout, hop, hcheck]

theorem State.endSealed_of_seal_stop (hop : cmd.op = .sealRec) (hout : cmd.out = none) (hcheck : checkSeal s k cmd = .stop t st) :
    s.endSealed k cmd = s.endCopy k cmd (.done t st false 0) := by
  simp [State.endSealed, hout, hop, hcheck]

/-- A run that nothing stopped ends OK. -/
theorem RunSt.toRun_of_running {x : RunSt} (h : x.stopped = false) :
    x.toRun k cmd = .done x.s .ok x.p ((x.n + 7) / 8) := by
  simp only [RunSt.stopped, Bool.or_eq_false_iff] at h
  rw [RunSt.toRun, h.2, h.1]
  rfl

/-- A sealed form whose lines are all written moves its channel on. -/
theorem State.endSealed_of_written {bs : List Byte} {bad : List Bool} {ch : Channel} {x : RunSt} (hout : cmd.out = some (bs, bad))
    (hx : s.runLines k cmd bs bad (fun _ => true) = x) (hrun : x.stopped = false)
    (hch : (x.s.ctx cmd.ctx).channel (cmd.c % 2 ^ 32) = some ch) : s.endSealed k cmd = s.endCopy k cmd
      (.done (x.s.setCtx cmd.ctx ((x.s.ctx cmd.ctx).setChannel { ch with e := ch.e + 1 })) .ok x.p ((x.n + 7) / 8)) := by
  unfold State.endSealed
  rw [hout]
  dsimp only
  rw [hx, if_neg (by simp [hrun]), hch]
  exact congrArg (s.endCopy k cmd) (RunSt.toRun_of_running hrun)

end Ends

/-! ### The statement -/

/-- Settles O36: the checks of `open` in their order, the end of a sealed form by what its checks came to, and the involution of counter
mode. -/
theorem sealedRecords : Obligations.SealedRecords := by
  unfold Obligations.SealedRecords
  refine ⟨?_, fun s k cmd => ⟨fun hop hout t st => State.endSealed_of_open_stop hop hout,
    fun hop hout t st => State.endSealed_of_seal_stop hop hout, fun bs bad ch hout => State.endSealed_of_written hout rfl⟩,
    fun key iv aad p hkey _ => gcmOpen_gcmSeal hkey⟩
  intro s k cmd h bs q ch c chan ctr len read s1 bad plain hworld hpages hheader hnamed hdevice hwhole hleast hmost hzeros hchannel
  have hr : s.opensRecord k cmd h ch := ⟨hworld, hpages, hheader, hnamed, hdevice, hwhole, hleast, hmost, hzeros, hchannel⟩
  refine ⟨checkOpen_of_failures hr, checkOpen_of_replay hr, fun hf hctr hlast hroom hread => ?_⟩
  have hn : s.nextRecord k cmd h bs q ch := ⟨hf, hctr, hlast, hroom, hread⟩
  exact ⟨checkOpen_of_tagfail hr hn, fun p => checkOpen_of_good hr hn⟩

end Sys2Proof.Machine
end

section
/-! PROOFS. Copy-engine commands (R365, R368 to R371): when they begin and complete, how their status is posted, and the `cpg` within one
line. -/

namespace Sys2Proof.Machine

/-! ### Begin and completion (R365) -/

section Turns
variable {s : State} {k j : Nat} {cmd : CeCmd}

/-- A command stands in its queue, and no hold keeps the engines still. -/
structure State.engineHas (s : State) (k j : Nat) (cmd : CeCmd) : Prop where
  queued : (s.cluster k).ceq[j]? = some cmd
  running : s.power.kiln = .running

theorem exec_ceCommandBegin_of_early (h : s.engineHas k j cmd) (hno : ¬ (s.mayBegin k cmd = true ∧ s.engineTurn k cmd = true)) :
    exec (.ceCommandBegin k j) s = .next s := by
  show execCeCommandBegin k j s = _
  rw [execCeCommandBegin, h.queued]
  refine if_pos ?_
  rw [not_and_or, Bool.not_eq_true, Bool.not_eq_true] at hno
  rcases hno with hno | hno <;> simp [hno]

/-- A command whose turn has come is not held back. -/
theorem State.engineHas.goes (h : s.engineHas k j cmd) (hgo : s.mayBegin k cmd = true ∧ s.engineTurn k cmd = true) :
    (!s.mayBegin k cmd || !s.engineTurn k cmd || s.power.kiln != .running) = false := by
  rw [hgo.1, hgo.2, h.running]
  rfl

theorem exec_ceCommandBegin_of_copy (h : s.engineHas k j cmd) (hgo : s.mayBegin k cmd = true ∧ s.engineTurn k cmd = true)
    (hop : cmd.op ≠ .ckpt) : exec (.ceCommandBegin k j) s =
      let cmd1 := { cmd with begun := true, beganAt := s.tick }
      let s1 := s.setCe k cmd1
      .next ((runCopy (s1.setCluster k { s1.cluster k with rr := cmd.sid % 64 }) k cmd1 fun i =>
        Config.movedEarly (s.tick + i)).kept k cmd1).bump := by
  show execCeCommandBegin k j s = _
  rw [execCeCommandBegin, h.queued]
  exact (if_neg (by rw [h.goes hgo]; exact Bool.false_ne_true)).trans (if_neg (by simp [hop]))

theorem exec_ceCommandBegin_of_ckpt (h : s.engineHas k j cmd) (hgo : s.mayBegin k cmd = true ∧ s.engineTurn k cmd = true)
    (hop : cmd.op = .ckpt) : exec (.ceCommandBegin k j) s = .next (s.beginCkpt k cmd) := by
  show execCeCommandBegin k j s = _
  rw [execCeCommandBegin, h.queued]
  exact (if_neg (by rw [h.goes hgo]; exact Bool.false_ne_true)).trans (if_pos (by simp [hop]))

theorem exec_ceCommandComplete_of_early (h : s.engineHas k j cmd)
    (hno : ¬ (cmd.begun = true ∧ s.stands k cmd = false) ∨ s.sealedBefore cmd = true) : exec (.ceCommandComplete k j) s = .next s := by
  show execCeCommandComplete k j s = _
  rw [execCeCommandComplete, h.queued]
  refine if_pos ?_
  rw [not_and_or, Bool.not_eq_true, Bool.not_eq_false] at hno
  rcases hno with (hno | hno) | hno <;> simp [hno]

/-- What a command comes to that runs on, by its operation. -/
theorem exec_ceCommandComplete_of_begun (h : s.engineHas k j cmd) (hgo : cmd.begun = true ∧ s.stands k cmd = false)
    (hsealed : s.sealedBefore cmd = false) {t : State}
    (ht : (match cmd.op with
      | .sealRec | .openRec => s.endSealed k cmd
      | .meas => s.endMeas k cmd
      | .ckpt => s.endCkpt k cmd
      | _ => s.endCopy k cmd ((runCopy s k cmd fun _ => true).toRun k cmd)) = t) :
    exec (.ceCommandComplete k j) s = .next (t.settleClosing cmd.ctx) := by
  show execCeCommandComplete k j s = _
  rw [execCeCommandComplete, h.queued, ← ht]
  exact if_neg (by simp [hgo.1, hgo.2, h.running, hsealed])

/-- Only a sealed form waits for one of its channel that reached its engine earlier (R345). -/
theorem State.sealedBefore_of_plain (h : cmd.op ≠ .sealRec ∧ cmd.op ≠ .openRec) : s.sealedBefore cmd = false := by
  simp [State.sealedBefore, h.1, h.2]

theorem exec_ceCommandComplete_of_copy (h : s.engineHas k j cmd) (hgo : cmd.begun = true ∧ s.stands k cmd = false)
    (hop : cmd.op = .cp ∨ cmd.op = .cpg ∨ cmd.op = .cps ∨ cmd.op = .stage) : exec (.ceCommandComplete k j) s =
      .next ((s.endCopy k cmd ((runCopy s k cmd fun _ => true).toRun k cmd)).settleClosing cmd.ctx) := by
  refine exec_ceCommandComplete_of_begun h hgo (State.sealedBefore_of_plain ?_) ?_
  · rcases hop with hop | hop | hop | hop <;> simp [hop]
  · rcases hop with hop | hop | hop | hop <;> simp [hop]

theorem exec_ceCommandComplete_of_sealed (h : s.engineHas k j cmd) (hgo : cmd.begun = true ∧ s.stands k cmd = false)
    (hsealed : s.sealedBefore cmd = false) (hop : cmd.op = .sealRec ∨ cmd.op = .openRec) :
    exec (.ceCommandComplete k j) s = .next ((s.endSealed k cmd).settleClosing cmd.ctx) := by
  refine exec_ceCommandComplete_of_begun h hgo hsealed ?_
  rcases hop with hop | hop <;> simp [hop]

theorem exec_ceCommandComplete_of_meas (h : s.engineHas k j cmd) (hgo : cmd.begun = true ∧ s.stands k cmd = false)
    (hop : cmd.op = .meas) : exec (.ceCommandComplete k j) s = .next ((s.endMeas k cmd).settleClosing cmd.ctx) :=
  exec_ceCommandComplete_of_begun h hgo (State.sealedBefore_of_plain (by simp [hop])) (by simp [hop])

theorem exec_ceCommandComplete_of_ckpt (h : s.engineHas k j cmd) (hgo : cmd.begun = true ∧ s.stands k cmd = false)
    (hop : cmd.op = .ckpt) : exec (.ceCommandComplete k j) s = .next ((s.endCkpt k cmd).settleClosing cmd.ctx) :=
  exec_ceCommandComplete_of_begun h hgo (State.sealedBefore_of_plain (by simp [hop])) (by simp [hop])

end Turns

/-! ### The status (R369) -/

/-- Nothing but cores is changed. -/
def State.onlyCores (s t : State) : Prop := t = { s with cores := t.cores }

theorem State.onlyCores_refl (s : State) : s.onlyCores s := rfl

theorem State.onlyCores.trans {s t u : State} (h : s.onlyCores t) (h' : t.onlyCores u) : s.onlyCores u := by
  unfold State.onlyCores at *
  rw [h', h]

theorem State.zeroTile_onlyCores (s : State) (k : Nat) (t : Tile) : s.onlyCores (s.zeroTile k t) := by
  dsimp only [State.zeroTile]
  split
  · rfl
  · rfl

theorem State.zeroFreed_onlyCores (s : State) (k : Nat) (t : Tile) : s.onlyCores (s.zeroFreed k t) := by
  dsimp only [State.zeroFreed]
  split
  · exact s.onlyCores_refl
  · exact s.zeroTile_onlyCores k t

theorem State.onlyCores.cluster {s t : State} (h : s.onlyCores t) (n : Nat) : t.cluster n = s.cluster n := by rw [h]; rfl
theorem State.onlyCores.strand {s t : State} (h : s.onlyCores t) (n : Nat) : t.strand n = s.strand n := by rw [h]; rfl
theorem State.onlyCores.bankAt {s t : State} (h : s.onlyCores t) (g p : Nat) : t.bankAt g p = s.bankAt g p := by rw [h]; rfl

theorem State.onlyCores_zeroFreed (s : State) (k : Nat) (ts : List Tile) : s.onlyCores (ts.foldl (fun s t => s.zeroFreed k t) s) :=
  List.foldlRecOn (motive := s.onlyCores) ts _ s.onlyCores_refl fun u hu t _ => hu.trans (u.zeroFreed_onlyCores k t)

section Posting
variable {s : State} {grp place launch q tag status data : Nat} {qe : Bool}

/-- Posting a status leaves the engines' queues. -/
theorem State.postOrCount_cluster (k : Nat) : (s.postOrCount grp place launch qe q tag status data).cluster k = s.cluster k := by
  dsimp only [State.postOrCount, State.postTo]
  repeat' split
  all_goals rfl

/-- A status goes to the entry of its strand that awaits it. -/
theorem State.postOrCount_of_awaits {sid : Nat} (hbank : s.bankAt grp place = some sid) (hwait : (s.strand sid).awaits q tag = true) :
    s.postOrCount grp place launch true q tag status data = s.setStrand sid ((s.strand sid).posted q tag data) := by
  have hmember : s.memberAt grp place = some (s.strand sid) := by rw [State.memberAt, hbank]
  rw [State.postOrCount, hmember]
  dsimp only
  rw [if_pos (by rw [hwait]; rfl), State.postTo, hbank]

end Posting

/-- The entry that awaits a completion holds it afterwards. -/
theorem Strand.posted_arrives {x : Strand} {q tag data : Nat} (h : x.awaits q tag = true) :
    ∃ e ∈ ((x.posted q tag data).qGet q).entries, e.tag = tag ∧ e.arrived = true ∧ e.data = BitVec.ofNat 4096 data := by
  simp only [Strand.awaits, Bool.and_eq_true, List.any_eq_true, beq_iff_eq, Bool.not_eq_true'] at h
  obtain ⟨hkind, e, he, htag, harrived⟩ := h
  unfold Strand.posted Strand.setQ Strand.qGet
  rw [SMap.get_put_same]
  refine ⟨{ e with data := BitVec.ofNat 4096 data, arrived := true }, List.mem_map.2 ⟨e, he, ?_⟩, htag, rfl, rfl⟩
  exact if_pos (by simp [htag, harrived]; exact hkind)

/-- A completed command leaves its queue. -/
theorem State.finishCe_queue (s : State) (k : Nat) (cmd : CeCmd) (status data : Nat) :
    ((s.finishCe k cmd status data).cluster k).ceq = (s.cluster k).ceq.filter fun c => c.id != cmd.id := by
  have hcores : (s.setCluster k { s.cluster k with ceq := (s.cluster k).ceq.filter fun c => c.id != cmd.id }).onlyCores _ :=
    State.onlyCores_zeroFreed _ k (cmd.dst.toList ++ cmd.src.toList)
  rw [State.finishCe, State.postOrCount_cluster, hcores.cluster, State.cluster_setCluster_same]

/-- The status, poison and byte count of a command reach the entry that awaits them. -/
theorem State.finishCe_posts {s : State} {k sid status data : Nat} {cmd : CeCmd} (hqe : cmd.qe = true)
    (hbank : s.bankAt cmd.grp cmd.place = some sid) (hwait : (s.strand sid).awaits cmd.q cmd.tag = true) :
    ∃ e ∈ (((s.finishCe k cmd status data).strand sid).qGet cmd.q).entries,
      e.tag = cmd.tag ∧ e.arrived = true ∧ e.data = BitVec.ofNat 4096 data := by
  have hcores : (s.setCluster k { s.cluster k with ceq := (s.cluster k).ceq.filter fun c => c.id != cmd.id }).onlyCores _ :=
    State.onlyCores_zeroFreed _ k (cmd.dst.toList ++ cmd.src.toList)
  have hstrand := hcores.strand sid
  rw [State.finishCe, hqe, State.postOrCount_of_awaits ((hcores.bankAt ..).trans hbank) (by rw [hstrand]; exact hwait),
    State.strand_setStrand_same, hstrand]
  exact Strand.posted_arrives hwait

/-- A run that is done ends its command with the status, the poison and the byte count of the run (R369). -/
def runData (st : Status) (p : Bool) (n : Nat) : Nat := st.code + 2 ^ 8 * ofBit p + 2 ^ 32 * min n (2 ^ 32 - 1)

theorem State.endCopy_done (s t : State) (k : Nat) (cmd : CeCmd) (st : Status) (p : Bool) (n : Nat) :
    s.endCopy k cmd (.done t st p n) = t.finishCe k cmd st.code (runData st p n) := rfl

/-! ### A `cpg` within one line (R371) -/

section OneLine
variable {s : State} {k : Nat} {cmd : CeCmd} {bs : List Byte} {p : Bool}

/-- The one run of a `cpg` whose destination lies in one line. -/
def CeCmd.wholeRun (cmd : CeCmd) : Seg := { dst := 8 * cmd.a, src := 8 * cmd.b, len := 8 * cmd.c, span := 8 * cmd.c }

/-- A copy whose destination lies in one line, and which is not seen to overlap. -/
structure CeCmd.oneLine (cmd : CeCmd) : Prop where
  op : cmd.op = .cpg
  some : 0 < cmd.c
  fits : cmd.a % 64 + cmd.c ≤ 64
  apart : ¬ (cmd.b < cmd.a ∧ cmd.a < cmd.b + cmd.c)

theorem cpgLines_of_oneLine (h : cmd.oneLine) : cpgLines cmd = [(cmd.a / 64, [cmd.wholeRun])] := by
  have hsome := h.some
  have hfits := h.fits
  have hcut : cmd.wholeRun.cut = [cmd.wholeRun] := by
    have hone : (8 * cmd.a + 8 * cmd.c + 511) / 512 - 8 * cmd.a / 512 = 1 := by omega
    have hlo : max (8 * cmd.a) (512 * (8 * cmd.a / 512)) = 8 * cmd.a := by omega
    have hlen : min (8 * cmd.a + 8 * cmd.c) (512 * (8 * cmd.a / 512) + 512) - 8 * cmd.a = 8 * cmd.c := by omega
    simp only [Seg.cut, CeCmd.wholeRun, hone, List.range_one, List.map_cons, List.map_nil, Nat.add_zero, hlo, hlen, Nat.sub_self]
  have hline : cmd.wholeRun.dst / 512 = cmd.a / 64 := by
    show 8 * cmd.a / 512 = cmd.a / 64
    omega
  rw [cpgLines, if_neg (by omega)]
  show lineUnits [cmd.wholeRun] = _
  rw [lineUnits]
  simp [hcut, hline, List.eraseDups_cons]

/-- A run of one line, none of which has moved. -/
theorem RunSt.lines_singleton {x : RunSt} {sel : Nat → Bool} {move : RunSt → Nat × List Seg → RunSt} {u : Nat × List Seg}
    (hgo : x.stopped = false) (hmoved : x.moved = []) (hsel : sel 0 = true) :
    x.lines sel move [u] = if (move x u).stopped then move x u else { move x u with moved := 0 :: (move x u).moved } := by
  simp [RunSt.lines, hgo, hmoved, hsel]

theorem RunSt.gather_singleton (x : RunSt) (get : RunSt → Nat → Nat → RunSt × Nat × Bool) {g : Seg} (h : g.tie = none) :
    x.gather get [g] = ((get x g.src g.len).1, [(g, (get x g.src g.len).2.1)], (get x g.src g.len).2.2) := by
  simp [RunSt.gather, h]

theorem ofBytes_lt (bs : List Byte) : ofBytes bs < 2 ^ (8 * bs.length) := by
  have h := ofElems_lt 8 (bs.map BitVec.toNat)
  rwa [List.length_map] at h

/-- Byte `i` of the word that some bytes make. -/
theorem ofNat_ofBytes_div {bs : List Byte} {i : Nat} (h : i < bs.length) : BitVec.ofNat 8 (ofBytes bs / 2 ^ (8 * i)) = bs[i] := by
  have he := elem_ofElems 8 (l := bs.map BitVec.toNat) (i := i) (by simpa using h)
  rw [elem] at he
  refine BitVec.eq_of_toNat_eq ?_
  rw [BitVec.toNat_ofNat]
  refine he.trans ?_
  rw [List.getElem_map]
  exact Nat.mod_eq_of_lt (bs[i]).isLt

/-- The line that a `cpg` within it writes: its bytes in their place, and gaps. -/
theorem lineBytes_of_oneLine (h : cmd.oneLine) (hlen : bs.length = cmd.c) :
    lineBytes (cmd.a / 64) [(cmd.wholeRun, ofBytes bs)] =
      List.replicate (cmd.a % 64) none ++ bs.map some ++ List.replicate (64 - cmd.a % 64 - cmd.c) none := by
  have hfits := h.fits
  refine List.ext_getElem (by simp [lineBytes]; omega) fun i hi _ => ?_
  rw [lineBytes, List.length_map, List.length_range] at hi
  have hfind : [(cmd.wholeRun, ofBytes bs)].find? (fun e => decide (e.1.dst ≤ 512 * (cmd.a / 64) + 8 * i) &&
      decide (512 * (cmd.a / 64) + 8 * i < e.1.dst + e.1.len)) =
      if cmd.a % 64 ≤ i ∧ i < cmd.a % 64 + cmd.c then some (cmd.wholeRun, ofBytes bs) else none := by
    have hbounds : (8 * cmd.a ≤ 512 * (cmd.a / 64) + 8 * i ∧ 512 * (cmd.a / 64) + 8 * i < 8 * cmd.a + 8 * cmd.c) ↔
        (cmd.a % 64 ≤ i ∧ i < cmd.a % 64 + cmd.c) := by omega
    simp only [List.find?_singleton, CeCmd.wholeRun, ← Bool.decide_and, decide_eq_true_eq, hbounds]
  simp only [lineBytes, List.getElem_map, List.getElem_range, hfind]
  rcases Nat.lt_or_ge i (cmd.a % 64) with hlow | hlow
  · rw [if_neg (by omega), List.getElem_append_left (by simp; omega), List.getElem_append_left (by simpa using hlow), List.getElem_replicate]
    rfl
  · rcases Nat.lt_or_ge i (cmd.a % 64 + cmd.c) with hin | hpast
    · rw [if_pos ⟨hlow, hin⟩, List.getElem_append_left (by simp; omega), List.getElem_append_right (by simpa using hlow)]
      have hat : 512 * (cmd.a / 64) + 8 * i - cmd.wholeRun.dst = 8 * (i - cmd.a % 64) := by
        show 512 * (cmd.a / 64) + 8 * i - 8 * cmd.a = _
        omega
      rw [Option.map_some, hat, List.getElem_map]
      simp only [List.length_replicate]
      rw [ofNat_ofBytes_div (by omega)]
    · rw [if_neg (by omega), List.getElem_append_right (by simp; omega), List.getElem_replicate]
      rfl

/-- What a `cpg` that has moved nothing starts from. -/
structure CeCmd.fresh (cmd : CeCmd) : Prop where
  moved : cmd.moved = []
  poison : cmd.p = false
  count : cmd.n = 0

/-- The state once the source of a copy was read. -/
def State.sourceRead (s : State) (cmd : CeCmd) : State :=
  (s.cmdTouches cmd cmd.b cmd.c false).openRange cmd.ctx (s.cmdBound cmd) cmd.b cmd.c

/-- The bits of a source that was read. -/
theorem RunSt.memBits_of_bytes {x : RunSt} (hgo : x.stopped = false)
    (hread : x.s.readRange (x.s.cmdReader k cmd) cmd.ctx false (x.s.cmdBound cmd) cmd.b cmd.c (lid := some cmd.launch) = .bytes bs p)
    (hlen : bs.length = cmd.c) :
    x.memBits k cmd (8 * cmd.b) (8 * cmd.c) = ({ x with s := x.s.sourceRead cmd }, ofBytes bs, p) := by
  have hn : (8 * cmd.b + 8 * cmd.c + 7) / 8 - 8 * cmd.b / 8 = cmd.c := by omega
  have hb : 8 * cmd.b / 8 = cmd.b := by omega
  have hbit : 8 * cmd.b % 8 = 0 := by omega
  have hlt : ofBytes bs < 2 ^ (8 * cmd.c) := hlen ▸ ofBytes_lt bs
  rw [RunSt.memBits, hn, hb, hbit, RunSt.read, if_neg (by simp [hgo]), hread]
  dsimp only
  rw [pow_zero, Nat.div_one, Nat.mod_eq_of_lt hlt]
  rfl

/-- A copy within one line reads its source and writes its line. -/
theorem runCpg_of_oneLine {x : RunSt} (h : cmd.oneLine) (hgo : x.stopped = false) (hmoved : x.moved = [])
    (hread : x.s.readRange (x.s.cmdReader k cmd) cmd.ctx false (x.s.cmdBound cmd) cmd.b cmd.c (lid := some cmd.launch) = .bytes bs p)
    (hlen : bs.length = cmd.c) {y : RunSt}
    (hy : RunSt.putMem { x with s := x.s.sourceRead cmd } k cmd (cmd.a / 64) [(cmd.wholeRun, ofBytes bs)] p = y) :
    runCpg x k cmd (fun _ => true) = if y.stopped then y else { y with moved := 0 :: y.moved } := by
  have hbits : x.memBits k cmd cmd.wholeRun.src cmd.wholeRun.len = ({ x with s := x.s.sourceRead cmd }, ofBytes bs, p) :=
    RunSt.memBits_of_bytes hgo hread hlen
  have hapart : overlapBits x.s cmd cmd.wholeRun.src cmd.wholeRun.len (ofBytes bs) = ofBytes bs := if_neg h.apart
  have hgo' : RunSt.stopped { x with s := x.s.sourceRead cmd } = false := hgo
  rw [runCpg, cpgLines_of_oneLine h, RunSt.lines_singleton hgo hmoved (by simp)]
  dsimp only
  rw [RunSt.gather_singleton _ _ rfl]
  simp only [hbits, hapart, hgo', Bool.false_eq_true, if_false, hy]

/-- The destination of the run in bytes. -/
theorem CeCmd.wholeRun_bytes (cmd : CeCmd) : cmd.wholeRun.dst / 8 = cmd.a ∧ cmd.wholeRun.len / 8 = cmd.c :=
  ⟨Nat.mul_div_cancel_left cmd.a (by decide), Nat.mul_div_cancel_left cmd.c (by decide)⟩

section Writing
variable {x : RunSt} (hpeer : x.s.peerRefuses cmd.ctx cmd.a cmd.c = none)
include hpeer

theorem RunSt.putMem_of_open (h : cmd.oneLine) (hlen : bs.length = cmd.c) (hprobe : x.s.probeWrite (engineOf k) cmd.ctx false cmd.a cmd.c = none) :
    x.putMem k cmd (cmd.a / 64) [(cmd.wholeRun, ofBytes bs)] p =
      { x with
        s := (x.s.writeSome (x.s.cmdAgent cmd) cmd.level cmd.ctx (cmd.a / 64 * 64)
          (List.replicate (cmd.a % 64) none ++ bs.map some ++ List.replicate (64 - cmd.a % 64 - cmd.c) none) p
          (!p && decide (64 ≤ cmd.c)) cmd.tag_).cmdTouches cmd (cmd.a / 64 * 64) 64 true,
        p := x.p || p, n := x.n + 8 * cmd.c } := by
  obtain ⟨hdst, hsize⟩ := cmd.wholeRun_bytes
  have hspan : decide (512 ≤ lineSpan [(cmd.wholeRun, ofBytes bs)]) = decide (64 ≤ cmd.c) := by
    refine decide_eq_decide.2 ?_
    show 512 ≤ 8 * cmd.c + 0 ↔ _
    omega
  rw [RunSt.putMem]
  simp only [List.findSome?_cons, List.findSome?_nil, hdst, hsize, hpeer, hprobe, hspan, lineBytes_of_oneLine h hlen,
    Nat.mul_comm 64 (cmd.a / 64)]
  rfl

theorem RunSt.putMem_of_denied {va : Nat} {v : Nat} (hprobe : x.s.probeWrite (engineOf k) cmd.ctx false cmd.a cmd.c = some (true, va)) :
    x.putMem k cmd (cmd.a / 64) [(cmd.wholeRun, v)] p = { x with s := x.s.deniedFor cmd va true, denied := true } := by
  obtain ⟨hdst, hsize⟩ := cmd.wholeRun_bytes
  rw [RunSt.putMem]
  simp only [List.findSome?_cons, List.findSome?_nil, hdst, hsize, hpeer, hprobe]

end Writing

end OneLine

/-! ### The statement -/

/-- Settles O35: a turn by whether the command may begin or has, a completion by whether an entry awaits it, the `cpg` by its one line. -/
theorem engineEvents : Obligations.EngineEvents := by
  unfold Obligations.EngineEvents
  refine ⟨?_, ?_⟩
  · intro s k j cmd hqueued hrunning cmd1 s1 s2 copy ends begins goes
    have h : s.engineHas k j cmd := ⟨hqueued, hrunning⟩
    refine ⟨exec_ceCommandBegin_of_early h, exec_ceCommandBegin_of_copy h, exec_ceCommandBegin_of_ckpt h,
      exec_ceCommandComplete_of_early h, exec_ceCommandComplete_of_copy h, exec_ceCommandComplete_of_sealed h,
      exec_ceCommandComplete_of_meas h, exec_ceCommandComplete_of_ckpt h,
      fun t st p n sid => ?_⟩
    rw [State.endCopy_done]
    exact ⟨t.finishCe_queue k cmd st.code (runData st p n), State.finishCe_posts (status := st.code) (data := runData st p n)⟩
  · intro s k cmd bs p hop hpos hfits hmoved hpoison hcount hapart hread hlen x s1 line gap data hpeer
    have h : cmd.oneLine := ⟨hop, hpos, hfits, hapart⟩
    have hx : x = runCpg { s := s, p := cmd.p, n := cmd.n, moved := cmd.moved } k cmd fun _ => true := by
      show runCopy s k cmd _ = _
      rw [runCopy, hop]
    rw [hpoison, hcount, hmoved] at hx
    refine ⟨fun hprobe => ?_, fun va hprobe => ?_⟩
    · have hput := RunSt.putMem_of_open (k := k) (p := p) (x := { s := s.sourceRead cmd }) hpeer h hlen hprobe
      rw [hx, runCpg_of_oneLine (x := { s := s }) h rfl rfl hread hlen hput]
      exact ⟨rfl, Nat.zero_add _, Bool.false_or p, rfl⟩
    · have hput := RunSt.putMem_of_denied (k := k) (p := p) (x := { s := s.sourceRead cmd }) (v := ofBytes bs) hpeer hprobe
      rw [hx, runCpg_of_oneLine (x := { s := s }) h rfl rfl hread hlen hput]
      exact ⟨rfl, rfl, rfl⟩

end Sys2Proof.Machine
end

section
/-! PROOFS. The forms of the copy engines (R365 to R367, R371 to R373) and the hints (R456, R457). -/

namespace Sys2Proof.Machine

/-! ### A command joins its queue (R365, R367) -/

section Joining
variable {s : State} {op : CeOp} {a b c : Nat} {arg : CeArg}

/-- The state in which a form has taken its stream-register entry, where it names one, and the tag of the entry. -/
def State.withEntry (s : State) (arg : CeArg) : State × Nat :=
  if arg.qe then s.newEntry arg.q 0 [] (if arg.rel then some s.me.seq else none) else (s, 0)

/-- The command of a form, from the strand that issues it. -/
def State.ceCommand (s : State) (op : CeOp) (a b c : Nat) (arg : CeArg) (tag : Nat) (tiles : Option Tile × Option Tile) : CeCmd :=
  { id := s.myCluster.ceId, sid := s.cur, grp := s.me.grp, place := s.placeOf s.cur, launch := s.me.launch, ctx := s.me.ctx,
    seq := s.me.seq, op := op, a := a, b := b, c := c, sc := arg.sc, acq := arg.acq, rel := arg.rel, q := arg.q,
    tag := tag, qe := arg.qe, dst := tiles.1, src := tiles.2, word := s.ceWord }

/-- The state in which a form's command stands in the queue of its cluster. -/
def State.ceQueued (s : State) (op : CeOp) (a b c : Nat) (arg : CeArg) : State :=
  let e := s.withEntry arg
  let cl := s.myCluster
  e.1.setMyCluster { cl with
    ceq := cl.ceq ++ [s.ceCommand op a b c arg e.2 (tilesOf cl.tiles op a b)], ceId := cl.ceId + 1 }

/-- An entry leaves what a command takes from its strand. -/
theorem State.newEntry_me (s : State) (n addr : Nat) (refetch : List Part) (eng : Option Nat) :
    (s.newEntry n addr refetch eng).1.me = { s.me with
      q := (s.newEntry n addr refetch eng).1.me.q, tagNext := (s.newEntry n addr refetch eng).1.me.tagNext } := by
  rw [State.newEntry]
  dsimp only
  rw [State.me_setMe]
  rfl

theorem State.withEntry_me (s : State) (arg : CeArg) :
    (s.withEntry arg).1.me = { s.me with q := (s.withEntry arg).1.me.q, tagNext := (s.withEntry arg).1.me.tagNext } := by
  unfold State.withEntry
  split
  · exact s.newEntry_me ..
  · rfl

theorem State.withEntry_frame (s : State) (arg : CeArg) : (s.withEntry arg).1.cur = s.cur ∧ (s.withEntry arg).1.iss = s.iss ∧
    (s.withEntry arg).1.clusters = s.clusters ∧ (s.withEntry arg).1.cmd = s.cmd := by
  unfold State.withEntry
  split <;> exact ⟨rfl, rfl, rfl, rfl⟩

theorem State.queueCe_of_full (hentry : arg.qe = true → qRoom s arg.q = none) (hfull : 8 ≤ (s.commandsOf s.cur).length) :
    s.queueCe op a b c arg = .stall .engineQueue := by
  have hroom : (if arg.qe then qRoom s arg.q else none) = none := by simpa using hentry
  rw [State.queueCe, hroom, if_pos hfull]
  rfl

/-- The entry changes neither the strand's cluster nor what its command takes. -/
theorem State.withEntry_myCluster (s : State) (arg : CeArg) : (s.withEntry arg).1.myCluster = s.myCluster := by
  obtain ⟨hcur, -, hclusters, -⟩ := s.withEntry_frame arg
  rw [State.myCluster, State.cluster, hclusters, hcur]
  rfl

theorem State.withEntry_ceCommand (s : State) (op : CeOp) (a b c : Nat) (arg : CeArg) (tag : Nat) (tiles : Option Tile × Option Tile) :
    (s.withEntry arg).1.ceCommand op a b c arg tag tiles = s.ceCommand op a b c arg tag tiles := by
  obtain ⟨hcur, hiss, -, hcmd⟩ := s.withEntry_frame arg
  have hme := s.withEntry_me arg
  have hgrp : ((s.withEntry arg).1.strand s.cur).grp = (s.strand s.cur).grp := by
    have := congrArg Strand.grp hme
    rwa [State.me, hcur] at this
  have hplace : (s.withEntry arg).1.placeOf s.cur = s.placeOf s.cur := by
    rw [State.placeOf, State.group, hcmd, hgrp]
    rfl
  have hword : (s.withEntry arg).1.ceWord = s.ceWord := by
    rw [State.ceWord, hiss]
    rfl
  rw [State.ceCommand, s.withEntry_myCluster, hcur, hplace, hword, hme]
  rfl

theorem State.queueCe_of_room (hentry : arg.qe = true → qRoom s arg.q = none) (hmine : (s.commandsOf s.cur).length < 8) :
    s.queueCe op a b c arg = .ok (s.ceQueued op a b c arg) := by
  have hroom : (if arg.qe then qRoom s arg.q else none) = none := by simpa using hentry
  rw [State.queueCe, hroom, if_neg (by omega), State.ceQueued, ← s.withEntry_ceCommand, ← s.withEntry_myCluster arg]
  rfl

end Joining

/-! ### The forms (R371 to R373, R336, R453) -/

section Forms
variable {s : State} {c : CeArg}

/-- A form that comes down to its command joins the queue, or waits while its strand has eight. -/
theorem exec_of_queueCe {i : Instr} {op : CeOp} {a b v : Nat} {arg : CeArg} (h : exec i s = finish s (s.queueCe op a b v arg))
    (hentry : arg.qe = true → qRoom s arg.q = none) :
    ((s.commandsOf s.cur).length < 8 → exec i s = .next (s.ceQueued op a b v arg)) ∧
    (8 ≤ (s.commandsOf s.cur).length → exec i s = .next (s.endStall .engineQueue)) :=
  ⟨fun hmine => by rw [h, State.queueCe_of_room hentry hmine, finish_ok], fun hfull => by rw [h, State.queueCe_of_full hentry hfull]; rfl⟩

theorem limitRes_false : limitRes false = none := rfl

/-- A block of 1 to 4096 rows and columns is within the limits of its form (R371). -/
theorem shape_good {r n : Nat} (h : 1 ≤ r ∧ r ≤ 4096 ∧ 1 ≤ n ∧ n ≤ 4096) :
    (decide (r = 0) || decide (4096 < r) || decide (n = 0) || decide (4096 < n)) = false := by
  obtain ⟨hr, hr', hn, hn'⟩ := h
  simp only [Bool.or_eq_false_iff, decide_eq_false_iff_not]
  omega

theorem exec_cp_eq {d t : Tile} (hform : formOk s (.cp c) = true)
    (hd : refCheck s (s.me.xGet c.a) (field (s.me.xGet c.c) 0 13) (field (s.me.xGet c.c) 13 13) Tile.inScratch = .ok d)
    (ht : refCheck s (s.me.xGet c.b) (field (s.me.xGet c.c) 0 13) (field (s.me.xGet c.c) 13 13) (fun t => t.inScratch &&
      t.ety.width == d.ety.width && (if t.ety.isMx || d.ety.isMx then t.ety == d.ety else true)) = .ok t)
    (hshape : 1 ≤ field (s.me.xGet c.c) 0 13 ∧ field (s.me.xGet c.c) 0 13 ≤ 4096 ∧ 1 ≤ field (s.me.xGet c.c) 13 13 ∧
      field (s.me.xGet c.c) 13 13 ≤ 4096) (hv : s.me.xGet c.c < 2 ^ 26) :
    exec (.cp c) s = finish s (s.queueCe .cp (s.me.xGet c.a) (s.me.xGet c.b) (s.me.xGet c.c) c) := by
  show execCp c s = _
  have hlimit : decide (2 ^ 26 ≤ s.me.xGet c.c) = false := decide_eq_false (Nat.not_le.2 hv)
  rw [execCp, slotOp_ok hform]
  simp only [hd, ht, shape_good hshape, hlimit, Bool.or_self, limitRes_false, firstStop_none, firstStop_nil]

theorem exec_cpg_eq (hform : formOk s (.cpg c) = true) (hv : s.me.xGet c.c < 2 ^ 32)
    (ha : rangeCheck (s.me.xGet c.a) (s.me.xGet c.c) 1 = none) (hb : rangeCheck (s.me.xGet c.b) (s.me.xGet c.c) 1 = none) :
    exec (.cpg c) s = finish s (s.queueCe .cpg (s.me.xGet c.a) (s.me.xGet c.b) (s.me.xGet c.c) c) := by
  show execCpg c s = _
  have hlimit : decide (2 ^ 32 ≤ s.me.xGet c.c) = false := decide_eq_false (Nat.not_le.2 hv)
  rw [execCpg, slotOp_ok hform]
  simp only [ha, hb, hlimit, limitRes_false, firstStop_none, firstStop_nil]

theorem exec_cps_eq {t : Tile} (hform : formOk s (.cps c) = true)
    (ht : refCheck s (s.me.xGet c.a) (field (s.me.xGet c.c) 0 13) (field (s.me.xGet c.c) 13 13) Tile.inScratch = .ok t)
    (hshape : 1 ≤ field (s.me.xGet c.c) 0 13 ∧ field (s.me.xGet c.c) 0 13 ≤ 4096 ∧ 1 ≤ field (s.me.xGet c.c) 13 13 ∧
      field (s.me.xGet c.c) 13 13 ≤ 4096) (hpad : field (s.me.xGet c.c) 27 5 = 0) (hwhole : field (s.me.xGet c.c) 13 13 * t.ety.width % 8 = 0)
    (hrow : cpsRow t (field (s.me.xGet c.c) 13 13) ≤ field (s.me.xGet c.c) 32 32)
    (hpitch : field (s.me.xGet c.c) 32 32 % max 1 (t.ety.width / 8) = 0)
    (hb : rangeCheck (s.me.xGet c.b) ((field (s.me.xGet c.c) 0 13 - 1) * field (s.me.xGet c.c) 32 32 +
      cpsRow t (field (s.me.xGet c.c) 13 13)) (max 1 (t.ety.width / 8)) = none) :
    exec (.cps c) s = finish s (s.queueCe .cps (s.me.xGet c.a) (s.me.xGet c.b) (s.me.xGet c.c) c) := by
  show execCps c s = _
  have hlimit : decide (field (s.me.xGet c.c) 32 32 < cpsRow t (field (s.me.xGet c.c) 13 13)) = false := decide_eq_false (Nat.not_lt.2 hrow)
  rw [execCps, slotOp_ok hform]
  simp only [ht, shape_good hshape, hpad, hwhole, hlimit, hpitch, hb, bne_self_eq_false, Bool.or_self, limitRes_false, firstStop_none,
    firstStop_nil]

theorem exec_stage_eq {t : Tile} (hform : formOk s (.stage c) = true)
    (ht : refCheck s (s.me.xGet c.a) (field (s.me.xGet c.c) 0 13) 0 (fun t => t.level == .bstack && refCol (s.me.xGet c.a) == 0) = .ok t)
    (hv : s.me.xGet c.c < 2 ^ 14) (hmx : t.ety.isMx = true →
      bit (s.me.xGet c.c) 13 = false ∧ field (s.me.xGet c.c) 0 13 % 32 = 0 ∧ refRow (s.me.xGet c.a) % 32 = 0)
    (hb : rangeCheck (s.me.xGet c.b) (stageBytes t (bit (s.me.xGet c.c) 13) (field (s.me.xGet c.c) 0 13)) 1 = none) :
    exec (.stage c) s = finish s (s.queueCe .stage (s.me.xGet c.a) (s.me.xGet c.b) (s.me.xGet c.c) c) := by
  show execStage c s = _
  have hlimit : decide (2 ^ 14 ≤ s.me.xGet c.c) = false := decide_eq_false (Nat.not_le.2 hv)
  have hscales : (t.ety.isMx && (bit (s.me.xGet c.c) 13 || field (s.me.xGet c.c) 0 13 % 32 != 0 || refRow (s.me.xGet c.a) % 32 != 0)) =
      false := by
    cases htype : t.ety.isMx with
    | false => rfl
    | true =>
      obtain ⟨hsf, hr, hrow⟩ := hmx htype
      rw [hsf, hr, hrow]
      rfl
  rw [execStage, slotOp_ok hform]
  simp only [ht, hlimit, hscales, hb, Bool.or_self, limitRes_false, firstStop_none, firstStop_nil]

theorem exec_sealRec_eq (hform : formOk s (.sealRec c) = true) (hv : s.me.xGet c.c < 2 ^ 49)
    (ha : rangeCheck (s.me.xGet c.a) (80 + field (s.me.xGet c.c) 32 17) 64 = none)
    (hb : rangeCheck (s.me.xGet c.b) (max (field (s.me.xGet c.c) 32 17) 1) 64 = none) :
    exec (.sealRec c) s = finish s (s.queueCe .sealRec (s.me.xGet c.a) (s.me.xGet c.b) (s.me.xGet c.c) c) := by
  show execSealRec c s = _
  have hlimit : decide (2 ^ 49 ≤ s.me.xGet c.c) = false := decide_eq_false (Nat.not_le.2 hv)
  rw [execSealRec, slotOp_ok hform]
  simp only [ha, hb, hlimit, limitRes_false, firstStop_none, firstStop_nil]

theorem exec_openRec_eq (hform : formOk s (.openRec c) = true) (hv : s.me.xGet c.c < 2 ^ 32)
    (ha : rangeCheck (s.me.xGet c.a) 64 64 = none) (hb : rangeCheck (s.me.xGet c.b) 1 64 = none) :
    exec (.openRec c) s = finish s (s.queueCe .openRec (s.me.xGet c.a) (s.me.xGet c.b) (s.me.xGet c.c) c) := by
  show execOpenRec c s = _
  have hlimit : decide (2 ^ 32 ≤ s.me.xGet c.c) = false := decide_eq_false (Nat.not_le.2 hv)
  rw [execOpenRec, slotOp_ok hform]
  simp only [ha, hb, hlimit, limitRes_false, firstStop_none, firstStop_nil]

section Plain
variable {ra rb rq : Nat} {qe : Bool} (ha : rangeCheck (s.me.xGet ra) 1 64 = none) (hentry : qe = true → qRoom s rq = none)
include ha hentry

theorem exec_meas_eq (hform : formOk s (.meas ra rb rq qe) = true) :
    exec (.meas ra rb rq qe) s = finish s (s.queueCe .meas (s.me.xGet ra) (s.me.xGet rb % 2 ^ 32) 0 (plainArg rq qe)) := by
  show execMeas ra rb rq qe s = _
  have hroom : (if qe then qRoom s rq else none) = none := by simpa using hentry
  rw [execMeas, slotOp_ok hform]
  simp only [hroom, ha, firstStop_none, firstStop_nil]

theorem exec_ckpt_eq (hform : formOk s (.ckpt ra rq qe) = true) :
    exec (.ckpt ra rq qe) s = finish s (s.queueCe .ckpt (s.me.xGet ra) 0 s.nextArrival (plainArg rq qe)) := by
  show execCkpt ra rq qe s = _
  have hroom : (if qe then qRoom s rq else none) = none := by simpa using hentry
  rw [execCkpt, slotOp_ok hform]
  simp only [hroom, ha, firstStop_none, firstStop_nil]

end Plain

end Forms

/-! ### What hints change (R456) -/

theorem SMap.length_insert_le {α : Type} (m : SMap α) (k : Nat) (v : α) : (SMap.insert m k v).length ≤ m.length + 1 := by
  induction m with
  | nil => simp [SMap.insert]
  | cons e m ih =>
    obtain ⟨a, w⟩ := e
    rw [SMap.insert]
    split
    · simp
    · split
      · simp
      · simpa using ih

theorem length_insertNat_le (l : List Nat) (n : Nat) : (insertNat l n).length ≤ l.length + 1 := by
  induction l with
  | nil => simp [insertNat]
  | cons m l ih =>
    rw [insertNat]
    split
    · simp
    · split
      · simp
      · simpa using ih

/-- What a hint leaves as it was while it goes through the lines of its page. -/
structure State.hintFrame (s t : State) : Prop where
  strands : t.strands = s.strands
  dies : t.dies = s.dies
  clusters : t.clusters = s.clusters
  boot : t.boot = s.boot
  mem : t.mem = { s.mem with cache := t.mem.cache }

theorem State.hintFrame_refl (s : State) : s.hintFrame s := ⟨rfl, rfl, rfl, rfl, rfl⟩

theorem State.hintFrame.trans {s t u : State} (h : s.hintFrame t) (h' : t.hintFrame u) : s.hintFrame u :=
  ⟨h'.strands.trans h.strands, h'.dies.trans h.dies, h'.clusters.trans h.clusters, h'.boot.trans h.boot, by rw [h'.mem, h.mem]⟩

/-- Only the table of groups is changed where a group leaves the scratchpad. -/
theorem State.leavesFor_eq (s : State) (gid pa : Nat) : s.leavesFor gid pa = { s with cmd := (s.leavesFor gid pa).cmd } := by
  unfold State.leavesFor
  repeat' split
  all_goals rfl

theorem State.leavesFor_mem (s : State) (gid pa : Nat) : (s.leavesFor gid pa).mem = s.mem := by rw [State.leavesFor_eq]
theorem State.leavesFor_ctxs (s : State) (gid pa : Nat) : (s.leavesFor gid pa).ctxs = s.ctxs := by rw [State.leavesFor_eq]

theorem State.leavesFor_hintFrame (s : State) (gid pa : Nat) : s.hintFrame (s.leavesFor gid pa) := by
  rw [State.leavesFor_eq]
  exact ⟨rfl, rfl, rfl, rfl, rfl⟩

theorem Mem.prefetch_frame (m : Mem) (key line prio : Nat) (pin : Bool) :
    m.prefetch key line prio pin = { m with cache := (m.prefetch key line prio pin).cache } := by
  unfold Mem.prefetch Mem.intoCache
  dsimp only
  split
  · split <;> rfl
  · rfl

theorem State.prefetch_hintFrame (s : State) (key line prio : Nat) (pin : Bool) :
    s.hintFrame { s with mem := s.mem.prefetch key line prio pin } :=
  ⟨rfl, rfl, rfl, rfl, s.mem.prefetch_frame key line prio pin⟩

/-- A line that finds room in the memory-side cache. -/
theorem Mem.prefetch_cache {m : Mem} {key line prio : Nat} {pin : Bool} (h : m.cache.length < cacheLines) :
    ∃ x : CacheLine, x.slot = key ∧ x.prio = prio ∧ (m.prefetch key line prio pin).cache = SMap.insert m.cache line x := by
  refine ⟨{ slot := key, prio := prio, dirty := ((SMap.find m.cache line).filter fun l => l.slot == key).any (·.dirty),
            pinned := pin || ((SMap.find m.cache line).filter fun l => l.slot == key).any (·.pinned) }, rfl, rfl, ?_⟩
  rw [Mem.prefetch, Mem.intoCache]
  have hcount : ¬ cacheLines ≤ (m.cache.filter fun e => homeIo (64 * e.1) == homeIo (64 * line)).length :=
    Nat.not_le.2 (Nat.lt_of_le_of_lt (List.length_filter_le _ _) h)
  rw [if_neg (by simp [hcount])]

/-! ### `pf` (R456) -/

section Prefetching
variable {s : State} {h : Hint} {base e l : Nat}

/-- Does a line of a page go into the memory-side cache? -/
def State.cacheable (s : State) (base e l : Nat) : Bool := s.isLpddr (frameOf base e (64 * l)) || isHost (frameOf base e (64 * l))

/-- What `pf` does with a line of its page at the levels that reach the memory-side cache. -/
def State.pfLine (h : Hint) (base e : Nat) (s : State) (l : Nat) : State :=
  if s.cacheable base e l then
    { s with mem := s.mem.prefetch (s.ctx h.ctx).keyId (frameOf base e (64 * l) / 64) (if h.lv = 2 then 1 else 3) }.leavesFor
      (s.strand h.sid).grp (frameOf base e (64 * l))
  else s

/-- The TLB entry that `pf` makes for its page. -/
def Hint.entry (h : Hint) (base e : Nat) : TlbEntry := { ctx := h.ctx, page := base, size := pteSize e, leaf := e }

/-- `pf` fills the buffers, and goes through its lines at the levels above 1. -/
theorem State.runPf_eq (s : State) (h : Hint) (base e : Nat) (ls : List Nat) : s.runPf h base e ls =
    let t := s.tlbFill (h.cluster / 6) (if h.lv = 0 then none else some h.cluster) (h.entry base e)
    if h.lv < 2 || pteState e = pgWeight then t else ls.foldl (State.pfLine h base e) t := rfl

theorem State.pfLine_hintFrame (s : State) (h : Hint) (base e l : Nat) : s.hintFrame (State.pfLine h base e s l) := by
  rw [State.pfLine]
  split
  · exact (s.prefetch_hintFrame ..).trans (State.leavesFor_hintFrame ..)
  · exact s.hintFrame_refl

theorem State.pfLine_ctxs (s : State) (h : Hint) (base e l : Nat) : (State.pfLine h base e s l).ctxs = s.ctxs := by
  rw [State.pfLine]
  split
  · exact State.leavesFor_ctxs ..
  · rfl

theorem State.pfLines_hintFrame (s : State) (h : Hint) (base e : Nat) (ls : List Nat) :
    s.hintFrame (ls.foldl (State.pfLine h base e) s) :=
  List.foldlRecOn (motive := s.hintFrame) ls _ s.hintFrame_refl fun t ht l _ => ht.trans (t.pfLine_hintFrame h base e l)

/-- A line that `pf` has taken: it stands under the key of its context at the priority of the level. -/
def State.prefetched (s : State) (h : Hint) (base e key l : Nat) : Prop :=
  ∃ x, SMap.find s.mem.cache (frameOf base e (64 * l) / 64) = some x ∧ x.slot = key ∧ x.prio = if h.lv = 2 then 1 else 3

/-- A step of `pf` with room in the cache: its line is taken, those taken before stay, and one line more stands at most. -/
theorem State.pfLine_prefetched (hroom : s.mem.cache.length < cacheLines) :
    (s.cacheable base e l = true → (State.pfLine h base e s l).prefetched h base e (s.ctx h.ctx).keyId l) ∧
    (∀ j, s.prefetched h base e (s.ctx h.ctx).keyId j → (State.pfLine h base e s l).prefetched h base e (s.ctx h.ctx).keyId j) ∧
    (State.pfLine h base e s l).mem.cache.length ≤ s.mem.cache.length + 1 := by
  cases hin : s.cacheable base e l with
  | false => simp [State.pfLine, hin]
  | true =>
    obtain ⟨x, hslot, hprio, hcache⟩ := Mem.prefetch_cache (key := (s.ctx h.ctx).keyId) (line := frameOf base e (64 * l) / 64)
      (prio := if h.lv = 2 then 1 else 3) (pin := false) hroom
    have hmem : (State.pfLine h base e s l).mem.cache = SMap.insert s.mem.cache (frameOf base e (64 * l) / 64) x := by
      rw [State.pfLine, if_pos hin, State.leavesFor_mem, ← hcache]
    refine ⟨fun _ => ⟨x, by rw [hmem, SMap.find_insert_same], hslot, hprio⟩, fun j ⟨y, hy, hys, hyp⟩ => ?_, ?_⟩
    · by_cases hsame : frameOf base e (64 * j) / 64 = frameOf base e (64 * l) / 64
      · exact ⟨x, by rw [hmem, hsame, SMap.find_insert_same], hslot, hprio⟩
      · exact ⟨y, by rw [hmem, SMap.find_insert_other hsame, hy], hys, hyp⟩
    · rw [hmem]
      exact SMap.length_insert_le ..

/-- Where all lines of the page find room, those of LPDDR6, host and CXL memory stand in the cache afterwards. -/
theorem State.pfLines_prefetched (ls : List Nat) (hroom : s.mem.cache.length + ls.length ≤ cacheLines)
    (hl : l ∈ ls ∧ s.cacheable base e l = true ∨ s.prefetched h base e (s.ctx h.ctx).keyId l) :
    (ls.foldl (State.pfLine h base e) s).prefetched h base e (s.ctx h.ctx).keyId l := by
  induction ls generalizing s with
  | nil => exact hl.resolve_left fun hmem => absurd hmem.1 List.not_mem_nil
  | cons j ls ih =>
    rw [List.length_cons] at hroom
    obtain ⟨hnew, hold, hlen⟩ := State.pfLine_prefetched (h := h) (base := base) (e := e) (l := j) (s := s) (by omega)
    have hctx : (State.pfLine h base e s j).ctx h.ctx = s.ctx h.ctx := by rw [State.ctx, s.pfLine_ctxs]; rfl
    have hcacheable : (State.pfLine h base e s j).cacheable base e l = s.cacheable base e l := by
      rw [State.cacheable, State.isLpddr, (s.pfLine_hintFrame h base e j).boot]; rfl
    rw [List.foldl_cons, ← hctx]
    refine ih (by omega) ?_
    rw [hctx, hcacheable]
    rcases hl with ⟨hmem, hin⟩ | hl
    · rcases List.mem_cons.1 hmem with rfl | hmem
      · exact .inr (hnew hin)
      · exact .inl ⟨hmem, hin⟩
    · exact .inr (hold l hl)

theorem mem_tlbPut {tlb : List TlbEntry} {cap : Nat} {x : TlbEntry} (h : 0 < cap) : x ∈ tlbPut tlb cap x := by
  rw [tlbPut, List.drop_append_of_le_length (by simp; omega)]
  exact List.mem_append_right _ (List.mem_singleton_self x)

theorem State.tlbFill_none (s : State) (die : Nat) (x : TlbEntry) :
    s.tlbFill die none x = s.setDie die { s.die die with tlb := tlbPut (s.die die).tlb 4096 x } := by
  rw [State.tlbFill]

theorem State.tlbFill_some (s : State) (die k : Nat) (x : TlbEntry) : s.tlbFill die (some k) x =
    (s.tlbFill die none x).setCluster k
      { (s.tlbFill die none x).cluster k with tlb := tlbPut ((s.tlbFill die none x).cluster k).tlb 128 x } := by
  rw [State.tlbFill, State.tlbFill]

/-- Filling the buffers leaves strands, memory and contexts. -/
theorem State.tlbFill_frame (s : State) (die : Nat) (cluster : Option Nat) (x : TlbEntry) : ∃ ds cs,
    s.tlbFill die cluster x = { s with dies := ds, clusters := cs } := by
  cases cluster with
  | none => exact ⟨_, _, s.tlbFill_none die x⟩
  | some k => exact ⟨_, _, s.tlbFill_some die k x⟩

/-- The die's buffer holds the translation, and its hints stay. -/
theorem State.tlbFill_die (s : State) (die : Nat) (cluster : Option Nat) (x : TlbEntry) :
    (s.tlbFill die cluster x).die die = { s.die die with tlb := tlbPut (s.die die).tlb 4096 x } := by
  cases cluster with
  | none => rw [State.tlbFill_none, State.die_setDie_same]
  | some k =>
    rw [State.tlbFill_some]
    show (s.tlbFill die none x).die die = _
    rw [State.tlbFill_none, State.die_setDie_same]

theorem State.mem_tlbFill_die (s : State) (die : Nat) (cluster : Option Nat) (x : TlbEntry) :
    x ∈ ((s.tlbFill die cluster x).die die).tlb := by
  have htlb : ((s.tlbFill die cluster x).die die).tlb = tlbPut (s.die die).tlb 4096 x := by rw [State.tlbFill_die]
  rw [htlb]
  exact mem_tlbPut (Nat.succ_pos 4095)

theorem State.mem_tlbFill_cluster (s : State) (die k : Nat) (x : TlbEntry) : x ∈ ((s.tlbFill die (some k) x).cluster k).tlb := by
  have htlb : ((s.tlbFill die (some k) x).cluster k).tlb = tlbPut ((s.tlbFill die none x).cluster k).tlb 128 x := by
    rw [State.tlbFill_some, State.cluster_setCluster_same]
  rw [htlb]
  exact mem_tlbPut (Nat.succ_pos 127)

/-- What `pf` does with a page that a hint acts on. -/
theorem State.runPf_spec (s : State) (h : Hint) (base e : Nat) (ls : List Nat) :
    (s.runPf h base e ls).strands = s.strands ∧ (s.runPf h base e ls).mem = { s.mem with cache := (s.runPf h base e ls).mem.cache } ∧
    ((s.runPf h base e ls).die (h.cluster / 6)).hints = (s.die (h.cluster / 6)).hints ∧
    h.entry base e ∈ ((s.runPf h base e ls).die (h.cluster / 6)).tlb ∧
    (h.lv ≠ 0 → h.entry base e ∈ ((s.runPf h base e ls).cluster h.cluster).tlb) ∧
    (h.lv < 2 ∨ pteState e = pgWeight → (s.runPf h base e ls).mem = s.mem) ∧
    (2 ≤ h.lv → pteState e ≠ pgWeight → s.mem.cache.length + ls.length ≤ cacheLines → ∀ l ∈ ls, s.cacheable base e l = true →
      (s.runPf h base e ls).prefetched h base e (s.ctx h.ctx).keyId l) := by
  generalize ht : s.tlbFill (h.cluster / 6) (if h.lv = 0 then none else some h.cluster) (h.entry base e) = t
  obtain ⟨ds, cs, hframe⟩ := s.tlbFill_frame (h.cluster / 6) (if h.lv = 0 then none else some h.cluster) (h.entry base e)
  have hdie := s.tlbFill_die (h.cluster / 6) (if h.lv = 0 then none else some h.cluster) (h.entry base e)
  have hcluster : h.lv ≠ 0 → h.entry base e ∈ (t.cluster h.cluster).tlb := fun hlv => by
    rw [← ht, if_neg hlv]
    exact s.mem_tlbFill_cluster ..
  rw [ht] at hframe hdie
  have hentry : h.entry base e ∈ (t.die (h.cluster / 6)).tlb := ht ▸ s.mem_tlbFill_die ..
  have hhints : (t.die (h.cluster / 6)).hints = (s.die (h.cluster / 6)).hints := by rw [hdie]
  have hstrands : t.strands = s.strands := by rw [hframe]
  have hmem : t.mem = s.mem := by rw [hframe]
  have hrun : s.runPf h base e ls = if h.lv < 2 || pteState e = pgWeight then t else ls.foldl (State.pfLine h base e) t := by
    rw [State.runPf_eq, ht]
  by_cases hstop : h.lv < 2 ∨ pteState e = pgWeight
  · rw [hrun, if_pos (by simpa using hstop)]
    refine ⟨hstrands, by rw [hmem], hhints, hentry, hcluster, fun _ => hmem, fun hlv hstate => ?_⟩
    exact absurd hstop (by omega)
  · rw [hrun, if_neg (by simpa using hstop)]
    have hlines := t.pfLines_hintFrame h base e ls
    refine ⟨hlines.strands.trans hstrands, by rw [hlines.mem, hmem], ?_, ?_, fun hlv => ?_, fun hstop' => absurd hstop' hstop,
      fun hlv hstate hroom l hl hin => ?_⟩
    · rw [State.die, hlines.dies]
      exact hhints
    · rw [State.die, hlines.dies]
      exact hentry
    · rw [State.cluster, hlines.clusters]
      exact hcluster hlv
    · have hctx : t.ctx h.ctx = s.ctx h.ctx := by rw [hframe]; rfl
      have hcacheable : t.cacheable base e l = s.cacheable base e l := by rw [hframe]; rfl
      rw [← hctx]
      exact State.pfLines_prefetched ls (by rw [hmem]; exact hroom) (.inl ⟨hl, hcacheable.trans hin⟩)

end Prefetching

/-! ### `res` (R456) -/

section Residing
variable {s : State} {h : Hint} {base e l : Nat}

/-- Pins of the context that asked for a hint, changed. -/
def State.setPins (s : State) (ctx : Nat) (pins : List Nat) : State := s.setCtx ctx { s.ctx ctx with pins := pins }

/-- A line that the memory-side cache holds is ranked. -/
def State.ranked (s : State) (base e l prio : Nat) : State := { s with mem := s.mem.prioritise (frameOf base e (64 * l) / 64) prio }

/-- What `res` does with a line of its page. -/
def State.resLine (h : Hint) (base e : Nat) (s : State) (l : Nat) : State :=
  match h.lv with
  | 1 =>
    if (s.ctx h.ctx).pins.contains l || decide ((s.ctx h.ctx).pins.length < pinLimit) then
      let t := s.setPins h.ctx (insertNat (s.ctx h.ctx).pins l)
      if t.cacheable base e l then
        { t with mem := t.mem.prefetch (s.ctx h.ctx).keyId (frameOf base e (64 * l) / 64) 1 true }.leavesFor (t.strand h.sid).grp
          (frameOf base e (64 * l))
      else t
    else s.ranked base e l 1
  | 2 => s.ranked base e l 0
  | 3 => { s.setPins h.ctx ((s.ctx h.ctx).pins.filter (· != l)) with mem := s.mem.unpin [frameOf base e (64 * l) / 64] }
  | _ => s.ranked base e l 1

theorem State.runRes_eq (s : State) (h : Hint) (base e : Nat) (ls : List Nat) :
    s.runRes h base e ls = ls.foldl (State.resLine h base e) s := rfl

theorem State.ranked_hintFrame (s : State) (base e l prio : Nat) : s.hintFrame (s.ranked base e l prio) := ⟨rfl, rfl, rfl, rfl, rfl⟩
theorem State.setPins_hintFrame (s : State) (ctx : Nat) (pins : List Nat) : s.hintFrame (s.setPins ctx pins) := ⟨rfl, rfl, rfl, rfl, rfl⟩

theorem State.resLine_hintFrame (s : State) (h : Hint) (base e l : Nat) : s.hintFrame (State.resLine h base e s l) := by
  unfold State.resLine
  split
  · dsimp only
    split
    · split
      · exact ((s.setPins_hintFrame ..).trans (State.prefetch_hintFrame ..)).trans (State.leavesFor_hintFrame ..)
      · exact s.setPins_hintFrame ..
    · exact s.ranked_hintFrame ..
  · exact s.ranked_hintFrame ..
  · exact ⟨rfl, rfl, rfl, rfl, rfl⟩
  · exact s.ranked_hintFrame ..

theorem State.resLines_hintFrame (s : State) (h : Hint) (base e : Nat) (ls : List Nat) :
    s.hintFrame (ls.foldl (State.resLine h base e) s) :=
  List.foldlRecOn (motive := s.hintFrame) ls _ s.hintFrame_refl fun t ht l _ => ht.trans (t.resLine_hintFrame h base e l)

theorem State.setPins_pins (s : State) (ctx : Nat) (pins : List Nat) : ((s.setPins ctx pins).ctx ctx).pins = pins := by
  rw [State.setPins, State.ctx_setCtx_same]

/-- A line that is pinned already, or for which there is room, is among the pins afterwards. -/
theorem State.resLine_pins (hlv : h.lv = 1) (hroom : (s.ctx h.ctx).pins.length < pinLimit) :
    ((State.resLine h base e s l).ctx h.ctx).pins = insertNat (s.ctx h.ctx).pins l := by
  have hgo : ((s.ctx h.ctx).pins.contains l || decide ((s.ctx h.ctx).pins.length < pinLimit)) = true := by
    rw [decide_eq_true hroom, Bool.or_true]
  simp only [State.resLine, hlv]
  rw [if_pos hgo]
  split
  · rw [State.ctx, State.leavesFor_ctxs]
    exact s.setPins_pins ..
  · exact s.setPins_pins ..

theorem State.resLines_pins (hlv : h.lv = 1) (ls : List Nat) (hroom : (s.ctx h.ctx).pins.length + ls.length ≤ pinLimit)
    (hl : l ∈ ls ∨ l ∈ (s.ctx h.ctx).pins) : l ∈ ((ls.foldl (State.resLine h base e) s).ctx h.ctx).pins := by
  induction ls generalizing s with
  | nil => exact hl.resolve_left List.not_mem_nil
  | cons j ls ih =>
    rw [List.length_cons] at hroom
    have hpins := State.resLine_pins (base := base) (e := e) (l := j) hlv (s := s) (by omega)
    have hlen := length_insertNat_le (s.ctx h.ctx).pins j
    rw [List.foldl_cons]
    refine ih (by rw [hpins]; omega) ?_
    rw [hpins, mem_insertNat]
    rcases hl with hl | hl
    · exact (List.mem_cons.1 hl).elim (fun heq => .inr (.inl heq)) .inl
    · exact .inr (.inr hl)

/-- The lines that `res` frees are pinned no more. -/
theorem State.resLines_unpin (hlv : h.lv = 3) (ls : List Nat) :
    ((ls.foldl (State.resLine h base e) s).ctx h.ctx).pins = (s.ctx h.ctx).pins.filter fun l => !ls.contains l := by
  induction ls generalizing s with
  | nil => simp
  | cons j ls ih =>
    have hpins : ((State.resLine h base e s j).ctx h.ctx).pins = (s.ctx h.ctx).pins.filter (· != j) := by
      unfold State.resLine
      rw [hlv]
      exact s.setPins_pins ..
    rw [List.foldl_cons, ih, hpins, List.filter_filter]
    refine List.filter_congr fun l _ => ?_
    rw [List.contains_cons, Bool.not_or, Bool.and_comm]
    rfl

/-- At the levels that only rank, a line gets the priority of the level. -/
theorem State.resLine_of_rank (hlv : h.lv = 0 ∨ h.lv = 2) :
    State.resLine h base e s l = s.ranked base e l (if h.lv = 2 then 0 else 1) := by
  rcases hlv with hlv | hlv <;> simp [State.resLine, hlv]

/-- What the cache holds of a line has a priority. -/
def Mem.lineRanked (m : Mem) (line prio : Nat) : Prop := ∀ x ∈ m.cache, x.1 = line → x.2.prio = prio

theorem Mem.lineRanked_prioritise_same (m : Mem) (line prio : Nat) : (m.prioritise line prio).lineRanked line prio := fun x hx hline => by
  obtain ⟨y, -, rfl⟩ := List.mem_map.1 hx
  split
  · rfl
  · next hne => rw [if_neg hne] at hline; exact absurd hline hne

theorem Mem.lineRanked.prioritise {m : Mem} {line prio : Nat} (h : m.lineRanked line prio) (other : Nat) :
    (m.prioritise other prio).lineRanked line prio := fun x hx hline => by
  obtain ⟨y, hy, rfl⟩ := List.mem_map.1 hx
  split
  · rfl
  · next hne => rw [if_neg hne] at hline; exact h y hy hline

theorem State.resLines_ranked (hlv : h.lv = 0 ∨ h.lv = 2) {ls : List Nat} (hl : l ∈ ls) :
    (ls.foldl (State.resLine h base e) s).mem.lineRanked (frameOf base e (64 * l) / 64) (if h.lv = 2 then 0 else 1) := by
  refine foldl_holds (p := fun t : State => t.mem.lineRanked (frameOf base e (64 * l) / 64) (if h.lv = 2 then 0 else 1)) hl
    (fun t j _ ht => ?_) (fun t => ?_) s
  · rw [State.resLine_of_rank hlv]
    exact ht.prioritise _
  · rw [State.resLine_of_rank hlv]
    exact t.mem.lineRanked_prioritise_same _ _

theorem State.resLines_ctxs (hlv : h.lv = 0 ∨ h.lv = 2) (ls : List Nat) : (ls.foldl (State.resLine h base e) s).ctxs = s.ctxs :=
  List.foldlRecOn (motive := fun t : State => t.ctxs = s.ctxs) ls _ rfl fun t ht l _ => by
    rw [State.resLine_of_rank hlv]
    exact ht

end Residing

/-! ### The hint unit (R457) -/

section Unit
variable {s : State} {h : Hint} {rest : List Hint} {die : Nat}

@[simp] theorem State.setDie_setDie (s : State) (n : Nat) (v w : Die) : (s.setDie n v).setDie n w = s.setDie n w := by
  simp [State.setDie]

theorem State.runHint_of_unmapped (hhead : (s.die die).hints = h :: rest) (hleaf : (s.ctx h.ctx).leaf h.va = none) :
    s.runHint die = s.setDie die { s.die die with hints := rest, hintDrops := ((s.die die).hintDrops + 1) % 2 ^ 64 } := by
  rw [State.runHint, hhead]
  dsimp only
  rw [hleaf]
  dsimp only
  rw [State.setDie_setDie, State.die_setDie_same]

theorem State.runHint_of_hintable {g e : Nat} (hhead : (s.die die).hints = h :: rest) (hleaf : (s.ctx h.ctx).leaf h.va = some (g, e))
    (hok : (s.ctx h.ctx).hintable (g, some e) = true) : s.runHint die =
      let t := s.setDie die { s.die die with hints := rest }
      if h.op = 0 then t.runPf h g e (pageLines (g, e) h.va h.len) else t.runRes h g e (pageLines (g, e) h.va h.len) := by
  rw [State.runHint, hhead]
  dsimp only
  rw [hleaf]
  dsimp only
  rw [if_pos hok]

end Unit

/-- `pf` and `res` put their pages into the unit of their die. -/
theorem exec_pf_eq {a b level : Nat} (hform : formOk s (.pf a b level) = true) :
    exec (.pf a b level) s = .next (s.hint 0 level (s.me.xGet a) (s.me.xGet b % 2 ^ 32)) := by
  show execPf a b level s = _
  rw [execPf, slotOp_ok hform, finish_ok]

theorem exec_res_eq {a b level : Nat} (hform : formOk s (.res a b level) = true) :
    exec (.res a b level) s = .next (s.hint 1 level (s.me.xGet a) (s.me.xGet b % 2 ^ 32)) := by
  show execRes a b level s = _
  rw [execRes, slotOp_ok hform, finish_ok]

/-! ### The statement -/

/-- Settles O34: each form comes down to its command, which joins or waits; a hint stands page by page; the unit's oldest page by its leaf
entry and by the operation of its hint. -/
theorem engineForms : Obligations.EngineForms := by
  unfold Obligations.EngineForms
  refine ⟨?_, ⟨?_, ?_⟩⟩
  · intro s c ra rb rq d t a b v r n entry mine joins queued pairs shape plain
    exact ⟨fun hform hd ht hshape hv => exec_of_queueCe (exec_cp_eq hform hd ht hshape hv),
      fun hform hv ha hb => exec_of_queueCe (exec_cpg_eq hform hv ha hb),
      fun hform ht hshape hpad hwhole hrow hpitch hb => exec_of_queueCe (exec_cps_eq hform ht hshape hpad hwhole hrow hpitch hb),
      fun hform ht hv hmx hb => exec_of_queueCe (exec_stage_eq hform ht hv hmx hb),
      fun hform hv ha hb => exec_of_queueCe (exec_sealRec_eq hform hv ha hb),
      fun hform hv ha hb => exec_of_queueCe (exec_openRec_eq hform hv ha hb),
      fun qe hform ha hentry => exec_of_queueCe (exec_meas_eq ha hentry hform) hentry,
      fun qe hform ha hentry => exec_of_queueCe (exec_ckpt_eq ha hentry hform) hentry⟩
  · intro s a b level va n ps d room page after
    exact ⟨exec_pf_eq, exec_res_eq⟩
  · intro s h rest g e die c lines entry pa t hhead
    refine ⟨State.runHint_of_unmapped hhead, fun hleaf hok => ?_⟩
    obtain ⟨u, hu⟩ : ∃ u, u = s.setDie die { s.die die with hints := rest } := ⟨_, rfl⟩
    have hrun : t = if h.op = 0 then u.runPf h g e lines else u.runRes h g e lines := by
      rw [hu]
      exact State.runHint_of_hintable hhead hleaf hok
    have hhints : (u.die die).hints = rest := by rw [hu, State.die_setDie_same]
    by_cases hop : h.op = 0
    · have hpf : t = u.runPf h g e lines := hrun.trans (if_pos hop)
      obtain ⟨hstrands, hmem, hunit, htlb, hcluster, hlow, hhigh⟩ := u.runPf_spec h g e lines
      rw [hpf]
      subst hu
      refine ⟨hstrands, hmem, fun _ => ⟨hunit.trans hhints, htlb, hcluster, hlow, fun hlv hstate hroom l hl hin => ?_⟩,
        fun hone => absurd (hop.symm.trans hone) (by decide)⟩
      exact hhigh hlv hstate hroom l hl (by rw [State.cacheable, Bool.or_eq_true]; exact hin)
    · have hres : t = lines.foldl (State.resLine h g e) u := hrun.trans (if_neg hop)
      have hframe := u.resLines_hintFrame h g e lines
      rw [hres]
      subst hu
      refine ⟨hframe.strands, hframe.mem, fun hzero => absurd hzero hop, fun _ => ⟨?_, fun hlv hroom l hl => State.resLines_pins hlv lines hroom hl,
        fun hlv => State.resLines_unpin hlv lines, fun hlv => ⟨?_, fun l hl x hx => ?_⟩⟩⟩
      · rw [State.die, hframe.dies]
        exact hhints
      · rw [State.ctx, State.resLines_ctxs hlv]
        rfl
      · exact State.resLines_ranked hlv hl _ (SMap.mem_of_find hx) rfl

end Sys2Proof.Machine
end

section
/-! PROOFS. The transport between packages (R465, R466): packets, acknowledgements, timers, rates, silence. -/

namespace Sys2Proof.Machine

/-! ### Acknowledgements (R465) -/

theorem bit_eq_testBit (v i : Nat) : bit v i = v.testBit i := by
  rw [Nat.testBit_eq_decide_div_mod_eq]
  rfl

/-- The number whose bits below `n` a predicate gives. -/
def bitsOf (p : Nat → Bool) (n : Nat) : Nat := (List.range n).foldl (fun m i => m + if p i then 2 ^ i else 0) 0

theorem bitsOf_succ (p : Nat → Bool) (n : Nat) : bitsOf p (n + 1) = bitsOf p n + if p n then 2 ^ n else 0 := by
  rw [bitsOf, List.range_succ, List.foldl_append]
  rfl

theorem bitsOf_lt (p : Nat → Bool) (n : Nat) : bitsOf p n < 2 ^ n := by
  induction n with
  | zero => exact Nat.one_pos
  | succ n ih =>
    rw [bitsOf_succ, Nat.pow_succ]
    split <;> omega

theorem bit_bitsOf {p : Nat → Bool} {n i : Nat} (h : i < n) : bit (bitsOf p n) i = p i := by
  rw [bit_eq_testBit]
  induction n with
  | zero => exact absurd h (Nat.not_lt_zero i)
  | succ n ih =>
    have hsum : bitsOf p (n + 1) = 2 ^ n * (if p n then 1 else 0) + bitsOf p n := by
      rw [bitsOf_succ, Nat.add_comm, mul_ite, Nat.mul_one, Nat.mul_zero]
    rw [hsum, Nat.testBit_two_pow_mul_add _ (bitsOf_lt p n)]
    rcases Nat.lt_succ_iff_lt_or_eq.1 h with hlt | rfl
    · rw [if_pos hlt, ih hlt]
    · rw [if_neg (Nat.lt_irrefl i), Nat.sub_self]
      cases p i <;> rfl

theorem Flow.ackOf_map (f : Flow) (mark : Bool) : (f.ackOf mark).map = bitsOf (fun i => (f.held.filterMap fun (p : Sent) =>
    if 0 < seqAfter p.seq f.expect ∧ seqAfter p.seq f.expect ≤ 256 then some (seqAfter p.seq f.expect - 1) else none).contains i) 256 := by
  rw [Flow.ackOf, bitsOf]

/-- Bit `i` of an acknowledgement's map stands for the packet `i + 1` after the number. -/
theorem Flow.bit_ackOf_map (f : Flow) (mark : Bool) {i : Nat} (h : i < 256) :
    bit (f.ackOf mark).map i = f.held.any fun (p : Sent) => seqAfter p.seq f.expect == i + 1 := by
  rw [Flow.ackOf_map, bit_bitsOf h, Bool.eq_iff_iff, List.contains_iff_mem, List.mem_filterMap, List.any_eq_true]
  refine exists_congr fun p => and_congr_right fun _ => ?_
  rw [beq_iff_eq]
  split
  · rw [Option.some_inj]; omega
  · simp only [reduceCtorEq, false_iff]; omega

/-! ### Arrival (R465, R466) -/

section Arrival
variable {s : State} {src flow seq ack : Nat} {mark : Bool} {body : PacketBody}

/-- What an arrival does first: it may wake the device, it ends the silence of its package, and its port counts a mark. -/
def State.arrived (s : State) (body : PacketBody) (src : Nat) (mark : Bool) : State :=
  let near := (s.arrivalWake body).hear src
  if mark then near.atPort src (fun p => { p with marked := p.marked + 1 }) else near

/-- A flow forms its acknowledgement. -/
def State.acknowledges (t : State) (k : Nat) (mark : Bool) : State :=
  t.setFlow k { t.flow k with ack := some ((t.flow k).ackOf mark) }

/-- A packet that is out of reach of its flow, or that the flow holds already. -/
def Flow.refuses (f : Flow) (seq : Nat) : Prop :=
  256 ≤ (seq + 2 ^ 32 - f.expect % 2 ^ 32) % 2 ^ 32 ∨ f.held.any (fun (p : Sent) => p.seq == seq) = true

theorem Flow.refuses_iff (f : Flow) (seq : Nat) :
    (decide (256 ≤ seqAfter seq f.expect) || f.held.any (fun (p : Sent) => p.seq == seq)) = true ↔ f.refuses seq := by
  rw [Bool.or_eq_true, decide_eq_true_eq]
  rfl

theorem exec_packetArrive_of_keepalive (h : body = .keepalive) : exec (.packetArrive src flow seq mark body) s =
    .next (s.arrived body src mark) := by
  show execPacketArrive src flow seq mark body s = _
  exact if_pos (by rw [h]; rfl)

theorem exec_packetArrive_of_refused (h : body ≠ .keepalive)
    (hfar : ((s.arrived body src mark).flow (4 * src + flow % 4)).refuses seq) : exec (.packetArrive src flow seq mark body) s =
      .next ((s.arrived body src mark).acknowledges (4 * src + flow % 4) mark) := by
  show execPacketArrive src flow seq mark body s = _
  exact (if_neg (by simpa using h)).trans (if_pos ((Flow.refuses_iff _ seq).2 hfar))

theorem exec_packetArrive_of_accepted (h : body ≠ .keepalive)
    (hnear : ¬ ((s.arrived body src mark).flow (4 * src + flow % 4)).refuses seq) : exec (.packetArrive src flow seq mark body) s =
      .next ((((s.arrived body src mark).setFlow (4 * src + flow % 4)
        { (s.arrived body src mark).flow (4 * src + flow % 4) with
          held := ((s.arrived body src mark).flow (4 * src + flow % 4)).held ++ [{ seq := seq, body := body }] }).deliverFlow src
        (flow % 4) 256).acknowledges (4 * src + flow % 4) mark) := by
  show execPacketArrive src flow seq mark body s = _
  exact (if_neg (by simpa using h)).trans (if_neg (mt (Flow.refuses_iff _ seq).1 hnear))

theorem State.postStatus_peers (s : State) : s.postStatus.link.peers = s.link.peers := rfl
theorem State.postStatus_power (s : State) : s.postStatus.power = s.power := rfl
theorem State.postStatus_comms (s : State) : s.postStatus.link.comms = s.link.comms := rfl

/-- Whatever arrives from a package, the package is silent no more. -/
theorem State.hear_silent (s : State) (src : Nat) : (SMap.get (s.hear src).link.peers src {}).silent = false := by
  dsimp only [State.hear]
  split
  · rw [State.postStatus_peers, SMap.get_insert_same]
  · rw [SMap.get_insert_same]

theorem State.hear_power (s : State) (src : Nat) : (s.hear src).power = s.power := by
  dsimp only [State.hear]
  split
  · rw [State.postStatus_power]
  · rfl

theorem State.atPort_link (s : State) (src : Nat) (f : Port → Port) : (s.atPort src f).link = { s.link with ports := (s.atPort src f).link.ports } := by
  unfold State.atPort
  split <;> rfl

theorem State.arrived_silent (s : State) (body : PacketBody) (src : Nat) (mark : Bool) :
    (SMap.get (s.arrived body src mark).link.peers src {}).silent = false := by
  rw [State.arrived]
  split
  · rw [State.atPort_link]
    exact State.hear_silent ..
  · exact State.hear_silent ..

/-- An acknowledgement releases packets of its flow, and the flow sends again what the map shows missing. -/
theorem exec_ackArrive_eq : exec (.ackArrive src flow ack mark) s =
    let k := 4 * src + flow % 4
    let heard := s.hear src
    let y := heard.flow k
    let now := s.power.dtime
    let out := y.unacked.takeWhile fun (p : Sent) => decide (seqAfter (ack % 2 ^ 32) p.seq ≤ 256) && decide (0 < seqAfter (ack % 2 ^ 32) p.seq)
    let z := { y with unacked := y.unacked.drop out.length, srtt := y.measure out now, acked := y.acked + out.length,
                      marks := y.marks + if mark then out.length else 0 }
    let z := z.turn (heard.portRate z.port) now
    let again := missingPackets (ack % 2 ^ 32) (ack / 2 ^ 32) z.unacked
    let w := if again = [] then heard.setFlow k z else heard.resend k (heard.route src (z.again again now)) again.length
    .next ((if flow % 4 = 2 then out.foldl (fun u _ => u.performEp src) w else w).drainOutbox src (flow % 4)) := by
  show execAckArrive src flow ack mark s = _
  simp only [execAckArrive, State.hear_power, List.isEmpty_iff]

end Arrival

/-! ### Rates and timers (R465, R466) -/

section Rates
variable {s : State} {f : Flow} {port now src flow : Nat}

theorem Flow.turn_of_early (h : now < f.turnAt + f.srtt) : f.turn port now = f := by
  rw [Flow.turn, if_pos (by simp [h])]

/-- A round-trip time has passed, and packets were acknowledged in it. -/
theorem Flow.turn_of_due (h : f.turnAt + f.srtt ≤ now) (hacked : f.acked ≠ 0) : f.turn port now =
    { f with
      alpha := if f.marks = 0 then f.alpha else (15 * f.alpha + 65536 * f.marks / f.acked) / 16,
      rate := if f.marks = 0 then min port (f.rate + 2000)
        else max minRate (f.rate - f.rate * (if f.marks = 0 then f.alpha else (15 * f.alpha + 65536 * f.marks / f.acked) / 16) / 131072),
      turnAt := now, marks := 0, acked := 0 } := by
  rw [Flow.turn, if_neg (by simp [Nat.not_lt.2 h, hacked])]

theorem Flow.turn_of_clear (h : f.turnAt + f.srtt ≤ now) (hacked : f.acked ≠ 0) (hmarks : f.marks = 0) :
    f.turn port now = { f with rate := min port (f.rate + 2000), turnAt := now, acked := 0 } := by
  rw [Flow.turn_of_due h hacked, if_pos hmarks, if_pos hmarks, ← hmarks]

theorem Flow.turn_of_marked (h : f.turnAt + f.srtt ≤ now) (hacked : f.acked ≠ 0) (hmarks : f.marks ≠ 0) :
    f.turn port now =
      let alpha := (15 * f.alpha + 65536 * f.marks / f.acked) / 16
      { f with alpha := alpha, rate := max 500 (f.rate - f.rate * alpha / 131072), turnAt := now, marks := 0, acked := 0 } := by
  rw [Flow.turn_of_due h hacked, if_neg hmarks, if_neg hmarks]
  rfl

theorem Flow.mem_expired {q : Sent} (h : q ∈ f.unacked) :
    q ∈ f.expired now ↔ q.time + max 8000 (min 1000000 (4 * f.srtt)) ≤ now := by
  rw [Flow.expired, List.mem_filter, decide_eq_true_eq]
  exact and_iff_right h

theorem exec_retransmitTimeout_of_due (h : (s.flow (4 * src + flow % 4)).expired s.power.dtime ≠ []) :
    exec (.retransmitTimeout src flow) s =
      let g := s.flow (4 * src + flow % 4)
      let due := g.expired s.power.dtime
      .next (s.resend (4 * src + flow % 4) { s.route src (g.again due s.power.dtime) with rate := max 500 (g.rate / 2) } due.length) := by
  show execRetransmitTimeout src flow s = _
  rw [execRetransmitTimeout]
  exact congrArg Host.Outcome.next (if_neg (by simpa using h))

theorem exec_retransmitTimeout_of_none (h : (s.flow (4 * src + flow % 4)).expired s.power.dtime = []) :
    exec (.retransmitTimeout src flow) s = .next s := by
  show execRetransmitTimeout src flow s = _
  rw [execRetransmitTimeout]
  exact congrArg Host.Outcome.next (if_pos (by rw [h]; rfl))

theorem exec_keepalive_of_quiet (hout : s.outstanding src = true) (hkiln : s.power.kiln = .running)
    (htime : (SMap.get s.link.peers src {}).sentAt + 1000 * s.link.kai ≤ s.power.dtime) : exec (.keepalive src) s =
      .next { s with link := { s.link with
        peers := SMap.insert s.link.peers src { SMap.get s.link.peers src {} with sentAt := s.power.dtime } } } := by
  show execKeepalive src s = _
  rw [execKeepalive]
  exact congrArg Host.Outcome.next (if_pos (by simp [hout, hkiln, htime]))

theorem exec_keepalive_of_idle (hout : s.outstanding src = false) : exec (.keepalive src) s = .next s := by
  show execKeepalive src s = _
  rw [execKeepalive]
  exact congrArg Host.Outcome.next (if_neg (by simp [hout]))

end Rates

/-! ### Silence (R466, R478) -/

section Silence
variable {s : State} {src i : Nat}

/-- A package is declared silent. -/
def State.declareSilent (s : State) (src : Nat) : State :=
  { s with link := { s.link with peers := SMap.insert s.link.peers src { SMap.get s.link.peers src {} with silent := true } } }

theorem exec_peerSilent_of_quiet {left : State} (hp : (SMap.get s.link.peers src {}).silent = false) (hout : s.outstanding src = true)
    (htime : (SMap.get s.link.peers src {}).heard + 1000 * s.link.pto ≤ s.power.dtime)
    (hleft : (List.range 16).foldl (fun s i => s.loseMember i src) (s.declareSilent src) = left) : exec (.peerSilent src) s =
      let lost := fun (a : Ask) => if a.peer = src then { a with own := false } else a
      let down := { left with link := { left.link with asks := left.link.asks.map lost } }
      .next ((if down.link.sysid / 64 = src / 64 then down.failFrames (fun pa => peerOf pa == some (src % 64)) else down).postStatus) := by
  have hgo : ((SMap.get s.link.peers src {}).silent || !s.outstanding src ||
      decide (s.power.dtime < (SMap.get s.link.peers src {}).heard + 1000 * s.link.pto)) = false := by
    rw [hp, hout, decide_eq_false (Nat.not_lt.2 htime)]
    rfl
  unfold State.declareSilent at hleft
  show execPeerSilent src s = _
  simp only [execPeerSilent, hgo, Bool.false_eq_true, if_false, hleft, beq_iff_eq]

theorem exec_peerSilent_of_idle (hout : s.outstanding src = false) : exec (.peerSilent src) s = .next s := by
  show execPeerSilent src s = _
  rw [execPeerSilent]
  exact if_pos (by simp [hout])

theorem State.postOrCount_link (s : State) (grp place launch q tag status data : Nat) (qe : Bool) :
    (s.postOrCount grp place launch qe q tag status data).link = s.link := by
  dsimp only [State.postOrCount, State.postTo]
  repeat' split
  all_goals rfl

/-- The end of a collective command leaves the communicators. -/
theorem State.finishCol_comms (s : State) (c : ColCmd) (status : Status) (outcome silent high : Nat) :
    (s.finishCol c status outcome silent high).link.comms = s.link.comms := by
  dsimp only [State.finishCol]
  split
  · rw [State.postOrCount_link, State.postStatus_comms]
  · rw [State.postStatus_comms]

theorem State.finishCols_comms (l : List (ColCmd × Nat)) (pos : Nat) (s : State) :
    (l.foldl (fun s e => s.finishCol e.1 .peerlost 1 pos e.2) s).link.comms = s.link.comms :=
  List.foldlRecOn (motive := fun t : State => t.link.comms = s.link.comms) l _ rfl fun t ht _ _ => (t.finishCol_comms ..).trans ht

/-- A communicator that a silent member is to abort, or has aborted. -/
def Comm.losing (m : Comm) (src : Nat) : Prop := m.state = .aborted ∨ m.state = .opened ∧ m.members.contains src = true

theorem State.loseMember_same (h : (s.comm i).losing src) : ((s.loseMember i src).comm i).state = .aborted := by
  rw [State.loseMember]
  dsimp only
  rcases h with haborted | ⟨hopened, hmember⟩
  · rw [if_pos (by simp [haborted])]
    exact haborted
  · rw [if_neg (by simp only [hopened, hmember]; decide), State.comm, State.finishCols_comms]
    exact congrArg Comm.state (SMap.get_insert_same ..)

theorem State.loseMember_other {j : Nat} (h : i ≠ j) : (s.loseMember j src).comm i = s.comm i := by
  rw [State.loseMember]
  dsimp only
  split
  · rfl
  · rw [State.comm, State.finishCols_comms]
    exact SMap.get_insert_other h

theorem State.loseMember_losing (j : Nat) (h : (s.comm i).losing src) : ((s.loseMember j src).comm i).losing src := by
  by_cases hij : i = j
  · subst hij
    exact .inl (State.loseMember_same h)
  · rw [State.loseMember_other hij]
    exact h

/-- Every communicator with the silent member is aborted. -/
theorem State.loseMembers_aborted (hi : i < 16) (h : (s.comm i).losing src) :
    (((List.range 16).foldl (fun s i => s.loseMember i src) s).comm i).state = .aborted := by
  obtain ⟨before, after, hsplit⟩ := List.append_of_mem (List.mem_range.2 hi)
  rw [hsplit, List.foldl_append, List.foldl_cons]
  have hbefore : ((before.foldl (fun s i => s.loseMember i src) s).comm i).losing src :=
    List.foldlRecOn (motive := fun t : State => (t.comm i).losing src) before _ h fun t ht j _ => State.loseMember_losing j ht
  refine List.foldlRecOn (motive := fun t : State => (t.comm i).state = .aborted) after _ (State.loseMember_same hbefore)
    fun t ht j _ => ?_
  by_cases hij : i = j
  · subst hij
    exact State.loseMember_same (.inl ht)
  · rw [State.loseMember_other hij]
    exact ht

end Silence

end Sys2Proof.Machine
end

section
/-! PROOFS. What packets reach (R467, R470 to R473, R488): a peer's request, endpoint rings, the host's windows and its accesses. -/

namespace Sys2Proof.Machine

/-! ### Requests of peers (R467) -/

section Requests
variable {s : State} {src addr : Nat} {op : RemoteOp} {data : List Byte}

theorem exec_remoteRequest_of_open (h : s.routeOpen agentPeer addr = true) :
    exec (.remoteRequest src op addr data) s = .next (s.serveRemote src op addr data) := by
  show execRemoteRequest src op addr data s = _
  rw [execRemoteRequest, if_pos h]

theorem exec_remoteRequest_of_closed (h : s.routeOpen agentPeer addr = false) : exec (.remoteRequest src op addr data) s = .next s := by
  show execRemoteRequest src op addr data s = _
  rw [execRemoteRequest, if_neg (by simp [h])]

/-- A request that a peer may not make is answered with no bytes. -/
theorem State.serveRemote_of_refused (h : s.isLpddr addr = false) (hop : op ≠ .read) :
    s.serveRemote src op addr data = s.sendPacket src 1 (.request op addr []) := by
  have hno : (decide (data.length ≤ 64 - addr % 64) && s.remoteReach (remoteWrites op) addr) = false := by
    have hwrites : remoteWrites op = true := by
      cases op with
      | read => exact absurd rfl hop
      | write | amo | cas => rfl
    rw [State.remoteReach, h, hwrites, Bool.not_true, Bool.false_and, Bool.or_self, Bool.and_false]
  simp only [State.serveRemote, hno, Bool.not_false, if_true]

/-- A request within a line that a peer may make. -/
structure State.peerReaches (s : State) (op : RemoteOp) (addr : Nat) (data : List Byte) : Prop where
  fits : data.length ≤ 64 - addr % 64
  reach : s.remoteReach (remoteWrites op) addr = true

theorem State.peerReaches.ok (h : s.peerReaches op addr data) :
    (decide (data.length ≤ 64 - addr % 64) && s.remoteReach (remoteWrites op) addr) = true := by
  rw [decide_eq_true h.fits, h.reach]
  rfl

theorem State.peerReaches_of_lpddr (hfits : data.length ≤ 64 - addr % 64) (h : s.isLpddr addr = true) : s.peerReaches op addr data :=
  ⟨hfits, by rw [State.remoteReach, h, Bool.true_or]⟩

theorem State.peerReaches_of_read (hfits : data.length ≤ 64 - addr % 64) (h : s.isLpddr addr = true ∨ isWeight addr = true) :
    s.peerReaches .read addr data :=
  ⟨hfits, by
    rw [State.remoteReach, Bool.or_eq_true]
    exact h⟩

theorem State.serveRemote_read (h : s.peerReaches .read addr data) : s.serveRemote src .read addr data =
    (s.openLine 0xFFFF 0 addr).sendPacket src 1 (.request .read addr
      (if (s.readLine (Reader.of agentPeer s.tick) 0 addr data.length).2 then []
        else (s.readLine (Reader.of agentPeer s.tick) 0 addr data.length).1)) := by
  simp only [State.serveRemote, h.ok, Bool.not_true, Bool.false_eq_true, if_false]

theorem State.serveRemote_write {poison whole : Bool} (h : s.peerReaches (.write poison whole) addr data) :
    s.serveRemote src (.write poison whole) addr data =
      { s with mem := s.mem.write agentPeer 7 addr data poison 0 whole }.sendPacket src 1 (.request (.write poison whole) addr data) := by
  simp only [State.serveRemote, h.ok, Bool.not_true, Bool.false_eq_true, if_false]

theorem State.serveRemote_amo {o : AmoOp} {sg : Bool} (h : s.peerReaches (.amo o sg) addr data) :
    s.serveRemote src (.amo o sg) addr data =
      let atomic := (s.openLine 0xFFFF 0 addr).atomicAt agentPeer 0 7 addr (.amo o sg) data [] false
      atomic.1.sendPacket src 1 (.request (.amo o sg) addr (if atomic.2.2.1 then [] else atomic.2.1)) := by
  simp only [State.serveRemote, h.ok, Bool.not_true, Bool.false_eq_true, if_false]

theorem State.serveRemote_cas {sg : Bool} {cmp : List Byte} (h : s.peerReaches (.cas sg cmp) addr data) :
    s.serveRemote src (.cas sg cmp) addr data =
      let cas := (s.openLine 0xFFFF 0 addr).atomicAt agentPeer 0 7 addr (.cas sg) data cmp false
      cas.1.sendPacket src 1 (.request (.cas sg cmp) addr (if cas.2.2.1 then [] else cas.2.1)) := by
  simp only [State.serveRemote, h.ok, Bool.not_true, Bool.false_eq_true, if_false]

end Requests

/-! ### Endpoints (R470, R473) -/

section Endpoints
variable {s : State} {src ring window off addr : Nat} {data : List Byte}

theorem exec_epPacketArrive_of_waits (h : s.ringWaits ring data.length = true) : exec (.epPacketArrive src ring data) s = .next s := by
  show execEpPacketArrive src ring data s = _
  rw [execEpPacketArrive, if_pos h]

theorem exec_epPacketArrive_of_room {t : State} (h : s.ringWaits ring data.length = false)
    (ht : (s.ringWake ring).ringWrite ring data = some t) : exec (.epPacketArrive src ring data) s = .next t := by
  show execEpPacketArrive src ring data s = _
  rw [execEpPacketArrive, if_neg (by simp [h]), State.epArrive, ht]

theorem exec_epPacketArrive_of_full (h : s.ringWaits ring data.length = false)
    (ht : (s.ringWake ring).ringWrite ring data = none) :
    exec (.epPacketArrive src ring data) s = .next ((s.ringWake ring).countDrop src) := by
  show execEpPacketArrive src ring data s = _
  rw [execEpPacketArrive, if_neg (by simp [h]), State.epArrive, ht]

theorem State.ringWake_wakes {r : EpRing} (h : SMap.find s.link.rings ring = some r) :
    (s.ringWake ring).power.wakes = s.power.wakes + if r.wake then 1 else 0 := by
  rw [State.ringWake, h]
  cases hwake : r.wake <;> simp [hwake]

theorem State.countDrop_lsbDrops (s : State) (src : Nat) : (s.countDrop src).link.lsbDrops = s.link.lsbDrops + 1 := by
  have hlink := congrArg LinkState.lsbDrops (s.atPort_link src fun p => { p with drops := p.drops + 1 })
  exact congrArg (· + 1) hlink

/-- The host's own packet for a window that is still open. -/
def State.hostPacket (s : State) (window : Nat) : Option EpPacket :=
  s.link.packets.find? fun (p : EpPacket) => !p.sealed && p.launch == hostPacketLaunch && p.window == window
def State.hostPacketLen (s : State) (window : Nat) : Nat := ((s.hostPacket window).map fun (p : EpPacket) => p.data.length).getD 0

theorem exec_hostEndpointWrite_of_room (hlen : s.hostPacketLen window + data.length ≤ 4096)
    (hwindow : (SMap.find s.link.windows window).any (·.enabled) = true)
    (hroom : (s.hostPacket window).isSome = true ∨ s.openPackets < 256) : exec (.hostEndpointWrite window off data) s =
      .next (s.appendPacket hostPacketLaunch 0 hostPacketPlace window data (bit off 6)).1 := by
  show execHostEndpointWrite window off data s = _
  have hgo : (decide (4096 < s.hostPacketLen window + data.length) || !(SMap.find s.link.windows window).any (·.enabled)) = false := by
    rw [hwindow, decide_eq_false (Nat.not_lt.2 hlen)]
    rfl
  have hopen : ((s.hostPacket window).isNone && decide (256 ≤ s.openPackets)) = false := by
    rw [Bool.and_eq_false_iff, decide_eq_false_iff_not, Nat.not_le]
    exact hroom.imp (fun hsome => by rw [Option.isNone_eq_false_iff]; exact hsome) id
  exact (if_neg fun h => Bool.false_ne_true (hgo.symm.trans h)).trans (if_neg fun h => Bool.false_ne_true (hopen.symm.trans h))

theorem exec_hostEndpointWrite_of_long (hlen : 4096 < s.hostPacketLen window + data.length) :
    exec (.hostEndpointWrite window off data) s = .next s := by
  show execHostEndpointWrite window off data s = _
  exact if_pos (by rw [Bool.or_eq_true, decide_eq_true_eq]; exact .inl hlen)

/-! ### The host (R488) -/

theorem exec_hostMemoryAccess_of_open {write : Bool} (hup : s.link.hostUp = true) (hroute : s.routeOpen agentHost addr = true)
    (hlpddr : s.isLpddr addr = true) (hfits : data.length ≤ 64 - addr % 64) : exec (.hostMemoryAccess write addr data) s =
      let t := if write && data.length == 64 then s else s.openLine 0xFFFF 0 addr
      .next (if write then { t with mem := t.mem.write agentHost 7 addr data false 0 } else t) := by
  show execHostMemoryAccess write addr data s = _
  rw [execHostMemoryAccess, if_pos (by simp [hup, hroute, hlpddr, hfits])]

theorem exec_hostMemoryAccess_of_closed (h : s.link.hostUp = false ∨ s.routeOpen agentHost addr = false) (write : Bool) :
    exec (.hostMemoryAccess write addr data) s = .next s := by
  show execHostMemoryAccess write addr data s = _
  rw [execHostMemoryAccess, if_neg (by rcases h with h | h <;> simp [h])]

end Endpoints

/-! ### The statement -/

/-- Settles O54: each packet, timer and access by what it finds. -/
theorem transport : Obligations.Transport := by
  unfold Obligations.Transport
  intro s src flow seq ack addr ring window off mark poison whole body op o sg data cmp cls k near woken f now heard y acked out far p
    silent left lost down line answered read casAt fits atomic have_ len g due timer
  have hleft : (List.range 16).foldl (fun s i => s.loseMember i src) (s.declareSilent src) = left := rfl
  clear_value left
  refine ⟨exec_packetArrive_of_accepted, exec_packetArrive_of_keepalive, exec_packetArrive_of_refused, rfl, rfl,
    fun i hi => f.bit_ackOf_map mark hi, s.arrived_silent body src mark, exec_ackArrive_eq,
    fun port at_ hat hacked => ⟨Flow.turn_of_clear hat hacked, Flow.turn_of_marked hat hacked⟩, fun port at_ => Flow.turn_of_early,
    fun q => Flow.mem_expired, exec_retransmitTimeout_of_due, exec_retransmitTimeout_of_none, exec_keepalive_of_quiet,
    exec_keepalive_of_idle, fun hp hout htime => exec_peerSilent_of_quiet hp hout htime hleft, exec_peerSilent_of_idle,
    fun i hi hopened hmember => ?_, exec_remoteRequest_of_open, exec_remoteRequest_of_closed, fun hfits hreach hop => ?_,
    State.serveRemote_of_refused, fun hfits h hop => ?_, fun hfits h hop => ?_, fun hfits h hop => ?_, exec_epPacketArrive_of_waits,
    fun h t => exec_epPacketArrive_of_room h, exec_epPacketArrive_of_full, fun r => State.ringWake_wakes, s.countDrop_lsbDrops src,
    exec_hostEndpointWrite_of_room, exec_hostEndpointWrite_of_long, fun hup hroute hlpddr hfits => ?_, fun h w => exec_hostMemoryAccess_of_closed h w⟩
  · have h := State.loseMembers_aborted (s := s.declareSilent src) hi (.inr ⟨hopened, hmember⟩)
    rw [hleft] at h
    exact h
  · subst hop
    exact State.serveRemote_read (State.peerReaches_of_read hfits hreach)
  · subst hop
    exact State.serveRemote_write (State.peerReaches_of_lpddr hfits h)
  · subst hop
    exact State.serveRemote_amo (State.peerReaches_of_lpddr hfits h)
  · subst hop
    exact State.serveRemote_cas (State.peerReaches_of_lpddr hfits h)
  · refine ⟨?_, exec_hostMemoryAccess_of_open hup hroute hlpddr hfits⟩
    rw [exec_hostMemoryAccess_of_open hup hroute hlpddr hfits]
    simp only [Bool.true_and, beq_iff_eq, if_true]
    rfl

end Sys2Proof.Machine
end

section
/-! PROOFS. Commands about pages (R435 to R446): MAP, UNMAP, MIGRATE, and the walks that fill the TLBs. -/

namespace Sys2Proof.Machine

/-! ### The entries of a MAP (R435, R438) -/

theorem SMap.find_filter_key {α : Type} (m : SMap α) {f : Nat → Bool} {k : Nat} (h : f k = true) :
    SMap.find (m.filter fun e => f e.1) k = SMap.find m k := by
  induction m with
  | nil => rfl
  | cons e m ih =>
    obtain ⟨a, v⟩ := e
    rw [List.filter_cons]
    by_cases hak : a = k
    · subst hak
      rw [if_pos h]
      simp [SMap.find]
    · split
      · simp only [SMap.find, if_neg hak, ih]
      · rw [ih]
        simp [SMap.find, hak]

/-- What insertions under other keys leave. -/
theorem SMap.find_foldl_insert_other {α : Type} {key : Nat → Nat} {val : Nat → α} {l : List Nat} {k : Nat} (h : ∀ i ∈ l, k ≠ key i)
    (m : SMap α) : SMap.find (l.foldl (fun m i => SMap.insert m (key i) (val i)) m) k = SMap.find m k :=
  List.foldlRecOn (motive := fun r : SMap α => SMap.find r k = SMap.find m k) l _ rfl fun _ hr i hi =>
    (SMap.find_insert_other (h i hi)).trans hr

/-- Each of some insertions under different keys stands in the end. -/
theorem SMap.find_foldl_insert_same {α : Type} {key : Nat → Nat} {val : Nat → α} {l : List Nat} {i : Nat} (hi : i ∈ l)
    (hkey : ∀ j, key i = key j → i = j) (m : SMap α) :
    SMap.find (l.foldl (fun m i => SMap.insert m (key i) (val i)) m) (key i) = some (val i) := by
  refine foldl_holds (p := fun r : SMap α => SMap.find r (key i) = some (val i)) hi (fun _ j _ hr => ?_)
    (fun _ => SMap.find_insert_same ..) m
  by_cases hij : key i = key j
  · rw [← hkey j hij]
    exact SMap.find_insert_same ..
  · exact (SMap.find_insert_other hij).trans hr

theorem pageGranules_pos (size : Nat) : 0 < pageGranules size := by
  unfold pageGranules
  split <;> decide

theorem Ctx.install_same {c : Ctx} {m : MapArg} {i : Nat} (h : i < m.count) :
    SMap.find (c.install m).pages (m.va / 65536 + pageGranules m.size * i) =
      some (pteOf m.size m.state (bit m.perm 0) (bit m.perm 1) (bit m.perm 2) (bit m.perm 3)
        (if m.state = 1 then 0 else m.pa + 65536 * pageGranules m.size * i) m.wreg) :=
  SMap.find_foldl_insert_same (key := fun i => m.va / 65536 + pageGranules m.size * i) (List.mem_range.2 h)
    (fun _ heq => Nat.eq_of_mul_eq_mul_left (pageGranules_pos m.size) (Nat.add_left_cancel heq)) _

theorem Ctx.install_other {c : Ctx} {m : MapArg} {p : Nat}
    (h : p < m.va / 65536 ∨ m.va / 65536 + m.count * pageGranules m.size ≤ p) : SMap.find (c.install m).pages p = SMap.find c.pages p := by
  refine (SMap.find_foldl_insert_other (key := fun i => m.va / 65536 + pageGranules m.size * i) (fun i hi => ?_) _).trans
    (SMap.find_filter_key c.pages (f := fun k => decide (k < m.va / 65536) || decide (m.va / 65536 + m.count * pageGranules m.size ≤ k))
      (by simpa using h))
  have hlt : pageGranules m.size * (i + 1) ≤ pageGranules m.size * m.count := Nat.mul_le_mul_left _ (List.mem_range.1 hi)
  rw [Nat.mul_comm (pageGranules m.size) m.count, Nat.mul_add, Nat.mul_one] at hlt
  have hpos := pageGranules_pos m.size
  omega

/-! ### MAP and UNMAP (R438, R441 to R443) -/

section Mapping
variable {s t : State} {m : MapArg} {ctx size va pa count tag : Nat}

theorem exec_map_of_bad (h : s.mapOk m = false) : exec (.map m) s = .next (s.adminFault m.tag) := by
  show execMap m s = _
  rw [execMap, if_pos (by simp [h])]

theorem exec_map_of_flight (h : s.mapOk m = true) (hflight : s.inFlight m.ctx (m.va / 65536) (m.count * pageGranules m.size) = true) :
    exec (.map m) s = .next s := by
  show execMap m s = _
  exact congrArg Host.Outcome.next ((if_neg (by simp [h])).trans (if_pos hflight))

/-- A MAP whose pages no access is on its way to takes its tables. -/
theorem exec_map_of_still (h : s.mapOk m = true) (hflight : s.inFlight m.ctx (m.va / 65536) (m.count * pageGranules m.size) = false)
    {u : State} (hu : (match s.tablesFor m.ctx m.size (pageRun m.va m.size m.count) with
      | none => s.adminFault m.tag
      | some t => (((((t.setCtx m.ctx ((t.ctx m.ctx).install m)).writeRun m.ctx (pageRun m.va m.size m.count)).tlbDrop m.ctx (m.va / 65536)
        (m.count * pageGranules m.size)).resolve m.ctx (m.va / 65536) (m.count * pageGranules m.size)).replay m.ctx (m.va / 65536)
        (m.count * pageGranules m.size)).adminOk m.tag) = u) : exec (.map m) s = .next u := by
  show execMap m s = _
  rw [← hu]
  exact congrArg Host.Outcome.next ((if_neg (by simp [h])).trans (if_neg (by rw [rangeGranules, hflight]; exact Bool.false_ne_true)))

theorem exec_map_of_room (h : s.mapOk m = true) (hflight : s.inFlight m.ctx (m.va / 65536) (m.count * pageGranules m.size) = false)
    (htables : s.tablesFor m.ctx m.size (pageRun m.va m.size m.count) = some t) : exec (.map m) s = .next
      ((((((t.setCtx m.ctx ((t.ctx m.ctx).install m)).writeRun m.ctx (pageRun m.va m.size m.count)).tlbDrop m.ctx (m.va / 65536)
        (m.count * pageGranules m.size)).resolve m.ctx (m.va / 65536) (m.count * pageGranules m.size)).replay m.ctx (m.va / 65536)
        (m.count * pageGranules m.size)).adminOk m.tag) :=
  exec_map_of_still h hflight (by rw [htables])

theorem exec_map_of_full (h : s.mapOk m = true) (hflight : s.inFlight m.ctx (m.va / 65536) (m.count * pageGranules m.size) = false)
    (htables : s.tablesFor m.ctx m.size (pageRun m.va m.size m.count) = none) : exec (.map m) s = .next (s.adminFault m.tag) :=
  exec_map_of_still h hflight (by rw [htables])

theorem exec_unmap_of_bad (h : s.unmapOk ctx size va count = false) :
    exec (.unmap ctx size va count tag) s = .next (s.adminFault tag) := by
  show execUnmap ctx size va count tag s = _
  rw [execUnmap, if_pos (by simp [h])]

theorem exec_unmap_of_still (h : s.unmapOk ctx size va count = true)
    (hflight : s.inFlight ctx (va / 65536) (count * pageGranules size) = false) : exec (.unmap ctx size va count tag) s =
      let unpinned := { s with mem := s.mem.unpin (s.pinnedIn ctx (va / 65536) (count * pageGranules size)) }
      .next ((((((unpinned.setCtx ctx ((s.ctx ctx).uninstall (va / 65536) (count * pageGranules size))).writeRun ctx
        (pageRun va size count)).tlbDrop ctx (va / 65536) (count * pageGranules size)).resolve ctx (va / 65536)
        (count * pageGranules size)).failParked ctx (va / 65536) (count * pageGranules size)).adminOk tag) := by
  show execUnmap ctx size va count tag s = _
  exact congrArg Host.Outcome.next ((if_neg (by simp [h])).trans (if_neg (by rw [rangeGranules, hflight]; exact Bool.false_ne_true)))

/-! ### MIGRATE (R440) -/

theorem exec_migrate_of_bad (h : s.migrateOk ctx size va pa = false) :
    exec (.migrate ctx size va pa tag) s = .next (s.adminFault tag) := by
  show execMigrate ctx size va pa tag s = _
  rw [execMigrate, if_pos (by simp [h])]

theorem exec_migrate_of_still {e : Nat} (h : s.migrateOk ctx size va pa = true)
    (hflight : s.inFlight ctx (va / 65536) (pageGranules size) = false) (hpage : (s.ctx ctx).pageAt size va = some e) :
    exec (.migrate ctx size va pa tag) s =
      let aside := s.setCtx ctx { s.ctx ctx with pages := SMap.insert (s.ctx ctx).pages (va / 65536) (pteWithState e 2) }
      let marked := { aside with migrations := s.migrations ++ [({ ctx := ctx, va := va, size := size, pa := pa } : Migration)] }
      .next ((marked.tlbDrop ctx (va / 65536) (pageGranules size)).adminOk tag) := by
  have he : e = ((s.ctx ctx).pageAt size va).getD 0 := by rw [hpage, Option.getD_some]
  clear hpage
  subst he
  show execMigrate ctx size va pa tag s = _
  exact congrArg Host.Outcome.next ((if_neg (by simp [h])).trans (if_neg (by simp [hflight])))

theorem exec_migrateCopyDone_of_none (h : s.migrations.find? (fun y => y.ctx == ctx && y.va == va) = none) :
    exec (.migrateCopyDone ctx va) s = .next s := by
  show execMigrateCopyDone ctx va s = _
  rw [execMigrateCopyDone, h]

theorem exec_migrateCopyDone_of_page {x : Migration} {e : Nat}
    (h : s.migrations.find? (fun y => y.ctx == ctx && y.va == va) = some x) (hpage : (s.ctx ctx).pageAt x.size va = some e) :
    exec (.migrateCopyDone ctx va) s =
      let c := s.ctx ctx
      let copied := s.moveFrame c.keyId (s.foldPa (ptePa e)) (s.foldPa x.pa) (65536 * pageGranules x.size)
      let moved := { copied with migrations := copied.migrations.filter fun y => !(y.ctx == ctx && y.va == va) }
      let landed := (moved.setCtx ctx { c with pages := SMap.insert c.pages (va / 65536) (pteWithPa (pteWithState e 0) x.pa) }).writeRun ctx [va]
      .next (((landed.tlbDrop ctx (va / 65536) (pageGranules x.size)).resolve ctx (va / 65536) (pageGranules x.size)).replay ctx (va / 65536)
        (pageGranules x.size)) := by
  show execMigrateCopyDone ctx va s = _
  rw [execMigrateCopyDone, h]
  dsimp only
  rw [hpage]
  rfl

theorem State.moveFrame_of_own {key old new len : Nat} (hold : peerOf old = none) (hnew : peerOf new = none) :
    s.moveFrame key old new len = { s with mem := s.mem.copyFrame old new len } := by
  rw [State.moveFrame, if_pos (by simp [hold, hnew])]

end Mapping

/-! ### Page walks (R436, R437) -/

section Walks
variable {s : State} {ctx va die cluster : Nat}

/-- The walk of a die for the page of an address. -/
def State.walkFor (s : State) (die ctx va : Nat) : Option Walk := (s.die die).walks.find? fun y => y.ctx == ctx && y.page == va / 65536
/-- The state in which the walks of a die for a page are over. -/
def State.walkDone (s : State) (die ctx va : Nat) : State :=
  s.setDie die { s.die die with walks := (s.die die).walks.filter fun y => !(y.ctx == ctx && y.page == va / 65536) }

theorem exec_pageWalkComplete_of_none (h : s.walkFor die ctx va = none) : exec (.pageWalkComplete ctx va die cluster) s = .next s := by
  show execPageWalkComplete ctx va die cluster s = _
  rw [execPageWalkComplete]
  dsimp only
  rw [show List.find? _ _ = _ from h]

/-- A walk names its page. -/
theorem State.walkFor_page {w : Walk} (h : s.walkFor die ctx va = some w) : w.page = va / 65536 := by
  have hw := List.find?_some h
  rw [Bool.and_eq_true, beq_iff_eq, beq_iff_eq] at hw
  exact hw.2

theorem exec_pageWalkComplete_of_held (h : s.walkOpen die (s.ctx ctx) va = false) :
    exec (.pageWalkComplete ctx va die cluster) s = .next s := by
  cases hwalk : s.walkFor die ctx va with
  | none => exact exec_pageWalkComplete_of_none hwalk
  | some w =>
    unfold State.walkFor at hwalk
    show execPageWalkComplete ctx va die cluster s = _
    simp only [execPageWalkComplete, hwalk, h, Bool.not_false, if_true]

section Open
variable {w : Walk} (hwalk : s.walkFor die ctx va = some w) (hopen : s.walkOpen die (s.ctx ctx) va = true)
include hwalk hopen

theorem exec_pageWalkComplete_of_bad (hbad : (s.walkDone die ctx va).walkBad (s.ctx ctx) va = true) :
    exec (.pageWalkComplete ctx va die cluster) s = .next ((s.walkDone die ctx va).breakCtx ctx) := by
  have hpage := State.walkFor_page hwalk
  unfold State.walkFor at hwalk
  unfold State.walkDone at hbad ⊢
  show execPageWalkComplete ctx va die cluster s = _
  simp only [execPageWalkComplete, hwalk, hpage, hopen, hbad, Bool.not_true, Bool.false_eq_true, if_false, if_true]

/-- The translation of a walk enters the buffer of its die, and those of the clusters that shared it. -/
def State.fillAll (s : State) (die : Nat) (clusters : List Nat) (x : TlbEntry) : State :=
  clusters.foldl (fun s k => s.tlbFill die (some k) x) (s.tlbFill die none x)

theorem exec_pageWalkComplete_of_good {base e : Nat} (hbad : (s.walkDone die ctx va).walkBad (s.ctx ctx) va = false)
    (hleaf : (s.ctx ctx).leaf va = some (base, e)) : exec (.pageWalkComplete ctx va die cluster) s =
      .next ((s.walkDone die ctx va).fillAll die w.clusters { ctx := ctx, page := base, size := pteSize e, leaf := e }) := by
  have hpage := State.walkFor_page hwalk
  unfold State.walkFor at hwalk
  unfold State.walkDone at hbad ⊢
  show execPageWalkComplete ctx va die cluster s = _
  simp only [execPageWalkComplete, hwalk, hpage, hopen, hbad, hleaf, Bool.not_true, Bool.false_eq_true, if_false, State.fillAll]

end Open

theorem State.tlbFill_mem (s : State) (die : Nat) (cluster : Option Nat) (x : TlbEntry) : (s.tlbFill die cluster x).mem = s.mem := by
  obtain ⟨ds, cs, h⟩ := s.tlbFill_frame die cluster x
  rw [h]

theorem State.tlbFill_walks (s : State) (die : Nat) (cluster : Option Nat) (x : TlbEntry) :
    ((s.tlbFill die cluster x).die die).walks = (s.die die).walks := by rw [State.tlbFill_die]

theorem State.fillAll_mem (s : State) (die : Nat) (clusters : List Nat) (x : TlbEntry) : (s.fillAll die clusters x).mem = s.mem :=
  List.foldlRecOn (motive := fun t : State => t.mem = s.mem) clusters _ (s.tlbFill_mem die none x) fun t ht k _ =>
    (t.tlbFill_mem die (some k) x).trans ht

theorem State.fillAll_walks (s : State) (die : Nat) (clusters : List Nat) (x : TlbEntry) :
    ((s.fillAll die clusters x).die die).walks = (s.die die).walks :=
  List.foldlRecOn (motive := fun t : State => (t.die die).walks = (s.die die).walks) clusters _ (s.tlbFill_walks die none x)
    fun t ht k _ => (t.tlbFill_walks die (some k) x).trans ht

theorem State.mem_fillAll_die (s : State) (die : Nat) (clusters : List Nat) (x : TlbEntry) : x ∈ ((s.fillAll die clusters x).die die).tlb :=
  List.foldlRecOn (motive := fun t : State => x ∈ (t.die die).tlb) clusters _ (s.mem_tlbFill_die die none x)
    fun t _ k _ => t.mem_tlbFill_die die (some k) x

theorem State.mem_fillAll_cluster (s : State) (die : Nat) {clusters : List Nat} {k : Nat} (hk : k ∈ clusters) (x : TlbEntry) :
    x ∈ ((s.fillAll die clusters x).cluster k).tlb := by
  refine foldl_holds (p := fun t : State => x ∈ (t.cluster k).tlb) hk (fun t j _ ht => ?_) (fun t => t.mem_tlbFill_cluster die k x) _
  by_cases hjk : k = j
  · subst hjk
    exact t.mem_tlbFill_cluster die k x
  · rw [State.tlbFill_some, State.cluster_setCluster_other hjk, State.tlbFill_none]
    exact ht

/-- Does a translation lie outside a range of a context? -/
def keptBy (ctx g n : Nat) (t : TlbEntry) : Bool :=
  t.ctx != ctx || decide (g + n ≤ t.page) || decide (t.page + pageGranules t.size ≤ g)

/-- What a range leaves in the buffer of a die (R438). -/
theorem State.mem_tlbDrop_die {g n d : Nat} {y : TlbEntry} : y ∈ ((s.tlbDrop ctx g n).die d).tlb ↔
    y ∈ (s.die d).tlb ∧ (y.ctx ≠ ctx ∨ g + n ≤ y.page ∨ y.page + pageGranules y.size ≤ g) := by
  have hfind : SMap.find (s.tlbDrop ctx g n).dies d =
      (SMap.find s.dies d).map fun x => { x with tlb := x.tlb.filter (keptBy ctx g n) } :=
    SMap.find_map s.dies (fun x : Die => ({ x with tlb := x.tlb.filter (keptBy ctx g n) } : Die)) d
  have hdie : ((s.tlbDrop ctx g n).die d).tlb = (s.die d).tlb.filter (keptBy ctx g n) := by
    rw [State.die, SMap.get, hfind, State.die, SMap.get]
    cases SMap.find s.dies d with
    | none => rfl
    | some x => rfl
  rw [hdie, List.mem_filter]
  simp [keptBy, or_assoc]

end Walks

/-! ### The statement -/

/-- Settles O45: a command by whether its operands hold and an access is on its way, a copy and a walk by what they find, the entries of a
MAP as insertions under different keys. -/
theorem pageCommands : Obligations.PageCommands := by
  unfold Obligations.PageCommands
  refine ⟨?_, fun c m i hi => ⟨Ctx.install_same hi, fun p hp => Ctx.install_other hp⟩⟩
  intro s m ctx size va pa count tag die cluster base e x g n h k c len aside marked copied moved landed vas tables unpinned d done walk
  refine ⟨fun hok hflight t ht => exec_map_of_room hok hflight ht, exec_map_of_full, exec_map_of_flight, exec_map_of_bad,
    exec_unmap_of_still, exec_unmap_of_bad, exec_migrate_of_still, exec_migrate_of_bad, exec_migrateCopyDone_of_page,
    State.moveFrame_of_own, exec_migrateCopyDone_of_none, exec_pageWalkComplete_of_none, exec_pageWalkComplete_of_held,
    fun w => exec_pageWalkComplete_of_bad, fun w hwalk hopen hbad hleaf => ?_, fun d y => State.mem_tlbDrop_die⟩
  refine ⟨_, exec_pageWalkComplete_of_good hwalk hopen hbad hleaf, State.fillAll_mem .., State.mem_fillAll_die ..,
    fun k hk => State.mem_fillAll_cluster _ die hk _, fun y hy hpage => ?_⟩
  rw [State.fillAll_walks, State.walkDone, State.die_setDie_same] at hy
  have hkeep := (List.mem_filter.1 hy).2
  rw [hpage.1, hpage.2] at hkeep
  simp [h] at hkeep

end Sys2Proof.Machine
end

section
/-! PROOFS. Weight regions (R447 to R450), the tracked window (R452), and the snapshot and stream of a checkpoint (R454, R455). -/

namespace Sys2Proof.Machine

/-! ### Regions and transactions (R447 to R451) -/

section Regions
variable {s : State} {ctx region delta va src count tag : Nat}

theorem exec_wreg_of_ok (h : s.wregOk ctx region delta = true) :
    exec (.wreg ctx region delta tag) s = .next ((s.setRegion ctx region { delta := delta }).adminOk tag) := by
  show execWreg ctx region delta tag s = _
  rw [execWreg, if_pos h]

theorem exec_wreg_of_bad (h : s.wregOk ctx region delta = false) : exec (.wreg ctx region delta tag) s = .next (s.adminFault tag) := by
  show execWreg ctx region delta tag s = _
  rw [execWreg, if_neg (by simp [h])]

theorem exec_wbegin_of_idle (hidle : s.txIs ctx region (· == .idle) = true)
    (hbound : s.boundLaunch ctx region (fun v => decide (v < (s.region ctx region).current)) = false) :
    exec (.wbegin ctx region tag) s =
      .next ((s.setRegion ctx region { s.region ctx region with tx := .opened, written := [] }).adminOk tag) := by
  show execWbegin ctx region tag s = _
  exact congrArg Host.Outcome.next (if_pos (by rw [hidle, hbound]; rfl))

theorem exec_wbegin_of_busy (hidle : s.txIs ctx region (· == .idle) = false) :
    exec (.wbegin ctx region tag) s = .next (s.adminFault tag) := by
  show execWbegin ctx region tag s = _
  exact congrArg Host.Outcome.next (if_neg (by rw [hidle]; exact Bool.false_ne_true))

theorem exec_wcommit_of_first (hopen : s.txIs ctx region (· == .opened) = true) (hcommit : (s.region ctx region).commit = false) :
    exec (.wcommit ctx region tag) s = .next (s.setRegion ctx region { s.region ctx region with commit := true }) := by
  show execWcommit ctx region tag s = _
  rw [execWcommit]
  exact congrArg Host.Outcome.next ((if_neg (by simp [hopen])).trans (if_neg (by simp [hcommit])))

theorem exec_wcommit_of_second (hopen : s.txIs ctx region (· == .opened) = true) (hcommit : (s.region ctx region).commit = true) :
    exec (.wcommit ctx region tag) s = .next ((s.commitRegion ctx region).adminOk tag) := by
  show execWcommit ctx region tag s = _
  rw [execWcommit]
  exact congrArg Host.Outcome.next ((if_neg (by simp [hopen])).trans (if_pos hcommit))

theorem exec_wcommit_of_closed (hopen : s.txIs ctx region (· == .opened) = false) :
    exec (.wcommit ctx region tag) s = .next (s.adminFault tag) := by
  show execWcommit ctx region tag s = _
  rw [execWcommit]
  exact congrArg Host.Outcome.next (if_pos (by simp [hopen]))

theorem exec_wabort_of_busy (h : s.txIs ctx region (· != .idle) = true) : exec (.wabort ctx region tag) s =
    .next ((s.setRegion ctx region (s.region ctx region).rollBack).adminOk tag) := by
  show execWabort ctx region tag s = _
  rw [execWabort, if_pos h]

/-- An idle transaction is none that goes on. -/
theorem State.txIs_busy_of_idle (h : s.txIs ctx region (· == .idle) = true) : s.txIs ctx region (· != .idle) = false := by
  simp only [State.txIs, Bool.and_eq_true] at h ⊢
  obtain ⟨-, hidle⟩ := h
  cases hfind : SMap.find (s.ctx ctx).regions region with
  | none => simp
  | some r =>
    rw [hfind, Option.any_some, beq_iff_eq] at hidle
    rw [Option.any_some, hidle]
    simp

theorem exec_wabort_of_idle (h : s.txIs ctx region (· == .idle) = true) :
    exec (.wabort ctx region tag) s = .next (s.adminFault tag) := by
  show execWabort ctx region tag s = _
  rw [execWabort, if_neg (by simp [State.txIs_busy_of_idle h])]

/-! ### WPAGE (R449) -/

/-- The next granule of a WPAGE by what the read of its source comes to. -/
theorem State.wpageRun_cons {i g done : Nat} {rest : List (Nat × Nat)} {r : RangeRead}
    (h : s.cpRead ctx (src + 65536 * i) 65536 = r) : s.wpageRun ctx region src done ((i, g) :: rest) =
      match (generalizing := false) r with
      | .bytes bs false =>
        let s := s.openRange ctx (fun r => (s.region ctx r).current) (src + 65536 * i) 65536
        match s.writeGranule ctx region g bs with
        | (t, false) => t.wpageRun ctx region src (done + 1) rest
        | (t, true) => (t, .fault, done)
      | .park a => (s, .park a, done)
      | _ => (s, .fault, done) := by
  subst h
  rfl

theorem State.wpageRun_of_park {i g done a : Nat} {rest : List (Nat × Nat)} (h : s.cpRead ctx (src + 65536 * i) 65536 = .park a) :
    s.wpageRun ctx region src done ((i, g) :: rest) = (s, .park a, done) :=
  State.wpageRun_cons h

theorem State.wpageRun_of_bytes {i g done : Nat} {rest : List (Nat × Nat)} {bs : List Byte}
    (h : s.cpRead ctx (src + 65536 * i) 65536 = .bytes bs false) : s.wpageRun ctx region src done ((i, g) :: rest) =
      let u := (s.openRange ctx (fun x => (s.region ctx x).current) (src + 65536 * i) 65536).writeGranule ctx region g bs
      if u.2 then (u.1, .fault, done) else u.1.wpageRun ctx region src (done + 1) rest := by
  rw [State.wpageRun_cons h]
  dsimp only
  generalize (s.openRange ctx (fun x => (s.region ctx x).current) (src + 65536 * i) 65536).writeGranule ctx region g bs = u
  obtain ⟨t, bad⟩ := u
  cases bad <;> rfl

/-- WPAGE names whole pages of its region. -/
def State.wpagePages (s : State) (ctx region va count : Nat) : Prop :=
  va % 65536 = 0 ∧ 0 < count ∧ count ≤ 65536 ∧ ∀ i < count, ∃ b e, (s.ctx ctx).leaf (va + 65536 * i) = some (b, e) ∧
    pteState e = 5 ∧ pteWreg e = region

/-- Is page `i` of a range a WEIGHT page of a region? -/
def Ctx.weightPage (c : Ctx) (region va i : Nat) : Bool :=
  match c.leaf (va + 65536 * i) with
  | some (_, e) => pteState e == pgWeight && pteWreg e == region
  | none => false

theorem exec_wpage_of_held (h : ¬ s.power.kiln ≠ .held) : exec (.wpage ctx region va src count tag) s = .next s := by
  show execWpage ctx region va src count tag s = _
  exact if_pos (by rw [not_not.1 h]; rfl)

/-- Out of a kiln hold, a WPAGE whose transaction is not open, or holds its COMMIT, faults. -/
theorem exec_wpage_of_bad (h : s.power.kiln ≠ .held)
    (hbad : s.txIs ctx region (· == .opened) = false ∨ (s.region ctx region).commit = true) :
    exec (.wpage ctx region va src count tag) s = .next ((s.setWpage 0).adminFault tag) := by
  show execWpage ctx region va src count tag s = _
  refine (if_neg (by simpa using h)).trans (if_pos ?_)
  rcases hbad with hbad | hbad <;> simp [hbad]

theorem exec_wpage_of_good (h : s.power.kiln ≠ .held) (hopen : s.txIs ctx region (· == .opened) = true)
    (hcommit : (s.region ctx region).commit = false) (hpages : s.wpagePages ctx region va count) {r : State × WpageEnd × Nat}
    (hrun : s.wpageRun ctx region src s.cmd.wpageDone
      (((List.range count).map fun i => (i, va / 65536 + i)).drop s.cmd.wpageDone) = r) :
    exec (.wpage ctx region va src count tag) s = .next (match r.2.1 with
      | .ok => (r.1.setWpage 0).adminOk tag
      | .fault => (r.1.setWpage 0).adminFault tag
      | .park a => (r.1.setWpage r.2.2).cpPark ctx a 0 false) := by
  obtain ⟨hva, hpos, hmost, hin⟩ := hpages
  have hall : (List.range count).all ((s.ctx ctx).weightPage region va) = true := List.all_eq_true.2 fun i hi => by
    obtain ⟨b, e, hleaf, hstate, hwreg⟩ := hin i (List.mem_range.1 hi)
    rw [Ctx.weightPage, hleaf]
    simp [hstate, hwreg, pgWeight]
  have hgood : (!s.txIs ctx region (· == .opened) || (s.region ctx region).commit || va % 65536 != 0 || decide (count = 0) ||
      decide (65536 < count) || !(List.range count).all ((s.ctx ctx).weightPage region va)) = false := by
    rw [hopen, hcommit, hva, hall, decide_eq_false (Nat.pos_iff_ne_zero.1 hpos), decide_eq_false (Nat.not_lt.2 hmost)]
    rfl
  rw [← List.map_drop] at hrun
  rw [← hrun]
  show execWpage ctx region va src count tag s = _
  exact (if_neg (by simpa using h)).trans (if_neg fun hno => Bool.false_ne_true (hgood.symm.trans hno))

end Regions

/-! ### The tracked window (R452) -/

section Window
variable {s : State} {ctx base len tag : Nat}

theorem exec_ckcfg_of_good (husable : s.usable ctx = true) (hbase : base % 2 ^ 30 = 0) (hlen : len ≤ 4096)
    (hend : base + len * 2 ^ 30 ≤ 2 ^ 52) : exec (.ckcfg ctx base len tag) s =
      let new := if len = 0 then none else some (base, len)
      .next ((s.setCtx ctx { s.ctx ctx with
        window := new, dirty := if (s.ctx ctx).window = new then (s.ctx ctx).dirty else [] }).adminOk tag) := by
  show execCkcfg ctx base len tag s = _
  exact congrArg Host.Outcome.next (if_pos (by rw [husable, hbase, decide_eq_true hlen, decide_eq_true hend]; rfl))

theorem exec_ckcfg_of_unaligned (hbase : base % 2 ^ 30 ≠ 0) : exec (.ckcfg ctx base len tag) s = .next (s.adminFault tag) := by
  show execCkcfg ctx base len tag s = _
  exact congrArg Host.Outcome.next (if_neg (by rw [beq_eq_false_iff_ne.2 hbase, Bool.and_false]; exact Bool.false_ne_true))

end Window

/-! ### The snapshot (R454) -/

section Snapshot
variable {s : State} {ctx granule : Nat} {p : Ckpt}

/-- A checkpoint for whose snapshot the time has come. -/
structure State.snapshotNow (s : State) (ctx : Nat) (p : Ckpt) : Prop where
  ckpt : (s.ctx ctx).ckpt = some p
  running : s.power.kiln = .running
  taken : p.taken = false
  failed : p.failed = false
  cmds : p.cmds ≠ []
  waits : s.ckptWaits p.launch p.gen = false
  arrived : s.allArrived p.launch p.gen = true

/-- The checkpoint that the snapshot makes of it. -/
def State.snapshotOf (s : State) (ctx : Nat) (p : Ckpt) : Ckpt :=
  { p with taken := true, number := (s.ctx ctx).ckptGen + 1, manifest := (s.ctx ctx).dirty, time := s.power.dtime }
def State.snapped (s : State) (ctx : Nat) (p : Ckpt) : State :=
  s.setCtx ctx { s.ctx ctx with
    pending := (s.ctx ctx).dirty, dirty := [], ckptGen := (s.ctx ctx).ckptGen + 1, ckpt := some (s.snapshotOf ctx p) }

theorem exec_ckptSnapshot_of_now (h : s.snapshotNow ctx p) : exec (.ckptSnapshot ctx) s =
    .next (if p.capacity < ckptHead (s.ctx ctx).dirty.length + 65536 * (s.ctx ctx).dirty.length then
      (s.snapped ctx p).failCkpt ctx (s.snapshotOf ctx p) else s.snapped ctx p) := by
  have hgo : (p.taken || p.failed || p.cmds.isEmpty || s.ckptWaits p.launch p.gen || !s.allArrived p.launch p.gen ||
      s.power.kiln != .running) = false := by
    rw [h.taken, h.failed, List.isEmpty_eq_false_iff.2 h.cmds, h.waits, h.arrived, h.running]
    rfl
  show execCkptSnapshot ctx s = _
  rw [execCkptSnapshot]
  dsimp only
  rw [h.ckpt]
  exact congrArg Host.Outcome.next (if_neg fun hno => Bool.false_ne_true (hgo.symm.trans hno))

theorem exec_ckptSnapshot_of_early (hckpt : (s.ctx ctx).ckpt = some p) (h : s.allArrived p.launch p.gen = false) :
    exec (.ckptSnapshot ctx) s = .next s := by
  show execCkptSnapshot ctx s = _
  rw [execCkptSnapshot]
  dsimp only
  rw [hckpt]
  exact congrArg Host.Outcome.next (if_pos (by rw [h]; simp))

/-! ### The stream (R455) -/

/-- Does a granule stand in a checkpoint's stream, and is it its turn: it has parked writes, or no granule that is left has? -/
structure State.streamTurn (s : State) (ctx granule : Nat) (p : Ckpt) : Prop where
  ckpt : (s.ctx ctx).ckpt = some p
  running : s.power.kiln = .running
  taken : p.taken = true
  failed : p.failed = false
  listed : p.manifest.contains granule = true
  pending : (s.ctx ctx).pending.contains granule = true
  turn : s.writeParked ctx granule = true ∨ ∀ g ∈ p.manifest, (s.ctx ctx).pending.contains g = true → s.writeParked ctx g = false

/-- The engine that streams a checkpoint, what it reads of a granule, and where it writes it. -/
def Ckpt.engine (p : Ckpt) : Nat := engineOf ((p.cmds.head?.map (·.1)).getD 0)
def Ckpt.target (p : Ckpt) (granule : Nat) : Nat := p.area + ckptHead p.manifest.length + 65536 * p.manifest.idxOf granule
def State.granuleRead (s : State) (ctx granule : Nat) (p : Ckpt) : RangeRead :=
  s.readRange (Reader.of p.engine s.tick) ctx false (fun r => SMap.get (s.launch p.launch).versions r 0) (65536 * granule) 65536

theorem State.streamTurn.goes (h : s.streamTurn ctx granule p) : (!p.taken || p.failed || !p.manifest.contains granule ||
    !(s.ctx ctx).pending.contains granule || s.power.kiln != .running ||
    ((p.manifest.any fun g => (s.ctx ctx).pending.contains g && s.writeParked ctx g) && !s.writeParked ctx granule)) = false := by
  have hturn : ((p.manifest.any fun g => (s.ctx ctx).pending.contains g && s.writeParked ctx g) && !s.writeParked ctx granule) = false := by
    rcases h.turn with hparked | hnone
    · rw [hparked, Bool.not_true, Bool.and_false]
    · have hany : (p.manifest.any fun g => (s.ctx ctx).pending.contains g && s.writeParked ctx g) = false :=
        List.any_eq_false.2 fun g hg hboth => by
          rw [Bool.and_eq_true] at hboth
          exact absurd hboth.2 (by rw [hnone g hg hboth.1]; exact Bool.false_ne_true)
      rw [hany, Bool.false_and]
  rw [h.taken, h.failed, h.listed, h.pending, h.running, hturn]
  rfl

theorem exec_ckptGranuleStreamed_of_open {bs : List Byte} {bad : Bool} (h : s.streamTurn ctx granule p)
    (hread : s.granuleRead ctx granule p = .bytes bs bad)
    (hprobe : s.probeWrite p.engine ctx false (p.target granule) 65536 = none) : exec (.ckptGranuleStreamed ctx granule) s =
      let t := s.writeRange p.engine 7 ctx (p.target granule) bs bad
      .next ((t.setCtx ctx { t.ctx ctx with pending := (t.ctx ctx).pending.filter (· != granule) }).unprotect ctx [granule]) := by
  have hckpt := h.ckpt
  have hgo := h.goes
  unfold State.granuleRead Ckpt.engine at hread
  unfold Ckpt.engine Ckpt.target at hprobe
  show execCkptGranuleStreamed ctx granule s = _
  simp only [execCkptGranuleStreamed, hckpt, hgo, hread, hprobe, Bool.false_eq_true, if_false, Ckpt.engine, Ckpt.target]

theorem exec_ckptGranuleStreamed_of_denied {bs : List Byte} {bad : Bool} {a : Nat} (h : s.streamTurn ctx granule p)
    (hread : s.granuleRead ctx granule p = .bytes bs bad)
    (hprobe : s.probeWrite p.engine ctx false (p.target granule) 65536 = some (true, a)) :
    exec (.ckptGranuleStreamed ctx granule) s = .next (s.failCkpt ctx p) := by
  have hckpt := h.ckpt
  have hgo := h.goes
  unfold State.granuleRead Ckpt.engine at hread
  unfold Ckpt.engine Ckpt.target at hprobe
  show execCkptGranuleStreamed ctx granule s = _
  simp only [execCkptGranuleStreamed, hckpt, hgo, hread, hprobe, Bool.false_eq_true, if_false]

theorem exec_ckptGranuleStreamed_of_done (hckpt : (s.ctx ctx).ckpt = some p) (h : (s.ctx ctx).pending.contains granule = false) :
    exec (.ckptGranuleStreamed ctx granule) s = .next s := by
  have hstop : (!p.taken || p.failed || !p.manifest.contains granule || !(s.ctx ctx).pending.contains granule ||
      s.power.kiln != .running ||
      ((p.manifest.any fun g => (s.ctx ctx).pending.contains g && s.writeParked ctx g) && !s.writeParked ctx granule)) = true := by
    rw [h, Bool.not_false, Bool.or_true, Bool.true_or, Bool.true_or]
  show execCkptGranuleStreamed ctx granule s = _
  exact (show (match (s.ctx ctx).ckpt with | none => _ | some p => _) = _ by rw [hckpt]; exact if_pos hstop)

end Snapshot

/-! ### The statement -/

/-- Settles O46: a command by the state of its region's transaction, WPAGE granule by granule, the snapshot by its room, the stream by what
the area answers. -/
theorem weightsAndCheckpoints : Obligations.WeightsAndCheckpoints := by
  unfold Obligations.WeightsAndCheckpoints
  refine ⟨?_, ?_⟩
  · intro s ctx region delta va src count base len tag r c idle opened gran reads pages new free
    exact ⟨exec_wreg_of_ok, exec_wreg_of_bad, exec_wbegin_of_idle, exec_wbegin_of_busy,
      fun hfree hopen hcommit hpages t b n hrun => exec_wpage_of_good hfree hopen hcommit hpages hrun,
      fun i g rest n => ⟨fun a => State.wpageRun_of_park, fun bs => State.wpageRun_of_bytes⟩,
      fun hfree _ hcommit => exec_wpage_of_bad hfree (.inr hcommit), fun hfree hopen => exec_wpage_of_bad hfree (.inl hopen),
      exec_wpage_of_held, exec_wcommit_of_first, exec_wcommit_of_second, exec_wcommit_of_closed, exec_wabort_of_busy,
      exec_wabort_of_idle, exec_ckcfg_of_good, exec_ckcfg_of_unaligned⟩
  · intro s ctx granule p bs bad hckpt hrunning c n q snap due dst turn eng read
    refine ⟨fun ⟨htaken, hfailed, hcmds, hwaits, harrived⟩ hroom => ?_, fun ⟨htaken, hfailed, hcmds, hwaits, harrived⟩ hroom => ?_,
      exec_ckptSnapshot_of_early hckpt, fun ⟨htaken, hfailed, hlisted, hpending, hturn⟩ hread hprobe => ?_,
      fun a ⟨htaken, hfailed, hlisted, hpending, hturn⟩ hread hprobe => ?_, exec_ckptGranuleStreamed_of_done hckpt⟩
    · exact (exec_ckptSnapshot_of_now ⟨hckpt, hrunning, htaken, hfailed, hcmds, hwaits, harrived⟩).trans
        (congrArg Host.Outcome.next (if_neg (Nat.not_lt.2 hroom)))
    · exact (exec_ckptSnapshot_of_now ⟨hckpt, hrunning, htaken, hfailed, hcmds, hwaits, harrived⟩).trans
        (congrArg Host.Outcome.next (if_pos hroom))
    · exact exec_ckptGranuleStreamed_of_open ⟨hckpt, hrunning, htaken, hfailed, hlisted, hpending, hturn⟩ hread hprobe
    · exact exec_ckptGranuleStreamed_of_denied ⟨hckpt, hrunning, htaken, hfailed, hlisted, hpending, hturn⟩ hread hprobe

end Sys2Proof.Machine
end

section
/-! PROOFS. O60, the canonical form of memory: the predicate on states, on results and on outcomes, and how it passes through
choices, folds and the operations of the memory. -/

open Sys2Proof

namespace Sys2Proof.Machine

/-- A result that is a state leaves memory in its canonical form. -/
def Res.memWf : Res → Prop
  | .ok t => t.memWf
  | _ => True

/-- An outcome that goes on leaves memory in its canonical form. -/
def NextWf : Host.Outcome State Fault Refusal → Prop
  | .next t => t.memWf
  | _ => True

theorem State.leavesBytes.memWf {s t : State} (hst : s.leavesBytes t) (h : s.memWf) : t.memWf := by
  unfold State.memWf
  rw [hst.cells]
  exact h

theorem State.setGroup_memWf {s : State} {n : Nat} {x : Group} (h : s.memWf) : (s.setGroup n x).memWf := h
theorem State.setCtx_memWf {s : State} {n : Nat} {x : Ctx} (h : s.memWf) : (s.setCtx n x).memWf := h
theorem State.setCore_memWf {s : State} {n : Nat} {x : Core} (h : s.memWf) : (s.setCore n x).memWf := h
theorem State.setCluster_memWf {s : State} {n : Nat} {x : Cluster} (h : s.memWf) : (s.setCluster n x).memWf := h
theorem State.setStrand_memWf {s : State} {n : Nat} {x : Strand} (h : s.memWf) : (s.setStrand n x).memWf := h
theorem memWf_ite {c : Prop} [Decidable c] {s t : State} (hs : s.memWf) (ht : t.memWf) : (if c then s else t).memWf := by
  split
  · exact hs
  · exact ht

theorem Res.memWf_ite {c : Prop} [Decidable c] {r q : Res} (hr : r.memWf) (hq : q.memWf) : (if c then r else q).memWf := by
  split
  · exact hr
  · exact hq

theorem nextWf_ite {c : Prop} [Decidable c] {o p : Host.Outcome State Fault Refusal} (ho : NextWf o) (hp : NextWf p) :
    NextWf (if c then o else p) := by
  split
  · exact ho
  · exact hp

theorem foldl_memWf {α : Type} {f : State → α → State} {l : List α} {s : State}
    (hf : ∀ (s : State) (a : α), s.memWf → (f s a).memWf) (h : s.memWf) : (l.foldl f s).memWf :=
  List.foldlRecOn (motive := State.memWf) l f h fun t ht a _ => hf t a ht

theorem Mem.foldl_wf {α : Type} {f : Mem → α → Mem} {l : List α} {m : Mem}
    (hf : ∀ (m : Mem) (a : α), Memory.wf m.cells = true → Memory.wf (f m a).cells = true) (h : Memory.wf m.cells = true) :
    Memory.wf (l.foldl f m).cells = true :=
  List.foldlRecOn (motive := fun k : Mem => Memory.wf k.cells = true) l f h fun t ht a _ => hf t a ht

/-- What a micro-operation comes to leaves memory in its canonical form. -/
def MicroRes.memWf : MicroRes → Prop
  | .next t | .jump t _ | .fault t _ _ | .stay t => t.memWf

theorem MicroRes.memWf_ite {c : Prop} [Decidable c] {r q : MicroRes} (hr : r.memWf) (hq : q.memWf) :
    (if c then r else q).memWf := by
  split
  · exact hr
  · exact hq

theorem fst_ite_memWf {α : Type} {c : Prop} [Decidable c] {p q : State × α} (hp : p.1.memWf) (hq : q.1.memWf) :
    (if c then p else q).1.memWf := by
  split
  · exact hp
  · exact hq

theorem Res.bind_memWf {r : Res} {f : State → Res} (hr : r.memWf) (hf : ∀ t, t.memWf → (f t).memWf) : (r.bind f).memWf := by
  cases r with
  | ok t => exact hf t hr
  | trap | stall | rollback | deferred => exact trivial

/-! ### A state, if any -/

/-- The state, if there is one, has memory in its canonical form. -/
def OptWf (o : Option State) : Prop := ∀ t, o = some t → t.memWf

theorem optWf_none : OptWf none := fun _ h => absurd h (Option.some_ne_none _).symm
theorem optWf_some {s : State} (h : s.memWf) : OptWf (some s) := fun _ ht => Option.some.inj ht ▸ h

theorem optWf_ite {c : Prop} [Decidable c] {o p : Option State} (ho : OptWf o) (hp : OptWf p) : OptWf (if c then o else p) := by
  split
  · exact ho
  · exact hp

theorem bind_some_wf {α β : Type} {p : α → Prop} {q : β → Prop} {o : Option α} {f : α → Option β}
    (ho : ∀ x, o = some x → p x) (hf : ∀ x, p x → ∀ y, f x = some y → q y) : ∀ y, o.bind f = some y → q y := by
  intro y hy
  obtain ⟨x, hx, hxy⟩ := Option.bind_eq_some_iff.1 hy
  exact hf x (ho x hx) y hxy

theorem map_some_wf {α β : Type} {p : α → Prop} {q : β → Prop} {o : Option α} {f : α → β} (ho : ∀ x, o = some x → p x)
    (hf : ∀ x, p x → q (f x)) : ∀ y, o.map f = some y → q y := by
  intro y hy
  obtain ⟨x, hx, rfl⟩ := Option.map_eq_some_iff.1 hy
  exact hf x (ho x hx)

theorem getD_memWf {o : Option State} {s : State} (ho : OptWf o) (h : s.memWf) : (o.getD s).memWf := by
  cases o with
  | none => exact h
  | some t => exact ho t rfl

/-! ### What stops a form before its effect -/

/-- A check that stops a form stops it in a state whose memory has its canonical form, if in any. -/
def StopWf (o : Option Res) : Prop := ∀ r, o = some r → r.memWf

theorem stopWf_none : StopWf none := fun _ h => absurd h (Option.some_ne_none _).symm
theorem stopWf_trap {c i : Nat} : StopWf (some (.trap c i)) := fun _ h => Option.some.inj h ▸ trivial
theorem stopWf_stall {w : Stall} : StopWf (some (.stall w)) := fun _ h => Option.some.inj h ▸ trivial

theorem stopWf_ite {c : Prop} [Decidable c] {o p : Option Res} (ho : StopWf o) (hp : StopWf p) : StopWf (if c then o else p) := by
  split
  · exact ho
  · exact hp

theorem Res.onlyPosts.memWf {r : Res} {s : State} (hr : r.onlyPosts s) (h : s.memWf) : r.memWf := by
  cases r with
  | ok t =>
    obtain ⟨⟨hrest, -⟩, -⟩ := hr t rfl
    have hmem : t.mem = s.mem := (congrArg State.mem hrest :)
    exact (congrArg (fun m : Mem => Memory.wf m.cells = true) hmem).mpr h
  | trap | stall | rollback | deferred => exact trivial

theorem firstStop_memWf {o : Option Res} {l : List (Option Res)} {k : Unit → Res} (ho : StopWf o) (hl : (firstStop l k).memWf) :
    (firstStop (o :: l) k).memWf := by
  cases o with
  | none => rw [firstStop_none]; exact hl
  | some r => rw [firstStop_some]; exact ho r rfl

/-! ### Operations of the memory -/

theorem Mem.acquire_wf {m : Mem} {heads : List Release} {agent : Nat} {sc : Scope} {n : Nat} (h : Memory.wf m.cells = true) :
    Memory.wf (m.acquire heads agent sc n).cells = true := by
  rw [Mem.acquire_cells]; exact h

theorem Mem.cached_wf {m : Mem} {key pa : Nat} {write : Bool} (h : Memory.wf m.cells = true) :
    Memory.wf (m.cached key pa write).cells = true := by
  rw [Mem.cached_cells]; exact h

end Sys2Proof.Machine
end

section
/-! PROOFS. O60, the canonical form of memory: agents, traps, memory, tiles and loops. -/

open Sys2Proof

namespace Sys2Proof.Machine

variable {s : State} {sid k hd ctx gid lid src code cause slot info idx kind upto va agent n addr band pa launch key
  dest cls d level a g lgm e lv body l cn p stg i : Nat}

/-! ### Ops -/

theorem State.apply_memWf {p : Pending} (h : s.memWf) : (s.apply sid p).memWf := by
  unfold State.apply
  dsimp only
  split <;> exact h

theorem State.deliverDue_memWf (h : s.memWf) : (s.deliverDue sid).memWf := by
  unfold State.deliverDue
  exact foldl_memWf (fun _ _ hs => State.apply_memWf hs) h

theorem State.zeroTile_memWf {t : Tile} (h : s.memWf) : (s.zeroTile k t).memWf :=
  (s.zeroTile_leavesBytes ..).memWf h

theorem State.freeTile_memWf (h : s.memWf) : (s.freeTile k hd).memWf := by
  unfold State.freeTile
  split
  · exact h
  · exact State.zeroTile_memWf h

theorem State.freeTable_memWf (h : s.memWf) : (s.freeTable k).memWf :=
  (s.freeTable_leavesBytes ..).memWf h

theorem State.freeShadow_memWf (h : s.memWf) : (s.freeShadow k).memWf :=
  (s.freeShadow_leavesBytes ..).memWf h

theorem State.forceCores_memWf {cores : List Nat} (h : s.memWf) : (s.forceCores cores).memWf :=
  (s.forceCores_leavesBytes ..).memWf h

theorem State.endGroup_memWf {into : GroupState} (h : s.memWf) : (s.endGroup gid into).memWf :=
  (s.endGroup_leavesBytes ..).memWf h

theorem State.closeBarrier_memWf (h : s.memWf) : (s.closeBarrier lid).memWf :=
  (s.closeBarrier_leavesBytes ..).memWf h

theorem State.abortLaunch_memWf (h : s.memWf) : (s.abortLaunch lid).memWf :=
  (s.abortLaunch_leavesBytes ..).memWf h

theorem State.fixStatus_memWf {status : Status} {esc : EscRecord} (h : s.memWf) : (s.fixStatus lid status esc).memWf :=
  (s.fixStatus_leavesBytes ..).memWf h

theorem State.endLaunches_memWf {ids : List Nat} {status : Status} {esc : EscRecord} (h : s.memWf) :
    (s.endLaunches ids status esc).memWf :=
  (s.endLaunches_leavesBytes ..).memWf h

theorem State.faultLaunch_memWf {esc : EscRecord} (h : s.memWf) : (s.faultLaunch lid esc).memWf := by
  unfold State.faultLaunch
  dsimp only
  split
  · exact State.endLaunches_memWf (State.fixStatus_memWf (State.abortLaunch_memWf h))
  · exact State.fixStatus_memWf (State.abortLaunch_memWf h)

theorem State.trigger_memWf (h : s.memWf) : (s.trigger src code).memWf := by
  unfold State.trigger
  exact memWf_ite h h

theorem State.takeTrap_memWf (h : s.memWf) : (s.takeTrap sid cause slot info idx).memWf := by
  unfold State.takeTrap
  dsimp only
  split
  · exact State.faultLaunch_memWf (State.trigger_memWf h)
  · split
    · exact State.faultLaunch_memWf (State.trigger_memWf h)
    · exact State.trigger_memWf h

theorem State.escalateOutside_memWf (h : s.memWf) : (s.escalateOutside sid cause info kind).memWf := by
  unfold State.escalateOutside
  exact State.faultLaunch_memWf h

theorem State.endTrap_memWf (h : s.memWf) : (s.endTrap cause info).memWf := by
  unfold State.endTrap
  exact State.takeTrap_memWf h

theorem State.endDeferred_memWf (h : s.memWf) : (s.endDeferred cause info upto).memWf := by
  unfold State.endDeferred
  exact State.endTrap_memWf h

theorem finish_nextWf {r : Res} (h : s.memWf) (hr : r.memWf) : NextWf (finish s r) := by
  cases r with
  | ok t => exact hr
  | trap c i => exact State.endTrap_memWf h
  | stall w => exact h
  | rollback i => exact h
  | deferred c i u => exact State.endDeferred_memWf h

/-! ### Fetch -/

theorem slotOp_nextWf_self {i : Instr} {f : State → Res} (h : s.memWf) (hf : (f s).memWf) : NextWf (slotOp i s f) := by
  unfold slotOp
  split
  · exact State.takeTrap_memWf h
  · exact nextWf_ite h (finish_nextWf h hf)

theorem slotOp_nextWf {i : Instr} {f : State → Res} (h : s.memWf) (hf : ∀ t : State, t.memWf → (f t).memWf) :
    NextWf (slotOp i s f) :=
  slotOp_nextWf_self h (hf s h)

/-! ### Memory -/

theorem lgWait_stopWf {named : List Nat} : StopWf (lgWait s named) := by
  intro r hr
  unfold lgWait at hr
  split at hr
  · exact stopWf_trap _ hr
  · obtain ⟨g, -, rfl⟩ := Option.map_eq_some_iff.1 hr
    exact trivial

theorem globalCheck_stopWf {heads addrs named : List Nat} {len w : Nat} {write : Bool} :
    StopWf (globalCheck s heads addrs len w write named) := by
  unfold globalCheck
  split
  · exact stopWf_trap
  · split
    · exact stopWf_trap
    · split
      · exact stopWf_stall
      · split
        · exact stopWf_trap
        · exact lgWait_stopWf

theorem qRoom_stopWf : StopWf (qRoom s n) := stopWf_ite stopWf_trap (stopWf_ite stopWf_stall stopWf_none)
theorem loadRoom_stopWf : StopWf (loadRoom s) := stopWf_ite stopWf_stall stopWf_none
theorem storeRoom_stopWf : StopWf (storeRoom s) := stopWf_ite stopWf_stall stopWf_none
theorem stRoom_stopWf : StopWf (stRoom s) := stopWf_ite stopWf_none storeRoom_stopWf
theorem rangeCheck_stopWf {align : Nat} : StopWf (rangeCheck a n align) :=
  stopWf_ite stopWf_none (stopWf_ite stopWf_trap (stopWf_ite stopWf_trap (stopWf_ite stopWf_trap stopWf_none)))
theorem limitRes_stopWf {bad : Bool} : StopWf (limitRes bad) := stopWf_ite stopWf_trap stopWf_none

theorem popWait_stopWf : StopWf (popWait s n) := by
  unfold popWait
  dsimp only
  split
  · exact stopWf_stall
  · exact stopWf_ite stopWf_stall stopWf_none

theorem popAddress_stopWf (h : s.memWf) : StopWf (popAddress s n) := fun _ hr => (popAddress_onlyPosts hr).memWf h
theorem lowestStop_stopWf {l : List (Option Res)} (hl : ∀ o ∈ l, StopWf o) : StopWf (lowestStop l) :=
  fun r hr => hl _ (lowestStop_mem hr) r rfl

theorem foldl_dropRange_wf {β : Type} (f g : β → Nat) (l : List β) {m : List Host.Cell} (h : Memory.wf m = true) :
    Memory.wf (l.foldl (fun m e => dropRange m (f e) (g e)) m) = true :=
  List.foldlRecOn (motive := fun m => Memory.wf m = true) l _ h fun _ hm _ _ => SMap.wf_filter _ hm

theorem State.writeEntries_memWf (h : s.memWf) : (s.writeEntries ctx va).memWf :=
  foldl_dropRange_wf _ _ _ h

theorem State.startWalk_memWf (h : s.memWf) : (s.startWalk agent ctx va).memWf := by
  unfold State.startWalk
  split
  · exact h
  · exact memWf_ite h (memWf_ite h h)

theorem State.signal_memWf {c : Completion} (h : s.memWf) : (s.signal c).memWf :=
  (s.signal_leavesBytes ..).memWf h

theorem State.flushOne_memWf (h : s.memWf) : (s.flushOne n).memWf := by
  unfold State.flushOne
  dsimp only
  split
  · exact h
  · exact memWf_ite h (State.signal_memWf (memWf_ite (Mem.write_wf (h := h) ..) (Mem.write_wf (h := h) ..)))

theorem State.queuesNaming_memWf {f : CmdQueue → CmdQueue} (h : s.memWf) : (s.queuesNaming n f).memWf := by
  rw [State.memWf, State.queuesNaming_mem]; exact h

theorem State.flushCq_memWf (h : s.memWf) : (s.flushCq n).memWf := by
  unfold State.flushCq
  refine State.queuesNaming_memWf ?_
  refine foldl_memWf (fun _ _ hs => ?_) h
  exact State.flushOne_memWf hs

theorem State.dropHeld_memWf (h : s.memWf) : (s.dropHeld ctx).memWf :=
  (s.dropHeld_leavesBytes ..).memWf h

theorem State.postRecord_memWf {c : Completion} (h : s.memWf) : (s.postRecord n c).memWf := by
  unfold State.postRecord
  exact memWf_ite (State.signal_memWf h) (State.flushCq_memWf h)

theorem State.toQueue0_memWf {raw : List Byte} (h : s.memWf) : (s.toQueue0 raw).memWf := by
  unfold State.toQueue0
  exact State.postRecord_memWf h

theorem State.deliverCheck_memWf {raw : List Byte} (h : s.memWf) : (s.deliverCheck raw).memWf := by
  unfold State.deliverCheck
  exact State.toQueue0_memWf h

theorem State.machineCheck_memWf (h : s.memWf) : (s.machineCheck kind src ctx addr band).memWf := by
  unfold State.machineCheck
  exact State.trigger_memWf (State.deliverCheck_memWf h)

theorem State.lineCheckRecord_memWf (h : s.memWf) : (s.lineCheckRecord ctx pa).memWf := by
  unfold State.lineCheckRecord
  dsimp only
  split
  · exact memWf_ite h (State.machineCheck_memWf h)
  · exact State.machineCheck_memWf h

theorem State.closeCtx_memWf (h : s.memWf) : (s.closeCtx ctx).memWf := by
  unfold State.closeCtx
  dsimp only
  split
  · exact State.endLaunches_memWf (State.dropHeld_memWf h)
  · exact State.endLaunches_memWf (State.dropHeld_memWf h)

theorem State.settleClosing_memWf (h : s.memWf) : (s.settleClosing ctx).memWf :=
  (s.settleClosing_leavesBytes ..).memWf h

theorem State.settleAll_memWf (h : s.memWf) : s.settleAll.memWf := by
  unfold State.settleAll
  exact foldl_memWf (fun _ _ hs => State.settleClosing_memWf hs) h

theorem State.breakCtx_memWf (h : s.memWf) : (s.breakCtx ctx).memWf := by
  unfold State.breakCtx
  exact memWf_ite (State.endLaunches_memWf h) h

theorem State.cpPark_memWf {write : Bool} (h : s.memWf) : (s.cpPark ctx va launch write).memWf := by
  unfold State.cpPark
  dsimp only
  split
  · exact State.breakCtx_memWf h
  · split
    · exact memWf_ite (State.toQueue0_memWf h) h
    · exact h

theorem State.openLine_memWf (h : s.memWf) : (s.openLine ctx key pa).memWf := by
  unfold State.openLine
  exact memWf_ite (Mem.cached_wf h) (State.lineCheckRecord_memWf (Mem.cached_wf h))

theorem State.rewrites_memWf (h : s.memWf) : (s.rewrites lid va n).memWf := by
  unfold State.rewrites
  exact memWf_ite h h

theorem State.openRange_memWf {bound : Nat → Nat} (h : s.memWf) : (s.openRange ctx bound va n).memWf := by
  unfold State.openRange
  refine foldl_memWf (fun _ _ hs => ?_) h
  split
  · exact memWf_ite hs (State.openLine_memWf hs)
  · exact hs

theorem State.watch_memWf (h : s.memWf) : (s.watch dest).memWf := by
  unfold State.watch
  exact memWf_ite h h

theorem State.sendPacket_memWf {body : PacketBody} (h : s.memWf) : (s.sendPacket dest cls body).memWf := by
  unfold State.sendPacket
  exact memWf_ite (State.watch_memWf h) (State.watch_memWf h)

theorem State.askPeer_memWf {op : RemoteOp} {data : List Byte} {own : Bool} {tag : WriteTag} (h : s.memWf) :
    (s.askPeer d pa op data own tag).memWf := by
  unfold State.askPeer
  exact State.sendPacket_memWf h

theorem State.writeSome_memWf {bs : List (Option Byte)} {poison clears : Bool} {tag : WriteTag} (h : s.memWf) :
    (s.writeSome sid level ctx va bs poison clears tag).memWf := by
  unfold State.writeSome
  extract_lets c
  split
  · extract_lets u w
    have hw : w.memWf := memWf_ite (State.rewrites_memWf (memWf_ite h h)) (memWf_ite h h)
    clear_value w
    split
    · refine memWf_ite (State.askPeer_memWf hw) (foldl_memWf (fun _ _ hs => ?_) hw)
      split
      · exact State.askPeer_memWf hs
      · exact hs
    · exact Mem.writeSome_wf (h := hw) ..
  · exact h

theorem State.writeLine_memWf {bs : List Byte} {poison clears : Bool} {tag : WriteTag} (h : s.memWf) :
    (s.writeLine sid level ctx va bs poison clears tag).memWf := by
  unfold State.writeLine
  exact State.writeSome_memWf h

theorem State.writeRange_memWf {bs : List Byte} {poison : Bool} {tag : WriteTag} (h : s.memWf) :
    (s.writeRange sid level ctx va bs poison tag).memWf := by
  unfold State.writeRange
  exact foldl_memWf (fun _ _ hs => State.writeLine_memWf hs) h

/-! ### Tiles -/

theorem execHalloc_nextWf {level : TileLevel} {ty : ElemType} (h : s.memWf) : NextWf (execHalloc level ty d a s) := by
  unfold execHalloc
  refine slotOp_nextWf h fun _ hs => ?_
  refine Res.memWf_ite trivial ?_
  dsimp only
  split <;> exact hs

theorem execHfree_nextWf (h : s.memWf) : NextWf (execHfree a s) := by
  unfold execHfree
  exact slotOp_nextWf h fun _ hs => Res.memWf_ite trivial (Res.memWf_ite trivial hs)

theorem State.dropPreload_memWf {back : Bool} (h : s.memWf) : (s.dropPreload g back).memWf := by
  unfold State.dropPreload
  exact memWf_ite (State.endGroup_memWf h) (State.endGroup_memWf h)

theorem State.makeRoom_memWf {t : Tile} (h : s.memWf) : (s.makeRoom k t).memWf := by
  unfold State.makeRoom
  split
  · exact memWf_ite (State.dropPreload_memWf h) h
  · exact h

theorem State.commitTiles_memWf {l : List (Nat × Option Tile)} (h : s.memWf) : (s.commitTiles l).memWf := by
  unfold State.commitTiles
  refine foldl_memWf (fun _ _ hs => ?_) h
  split
  · exact State.zeroTile_memWf (State.makeRoom_memWf hs)
  · exact State.freeTile_memWf hs

theorem State.storeTile_memWf {ty : ElemType} {data : Vec} (h : s.memWf) : (s.storeTile sid hd ty lgm e data).memWf := by
  unfold State.storeTile
  dsimp only
  split
  · exact h
  · split
    · exact h
    · exact h

theorem execStSp_nextWf {t : TileArg} (h : s.memWf) : NextWf (execStSp t s) := by
  unfold execStSp
  refine slotOp_nextWf h fun _ hs => ?_
  split
  · exact trivial
  · dsimp only
    split
    · exact trivial
    · split
      · exact lgWait_stopWf _ ‹_›
      · exact Res.memWf_ite hs hs

/-! ### Loops -/

theorem postStages_memWf (h : s.memWf) : (postStages s n).memWf := by
  induction n with
  | zero => exact h
  | succ n ih => exact ih

theorem execLset_nextWf {cnt : LoopCount} {mod rb : Bool} (h : s.memWf) : NextWf (execLset lv cnt body mod rb s) := by
  unfold execLset
  exact slotOp_nextWf h fun _ hs => Res.memWf_ite hs (memWf_ite (postStages_memWf hs) hs)

theorem State.releaseStores_memWf (h : s.memWf) : (s.releaseStores sid).memWf := by
  unfold State.releaseStores
  refine foldl_memWf (fun _ _ hs => ?_) h
  split
  · exact State.storeTile_memWf hs
  · exact hs

theorem State.closeLoop3_memWf (h : s.memWf) : (s.closeLoop3 sid).memWf := by
  unfold State.closeLoop3
  exact State.releaseStores_memWf h

theorem State.endLevel_memWf (h : s.memWf) : (s.endLevel sid l).memWf := by
  unfold State.endLevel
  exact memWf_ite h (memWf_ite (State.closeLoop3_memWf h) h)

theorem execLbrk_nextWf {neg : Bool} (h : s.memWf) : NextWf (execLbrk lv cn neg s) := by
  unfold execLbrk
  refine slotOp_nextWf h fun _ hs => ?_
  exact Res.memWf_ite (Res.memWf_ite hs (foldl_memWf (fun _ _ hs => (memWf_ite (State.endLevel_memWf hs) hs)) hs)) hs

theorem execLrot_nextWf (h : s.memWf) : NextWf (execLrot s) := by
  unfold execLrot
  exact slotOp_nextWf h fun _ hs => hs

theorem execSpred_nextWf (h : s.memWf) : NextWf (execSpred p stg s) := by
  unfold execSpred
  exact slotOp_nextWf h fun _ hs => hs

theorem State.startRollback_memWf (h : s.memWf) : (s.startRollback sid i).memWf := by
  unfold State.startRollback
  exact memWf_ite h h

theorem State.loopStep_fst_memWf (h : s.memWf) : (s.loopStep sid idx l).1.memWf := by
  unfold State.loopStep
  extract_lets st lp u
  refine fst_ite_memWf h ?_
  have hu : u.memWf := memWf_ite (State.releaseStores_memWf h) h
  clear_value u
  refine fst_ite_memWf hu ?_
  exact fst_ite_memWf hu (State.endLevel_memWf hu)

theorem State.loopEnd_fst_memWf (h : s.memWf) : (s.loopEnd sid idx).1.memWf := by
  unfold State.loopEnd
  refine fst_ite_memWf h ?_
  refine List.foldlRecOn (motive := fun r : State × Option Nat => r.1.memWf) _ _ h fun r hr l _ => ?_
  split
  · exact hr
  · exact State.loopStep_fst_memWf hr

end Sys2Proof.Machine
end

section
/-! PROOFS. O60, the canonical form of memory: accesses, matrix calls and micro-operations. -/

open Sys2Proof

namespace Sys2Proof.Machine

variable {s : State} {n d a off lgm b c ag launch task place window gid pa sid queue level agent key k part q bt cn imm
  idx ma n16 n8 mb tgt core die ctx va tag data : Nat}

/-! ### Access -/

theorem execLdG_nextWf {ty : ElemType} {sc : Scope} {ord : Order} (h : s.memWf) : NextWf (execLdG d a ty sc ord off s) := by
  unfold execLdG
  refine slotOp_nextWf h fun _ hs => ?_
  exact firstStop_memWf qRoom_stopWf (firstStop_memWf globalCheck_stopWf (firstStop_memWf loadRoom_stopWf hs))

theorem execGath_nextWf {ty : ElemType} {sc : Scope} {ord : Order} (h : s.memWf) : NextWf (execGath d a ty sc ord lgm s) := by
  unfold execGath
  refine slotOp_nextWf h fun _ hs => ?_
  exact firstStop_memWf qRoom_stopWf (firstStop_memWf globalCheck_stopWf (firstStop_memWf loadRoom_stopWf hs))

theorem atomicOp_nextWf {i : Instr} {ty : ElemType} {sc : Scope} {ord : Order} {op : AccOp} {data cmp : Strand → Nat} (h : s.memWf) :
    NextWf (atomicOp i d a ty sc ord off op data cmp s) := by
  unfold atomicOp
  refine slotOp_nextWf h fun _ hs => ?_
  refine firstStop_memWf qRoom_stopWf ?_
  exact firstStop_memWf globalCheck_stopWf (firstStop_memWf globalCheck_stopWf (firstStop_memWf storeRoom_stopWf hs))

theorem execAmo_nextWf {op : AmoOp} {ty : ElemType} {sc : Scope} {ord : Order} (h : s.memWf) :
    NextWf (execAmo op d a b ty sc ord off s) := by
  unfold execAmo
  exact atomicOp_nextWf h

theorem execCas_nextWf {ty : ElemType} {sc : Scope} {ord : Order} (h : s.memWf) : NextWf (execCas d a b c ty sc ord off s) := by
  unfold execCas
  exact atomicOp_nextWf h

theorem execQbind_nextWf {ty : ElemType} (h : s.memWf) : NextWf (execQbind d ag ty s) := by
  unfold execQbind
  exact slotOp_nextWf h fun _ hs => hs

theorem execQfree_nextWf (h : s.memWf) : NextWf (execQfree d s) := by
  unfold execQfree
  exact slotOp_nextWf h fun _ hs => hs

theorem State.store_memWf {a : Access} (h : s.memWf) : (s.store a).memWf := by
  unfold State.store
  exact memWf_ite h h

theorem execStG_nextWf {vs : Bool} {ty : ElemType} {sc : Scope} {ord : Order} (h : s.memWf) :
    NextWf (execStG vs a b ty sc ord off lgm s) := by
  unfold execStG
  exact slotOp_nextWf h fun _ hs => firstStop_memWf globalCheck_stopWf (firstStop_memWf stRoom_stopWf (State.store_memWf hs))

theorem execScat_nextWf {ty : ElemType} {sc : Scope} {ord : Order} (h : s.memWf) : NextWf (execScat a b ty sc ord lgm s) := by
  unfold execScat
  exact slotOp_nextWf h fun _ hs => firstStop_memWf globalCheck_stopWf (firstStop_memWf stRoom_stopWf (State.store_memWf hs))

theorem execQout_nextWf {ty : ElemType} {sc : Scope} {ord : Order} (h : s.memWf) : NextWf (execQout a b ty sc ord off s) := by
  unfold execQout
  refine slotOp_nextWf h fun _ hs => ?_
  refine firstStop_memWf (lowestStop_stopWf ?_) (firstStop_memWf popWait_stopWf (firstStop_memWf storeRoom_stopWf (State.store_memWf hs)))
  simpa using ⟨popAddress_stopWf hs, globalCheck_stopWf⟩

theorem State.sealPacket_memWf {p : EpPacket} (h : s.memWf) : (s.sealPacket p).memWf := by
  unfold State.sealPacket
  exact State.sendPacket_memWf h

theorem State.appendPacket_fst_memWf {bytes : List Byte} {close : Bool} (h : s.memWf) :
    (s.appendPacket launch task place window bytes close).1.memWf := by
  unfold State.appendPacket
  dsimp only
  split
  · refine State.sealPacket_memWf ?_
    split <;> exact h
  · split
    · exact h
    · exact h

theorem execEpSt_nextWf {vs : Bool} {ty : ElemType} (h : s.memWf) : NextWf (execEpSt vs a b ty off lgm s) := by
  unfold execEpSt
  refine slotOp_nextWf h fun _ hs => ?_
  refine Res.memWf_ite trivial (Res.memWf_ite trivial (Res.memWf_ite trivial ?_))
  split
  · exact trivial
  · refine Res.memWf_ite trivial (Res.memWf_ite trivial (firstStop_memWf lgWait_stopWf ?_))
    exact firstStop_memWf (stopWf_ite stopWf_stall stopWf_none) (firstStop_memWf storeRoom_stopWf (State.appendPacket_fst_memWf hs))

theorem State.leavesFor_memWf (h : s.memWf) : (s.leavesFor gid pa).memWf := by
  unfold State.leavesFor
  split
  · exact memWf_ite h h
  · exact h

theorem State.leavesScratch_memWf (h : s.memWf) : (s.leavesScratch sid pa).memWf := by
  unfold State.leavesScratch
  exact State.leavesFor_memWf h

theorem State.ask_fst_memWf {op : RemoteOp} {p : Part} {tag : WriteTag} (h : s.memWf) : (s.ask d pa op p tag).1.memWf := by
  unfold State.ask
  exact State.askPeer_memWf h

theorem State.readsFrom_memWf {a : Access} {heads : List Release} (h : s.memWf) : (s.readsFrom sid a queue heads).memWf := by
  unfold State.readsFrom
  exact memWf_ite h (memWf_ite (Mem.acquire_wf h) h)

theorem State.serveStore_fst_memWf {own : Bool} {a : Access} {p : Part} (h : s.memWf) : (s.serveStore sid own a p pa level).1.memWf := by
  unfold State.serveStore
  refine fst_ite_memWf (Mem.promote_wf (h := h) ..) ?_
  extract_lets c bad whole u v w wid tag
  split
  · split
    · exact State.ask_fst_memWf (State.rewrites_memWf (State.leavesScratch_memWf (memWf_ite h h)))
    · exact h
    · exact h
  · have hv : v.memWf := State.rewrites_memWf (State.leavesScratch_memWf (memWf_ite h h))
    have hw : w.memWf := memWf_ite hv (State.openLine_memWf hv)
    exact Mem.write_wf (h := hw) ..

theorem State.atomicAt_fst_memWf {op : AccOp} {data cmp : List Byte} {bad : Bool} {tag : WriteTag} (h : s.memWf) :
    (s.atomicAt agent key level pa op data cmp bad tag).1.memWf := by
  unfold State.atomicAt
  exact fst_ite_memWf h (Mem.write_wf (h := h) ..)

theorem State.serveAtomic_fst_memWf {own : Bool} {a : Access} {p : Part} (h : s.memWf) :
    (s.serveAtomic sid own a p pa level).1.memWf := by
  unfold State.serveAtomic
  refine fst_ite_memWf (Mem.promote_wf (h := h) ..) ?_
  extract_lets c u wid heads tag
  split
  · split
    · exact State.ask_fst_memWf (State.leavesScratch_memWf h)
    · exact h
    · exact memWf_ite (State.rewrites_memWf (memWf_ite h h)) (memWf_ite h h)
  · have hu : u.memWf := State.openLine_memWf (State.leavesScratch_memWf h)
    have ht : (u.atomicAt sid c.keyId level pa a.op p.data p.cmp p.bad tag).1.memWf := State.atomicAt_fst_memWf hu
    split
    rename_i t old bad wrote heq
    rw [heq] at ht
    extract_lets v w x
    have hv : v.memWf := memWf_ite (State.readsFrom_memWf ht) ht
    have hw : w.memWf := memWf_ite hv hv
    exact memWf_ite (State.rewrites_memWf hw) hw

theorem State.serveLoad_fst_memWf {a : Access} {p : Part} (h : s.memWf) : (s.serveLoad sid a p pa).1.memWf := by
  unfold State.serveLoad
  extract_lets key
  split
  · split
    · exact State.ask_fst_memWf (State.leavesScratch_memWf h)
    · exact h
    · exact h
  · exact State.leavesScratch_memWf (State.openLine_memWf (State.readsFrom_memWf h))

theorem State.serveOrphan_memWf (h : s.memWf) : (s.serveOrphan k part level).memWf := by
  unfold State.serveOrphan
  split
  · split
    · exact h
    · refine memWf_ite h (memWf_ite h (memWf_ite h ?_))
      exact fst_ite_memWf (State.serveAtomic_fst_memWf h) (State.serveStore_fst_memWf h)
  · split
    · exact memWf_ite (Mem.promote_wf (h := h) ..) h
    · exact h

theorem State.park_optWf {die : Nat} {write : Bool} (h : s.memWf) : OptWf (s.park die ctx va write launch) := by
  unfold State.park
  dsimp only
  split
  · exact optWf_some h
  · exact optWf_ite (optWf_some h) (optWf_ite optWf_none (optWf_ite (optWf_some (State.toQueue0_memWf h)) (optWf_some h)))

/-- What the service of a part leaves has memory in its canonical form. -/
def Served.memWf : Served → Prop
  | .no => True
  | .part t _ | .fails t _ | .parks t _ | .breaks t => t.memWf

theorem Served.memWf_ite {c : Prop} [Decidable c] {r q : Served} (hr : r.memWf) (hq : q.memWf) : (if c then r else q).memWf := by
  split
  · exact hr
  · exact hq

theorem State.retranslate_memWf {a : Access} {p : Part} {write : Bool} (h : s.memWf) : (s.retranslate sid a p write).memWf := by
  unfold State.retranslate
  split
  · exact h
  · refine Served.memWf_ite (State.breakCtx_memWf h) ?_
    split
    · exact h
    · exact h
    · refine Served.memWf_ite trivial (Served.memWf_ite h ?_)
      split
      · next t ht => exact State.park_optWf h t ht
      · exact trivial

theorem State.servePart_memWf {before : List Access} {a : Access} {p : Part} (h : s.memWf) :
    (s.servePart sid before a p level).memWf := by
  unfold State.servePart
  refine Served.memWf_ite trivial ?_
  have hr := State.retranslate_memWf (sid := sid) (a := a) (p := p) (write := !AccOp.isLoad a.op) h
  split
  · next t q heq =>
    rw [heq] at hr
    refine Served.memWf_ite hr (Served.memWf_ite trivial (Served.memWf_ite hr ?_))
    exact fst_ite_memWf (State.serveLoad_fst_memWf hr) (fst_ite_memWf (State.serveAtomic_fst_memWf hr) (State.serveStore_fst_memWf hr))
  · exact hr

theorem Served.outcome_nextWf {a : Access} {r : Served} (h : s.memWf) (hr : r.memWf) : NextWf (r.outcome s sid k part a) := by
  cases r with
  | no => exact h
  | part t p => exact hr
  | fails t va => exact State.escalateOutside_memWf hr
  | parks t p => exact hr
  | breaks t => exact hr

theorem execHomeAccess_nextWf {scope : Scope} (h : s.memWf) : NextWf (execHomeAccess sid k part scope s) := by
  unfold execHomeAccess
  refine nextWf_ite h (nextWf_ite (State.settleAll_memWf (State.serveOrphan_memWf h)) ?_)
  dsimp only
  split
  · exact h
  · next a _ =>
    split
    · exact h
    · refine nextWf_ite h ?_
      exact Served.outcome_nextWf h (State.servePart_memWf h)

theorem execStreamFill_nextWf (h : s.memWf) : NextWf (execStreamFill sid q k s) := by
  unfold execStreamFill
  dsimp only
  split
  · exact h
  · split
    · exact h
    · split
      · exact nextWf_ite h h
      · exact h

theorem State.leavesRange_memWf (h : s.memWf) : (s.leavesRange sid a n).memWf := by
  unfold State.leavesRange
  refine foldl_memWf (fun _ _ hs => ?_) h
  split
  · exact State.leavesScratch_memWf hs
  · exact hs

theorem State.popFails_memWf (h : s.memWf) : (s.popFails sid a).memWf := by
  unfold State.popFails
  dsimp only
  split
  · split
    · exact State.breakCtx_memWf h
    · exact memWf_ite (State.escalateOutside_memWf h) (getD_memWf (State.park_optWf h) h)
  · exact h

theorem execStreamPrefetch_nextWf (h : s.memWf) : NextWf (execStreamPrefetch sid q s) := by
  unfold execStreamPrefetch
  refine nextWf_ite h (nextWf_ite h (nextWf_ite h ?_))
  split
  · exact State.startWalk_memWf h
  · split
    · exact State.openRange_memWf (State.leavesRange_memWf h)
    · exact memWf_ite (State.popFails_memWf h) h

theorem execResultArrive_nextWf (h : s.memWf) : NextWf (execResultArrive sid k s) := by
  unfold execResultArrive
  dsimp only
  split <;> exact h

theorem execResultDeliver_nextWf (h : s.memWf) : NextWf (execResultDeliver sid s) := by
  unfold execResultDeliver
  exact memWf_ite h (State.deliverDue_memWf h)

/-! ### Scalar -/

theorem execBr_nextWf {neg : Bool} (h : s.memWf) : NextWf (execBr bt cn neg s) := by
  unfold execBr
  exact slotOp_nextWf h fun _ hs => hs

theorem execCall_nextWf {neg : Bool} (h : s.memWf) : NextWf (execCall bt cn neg s) := by
  unfold execCall
  exact slotOp_nextWf h fun _ hs => memWf_ite hs hs

theorem execTrap_nextWf (h : s.memWf) : NextWf (execTrap imm s) := by
  unfold execTrap
  exact slotOp_nextWf h fun _ hs => trivial

theorem State.deliverHandler_memWf (h : s.memWf) : (s.deliverHandler sid).memWf := by
  unfold State.deliverHandler
  exact foldl_memWf (fun _ _ hs => State.apply_memWf hs) h

theorem execRett_nextWf (h : s.memWf) : NextWf (execRett s) := by
  unfold execRett
  exact slotOp_nextWf h fun _ hs => Res.memWf_ite trivial (State.deliverHandler_memWf hs)

theorem execEmptyBundle_nextWf (stop : Bool) (gap : Nat) (swa : Bool) (h : s.memWf) :
    NextWf (execEmptyBundle stop gap swa s) :=
  h

/-! ### Matrix -/

theorem execMcall_nextWf (h : s.memWf) : NextWf (execMcall idx s) := by
  unfold execMcall
  exact slotOp_nextWf h fun _ hs => Res.memWf_ite trivial hs

theorem microOp_nextWf {f : MCall → State → MicroRes} (h : s.memWf) (hf : ∀ (m : MCall) (t : State), t.memWf → (f m t).memWf) :
    NextWf (microOp s f) := by
  unfold microOp
  split
  · exact h
  · next m _ =>
    refine nextWf_ite h ?_
    have hr := hf m s h
    split <;> rename_i heq <;> exact (heq ▸ hr :)

theorem execAload_nextWf (h : s.memWf) : NextWf (execAload ma n16 s) := by
  unfold execAload
  refine microOp_nextWf h fun _ _ hs => ?_
  dsimp only
  split
  · exact MicroRes.memWf_ite hs hs
  · exact hs

theorem execBsel_nextWf (h : s.memWf) : NextWf (execBsel ma s) := by
  unfold execBsel
  refine microOp_nextWf h fun _ _ hs => ?_
  refine MicroRes.memWf_ite (MicroRes.memWf_ite hs hs) ?_
  split
  · exact MicroRes.memWf_ite hs (MicroRes.memWf_ite hs hs)
  · exact hs

theorem execPlanes_nextWf (h : s.memWf) : NextWf (execPlanes n8 s) := by
  unfold execPlanes
  exact microOp_nextWf h fun _ _ hs => hs

theorem execLimb_nextWf (h : s.memWf) : NextWf (execLimb n8 s) := by
  unfold execLimb
  exact microOp_nextWf h fun _ _ hs => hs

theorem State.countDetections_memWf {det : List Nat} (h : s.memWf) : (s.countDetections det).memWf := by
  unfold State.countDetections
  exact memWf_ite h h

/-- What the read of a weight block comes to has memory in its canonical form. -/
def BlockRead.memWf : BlockRead → Prop
  | .wait t => t.memWf
  | _ => True

theorem readBlock_memWf {ty : ElemType} (h : s.memWf) : (readBlock s ty va).memWf := by
  unfold readBlock
  extract_lets st c own
  split
  · exact trivial
  · refine List.foldlRecOn (motive := BlockRead.memWf) _ _ trivial fun r hr l _ => ?_
    split
    · split
      · exact trivial
      · exact getD_memWf (State.park_optWf h) h
      · split
        · exact trivial
        · dsimp only
          split <;> exact trivial
    · exact hr

theorem memWf_of_readBlock_wait {ty : ElemType} {t : State} (h : s.memWf) (ht : readBlock s ty va = .wait t) : t.memWf := by
  have := readBlock_memWf (va := va) (ty := ty) h
  rwa [ht] at this

theorem memWf_of_passOperands_wait {m : MCall} {q : Sequencer} {t : State} (h : s.memWf) (ht : passOperands s m q = .wait t) :
    t.memWf := by
  unfold passOperands at ht
  dsimp only at ht
  split at ht
  · split at ht
    · cases ht
    · split at ht
      · cases ht
      · split at ht
        · cases ht
        · split at ht
          · cases ht
          · split at ht
            · cases ht
            · split at ht
              · cases ht
              · split at ht
                · split at ht
                  · cases ht
                  · cases ht
                  · next u hu => exact Operands.wait.inj ht ▸ memWf_of_readBlock_wait h hu
                · split at ht
                  · cases ht
                  · split at ht
                    · cases ht
                    · split at ht <;> cases ht
  · cases ht

theorem memWf_of_startBlocks_wait {m : MCall} {t : State} (h : s.memWf) (ht : startBlocks s m = some (.wait t)) : t.memWf := by
  obtain ⟨d, -, hd⟩ := List.exists_of_findSome?_eq_some ht
  split at hd
  · split at hd
    · split at hd
      · cases hd
      · split at hd <;> cases hd
      · exact memWf_of_readBlock_wait h (Option.some.inj hd)
    · cases hd
  · cases hd

theorem endRun_memWf {q : Sequencer} {grade da mode : Nat} {r : PassResult} {m : MCall} (h : s.memWf) :
    (endRun s q n8 grade da mode r m).memWf := by
  unfold endRun
  dsimp only
  split
  · exact h
  · exact MicroRes.memWf_ite h h

theorem joinCalls_memWf {upto : Nat} (h : s.memWf) : (joinCalls s upto).memWf := by
  unfold joinCalls
  dsimp only
  split
  · exact trivial
  · exact memWf_ite h h

theorem execPass_nextWf (h : s.memWf) : NextWf (execPass n8 s) := by
  unfold execPass
  refine microOp_nextWf h fun m t ht => ?_
  dsimp only
  split
  · exact ht
  · next u hu => exact memWf_of_passOperands_wait ht hu
  · refine MicroRes.memWf_ite ht ?_
    split
    · exact endRun_memWf (State.countDetections_memWf ht)
    · refine MicroRes.memWf_ite (State.countDetections_memWf ht) ?_
      exact State.faultLaunch_memWf (State.machineCheck_memWf (State.countDetections_memWf ht))

theorem execAccz_nextWf (h : s.memWf) : NextWf (execAccz n16 s) := by
  unfold execAccz
  refine microOp_nextWf h fun _ _ hs => ?_
  split <;> exact hs

theorem execAccm_nextWf (h : s.memWf) : NextWf (execAccm n8 s) := by
  unfold execAccm
  refine microOp_nextWf h fun _ _ hs => ?_
  dsimp only
  split
  · exact hs
  · exact MicroRes.memWf_ite hs hs

theorem execScale_nextWf (h : s.memWf) : NextWf (execScale ma mb s) := by
  unfold execScale
  refine microOp_nextWf h fun _ _ hs => ?_
  refine MicroRes.memWf_ite hs ?_
  split
  · exact MicroRes.memWf_ite hs hs
  · exact hs

theorem execDrain_nextWf (h : s.memWf) : NextWf (execDrain ma n8 s) := by
  unfold execDrain
  refine microOp_nextWf h fun _ _ hs => ?_
  dsimp only
  split
  · exact hs
  · exact hs
  · exact MicroRes.memWf_ite hs hs

theorem execChk_nextWf (h : s.memWf) : NextWf (execChk s) := by
  unfold execChk
  refine microOp_nextWf h fun _ t ht => ?_
  dsimp only
  split
  · exact ht
  · refine MicroRes.memWf_ite ?_ ?_
    · split
      · exact ht
      · split
        · exact ht
        · exact ht
        · next u hu => exact memWf_of_readBlock_wait ht hu
    · split
      · exact ht
      · exact MicroRes.memWf_ite ht ht

theorem execMloop_nextWf {cnt : MicroCount} (h : s.memWf) : NextWf (execMloop cnt s) := by
  unfold execMloop
  exact microOp_nextWf h fun _ _ hs => MicroRes.memWf_ite hs hs

theorem execMend_nextWf (h : s.memWf) : NextWf (execMend tgt s) := by
  unfold execMend
  refine microOp_nextWf h fun _ _ hs => ?_
  dsimp only
  split
  · exact hs
  · exact MicroRes.memWf_ite hs hs

theorem execMwait_nextWf (n16 : Nat) (h : s.memWf) : NextWf (execMwait n16 s) := by
  unfold execMwait
  exact microOp_nextWf h fun _ _ hs => hs

theorem execMsync_nextWf (h : s.memWf) : NextWf (execMsync s) := by
  unfold execMsync
  exact microOp_nextWf h fun _ _ hs => hs

theorem execMret_nextWf (h : s.memWf) : NextWf (execMret s) := by
  unfold execMret
  exact microOp_nextWf h fun _ _ hs => hs

theorem execMcallStart_nextWf (h : s.memWf) : NextWf (execMcallStart core s) := by
  unfold execMcallStart
  dsimp only
  split
  · next sid m _ _ =>
    refine nextWf_ite h ?_
    split
    · exact h
    · exact h
    · next u hu =>
      have hwf : u.memWf := memWf_of_startBlocks_wait (s := { s with cur := sid }) h hu
      exact hwf
    · exact h
  · exact h

theorem execMcallEnd_nextWf (h : s.memWf) : NextWf (execMcallEnd core s) := by
  unfold execMcallEnd
  exact nextWf_ite h h

theorem execRailSettled_nextWf (h : s.memWf) : NextWf (execRailSettled core s) := by
  unfold execRailSettled
  exact nextWf_ite h h

end Sys2Proof.Machine
end

section
/-! PROOFS. O60, the canonical form of memory: the copy engines and the hint unit. -/

open Sys2Proof

namespace Sys2Proof.Machine

variable {s : State} {n a b q c die level k va sid e base grp ctx agent launch place cluster tag data status : Nat}

/-! ### Engines -/

theorem State.queueCe_memWf {op : CeOp} {arg : CeArg} (h : s.memWf) : (s.queueCe op a b c arg).memWf := by
  unfold State.queueCe
  refine firstStop_memWf (stopWf_ite qRoom_stopWf stopWf_none) (firstStop_memWf (stopWf_ite stopWf_stall stopWf_none) ?_)
  exact fst_ite_memWf h h

theorem execCp_nextWf {c : CeArg} (h : s.memWf) : NextWf (execCp c s) := by
  unfold execCp
  refine slotOp_nextWf h fun _ hs => ?_
  dsimp only
  split
  · exact trivial
  · split
    · exact trivial
    · exact firstStop_memWf limitRes_stopWf (State.queueCe_memWf hs)

theorem execCpg_nextWf {c : CeArg} (h : s.memWf) : NextWf (execCpg c s) := by
  unfold execCpg
  refine slotOp_nextWf h fun _ hs => ?_
  exact firstStop_memWf limitRes_stopWf (firstStop_memWf rangeCheck_stopWf (firstStop_memWf rangeCheck_stopWf (State.queueCe_memWf hs)))

theorem execCps_nextWf {c : CeArg} (h : s.memWf) : NextWf (execCps c s) := by
  unfold execCps
  refine slotOp_nextWf h fun _ hs => ?_
  dsimp only
  split
  · exact trivial
  · exact firstStop_memWf limitRes_stopWf (firstStop_memWf rangeCheck_stopWf (State.queueCe_memWf hs))

theorem execStage_nextWf {c : CeArg} (h : s.memWf) : NextWf (execStage c s) := by
  unfold execStage
  refine slotOp_nextWf h fun _ hs => ?_
  dsimp only
  split
  · exact trivial
  · exact firstStop_memWf limitRes_stopWf (firstStop_memWf rangeCheck_stopWf (State.queueCe_memWf hs))

theorem execSealRec_nextWf {c : CeArg} (h : s.memWf) : NextWf (execSealRec c s) := by
  unfold execSealRec
  refine slotOp_nextWf h fun _ hs => ?_
  exact firstStop_memWf limitRes_stopWf (firstStop_memWf rangeCheck_stopWf (firstStop_memWf rangeCheck_stopWf (State.queueCe_memWf hs)))

theorem execOpenRec_nextWf {c : CeArg} (h : s.memWf) : NextWf (execOpenRec c s) := by
  unfold execOpenRec
  refine slotOp_nextWf h fun _ hs => ?_
  exact firstStop_memWf limitRes_stopWf (firstStop_memWf rangeCheck_stopWf (firstStop_memWf rangeCheck_stopWf (State.queueCe_memWf hs)))

theorem execMeas_nextWf {qe : Bool} (h : s.memWf) : NextWf (execMeas a b q qe s) := by
  unfold execMeas
  refine slotOp_nextWf h fun _ hs => ?_
  exact firstStop_memWf (stopWf_ite qRoom_stopWf stopWf_none) (firstStop_memWf rangeCheck_stopWf (State.queueCe_memWf hs))

theorem execCkpt_nextWf {qe : Bool} (h : s.memWf) : NextWf (execCkpt a q qe s) := by
  unfold execCkpt
  refine slotOp_nextWf h fun _ hs => ?_
  exact firstStop_memWf (stopWf_ite qRoom_stopWf stopWf_none) (firstStop_memWf rangeCheck_stopWf (State.queueCe_memWf hs))

theorem State.tlbFill_memWf {cluster : Option Nat} {e : TlbEntry} (h : s.memWf) : (s.tlbFill die cluster e).memWf := by
  unfold State.tlbFill
  dsimp only
  split <;> exact h

theorem execPf_nextWf (h : s.memWf) : NextWf (execPf a b level s) := by
  unfold execPf
  exact slotOp_nextWf h fun _ hs => hs

theorem execRes_nextWf (h : s.memWf) : NextWf (execRes a b level s) := by
  unfold execRes
  exact slotOp_nextWf h fun _ hs => hs

theorem State.hintFrame.memWf {t : State} (hst : s.hintFrame t) (h : s.memWf) : t.memWf := by
  unfold State.memWf
  rw [hst.mem]
  exact h

theorem State.runPf_memWf {hint : Hint} {ls : List Nat} (h : s.memWf) : (s.runPf hint base e ls).memWf := by
  rw [State.runPf_eq]
  exact memWf_ite (State.tlbFill_memWf h) ((State.pfLines_hintFrame ..).memWf (State.tlbFill_memWf h))

theorem State.runRes_memWf {hint : Hint} {ls : List Nat} (h : s.memWf) : (s.runRes hint base e ls).memWf :=
  (s.resLines_hintFrame ..).memWf h

theorem State.runHint_memWf (h : s.memWf) : (s.runHint die).memWf := by
  unfold State.runHint
  dsimp only
  split
  · exact h
  · split
    · exact memWf_ite (memWf_ite (State.runPf_memWf h) (State.runRes_memWf h)) h
    · exact h

theorem State.runHints_memWf (h : s.memWf) : s.runHints.memWf := by
  unfold State.runHints
  exact foldl_memWf (fun _ _ hs => (foldl_memWf (fun _ _ hs => State.runHint_memWf hs) hs)) h

theorem State.groupTouches_memWf {bound : Nat → Nat} {write : Bool} (h : s.memWf) : (s.groupTouches grp ctx bound va n write).memWf := by
  unfold State.groupTouches
  refine foldl_memWf (fun _ _ hs => ?_) h
  split
  · exact State.leavesFor_memWf hs
  · exact hs

theorem State.cmdTouches_memWf {cmd : CeCmd} {write : Bool} (h : s.memWf) : (s.cmdTouches cmd va n write).memWf := by
  unfold State.cmdTouches
  exact State.groupTouches_memWf h

theorem State.engineWaits_memWf {write again : Bool} (h : s.memWf) : (s.engineWaits agent k ctx launch va write again).memWf := by
  unfold State.engineWaits
  exact memWf_ite (State.breakCtx_memWf h) (memWf_ite h (getD_memWf (State.park_optWf h) h))

theorem State.parkFor_memWf {cmd : CeCmd} {write : Bool} (h : s.memWf) : (s.parkFor k cmd va write).memWf := by
  unfold State.parkFor
  exact State.engineWaits_memWf h

theorem State.failAtPeer_memWf (h : s.memWf) : (s.failAtPeer grp place sid launch va).memWf := by
  unfold State.failAtPeer
  split
  · exact State.escalateOutside_memWf h
  · exact State.faultLaunch_memWf h

theorem State.deniedFor_memWf {cmd : CeCmd} {write : Bool} (h : s.memWf) : (s.deniedFor cmd va write).memWf := by
  unfold State.deniedFor
  exact memWf_ite (State.failAtPeer_memWf h) h

theorem State.haveRead_memWf {cmd : CeCmd} (h : s.memWf) : (s.haveRead cmd va n).memWf := by
  unfold State.haveRead
  exact State.openRange_memWf (State.cmdTouches_memWf h)

theorem State.beginCkpt_memWf {cmd : CeCmd} (h : s.memWf) : (s.beginCkpt k cmd).memWf := by
  have hfirst : (match readDescriptor s k cmd with
      | .error true => s.parkFor k cmd cmd.a false
      | _ => s).memWf := by
    split
    · exact State.parkFor_memWf h
    · exact h
  unfold State.beginCkpt
  dsimp only
  split
  · refine memWf_ite h (memWf_ite ?_ h)
    split
    · exact State.parkFor_memWf h
    · exact h
  · split
    · exact State.parkFor_memWf h
    · exact h

/-! ### Runs of a command -/

theorem RunSt.read_memWf {x : RunSt} {cmd : CeCmd} (h : x.s.memWf) : (x.read k cmd va n).1.s.memWf := by
  unfold RunSt.read
  split
  · exact h
  · split
    · exact State.deniedFor_memWf h
    · exact State.parkFor_memWf h
    · exact State.openRange_memWf (State.cmdTouches_memWf h)

theorem RunSt.memBits_memWf {x : RunSt} {cmd : CeCmd} (h : x.s.memWf) : (x.memBits k cmd a n).1.s.memWf :=
  RunSt.read_memWf h

theorem RunSt.denseBits_memWf {x : RunSt} {cmd : CeCmd} {t : Tile} (h : x.s.memWf) : (x.denseBits k cmd t a n).1.s.memWf := by
  unfold RunSt.denseBits
  split
  · exact h
  · exact RunSt.read_memWf h

theorem RunSt.gather_memWf {x : RunSt} {get : RunSt → Nat → Nat → RunSt × Nat × Bool} {l : List Seg}
    (hget : ∀ (y : RunSt) (a n : Nat), y.s.memWf → (get y a n).1.s.memWf) (h : x.s.memWf) : (x.gather get l).1.s.memWf := by
  unfold RunSt.gather
  refine List.foldlRecOn (motive := fun r : RunSt × List (Seg × Nat) × Bool => r.1.s.memWf) _ _ h fun r hr g _ => ?_
  have hv := hget r.1 g.src g.len hr
  dsimp only
  split
  · exact hget _ _ _ hv
  · exact hv

theorem RunSt.ite_memWf {p : Prop} [Decidable p] {x y : RunSt} (hx : x.s.memWf) (hy : y.s.memWf) : (if p then x else y).s.memWf := by
  split
  · exact hx
  · exact hy

theorem RunSt.lines_memWf {x : RunSt} {sel : Nat → Bool} {move : RunSt → Nat × List Seg → RunSt} {us : List (Nat × List Seg)}
    (hmove : ∀ (y : RunSt) (u : Nat × List Seg), y.s.memWf → (move y u).s.memWf) (h : x.s.memWf) : (x.lines sel move us).s.memWf := by
  unfold RunSt.lines
  refine List.foldlRecOn (motive := fun y : RunSt => y.s.memWf) _ _ h fun y hy u _ => ?_
  dsimp only
  split
  · exact hy
  · have hm := hmove y u.1 hy
    split <;> exact hm

theorem RunSt.putMem_memWf {x : RunSt} {cmd : CeCmd} {line : Nat} {l : List (Seg × Nat)} {p : Bool} (h : x.s.memWf) :
    (x.putMem k cmd line l p).s.memWf := by
  unfold RunSt.putMem
  split
  · exact State.failAtPeer_memWf h
  · split
    · exact State.deniedFor_memWf h
    · exact State.parkFor_memWf h
    · exact State.cmdTouches_memWf (State.writeSome_memWf h)

theorem State.onTile_memWf {hd : Nat} {t : Tile} {f : Tile → Tile} (h : s.memWf) : (s.onTile k hd t f).memWf :=
  memWf_ite h (memWf_ite h h)

theorem RunSt.putStack_memWf {x : RunSt} {hd line : Nat} {t : Tile} {l : List (Seg × Nat)} {p : Bool} (h : x.s.memWf) :
    (x.putStack k hd t line l p).s.memWf :=
  memWf_ite (State.onTile_memWf h) h

theorem runCp_memWf {x : RunSt} {cmd : CeCmd} {sel : Nat → Bool} (h : x.s.memWf) : (runCp x k cmd sel).s.memWf := by
  unfold runCp
  split
  · next d t _ _ =>
    refine RunSt.lines_memWf (fun y u hy => ?_) h
    have hg : (y.gather (fun x => x.padBits (coreAt k t.core)) u.2).1.s.memWf := RunSt.gather_memWf (fun _ _ _ hz => hz) hy
    exact hg
  · exact h

/-- What a `cpg` reads of a range of its source (R371). -/
def cpgBits (k : Nat) (cmd : CeCmd) (x : RunSt) (at_ len : Nat) : RunSt × Nat × Bool :=
  let (y, v, p) := x.memBits k cmd at_ len
  (y, overlapBits x.s cmd at_ len v, p)

theorem runCpg_memWf {x : RunSt} {cmd : CeCmd} {sel : Nat → Bool} (h : x.s.memWf) : (runCpg x k cmd sel).s.memWf := by
  unfold runCpg
  refine RunSt.lines_memWf (fun y u hy => ?_) h
  have hg := RunSt.gather_memWf (l := u.2) (get := cpgBits k cmd) (fun z _ _ hz => RunSt.memBits_memWf hz) hy
  exact RunSt.ite_memWf hg (RunSt.putMem_memWf hg)

theorem runCps_memWf {x : RunSt} {cmd : CeCmd} {sel : Nat → Bool} (h : x.s.memWf) : (runCps x k cmd sel).s.memWf := by
  unfold runCps
  split
  · exact h
  · next t _ =>
    refine RunSt.lines_memWf (fun y u hy => ?_) h
    have hg : (y.gather (if bit cmd.c 26 then fun x => x.padBits (coreAt k t.core) else fun x => x.memBits k cmd) u.2).1.s.memWf := by
      refine RunSt.gather_memWf (fun z a n hz => ?_) hy
      split
      · exact hz
      · exact RunSt.memBits_memWf hz
    exact RunSt.ite_memWf hg (RunSt.ite_memWf (RunSt.putMem_memWf hg) hg)

theorem runStage_memWf {x : RunSt} {cmd : CeCmd} {sel : Nat → Bool} (h : x.s.memWf) : (runStage x k cmd sel).s.memWf := by
  unfold runStage
  split
  · exact h
  · next t _ =>
    extract_lets us y
    have hy : y.s.memWf := by
      refine RunSt.lines_memWf (fun z u hz => ?_) h
      have hg : (z.gather (if bit cmd.c 13 then fun x => x.denseBits k cmd t else fun x => x.memBits k cmd) u.2).1.s.memWf := by
        refine RunSt.gather_memWf (fun w a n hw => ?_) hz
        split
        · exact RunSt.denseBits_memWf hw
        · exact RunSt.memBits_memWf hw
      exact RunSt.ite_memWf hg (RunSt.putStack_memWf hg)
    clear_value y
    exact RunSt.ite_memWf hy (State.onTile_memWf hy)

theorem runCopy_memWf {cmd : CeCmd} {sel : Nat → Bool} (h : s.memWf) : (runCopy s k cmd sel).s.memWf := by
  unfold runCopy
  dsimp only
  split
  · exact runCp_memWf h
  · exact runCpg_memWf h
  · exact runCps_memWf h
  · exact runStage_memWf h
  · exact h

theorem State.runLines_memWf {cmd : CeCmd} {bs : List Byte} {bad : List Bool} {sel : Nat → Bool} (h : s.memWf) :
    (s.runLines k cmd bs bad sel).s.memWf := by
  unfold State.runLines
  refine List.foldlRecOn (motive := fun y : RunSt => y.s.memWf) _ _ h fun y hy l _ => ?_
  dsimp only
  split
  · exact hy
  · split
    · exact State.deniedFor_memWf hy
    · exact State.parkFor_memWf hy
    · exact State.cmdTouches_memWf (State.writeLine_memWf hy)

/-- What the checks of a sealed form come to has memory in its canonical form. -/
def Checked.memWf : Checked → Prop
  | .wait t | .stop t _ | .pass t _ _ => t.memWf

theorem Checked.memWf_ite {p : Prop} [Decidable p] {r q : Checked} (hr : r.memWf) (hq : q.memWf) : (if p then r else q).memWf := by
  split
  · exact hr
  · exact hq

theorem checkOpen_memWf {cmd : CeCmd} (h : s.memWf) : (checkOpen s k cmd).memWf := by
  unfold checkOpen
  refine Checked.memWf_ite h ?_
  split
  · exact State.deniedFor_memWf h
  · exact State.parkFor_memWf h
  · dsimp only
    split
    · exact h
    · refine Checked.memWf_ite h (Checked.memWf_ite h (Checked.memWf_ite h (Checked.memWf_ite h ?_)))
      split
      · exact State.deniedFor_memWf h
      · exact State.parkFor_memWf h
      · split
        · exact State.haveRead_memWf h
        · refine Checked.memWf_ite (State.haveRead_memWf h) ?_
          split
          · exact State.deniedFor_memWf (State.haveRead_memWf h)
          · exact State.parkFor_memWf (State.haveRead_memWf h)
          · exact State.haveRead_memWf h

theorem checkSeal_memWf {cmd : CeCmd} (h : s.memWf) : (checkSeal s k cmd).memWf := by
  unfold checkSeal
  dsimp only
  split
  · exact h
  · refine Checked.memWf_ite h ?_
    split
    · exact State.deniedFor_memWf h
    · exact State.parkFor_memWf h
    · split
      · exact State.deniedFor_memWf h
      · exact State.parkFor_memWf h
      · exact State.haveRead_memWf h

/-! ### Begin and completion -/

theorem execCeCommandBegin_nextWf (h : s.memWf) : NextWf (execCeCommandBegin cluster k s) := by
  unfold execCeCommandBegin
  split
  · exact h
  · exact nextWf_ite h (nextWf_ite (State.beginCkpt_memWf h) (runCopy_memWf (s := State.setCluster _ cluster _) h))

theorem State.postTo_memWf (h : s.memWf) : (s.postTo grp place q tag data).memWf := by
  unfold State.postTo
  split
  · exact h
  · exact memWf_ite h h

theorem State.postOrCount_memWf {qe : Bool} (h : s.memWf) : (s.postOrCount grp place launch qe q tag status data).memWf := by
  unfold State.postOrCount
  split
  · exact h
  · exact memWf_ite (State.postTo_memWf h) (memWf_ite h h)

theorem State.zeroFreed_memWf {t : Tile} (h : s.memWf) : (s.zeroFreed k t).memWf := by
  unfold State.zeroFreed
  exact memWf_ite h (State.zeroTile_memWf h)

theorem State.finishCe_memWf {cmd : CeCmd} (h : s.memWf) : (s.finishCe k cmd status data).memWf := by
  unfold State.finishCe
  exact State.postOrCount_memWf (foldl_memWf (fun _ _ hs => State.zeroFreed_memWf hs) h)

/-- What a run of a command comes to has memory in its canonical form. -/
def Run.memWf : Run → Prop
  | .wait t | .done t _ _ _ => t.memWf

theorem RunSt.toRun_memWf {x : RunSt} {cmd : CeCmd} (h : x.s.memWf) : (x.toRun k cmd).memWf := by
  unfold RunSt.toRun
  split <;> exact h

theorem State.endCopy_memWf {cmd : CeCmd} {r : Run} (h : r.memWf) : (s.endCopy k cmd r).memWf := by
  cases r with
  | wait t => exact h
  | done t status p n => exact State.finishCe_memWf h

theorem State.endSealed_memWf {cmd : CeCmd} (h : s.memWf) : (s.endSealed k cmd).memWf := by
  unfold State.endSealed
  split
  · have hc : (if cmd.op == .openRec then checkOpen s k cmd else checkSeal s k cmd).memWf :=
      Checked.memWf_ite (checkOpen_memWf h) (checkSeal_memWf h)
    split <;> rename_i heq <;> rw [heq] at hc
    · exact hc
    · exact State.endCopy_memWf (r := .done _ _ _ _) hc
    · exact State.runLines_memWf hc
  · next bs bad _ =>
    have hx : (s.runLines k cmd bs bad fun _ => true).s.memWf := State.runLines_memWf h
    refine State.endCopy_memWf (RunSt.toRun_memWf ?_)
    refine memWf_ite hx ?_
    split <;> exact hx

theorem State.endMeas_memWf {cmd : CeCmd} (h : s.memWf) : (s.endMeas k cmd).memWf := by
  unfold State.endMeas
  dsimp only
  split
  · exact State.finishCe_memWf (memWf_ite (State.deniedFor_memWf h) (State.deniedFor_memWf h))
  · exact State.parkFor_memWf h
  · split
    · exact State.finishCe_memWf (memWf_ite (State.haveRead_memWf h) (State.haveRead_memWf h))
    · split
      · exact State.finishCe_memWf (memWf_ite (State.haveRead_memWf h) (State.haveRead_memWf h))
      · exact State.finishCe_memWf (memWf_ite (State.haveRead_memWf h) (State.haveRead_memWf h))

theorem State.leaveCkpt_memWf {cmd : CeCmd} {p : Ckpt} {status : Status} (h : s.memWf) : (s.leaveCkpt k cmd p status).memWf := by
  unfold State.leaveCkpt
  exact State.finishCe_memWf h

theorem State.endCkpt_memWf {cmd : CeCmd} (h : s.memWf) : (s.endCkpt k cmd).memWf := by
  unfold State.endCkpt
  dsimp only
  split
  · exact h
  · split
    · exact State.leaveCkpt_memWf h
    · split
      · split
        · exact State.leaveCkpt_memWf (State.failAtPeer_memWf h)
        · split
          · exact State.leaveCkpt_memWf (State.deniedFor_memWf h)
          · exact State.parkFor_memWf h
          · exact State.leaveCkpt_memWf (State.cmdTouches_memWf (State.writeRange_memWf h))
      · exact h

theorem State.haltCkpts_memWf (h : s.memWf) : (s.haltCkpts sid).memWf := by
  unfold State.haltCkpts
  refine foldl_memWf (fun _ _ hs => ?_) h
  refine foldl_memWf (fun _ _ hs => ?_) hs
  split
  · exact memWf_ite (memWf_ite hs (State.leaveCkpt_memWf hs)) (State.finishCe_memWf hs)
  · exact State.finishCe_memWf hs

theorem execCeCommandComplete_nextWf (h : s.memWf) : NextWf (execCeCommandComplete cluster k s) := by
  unfold execCeCommandComplete
  split
  · exact h
  · split
    · exact h
    · refine State.settleClosing_memWf ?_
      split
      · exact State.endSealed_memWf h
      · exact State.endSealed_memWf h
      · exact State.endMeas_memWf h
      · exact State.endCkpt_memWf h
      · exact State.endCopy_memWf (RunSt.toRun_memWf (runCopy_memWf h))

end Sys2Proof.Machine
end

section
/-! PROOFS. O60, the canonical form of memory: collectives, the link, security and synchronisation. -/

open Sys2Proof

namespace Sys2Proof.Machine

variable {s : State} {pkg kind step outcome silent high va n p id k comm link d port v lane table index src addr ring
  window off cls flow seq dest ack i ctx chan key qm sid launch grp lgm core lg : Nat}

/-! ### Collective -/

theorem State.postStatus_memWf (h : s.memWf) : s.postStatus.memWf := by
  unfold State.postStatus
  exact Mem.write_wf (h := h) ..

theorem execCol_nextWf {op : ColOp} {c : CeArg} (h : s.memWf) : NextWf (execCol op c s) := by
  unfold execCol
  refine slotOp_nextWf h fun _ hs => ?_
  refine firstStop_memWf (stopWf_ite stopWf_trap stopWf_none) ?_
  refine firstStop_memWf (stopWf_ite stopWf_none (stopWf_ite stopWf_trap stopWf_none)) ?_
  refine firstStop_memWf (stopWf_ite stopWf_none (stopWf_ite stopWf_trap stopWf_none)) ?_
  refine firstStop_memWf (stopWf_ite stopWf_trap stopWf_none) ?_
  refine firstStop_memWf (stopWf_ite qRoom_stopWf stopWf_none) (firstStop_memWf (stopWf_ite stopWf_stall stopWf_none) ?_)
  exact fst_ite_memWf hs hs

theorem State.colSend_memWf {c : ColCmd} {bs : List Byte} {bad : Bool} (h : s.memWf) : (s.colSend c pkg kind step bs bad).memWf := by
  unfold State.colSend
  exact memWf_ite h (State.sendPacket_memWf h)

theorem State.tellPartners_memWf {c : ColCmd} (h : s.memWf) : (s.tellPartners c).memWf := by
  unfold State.tellPartners
  exact foldl_memWf (fun _ _ hs => (memWf_ite hs (State.colSend_memWf hs))) h

theorem State.finishCol_memWf {c : ColCmd} {status : Status} (h : s.memWf) : (s.finishCol c status outcome silent high).memWf := by
  unfold State.finishCol
  exact memWf_ite (State.postOrCount_memWf (State.postStatus_memWf h)) (State.postStatus_memWf h)

theorem State.failCol_memWf {c : ColCmd} (h : s.memWf) : (s.failCol c).memWf := by
  unfold State.failCol
  exact State.finishCol_memWf h

theorem State.loseCol_memWf {c : ColCmd} (h : s.memWf) : (s.loseCol c).memWf := by
  unfold State.loseCol
  exact State.finishCol_memWf h

theorem State.colTouches_memWf {c : ColCmd} {write : Bool} (h : s.memWf) : (s.colTouches c va n write).memWf := by
  unfold State.colTouches
  exact memWf_ite (State.groupTouches_memWf h) (State.openRange_memWf (State.groupTouches_memWf h))

theorem State.colDenied_memWf {c : ColCmd} {write : Bool} (h : s.memWf) : (s.colDenied c va write).memWf := by
  unfold State.colDenied
  exact memWf_ite (State.failAtPeer_memWf h) h

theorem State.colPark_memWf {c : ColCmd} {write : Bool} (h : s.memWf) : (s.colPark c va write).memWf := by
  unfold State.colPark
  exact State.engineWaits_memWf h

theorem State.colEarly_memWf {c : ColCmd} {sel : Nat → Bool} (h : s.memWf) : (s.colEarly c n p sel).memWf := by
  unfold State.colEarly
  refine foldl_memWf (fun _ _ hs => ?_) h
  split
  · exact hs
  · exact foldl_memWf (fun _ _ hs => (memWf_ite (State.colTouches_memWf (State.writeRange_memWf hs)) hs)) hs

theorem State.colWrite_memWf {c : ColCmd} (h : s.memWf) : (s.colWrite c n p).memWf := by
  unfold State.colWrite
  exact State.colTouches_memWf (foldl_memWf (fun _ _ hs => State.writeLine_memWf hs) h)

theorem State.colIll_memWf {c : ColCmd} {r : CommRecord} (h : s.memWf) : (s.colIll c r).memWf := by
  unfold State.colIll
  exact State.finishCol_memWf (foldl_memWf (fun _ _ hs => memWf_ite hs (State.colSend_memWf hs)) (memWf_ite h h))

theorem State.colReleases_memWf {c : ColCmd} (h : s.memWf) : (s.colReleases c).memWf := by
  unfold State.colReleases
  exact memWf_ite h h

theorem State.colEnter_memWf {c : ColCmd} {ok : Bool} (h : s.memWf) : (s.colEnter c id ok).memWf := by
  unfold State.colEnter
  dsimp only
  split
  · refine State.loseCol_memWf ?_
    split
    · exact foldl_memWf (fun _ _ hs => (memWf_ite hs (State.watch_memWf hs))) (State.colTouches_memWf h)
    · exact foldl_memWf (fun _ _ hs => (memWf_ite hs (State.watch_memWf hs))) (State.colTouches_memWf h)
  · split
    · refine State.failCol_memWf ?_
      refine State.tellPartners_memWf ?_
      split
      · exact foldl_memWf (fun _ _ hs => (memWf_ite hs (State.watch_memWf hs))) (State.colTouches_memWf h)
      · exact foldl_memWf (fun _ _ hs => (memWf_ite hs (State.watch_memWf hs))) (State.colTouches_memWf h)
    · split
      · refine foldl_memWf (fun _ _ hs => State.colSend_memWf hs) ?_
        refine State.colReleases_memWf ?_
        split
        · exact foldl_memWf (fun _ _ hs => (memWf_ite hs (State.watch_memWf hs))) (State.colTouches_memWf h)
        · exact foldl_memWf (fun _ _ hs => (memWf_ite hs (State.watch_memWf hs))) (State.colTouches_memWf h)
      · split
        · exact foldl_memWf (fun _ _ hs => (memWf_ite hs (State.watch_memWf hs))) (State.colTouches_memWf h)
        · exact foldl_memWf (fun _ _ hs => (memWf_ite hs (State.watch_memWf hs))) (State.colTouches_memWf h)

theorem State.colBegin_memWf {c : ColCmd} (h : s.memWf) : (s.colBegin c).memWf := by
  unfold State.colBegin
  dsimp only
  split
  · exact State.finishCol_memWf h
  · split
    · exact State.finishCol_memWf h
    · exact State.colPark_memWf h
    · exact State.finishCol_memWf h
    · split
      · exact State.colPark_memWf h
      · exact State.finishCol_memWf h
      · split
        · exact State.finishCol_memWf h
        · split
          · exact memWf_ite (State.colIll_memWf h) (State.colEnter_memWf h)
          · split
            · exact State.colEnter_memWf (State.colDenied_memWf (memWf_ite h h))
            · exact State.colEnter_memWf (State.colDenied_memWf (memWf_ite h h))
            · exact State.colEnter_memWf (memWf_ite h h)

theorem State.colEnd_memWf {c : ColCmd} (h : s.memWf) : (s.colEnd c n p).memWf := by
  unfold State.colEnd
  split
  · exact State.failCol_memWf (State.tellPartners_memWf (State.failAtPeer_memWf h))
  · split
    · exact State.failCol_memWf (State.tellPartners_memWf (State.colDenied_memWf h))
    · exact State.colPark_memWf h
    · exact State.finishCol_memWf (memWf_ite (State.colSend_memWf (State.colWrite_memWf h)) (State.colWrite_memWf h))

theorem State.colPush_memWf {c : ColCmd} (h : s.memWf) : (s.colPush c n p).memWf := by
  unfold State.colPush
  dsimp only
  split
  · exact State.colSend_memWf h
  · split
    · exact State.failCol_memWf (State.tellPartners_memWf (State.colDenied_memWf h))
    · exact State.colPark_memWf h
    · exact State.colSend_memWf (State.colTouches_memWf h)

theorem State.colPull_memWf {c : ColCmd} {d : ColData} (h : s.memWf) : (s.colPull c n p d).memWf := by
  unfold State.colPull
  dsimp only
  split
  · split
    · exact State.failCol_memWf (State.tellPartners_memWf (State.colDenied_memWf h))
    · exact State.colPark_memWf h
    · exact State.colEarly_memWf (State.colTouches_memWf h)
  · exact State.colEarly_memWf h

theorem State.colTurn_memWf {c : ColCmd} (h : s.memWf) : (s.colTurn c).memWf := by
  unfold State.colTurn
  refine memWf_ite h (memWf_ite (memWf_ite (State.colBegin_memWf h) h) (memWf_ite h ?_))
  split
  · exact State.failCol_memWf (memWf_ite h (State.tellPartners_memWf h))
  · refine memWf_ite h (memWf_ite (State.finishCol_memWf h) (memWf_ite ?_ (memWf_ite (memWf_ite (State.colPush_memWf h) ?_)
      (memWf_ite (memWf_ite (State.colPush_memWf h) ?_) (memWf_ite ?_ (State.colEnd_memWf h))))))
    · split
      · exact State.colPull_memWf h
      · exact h
    · split
      · exact State.finishCol_memWf h
      · exact h
    · split
      · exact State.colPull_memWf h
      · exact h
    · split
      · exact State.failCol_memWf (State.colDenied_memWf h)
      · exact State.colPark_memWf h
      · exact State.colTouches_memWf h

theorem execColCommandComplete_nextWf (h : s.memWf) : NextWf (execColCommandComplete k s) := by
  unfold execColCommandComplete
  split
  · exact State.settleClosing_memWf (State.colTurn_memWf h)
  · exact h

theorem execDomainBarrierComplete_nextWf (h : s.memWf) : NextWf (execDomainBarrierComplete comm s) := by
  unfold execDomainBarrierComplete
  split
  · exact h
  · exact memWf_ite (State.finishCol_memWf h) h

/-! ### Link -/

theorem execUcieRetrain_nextWf (h : s.memWf) : NextWf (execUcieRetrain link s) := by
  unfold execUcieRetrain
  exact memWf_ite h h

theorem State.failDie_memWf (h : s.memWf) : (s.failDie d).memWf := by
  unfold State.failDie
  exact State.machineCheck_memWf (foldl_memWf (fun _ _ hs => State.faultLaunch_memWf hs) h)

theorem execHostLinkDown_nextWf (h : s.memWf) : NextWf (execHostLinkDown s) := by
  unfold execHostLinkDown
  exact memWf_ite h h

theorem State.failFrames_memWf {f : Nat → Bool} (h : s.memWf) : (s.failFrames f).memWf := by
  unfold State.failFrames
  refine foldl_memWf (fun _ _ hs => ?_) h
  split
  · exact State.escalateOutside_memWf hs
  · exact hs

theorem execHostLinkTimeout_nextWf (h : s.memWf) : NextWf (execHostLinkTimeout s) := by
  unfold execHostLinkTimeout
  exact nextWf_ite (State.failFrames_memWf h) h

theorem execHostLinkReturn_nextWf (h : s.memWf) : NextWf (execHostLinkReturn s) := by
  unfold execHostLinkReturn
  exact foldl_memWf (fun _ _ hs => State.flushCq_memWf hs) h

theorem State.setPort_memWf {v : Port} (h : s.memWf) : (s.setPort n v).memWf := by
  unfold State.setPort
  exact State.postStatus_memWf (foldl_memWf (fun _ _ hs => hs) h)

theorem execPortEnable_nextWf (h : s.memWf) : NextWf (execPortEnable port v s) := by
  unfold execPortEnable
  exact memWf_ite h (memWf_ite (State.setPort_memWf h) h)

theorem execPortDisable_nextWf (h : s.memWf) : NextWf (execPortDisable port v s) := by
  unfold execPortDisable
  exact memWf_ite h (State.setPort_memWf h)

theorem execPortLaneLock_nextWf (h : s.memWf) : NextWf (execPortLaneLock port lane s) := by
  unfold execPortLaneLock
  dsimp only
  split
  · exact memWf_ite (State.setPort_memWf h) h
  · exact memWf_ite (State.setPort_memWf h) h
  · exact h

theorem execPortLaneLoss_nextWf (h : s.memWf) : NextWf (execPortLaneLoss port lane s) := by
  unfold execPortLaneLoss
  dsimp only
  split
  · exact h
  · exact memWf_ite h (State.setPort_memWf h)
  · exact memWf_ite h (State.setPort_memWf h)
  · exact h

theorem execPortTrainTimeout_nextWf (h : s.memWf) : NextWf (execPortTrainTimeout port s) := by
  unfold execPortTrainTimeout
  exact memWf_ite h (memWf_ite (memWf_ite (State.setPort_memWf h) h) (memWf_ite (State.setPort_memWf h) h))

theorem execSysidWrite_nextWf (h : s.memWf) : NextWf (execSysidWrite v s) := by
  unfold execSysidWrite
  exact memWf_ite h h

theorem execRouteTableUpdate_nextWf (h : s.memWf) : NextWf (execRouteTableUpdate table index v s) := by
  unfold execRouteTableUpdate
  exact State.postStatus_memWf h

theorem State.serveRemote_memWf {op : RemoteOp} {data : List Byte} (h : s.memWf) : (s.serveRemote src op addr data).memWf := by
  unfold State.serveRemote
  dsimp only
  split
  · exact State.sendPacket_memWf h
  · split
    · exact State.sendPacket_memWf (State.openLine_memWf h)
    · exact State.sendPacket_memWf (Mem.write_wf (h := h) ..)
    · exact State.sendPacket_memWf (State.atomicAt_fst_memWf (State.openLine_memWf h))
    · exact State.sendPacket_memWf (State.atomicAt_fst_memWf (State.openLine_memWf h))

theorem execRemoteRequest_nextWf {op : RemoteOp} {data : List Byte} (h : s.memWf) : NextWf (execRemoteRequest src op addr data s) := by
  unfold execRemoteRequest
  exact memWf_ite (State.serveRemote_memWf h) h

theorem State.ringWake_memWf (h : s.memWf) : (s.ringWake ring).memWf := by
  unfold State.ringWake
  exact memWf_ite h h

theorem State.atPort_memWf {f : Port → Port} (h : s.memWf) : (s.atPort src f).memWf := by
  unfold State.atPort
  split <;> exact h

theorem State.countDrop_memWf (h : s.memWf) : (s.countDrop src).memWf := by
  unfold State.countDrop
  exact State.atPort_memWf h

theorem State.ringWrite_optWf {data : List Byte} (h : s.memWf) : OptWf (s.ringWrite ring data) := by
  unfold State.ringWrite
  split
  · exact optWf_some (State.postStatus_memWf h)
  · split
    · exact optWf_ite optWf_none (optWf_ite optWf_none (optWf_some (State.writeRange_memWf (State.writeRange_memWf h))))
    · exact optWf_none

theorem State.epArrive_fst_memWf {data : List Byte} (h : s.memWf) : (s.epArrive src ring data).1.memWf := by
  unfold State.epArrive
  split
  · next t ht => exact State.ringWrite_optWf h t ht
  · exact State.countDrop_memWf h

theorem execEpPacketArrive_nextWf {data : List Byte} (h : s.memWf) : NextWf (execEpPacketArrive src ring data s) := by
  unfold execEpPacketArrive
  exact memWf_ite h (State.epArrive_fst_memWf (State.ringWake_memWf h))

theorem execHostEndpointWrite_nextWf {data : List Byte} (h : s.memWf) : NextWf (execHostEndpointWrite window off data s) := by
  unfold execHostEndpointWrite
  exact nextWf_ite h (nextWf_ite h (State.appendPacket_fst_memWf h))

theorem State.takeAnswer_memWf {bs : List Byte} (h : s.memWf) : (s.takeAnswer src bs).memWf := by
  unfold State.takeAnswer
  split <;> exact h

theorem State.consume_optWf {seq : Nat} {body : PacketBody} (h : s.memWf) : OptWf (s.consume src seq body) := by
  cases body with
  | keepalive => exact optWf_some h
  | request op addr data => exact optWf_some (State.serveRemote_memWf h)
  | endpoint ring data =>
    unfold State.consume
    dsimp only
    have he : (s.epArrive src ring (data.take 8 ++ toBytes seq 8 ++ data.drop 16)).1.memWf := State.epArrive_fst_memWf h
    split <;> rename_i heq <;> rw [heq] at he
    · exact optWf_some he
    · exact optWf_none
  | collective comm epoch step data =>
    refine optWf_ite (optWf_some h) (optWf_some ?_)
    have hturn : ∀ (u : State) (id : Nat), u.memWf → (match u.link.cols.find? fun (c : ColCmd) => c.id == id with
        | some c => if c.begun then u.colTurn c else u
        | none => u).memWf := by
      intro u id hu
      split
      · exact memWf_ite (State.colTurn_memWf hu) hu
      · exact hu
    exact foldl_memWf hturn (foldl_memWf hturn h)

theorem State.consumeClass_optWf {seq : Nat} {body : PacketBody} (h : s.memWf) : OptWf (s.consumeClass src cls seq body) := by
  unfold State.consumeClass
  refine optWf_ite ?_ (State.consume_optWf h)
  split
  · exact optWf_some (State.takeAnswer_memWf h)
  · exact optWf_some h

theorem State.deliverFlow_memWf (h : s.memWf) : (s.deliverFlow src cls n).memWf := by
  induction n generalizing s with
  | zero => exact h
  | succ n ih =>
    unfold State.deliverFlow
    dsimp only
    split
    · exact h
    · refine memWf_ite h ?_
      split
      · exact State.countDrop_memWf h
      · next t ht => exact ih (State.consumeClass_optWf h t ht)

theorem State.deliverHeld_memWf (h : s.memWf) : s.deliverHeld.memWf := by
  unfold State.deliverHeld
  exact foldl_memWf (fun _ _ hs => (memWf_ite hs (State.deliverFlow_memWf hs))) h

theorem execUcieRetrainComplete_nextWf {ok : Bool} (h : s.memWf) : NextWf (execUcieRetrainComplete link ok s) := by
  unfold execUcieRetrainComplete
  dsimp only
  split
  · exact h
  · split
    · exact State.deliverHeld_memWf h
    · exact nextWf_ite h (memWf_ite (State.failDie_memWf h) (State.machineCheck_memWf h))

theorem State.hear_memWf (h : s.memWf) : (s.hear src).memWf := by
  unfold State.hear
  exact memWf_ite (State.postStatus_memWf h) h

theorem State.arrivalWake_memWf {n : PacketBody} (h : s.memWf) : (s.arrivalWake n).memWf := by
  unfold State.arrivalWake
  split
  · exact State.ringWake_memWf h
  · exact h

theorem execPacketArrive_nextWf {mark : Bool} {body : PacketBody} (h : s.memWf) : NextWf (execPacketArrive src flow seq mark body s) := by
  unfold execPacketArrive
  extract_lets u v cls k f answer
  have hu : u.memWf := State.hear_memWf (State.arrivalWake_memWf h)
  have hv : v.memWf := memWf_ite (State.atPort_memWf hu) hu
  have hanswer : ∀ w : State, w.memWf → (answer w).memWf := fun _ hw => hw
  exact nextWf_ite hv (nextWf_ite (hanswer _ hv) (hanswer _ (State.deliverFlow_memWf (s := State.setFlow ..) hv)))

theorem State.performEp_memWf (h : s.memWf) : (s.performEp dest).memWf := by
  unfold State.performEp
  split <;> exact h

theorem State.drainOutbox_memWf (h : s.memWf) : (s.drainOutbox dest cls).memWf := by
  unfold State.drainOutbox
  exact foldl_memWf (fun _ _ hs => State.sendPacket_memWf hs) h

theorem State.flushOutbox_memWf (h : s.memWf) : s.flushOutbox.memWf := by
  unfold State.flushOutbox
  exact foldl_memWf (fun _ _ hs => State.sendPacket_memWf hs) h

theorem execAckArrive_nextWf {mark : Bool} (h : s.memWf) : NextWf (execAckArrive dest flow ack mark s) := by
  unfold execAckArrive
  refine State.drainOutbox_memWf ?_
  split
  · exact foldl_memWf (fun _ _ hs => State.performEp_memWf hs) (memWf_ite (State.hear_memWf h) (State.hear_memWf h))
  · exact memWf_ite (State.hear_memWf h) (State.hear_memWf h)

theorem execRetransmitTimeout_nextWf (h : s.memWf) : NextWf (execRetransmitTimeout dest flow s) := by
  unfold execRetransmitTimeout
  exact memWf_ite h h

theorem execKeepalive_nextWf (h : s.memWf) : NextWf (execKeepalive dest s) := by
  unfold execKeepalive
  exact memWf_ite h h

theorem State.loseMember_memWf (h : s.memWf) : (s.loseMember i dest).memWf := by
  unfold State.loseMember
  exact memWf_ite h (foldl_memWf (fun _ _ hs => State.finishCol_memWf hs) h)

theorem execPeerSilent_nextWf (h : s.memWf) : NextWf (execPeerSilent dest s) := by
  unfold execPeerSilent
  extract_lets p l u v near lost l' w
  refine nextWf_ite h ?_
  have hv : v.memWf := by
    refine foldl_memWf (s := u) (fun _ _ hs => ?_) h
    exact State.loseMember_memWf hs
  clear_value v
  exact State.postStatus_memWf (memWf_ite (State.failFrames_memWf (s := w) hv) hv)

theorem execHostMemoryAccess_nextWf {write : Bool} {data : List Byte} (h : s.memWf) : NextWf (execHostMemoryAccess write addr data s) := by
  unfold execHostMemoryAccess
  split
  · dsimp only
    split
    · exact Mem.write_wf (h := (memWf_ite h (State.openLine_memWf h))) ..
    · exact memWf_ite h (State.openLine_memWf h)
  · exact h

/-! ### Security -/

theorem execSpdmKeyExchange_nextWf (h : s.memWf) : NextWf (execSpdmKeyExchange s) := by
  unfold execSpdmKeyExchange
  exact h

theorem execChannelInstall_nextWf (h : s.memWf) : NextWf (execChannelInstall ctx chan key s) := by
  unfold execChannelInstall
  exact memWf_ite h h

theorem State.closeWorlds_memWf (h : s.memWf) : s.closeWorlds.memWf := by
  unfold State.closeWorlds
  exact foldl_memWf (fun _ _ hs => (State.settleClosing_memWf (State.closeCtx_memWf hs))) h

theorem execLockInterface_nextWf (h : s.memWf) : NextWf (execLockInterface s) := by
  unfold execLockInterface
  exact memWf_ite h h

theorem execStartInterface_nextWf (h : s.memWf) : NextWf (execStartInterface s) := by
  unfold execStartInterface
  exact memWf_ite h h

theorem execStopInterface_nextWf (h : s.memWf) : NextWf (execStopInterface s) := by
  unfold execStopInterface
  split
  · exact State.closeWorlds_memWf h
  · exact State.closeWorlds_memWf h
  · exact h
  · exact h

theorem execTdiError_nextWf (h : s.memWf) : NextWf (execTdiError s) := by
  unfold execTdiError
  split
  · exact State.closeWorlds_memWf h
  · exact State.closeWorlds_memWf h
  · exact h

theorem execDebugChallenge_nextWf (h : s.memWf) : NextWf (execDebugChallenge s) := by
  unfold execDebugChallenge
  exact h

theorem execDebugUnlock_nextWf {token : List Byte} (h : s.memWf) : NextWf (execDebugUnlock token s) := by
  unfold execDebugUnlock
  exact nextWf_ite h (memWf_ite h h)

theorem execDebugExpiry_nextWf (h : s.memWf) : NextWf (execDebugExpiry s) := by
  unfold execDebugExpiry
  exact memWf_ite h h

theorem State.debugCommand_memWf {f : Strand → Strand} {steps : Nat → Nat} (h : s.memWf) : (s.debugCommand f steps).memWf := by
  unfold State.debugCommand
  exact memWf_ite h (memWf_ite h h)

theorem execDebugHalt_nextWf (h : s.memWf) : NextWf (execDebugHalt s) := by
  unfold execDebugHalt
  exact State.debugCommand_memWf h

theorem execDebugStep_nextWf (h : s.memWf) : NextWf (execDebugStep s) := by
  unfold execDebugStep
  exact State.debugCommand_memWf h

theorem execDebugResume_nextWf (h : s.memWf) : NextWf (execDebugResume s) := by
  unfold execDebugResume
  exact State.debugCommand_memWf h

theorem State.debugAccess_memWf {write : Bool} {f : State → Nat → Nat → State} (h : s.memWf)
    (hf : ∀ (t : State) (ctx va : Nat), t.memWf → (f t ctx va).memWf) : (s.debugAccess write f).memWf := by
  unfold State.debugAccess
  refine memWf_ite h ?_
  split
  · exact h
  · exact hf _ _ _ h

theorem execDebugMemRead_nextWf (h : s.memWf) : NextWf (execDebugMemRead s) := by
  refine State.debugAccess_memWf h fun t ctx va ht => ?_
  dsimp only
  split <;> exact ht

theorem execDebugMemWrite_nextWf (h : s.memWf) : NextWf (execDebugMemWrite v s) :=
  State.debugAccess_memWf h fun _ _ _ ht => State.writeLine_memWf ht

theorem execSnapArm_nextWf (h : s.memWf) : NextWf (execSnapArm v s) := by
  unfold execSnapArm
  exact h

theorem execSnapTrigger_nextWf (h : s.memWf) : NextWf (execSnapTrigger s) := by
  unfold execSnapTrigger
  exact memWf_ite h h

theorem execSnapcmpMatch_nextWf (h : s.memWf) : NextWf (execSnapcmpMatch s) := by
  unfold execSnapcmpMatch
  exact memWf_ite h h

/-! ### Sync -/

theorem execMark_nextWf {sc : Scope} (h : s.memWf) : NextWf (execMark qm sc s) := by
  unfold execMark
  exact slotOp_nextWf h fun _ hs => Res.memWf_ite trivial hs

theorem execMarkerReachHead_nextWf (h : s.memWf) : NextWf (execMarkerReachHead sid k s) := by
  unfold execMarkerReachHead
  dsimp only
  split
  · exact memWf_ite h h
  · exact h

theorem State.fenceAcquire_memWf {ms : List Marker} (h : s.memWf) : (s.fenceAcquire ms).memWf := by
  unfold State.fenceAcquire
  exact Mem.foldl_wf (fun _ _ hm => (Mem.foldl_wf (fun _ _ hm => Mem.acquire_wf hm) hm)) h

theorem State.fenceFull_memWf {ms : List Marker} (h : s.memWf) : (s.fenceFull ms).memWf := by
  unfold State.fenceFull
  split
  · exact Mem.acquire_wf h
  · exact h

theorem State.fence_memWf {ms : List Marker} (h : s.memWf) : (s.fence ms).memWf := by
  unfold State.fence
  exact State.fenceFull_memWf (State.fenceAcquire_memWf h)

theorem execJoin_nextWf (h : s.memWf) : NextWf (execJoin s) := by
  unfold execJoin
  refine slotOp_nextWf h fun _ hs => ?_
  dsimp only
  split
  · exact trivial
  · split
    · exact State.fence_memWf hs
    · exact Res.bind_memWf (joinCalls_memWf hs) (fun _ ht => State.fence_memWf ht)

theorem execSsarr_nextWf (h : s.memWf) : NextWf (execSsarr s) := by
  unfold execSsarr
  exact slotOp_nextWf h fun _ hs => Res.memWf_ite trivial hs

theorem execSswait_nextWf (h : s.memWf) : NextWf (execSswait s) := by
  unfold execSswait
  exact slotOp_nextWf h fun _ hs => Res.memWf_ite trivial (memWf_ite hs hs)

theorem execSuperstepArrival_nextWf (h : s.memWf) : NextWf (execSuperstepArrival sid s) := by
  unfold execSuperstepArrival
  dsimp only
  split
  · exact h
  · exact nextWf_ite h h

theorem execSuperstepGenerationComplete_nextWf (h : s.memWf) : NextWf (execSuperstepGenerationComplete launch s) := by
  unfold execSuperstepGenerationComplete
  dsimp only
  split
  · exact nextWf_ite h h
  · exact h

theorem execCbar_nextWf (h : s.memWf) : NextWf (execCbar s) := by
  unfold execCbar
  exact slotOp_nextWf h fun _ hs => Res.memWf_ite trivial hs

theorem State.releaseMembers_memWf {live : List Nat} (h : s.memWf) : (s.releaseMembers grp live).memWf := by
  unfold State.releaseMembers
  exact foldl_memWf (fun _ _ hs => hs) h

theorem execCbarGenerationComplete_nextWf (h : s.memWf) : NextWf (execCbarGenerationComplete grp s) := by
  unfold execCbarGenerationComplete
  exact nextWf_ite (State.releaseMembers_memWf h) h

theorem execHalt_nextWf (h : s.memWf) : NextWf (execHalt s) := by
  unfold execHalt
  exact slotOp_nextWf h fun _ hs => Res.memWf_ite trivial (Res.bind_memWf (joinCalls_memWf hs) (fun _ ht => ht))

theorem State.discardAtHalt_memWf (h : s.memWf) : (s.discardAtHalt sid).memWf := by
  unfold State.discardAtHalt
  exact memWf_ite h h

theorem execHaltRetire_nextWf (h : s.memWf) : NextWf (execHaltRetire sid s) := by
  unfold execHaltRetire
  exact nextWf_ite h h

theorem execLgate_nextWf {st : LgState} (h : s.memWf) : NextWf (execLgate lgm st s) := by
  unfold execLgate
  exact slotOp_nextWf h fun _ hs => hs

theorem execWake_nextWf (h : s.memWf) : NextWf (execWake lgm s) := by
  unfold execWake
  exact slotOp_nextWf h fun _ hs => hs

theorem execLanegroupTurnOn_nextWf (h : s.memWf) : NextWf (execLanegroupTurnOn core lg s) := by
  unfold execLanegroupTurnOn
  dsimp only
  split
  · exact h
  · exact nextWf_ite h h
  · exact h

end Sys2Proof.Machine
end

section
/-! PROOFS. O60, the canonical form of memory: pages, commands, kernels and groups. -/

open Sys2Proof

namespace Sys2Proof.Machine

variable {s : State} {status tag tasks ctx g n size va count pa key old new len region delta granule src done base die
  cluster policy root save blob queue target window dest ring log2s q v w lid launch ns grp addr reader k gid core hd pc
  c at_ : Nat}

/-! ### Page -/

theorem State.adminEnd_memWf (h : s.memWf) : (s.adminEnd status tag tasks).memWf := by
  unfold State.adminEnd
  dsimp only
  split
  · exact h
  · exact State.postRecord_memWf h

theorem State.adminFault_memWf (h : s.memWf) : (s.adminFault tag).memWf := by
  unfold State.adminFault
  exact State.adminEnd_memWf h

theorem State.adminOk_memWf (h : s.memWf) : (s.adminOk tag).memWf := by
  unfold State.adminOk
  exact State.adminEnd_memWf h

theorem State.failParked_memWf (h : s.memWf) : (s.failParked ctx g n).memWf := by
  unfold State.failParked
  refine foldl_memWf (fun _ _ hs => ?_) h
  dsimp only
  split
  · exact State.escalateOutside_memWf hs
  · exact hs

theorem State.writeRun_memWf {vas : List Nat} (h : s.memWf) : (s.writeRun ctx vas).memWf := by
  unfold State.writeRun
  exact foldl_memWf (fun _ _ hs => State.writeEntries_memWf hs) h

theorem State.takeTable_optWf {key : Nat} (h : s.memWf) : OptWf (s.takeTable ctx key) :=
  optWf_ite (optWf_some h) (map_some_wf (p := fun _ => True) (fun _ _ => trivial) fun _ _ => h)

theorem State.takeTables_optWf (h : s.memWf) : OptWf (s.takeTables ctx va size) :=
  bind_some_wf (State.takeTable_optWf h) fun _ ht => optWf_ite (optWf_some ht) (State.takeTable_optWf ht)

theorem State.tablesFor_optWf {vas : List Nat} (h : s.memWf) : OptWf (s.tablesFor ctx size vas) :=
  List.foldlRecOn (motive := OptWf) vas _ (optWf_some h) fun _ ho _ _ => bind_some_wf ho fun _ ht => State.takeTables_optWf ht

theorem execMap_nextWf {m : MapArg} (h : s.memWf) : NextWf (execMap m s) := by
  unfold execMap
  refine memWf_ite (State.adminFault_memWf h) (memWf_ite h ?_)
  split
  · exact State.adminFault_memWf h
  · next t ht => exact State.adminOk_memWf (State.writeRun_memWf (s := State.setCtx t _ _) (State.tablesFor_optWf h t ht))

theorem execUnmap_nextWf (h : s.memWf) : NextWf (execUnmap ctx size va count tag s) := by
  unfold execUnmap
  dsimp only
  split
  · exact State.adminFault_memWf h
  · exact memWf_ite h (State.adminOk_memWf (State.failParked_memWf (State.writeRun_memWf h)))

theorem execMigrate_nextWf (h : s.memWf) : NextWf (execMigrate ctx size va pa tag s) := by
  unfold execMigrate
  exact memWf_ite (State.adminFault_memWf h) (memWf_ite h (State.adminOk_memWf h))

theorem State.moveFrame_memWf (h : s.memWf) : (s.moveFrame key old new len).memWf := by
  unfold State.moveFrame
  refine memWf_ite (Mem.copyFrame_wf (h := h) ..) (foldl_memWf (fun t l ht => ?_) h)
  have hread : (match peerOf old with
      | some d => t.askPeer d l.1 .read (List.replicate 64 0)
      | none => t).memWf := by
    split
    · exact State.askPeer_memWf ht
    · exact ht
  dsimp only
  split
  · exact State.askPeer_memWf hread
  · exact Mem.write_wf (h := hread) ..

theorem execMigrateCopyDone_nextWf (h : s.memWf) : NextWf (execMigrateCopyDone ctx va s) := by
  unfold execMigrateCopyDone
  extract_lets g c
  split
  · exact h
  · split
    · exact h
    · extract_lets n u w x
      have hu : u.memWf := State.moveFrame_memWf h
      clear_value u
      have hw : w.memWf := hu
      clear_value w
      have hx : x.memWf := State.writeRun_memWf (State.setCtx_memWf hw)
      exact hx

theorem execWreg_nextWf (h : s.memWf) : NextWf (execWreg ctx region delta tag s) := by
  unfold execWreg
  exact memWf_ite (State.adminOk_memWf h) (State.adminFault_memWf h)

theorem execWbegin_nextWf (h : s.memWf) : NextWf (execWbegin ctx region tag s) := by
  unfold execWbegin
  exact memWf_ite (State.adminOk_memWf h) (State.adminFault_memWf h)

theorem State.writeGranule_fst_memWf {bs : List Byte} (h : s.memWf) : (s.writeGranule ctx region granule bs).1.memWf := by
  unfold State.writeGranule
  dsimp only
  split
  · exact h
  · exact fst_ite_memWf (Mem.write_wf (h := h) ..) (Mem.write_wf (h := h) ..)

theorem wpageStep_fst_memWf {w : State × Bool} {rest : List (Nat × Nat)} (hw : w.1.memWf)
    (ih : (w.1.wpageRun ctx region src (done + 1) rest).1.memWf) :
    (let u := w
     if u.2 then (u.1, WpageEnd.fault, done) else u.1.wpageRun ctx region src (done + 1) rest).1.memWf :=
  fst_ite_memWf hw ih

theorem State.wpageRun_fst_memWf {l : List (Nat × Nat)} (h : s.memWf) : (s.wpageRun ctx region src done l).1.memWf := by
  induction l generalizing s done with
  | nil => exact h
  | cons x rest ih =>
    obtain ⟨i, g⟩ := x
    cases hr : s.cpRead ctx (src + 65536 * i) 65536 with
    | bytes bs bad =>
      cases bad with
      | false =>
        rw [State.wpageRun_of_bytes hr]
        have hu := State.openRange_memWf (ctx := ctx) (bound := fun x => (s.region ctx x).current) (va := src + 65536 * i)
          (n := 65536) h
        exact wpageStep_fst_memWf (State.writeGranule_fst_memWf hu) (ih (State.writeGranule_fst_memWf hu))
      | true =>
        rw [State.wpageRun_cons hr]
        exact h
    | park | denied =>
      rw [State.wpageRun_cons hr]
      exact h

theorem execWpage_nextWf (h : s.memWf) : NextWf (execWpage ctx region va src count tag s) := by
  unfold execWpage
  dsimp only
  split
  · exact h
  · split
    · exact State.adminFault_memWf h
    · split
      · exact State.adminOk_memWf (State.wpageRun_fst_memWf h)
      · exact State.adminFault_memWf (State.wpageRun_fst_memWf h)
      · exact State.cpPark_memWf (State.wpageRun_fst_memWf h)

theorem execWcommit_nextWf (h : s.memWf) : NextWf (execWcommit ctx region tag s) := by
  unfold execWcommit
  exact memWf_ite (State.adminFault_memWf h) (memWf_ite (State.adminOk_memWf h) h)

theorem execWabort_nextWf (h : s.memWf) : NextWf (execWabort ctx region tag s) := by
  unfold execWabort
  exact memWf_ite (State.adminOk_memWf h) (State.adminFault_memWf h)

theorem execCkcfg_nextWf (h : s.memWf) : NextWf (execCkcfg ctx base len tag s) := by
  unfold execCkcfg
  exact memWf_ite (State.adminOk_memWf h) (State.adminFault_memWf h)

theorem execPageWalkComplete_nextWf (h : s.memWf) : NextWf (execPageWalkComplete ctx va die cluster s) := by
  unfold execPageWalkComplete
  dsimp only
  split
  · exact h
  · split
    · exact h
    · split
      · exact State.breakCtx_memWf h
      · split
        · exact foldl_memWf (fun _ _ hs => State.tlbFill_memWf hs) (State.tlbFill_memWf h)
        · exact h

theorem State.unprotect_memWf {gs : List Nat} (h : s.memWf) : (s.unprotect ctx gs).memWf := by
  unfold State.unprotect
  exact foldl_memWf (fun _ _ hs => hs) h

theorem State.failCkpt_memWf {p : Ckpt} (h : s.memWf) : (s.failCkpt ctx p).memWf := by
  unfold State.failCkpt
  exact State.unprotect_memWf h

theorem execCkptSnapshot_nextWf (h : s.memWf) : NextWf (execCkptSnapshot ctx s) := by
  unfold execCkptSnapshot
  dsimp only
  split
  · exact h
  · exact memWf_ite h (memWf_ite (State.failCkpt_memWf h) h)

theorem execCkptGranuleStreamed_nextWf (h : s.memWf) : NextWf (execCkptGranuleStreamed ctx granule s) := by
  unfold execCkptGranuleStreamed
  extract_lets c
  split
  · exact h
  · refine nextWf_ite h ?_
    extract_lets dst bound eng
    split
    · exact State.failCkpt_memWf h
    · exact State.failCkpt_memWf h
    · exact State.cpPark_memWf h
    · exact State.cpPark_memWf h
    · exact State.unprotect_memWf (State.setCtx_memWf (State.writeRange_memWf h))

/-! ### Admin -/

theorem execCreate_nextWf {world : Bool} (h : s.memWf) : NextWf (execCreate ctx world policy root save len tag s) := by
  unfold execCreate
  split
  · exact h
  · dsimp only
    split
    · exact State.adminFault_memWf h
    · split
      · exact State.adminOk_memWf h
      · split
        · exact State.adminEnd_memWf h
        · split
          · exact State.adminEnd_memWf h
          · exact State.adminOk_memWf h

theorem execDestroy_nextWf (h : s.memWf) : NextWf (execDestroy ctx tag s) := by
  unfold execDestroy
  split
  · exact State.adminFault_memWf h
  · exact memWf_ite (State.adminOk_memWf h) (State.adminOk_memWf (State.settleClosing_memWf (State.closeCtx_memWf h)))

theorem execPark_nextWf (h : s.memWf) : NextWf (execPark ctx blob tag s) := by
  unfold execPark
  exact memWf_ite (State.adminFault_memWf h) (memWf_ite h (State.adminOk_memWf (Mem.write_wf (h := h) ..)))

theorem execUnpark_nextWf (h : s.memWf) : NextWf (execUnpark ctx blob tag s) := by
  unfold execUnpark
  dsimp only
  split
  · exact State.adminFault_memWf h
  · split
    · exact h
    · split
      · exact State.adminFault_memWf h
      · split
        · exact State.adminEnd_memWf h
        · exact State.adminOk_memWf h

theorem execRelock_nextWf (h : s.memWf) : NextWf (execRelock tag s) := by
  unfold execRelock
  exact State.adminOk_memWf h

theorem execForce_nextWf {on : Bool} (h : s.memWf) : NextWf (execForce ctx on tag s) := by
  unfold execForce
  exact memWf_ite (State.adminFault_memWf h) (State.adminOk_memWf (State.forceCores_memWf h))

theorem execCancel_nextWf (h : s.memWf) : NextWf (execCancel ctx queue target tag s) := by
  unfold execCancel
  exact memWf_ite (State.adminFault_memWf h) (State.adminEnd_memWf (State.endLaunches_memWf h))

theorem execEpwin_nextWf {enable : Bool} (h : s.memWf) : NextWf (execEpwin ctx window enable dest ring tag s) := by
  unfold execEpwin
  exact memWf_ite (State.adminFault_memWf h) (State.adminOk_memWf h)

theorem execEpring_nextWf {wake : Bool} (h : s.memWf) : NextWf (execEpring ctx ring log2s wake base tag s) := by
  unfold execEpring
  exact memWf_ite (State.adminFault_memWf h) (State.adminOk_memWf h)

/-! ### Queue -/

theorem execQtailWrite_nextWf (h : s.memWf) : NextWf (execQtailWrite q v s) := by
  unfold execQtailWrite
  exact memWf_ite h h

theorem execQueueEnable_nextWf (h : s.memWf) : NextWf (execQueueEnable q v s) := by
  unfold execQueueEnable
  exact memWf_ite h (memWf_ite h (memWf_ite h (memWf_ite h h)))

theorem execQueueDisable_nextWf (h : s.memWf) : NextWf (execQueueDisable q v s) := by
  unfold execQueueDisable
  exact memWf_ite h h

theorem execCqEnable_nextWf (h : s.memWf) : NextWf (execCqEnable q v s) := by
  unfold execCqEnable
  extract_lets c c'
  refine memWf_ite h (memWf_ite h (memWf_ite h (memWf_ite ?_ ?_)))
  · exact State.flushCq_memWf (s := s.setCq _ _) h
  · exact State.queuesNaming_memWf (s := s.setCq _ _) h

theorem execCqDisable_nextWf (h : s.memWf) : NextWf (execCqDisable q v s) := by
  unfold execCqDisable
  exact memWf_ite h (memWf_ite (State.flushCq_memWf h) h)

theorem execCheadWrite_nextWf (h : s.memWf) : NextWf (execCheadWrite q v s) := by
  unfold execCheadWrite
  exact memWf_ite h (State.flushCq_memWf h)

theorem State.newLaunch_memWf {poison : Bool} (h : s.memWf) : (s.newLaunch q w poison).memWf := by
  unfold State.newLaunch
  exact memWf_ite (State.fixStatus_memWf h) h

theorem execWorkItemRead_nextWf (h : s.memWf) : NextWf (execWorkItemRead q s) := by
  unfold execWorkItemRead
  exact memWf_ite h (memWf_ite h (State.newLaunch_memWf h))

theorem State.settleLaunch_memWf (h : s.memWf) : (s.settleLaunch lid).memWf := by
  unfold State.settleLaunch
  dsimp only
  split
  · exact h
  · split
    · exact State.fixStatus_memWf (State.closeBarrier_memWf h)
    · exact memWf_ite (State.fixStatus_memWf (State.closeBarrier_memWf h)) h

theorem State.discardPreloads_memWf {back : Bool} (h : s.memWf) : (s.discardPreloads lid back).memWf := by
  unfold State.discardPreloads
  exact foldl_memWf (fun _ _ hs => (memWf_ite (State.dropPreload_memWf hs) hs)) h

theorem execItemAged_nextWf (h : s.memWf) : NextWf (execItemAged launch s) := by
  unfold execItemAged
  exact memWf_ite h h

theorem State.passDeadline_memWf (h : s.memWf) : (s.passDeadline launch).memWf := by
  unfold State.passDeadline
  exact memWf_ite (State.endLaunches_memWf h) (State.settleLaunch_memWf (State.discardPreloads_memWf h))

theorem execDeadlinePass_nextWf (h : s.memWf) : NextWf (execDeadlinePass launch s) := by
  unfold execDeadlinePass
  exact memWf_ite h (State.passDeadline_memWf h)

theorem State.passTime_memWf (h : s.memWf) : (s.passTime ns).memWf := by
  unfold State.passTime
  exact memWf_ite h (State.runHints_memWf h)

theorem execBudgetExpiry_nextWf (h : s.memWf) : NextWf (execBudgetExpiry grp s) := by
  unfold execBudgetExpiry
  dsimp only
  split
  · exact h
  · split
    · exact memWf_ite (State.endLaunches_memWf h) h
    · exact memWf_ite h (memWf_ite (memWf_ite (State.endLaunches_memWf h) h) (memWf_ite h h))

/-! ### Kernel -/

theorem State.stageKernel_memWf (h : s.memWf) : (s.stageKernel ctx addr reader).memWf := by
  unfold State.stageKernel
  extract_lets u r v
  have hu : u.memWf := by
    refine memWf_ite h ?_
    split <;> exact h
  exact memWf_ite hu hu

theorem State.measureLoad_memWf {bs : List Byte} (h : s.memWf) : (s.measureLoad ctx bs).memWf := by
  unfold State.measureLoad
  split <;> exact h

theorem State.finishRead_memWf {world : Bool} {n : ObjRead} (h : s.memWf) : (s.finishRead lid k world va n).memWf := by
  unfold State.finishRead
  split
  · exact State.cpPark_memWf h
  · exact State.endLaunches_memWf h
  · dsimp only
    split
    · refine State.measureLoad_memWf ?_
      split
      · split
        · exact h
        · exact h
      · exact h
    · refine State.endLaunches_memWf ?_
      split
      · split
        · exact h
        · exact h
      · exact h

theorem execKernelRead_nextWf (h : s.memWf) : NextWf (execKernelRead launch s) := by
  unfold execKernelRead
  dsimp only
  split
  · exact h
  · split
    · exact State.endLaunches_memWf h
    · split
      · exact h
      · split
        · exact State.stageKernel_memWf h
        · exact memWf_ite h (memWf_ite (State.finishRead_memWf h) h)

theorem State.takeLoadId_fst_memWf (h : s.memWf) : (s.takeLoadId gid).1.memWf := by
  unfold State.takeLoadId
  split <;> exact h

theorem State.writeHalf_memWf (h : s.memWf) : (s.writeHalf gid core hd pc).memWf := by
  unfold State.writeHalf
  exact memWf_ite h (State.takeLoadId_fst_memWf h)

theorem State.beginDrain_memWf (h : s.memWf) : (s.beginDrain core).memWf := by
  unfold State.beginDrain
  exact memWf_ite h h

theorem State.loadCore_memWf (h : s.memWf) : (s.loadCore gid core).memWf := by
  unfold State.loadCore
  dsimp only
  split
  · exact State.beginDrain_memWf h
  · split
    · exact h
    · exact memWf_ite (State.writeHalf_memWf h) (State.writeHalf_memWf h)

theorem execKernelLoad_nextWf (h : s.memWf) : NextWf (execKernelLoad launch core s) := by
  unfold execKernelLoad
  dsimp only
  split
  · exact h
  · split
    · exact State.loadCore_memWf h
    · exact h

/-! ### Images -/

theorem State.writeImages_memWf {l : List (Nat × List Byte)} (h : s.memWf) : (s.writeImages ctx l).memWf := by
  unfold State.writeImages
  exact foldl_memWf (fun _ _ hs => State.writeRange_memWf hs) h

/-! ### Groups -/

theorem State.readyLaunch_fst_memWf (h : s.memWf) : (s.readyLaunch lid).1.memWf := by
  unfold State.readyLaunch
  refine fst_ite_memWf h ?_
  split
  · exact State.cpPark_memWf h
  · exact State.endLaunches_memWf h
  · exact State.cpPark_memWf h
  · exact State.endLaunches_memWf h
  · exact h

theorem State.powerCores_memWf {cores : List Nat} (h : s.memWf) : (s.powerCores k ctx cores).memWf := by
  unfold State.powerCores
  exact foldl_memWf (fun _ _ hs => hs) h

theorem State.alignSets_memWf (h : s.memWf) : (s.alignSets k).memWf := by
  unfold State.alignSets
  exact memWf_ite h (foldl_memWf (fun _ _ hs => hs) h)

theorem State.newGroup_memWf {state : GroupState} (h : s.memWf) : (s.newGroup lid k state).memWf := by
  unfold State.newGroup
  extract_lets l kid r ps cores u
  have hu : u.memWf := State.powerCores_memWf h
  clear_value u
  exact hu

theorem State.sweepStrict_memWf (h : s.memWf) : s.sweepStrict.memWf := by
  unfold State.sweepStrict
  exact State.endLaunches_memWf h

theorem State.fillTiles_memWf {o : List Byte} {ts : SMap Tile} (h : s.memWf) : (s.fillTiles k o ts).memWf := by
  unfold State.fillTiles
  refine foldl_memWf (fun _ _ hs => ?_) (foldl_memWf (fun _ _ hs => State.zeroTile_memWf hs) h)
  dsimp only
  split <;> exact hs

theorem State.allocStrands_memWf {shadow : Bool} (h : s.memWf) : (s.allocStrands gid shadow).memWf := by
  unfold State.allocStrands
  exact foldl_memWf (fun _ _ hs => hs) h

theorem State.swapAlone_memWf {ps : List Placement} (h : s.memWf) : (s.swapAlone k ps).memWf := by
  unfold State.swapAlone
  exact foldl_memWf (fun _ _ hs => memWf_ite hs hs) h

theorem State.activate_memWf (h : s.memWf) : (s.activate gid).memWf := by
  unfold State.activate
  exact foldl_memWf (fun _ _ hs => hs) h

theorem State.settleGroup_memWf (h : s.memWf) : (s.settleGroup gid).memWf := by
  unfold State.settleGroup
  exact memWf_ite h h

theorem execGroupStart_nextWf (h : s.memWf) : NextWf (execGroupStart grp s) := by
  unfold execGroupStart
  extract_lets g o cl
  refine memWf_ite h (memWf_ite (State.passDeadline_memWf h) ?_)
  split
  · exact h
  · extract_lets u v w x l y
    have hv : v.memWf := State.fillTiles_memWf (State.setCluster_memWf h)
    clear_value v
    have hw : w.memWf := State.swapAlone_memWf (State.allocStrands_memWf hv)
    clear_value w
    have hx : x.memWf := State.activate_memWf hw
    clear_value x
    exact hx

theorem State.stowUnits_memWf (h : s.memWf) : (s.stowUnits gid c).memWf := by
  unfold State.stowUnits
  exact memWf_ite h h

theorem State.bringUnits_memWf (h : s.memWf) : (s.bringUnits gid c).memWf := by
  unfold State.bringUnits
  dsimp only
  split <;> exact h

theorem State.setLives_memWf {from_ to_ : Life} (h : s.memWf) : (s.setLives gid c from_ to_).memWf := by
  unfold State.setLives
  exact foldl_memWf (fun _ _ hs => memWf_ite hs hs) h

theorem State.activateOn_memWf (h : s.memWf) : (s.activateOn gid c).memWf := by
  unfold State.activateOn
  dsimp only
  split <;> exact h

theorem State.swapCore_memWf {out inn : Option Nat} (h : s.memWf) : (s.swapCore k out inn c).memWf := by
  unfold State.swapCore
  extract_lets u v w
  have hu : u.memWf := by
    unfold u
    split
    · exact State.setLives_memWf (State.stowUnits_memWf h)
    · exact h
  have hv : v.memWf := hu
  have hw : w.memWf := by
    unfold w
    split
    · exact State.bringUnits_memWf (State.activateOn_memWf (State.setLives_memWf hv))
    · exact hv
  clear_value w
  exact hw

theorem State.writeUnits_optWf (h : s.memWf) : OptWf (s.writeUnits gid c) := by
  unfold State.writeUnits
  refine optWf_ite (optWf_some h) (bind_some_wf (p := fun _ => True) (fun _ _ => trivial) fun a _ => ?_)
  exact optWf_ite (optWf_some (State.setGroup_memWf (State.writeImages_memWf h))) optWf_none

theorem State.trySwap_memWf {out inn : Option Nat} (h : s.memWf) : (s.trySwap k out inn c).memWf := by
  unfold State.trySwap
  refine memWf_ite h ?_
  split
  · split
    · next t ht => exact State.swapCore_memWf (optWf_ite (State.writeUnits_optWf h) (optWf_some h) t ht)
    · exact h
  · exact State.swapCore_memWf h

theorem State.rerunTaken_memWf (h : s.memWf) : (s.rerunTaken gid).memWf := by
  unfold State.rerunTaken
  exact memWf_ite h h

theorem State.swapIn_memWf (h : s.memWf) : (s.swapIn gid).memWf := by
  unfold State.swapIn
  exact State.settleGroup_memWf (State.rerunTaken_memWf h)

theorem State.endSwap_memWf {out inn : Option Nat} (h : s.memWf) : (s.endSwap k out inn).memWf := by
  unfold State.endSwap
  dsimp only
  split
  · refine State.swapIn_memWf ?_
    split <;> exact h
  · split
    · exact h
    · exact h

theorem State.swapStep_memWf {out inn : Option Nat} (h : s.memWf) : (s.swapStep k out inn).memWf := by
  unfold State.swapStep
  split
  · exact State.passDeadline_memWf (State.endGroup_memWf h)
  · dsimp only
    split
    · exact State.endSwap_memWf (foldl_memWf (fun _ _ hs => State.trySwap_memWf hs) h)
    · exact foldl_memWf (fun _ _ hs => State.trySwap_memWf hs) h

theorem State.swapSecond_memWf (h : s.memWf) : (s.swapSecond gid).memWf := by
  unfold State.swapSecond
  exact foldl_memWf (fun _ _ hs => (memWf_ite (foldl_memWf (fun _ _ hs => memWf_ite hs hs) hs) hs)) h

theorem execBankSwapComplete_nextWf (h : s.memWf) : NextWf (execBankSwapComplete cluster s) := by
  unfold execBankSwapComplete
  split
  · exact h
  · split
    · split
      · exact memWf_ite (State.swapSecond_memWf h) h
      · split
        · split
          · exact memWf_ite h (memWf_ite (State.swapStep_memWf h) h)
          · exact State.swapStep_memWf h
        · exact h
    · exact memWf_ite h (memWf_ite (State.swapStep_memWf h) h)
    · exact h

theorem State.resumeCopies_memWf {ts : SMap Tile} (h : s.memWf) : (s.resumeCopies gid k ts).memWf := by
  unfold State.resumeCopies
  exact foldl_memWf (fun _ _ hs => hs) h

theorem State.renameAgents_memWf {pairs : List (Nat × Nat)} (h : s.memWf) : (s.renameAgents pairs).memWf := by
  unfold State.renameAgents
  exact Mem.foldl_wf (fun _ _ hm => hm) h

theorem State.leaveCluster_memWf {ts : SMap Tile} {fore : Bool} (h : s.memWf) : (s.leaveCluster gid at_ size ts fore).memWf := by
  unfold State.leaveCluster
  refine State.forceCores_memWf ?_
  split
  · exact State.freeTable_memWf (foldl_memWf (fun _ _ hs => memWf_ite hs hs) (State.renameAgents_memWf h))
  · exact State.freeShadow_memWf (foldl_memWf (fun _ _ hs => memWf_ite hs hs) (State.renameAgents_memWf h))

theorem execImageWrite_nextWf (h : s.memWf) : NextWf (execImageWrite grp s) := by
  unfold execImageWrite
  dsimp only
  split
  · exact h
  · split
    · exact h
    · exact memWf_ite (State.leaveCluster_memWf (State.writeImages_memWf h)) h

theorem State.drainFor_memWf {g : Group} (h : s.memWf) : (s.drainFor g k).memWf := by
  unfold State.drainFor
  exact foldl_memWf (fun _ _ hs => State.beginDrain_memWf hs) h

theorem State.loadAll_memWf (h : s.memWf) : (s.loadAll gid k).memWf := by
  unfold State.loadAll
  refine foldl_memWf (fun _ _ hs => ?_) h
  split
  · exact State.writeHalf_memWf hs
  · exact hs

theorem State.putStore_memWf {units : SMap Core} (h : s.memWf) : (s.putStore k units).memWf := by
  unfold State.putStore
  exact foldl_memWf (fun _ _ hs => hs) h

theorem State.postHeld_memWf (h : s.memWf) : (s.postHeld gid).memWf := by
  unfold State.postHeld
  exact foldl_memWf (fun _ _ hs => State.postTo_memWf hs) h

theorem State.restageTile_fst_memWf {bound : Nat → Nat} {t : Tile} (h : s.memWf) :
    ∀ x, s.restageTile k ctx bound t = some x → x.1.memWf := by
  unfold State.restageTile
  refine List.foldlRecOn (motive := fun o : Option (State × Tile) => ∀ x, o = some x → x.1.memWf) _ _
    (fun x hx => Option.some.inj hx ▸ h) fun o ho e _ => bind_some_wf ho fun x hx y hy => ?_
  split at hy
  · cases hy
  · exact Option.some.inj hy ▸ hx
  · exact Option.some.inj hy ▸ hx

theorem State.restage_fst_memWf {bound : Nat → Nat} {on : Nat → Bool} {ts : SMap Tile} (h : s.memWf) :
    ∀ x, s.restage k ctx bound on ts = some x → x.1.memWf := by
  unfold State.restage
  refine List.foldlRecOn (motive := fun o : Option (State × SMap Tile) => ∀ x, o = some x → x.1.memWf) _ _
    (fun x hx => Option.some.inj hx ▸ h) fun o ho e _ => bind_some_wf ho fun x hx y hy => ?_
  split at hy
  · exact Option.some.inj hy ▸ hx
  · obtain ⟨z, hz, rfl⟩ := Option.map_eq_some_iff.1 hy
    exact State.restageTile_fst_memWf hx z hz

theorem State.restoreOn_optWf {imgs : List (List Byte)} (h : s.memWf) : OptWf (s.restoreOn gid k imgs) := by
  unfold State.restoreOn
  extract_lets g g' two cores s₁ s₂ s₃ g₃ pairs second fgNow bank sids back s₄ cl s₅ s₆ rename units s₇ s₈ s₉ s₁₀
  have h₃ : s₃.memWf := by
    refine State.loadAll_memWf (State.setGroup_memWf ?_)
    exact foldl_memWf (s := s₁) (fun _ _ hs => hs) (State.powerCores_memWf (State.alignSets_memWf h))
  clear_value s₃
  have h₄ : s₄.memWf := foldl_memWf (fun _ _ hs => hs) h₃
  clear_value s₄
  have h₆ : s₆.memWf := State.putStore_memWf (s := s₅) h₄
  clear_value s₆
  have h₇ : s₇.memWf := h₆
  clear_value s₇
  have h₈ : s₈.memWf :=
    memWf_ite (State.rerunTaken_memWf (foldl_memWf (fun _ _ hs => State.bringUnits_memWf hs) (State.activate_memWf h₇))) h₇
  clear_value s₈
  have h₁₀ : s₁₀.memWf := State.postHeld_memWf (State.resumeCopies_memWf (State.renameAgents_memWf h₈))
  clear_value s₁₀
  exact map_some_wf (State.restage_fst_memWf h₁₀) fun _ hx => hx

theorem State.restore_memWf (h : s.memWf) : (s.restore gid k).memWf := by
  unfold State.restore
  dsimp only
  split
  · exact h
  · exact getD_memWf (State.restoreOn_optWf h) h
  · exact State.faultLaunch_memWf h

theorem execImageRestore_nextWf (h : s.memWf) : NextWf (execImageRestore grp s) := by
  unfold execImageRestore
  dsimp only
  split
  · exact h
  · split
    · exact State.restore_memWf h
    · exact State.drainFor_memWf h
    · exact h

theorem execTaskDispatch_nextWf (h : s.memWf) : NextWf (execTaskDispatch cluster s) := by
  unfold execTaskDispatch
  split
  · exact h
  · dsimp only
    split
    · split
      · exact State.sweepStrict_memWf h
      · split
        · exact State.restore_memWf (State.sweepStrict_memWf h)
        · exact memWf_ite (State.drainFor_memWf (State.sweepStrict_memWf h)) (State.sweepStrict_memWf h)
    · split
      · exact State.sweepStrict_memWf h
      · split
        · exact State.sweepStrict_memWf h
        · split
          · exact State.readyLaunch_fst_memWf (State.sweepStrict_memWf h)
          · refine State.newGroup_memWf ?_
            exact foldl_memWf (fun _ _ hs => State.beginDrain_memWf hs)
              (State.alignSets_memWf (State.readyLaunch_fst_memWf (State.sweepStrict_memWf h)))

theorem execPreemptRequest_nextWf (h : s.memWf) : NextWf (execPreemptRequest cluster s) := by
  unfold execPreemptRequest
  split
  · exact memWf_ite h h
  · exact h

theorem State.writeMail_memWf (h : s.memWf) : (s.writeMail gid).memWf := by
  unfold State.writeMail
  exact State.setCluster_memWf h

theorem execPreload_nextWf (h : s.memWf) : NextWf (execPreload cluster s) := by
  unfold execPreload
  refine memWf_ite h ?_
  extract_lets u
  have hu : u.memWf := State.sweepStrict_memWf h
  clear_value u
  split
  · next lid cmd _ _ =>
    extract_lets l kid o spare r v c w gid x cl
    refine memWf_ite hu ?_
    have hr : r.1.memWf := State.readyLaunch_fst_memWf hu
    have hw : w.memWf := hr
    clear_value w
    have hx : x.memWf := State.loadAll_memWf (State.newGroup_memWf hw)
    clear_value x
    refine memWf_ite hr ?_
    split
    · exact State.writeMail_memWf (State.allocStrands_memWf (State.fillTiles_memWf (State.setCluster_memWf hx)))
    · exact hx
  · exact hu

theorem execTileTaskEnd_nextWf (h : s.memWf) : NextWf (execTileTaskEnd grp s) := by
  unfold execTileTaskEnd
  exact memWf_ite (State.settleLaunch_memWf (State.endGroup_memWf h)) h

end Sys2Proof.Machine
end

section
/-! PROOFS. O60, the canonical form of memory: completion, power, registers and units. -/

open Sys2Proof

namespace Sys2Proof.Machine

variable {s : State} {lid launch d core gid n die v current t sensor temp addr pa frame i q off space value idx
  ha hd tb now due : Nat}

/-! ### Complete -/

theorem State.measureLaunch_memWf {st : Status} {bufs : List (Nat × Nat × List Byte)} (h : s.memWf) :
    (s.measureLaunch lid st bufs).memWf := by
  unfold State.measureLaunch
  dsimp only
  split
  · split
    · exact h
    · exact h
  · split
    · exact h
    · exact h

theorem State.postAdmin_memWf (h : s.memWf) : (s.postAdmin lid).memWf := by
  unfold State.postAdmin
  exact foldl_memWf (fun _ _ hs => State.postRecord_memWf hs) h

theorem State.closeLaunch_memWf (h : s.memWf) : (s.closeLaunch lid).memWf := by
  unfold State.closeLaunch
  exact State.settleClosing_memWf (State.postAdmin_memWf (State.postRecord_memWf h))

theorem execLaunchComplete_nextWf (h : s.memWf) : NextWf (execLaunchComplete launch s) := by
  unfold execLaunchComplete
  dsimp only
  split
  · exact h
  · split
    · exact h
    · split
      · split
        · exact State.measureLaunch_memWf h
        · split
          · exact State.cpPark_memWf h
          · exact State.measureLaunch_memWf h
          · exact State.measureLaunch_memWf h
      · split
        · split
          · exact h
          · split
            · exact State.cpPark_memWf h
            · exact State.closeLaunch_memWf h
            · exact State.closeLaunch_memWf (State.writeRange_memWf h)
        · exact State.closeLaunch_memWf h

theorem execHallmarkSign_nextWf (h : s.memWf) : NextWf (execHallmarkSign launch s) := by
  unfold execHallmarkSign
  split
  · exact h
  · dsimp only
    split <;> exact h

/-! ### Retention -/

theorem State.settleDie_memWf (h : s.memWf) : (s.settleDie d).memWf := by
  unfold State.settleDie
  exact memWf_ite h h

theorem State.clearRetention_memWf (h : s.memWf) : (s.clearRetention core).memWf := by
  unfold State.clearRetention
  exact SMap.wf_filter _ h

theorem State.retain_memWf (h : s.memWf) : (s.retain core).memWf := by
  unfold State.retain
  exact foldl_memWf (fun _ _ hs => memWf_ite hs hs)
    (Mem.foldl_wf (fun _ _ hm => Mem.write_wf (h := hm) ..) (State.clearRetention_memWf h))

theorem execCoreGate_nextWf (h : s.memWf) : NextWf (execCoreGate core s) := by
  unfold execCoreGate
  dsimp only
  split
  · exact h
  · split
    · exact memWf_ite (State.settleDie_memWf h) h
    · split
      · exact State.settleDie_memWf (foldl_memWf (fun _ _ hs => hs) (foldl_memWf (fun _ _ hs => State.retain_memWf hs) h))
      · exact h

theorem State.reloadOn_memWf (h : s.memWf) : (s.reloadOn gid).memWf := by
  unfold State.reloadOn
  exact foldl_memWf (fun _ _ hs => (memWf_ite (State.writeHalf_memWf hs) (State.writeHalf_memWf hs))) h

theorem State.wakeGroup_memWf (h : s.memWf) : (s.wakeGroup gid).memWf := by
  unfold State.wakeGroup
  exact State.reloadOn_memWf (foldl_memWf (fun _ _ hs => memWf_ite hs hs) h)

theorem State.restageGroup_optWf (h : s.memWf) : OptWf (s.restageGroup gid) := by
  unfold State.restageGroup
  exact optWf_ite (map_some_wf (State.restage_fst_memWf h) fun _ hx => State.setCluster_memWf hx)
    (map_some_wf (State.restage_fst_memWf h) fun _ hx => State.setCluster_memWf hx)

theorem foldl_restageGroup_optWf {groups : List Nat} {o : Option State} (h : OptWf o) :
    OptWf (groups.foldl (fun r g => r.bind fun s => s.restageGroup g) o) :=
  List.foldlRecOn (motive := OptWf) groups _ h fun _ ho _ _ => bind_some_wf ho fun _ ht => State.restageGroup_optWf ht

theorem State.wake_memWf {cores groups : List Nat} (h : s.memWf) : (s.wake cores groups).memWf := by
  unfold State.wake
  extract_lets u
  have hu : u.memWf := foldl_memWf (fun _ _ hs => State.clearRetention_memWf hs) h
  split
  · exact hu
  · next t ht =>
    exact foldl_memWf (fun _ _ hs => State.wakeGroup_memWf hs) (foldl_restageGroup_optWf (optWf_some hu) t ht)

theorem State.loseCores_memWf {cores groups : List Nat} (h : s.memWf) : (s.loseCores cores groups).memWf := by
  unfold State.loseCores
  exact foldl_memWf (fun _ _ hs => State.clearRetention_memWf hs) (State.endLaunches_memWf h)

theorem execCoreWake_nextWf (h : s.memWf) : NextWf (execCoreWake core s) := by
  unfold execCoreWake
  dsimp only
  split
  · exact h
  · split
    · exact State.clearRetention_memWf h
    · exact memWf_ite (State.loseCores_memWf h) (memWf_ite (State.wake_memWf h) h)

theorem execCoreDrainComplete_nextWf (h : s.memWf) : NextWf (execCoreDrainComplete core s) := by
  unfold execCoreDrainComplete
  exact memWf_ite h (State.settleAll_memWf h)

theorem State.completeNow_memWf (h : s.memWf) : (s.completeNow lid).memWf := by
  unfold State.completeNow
  extract_lets go a b
  have hgo : ∀ {t : State} {o : Host.Outcome State Fault Refusal}, NextWf o → t.memWf → (go t o).memWf := by
    intro t o ho ht
    cases o with
    | next u => exact ho
    | fault _ | refused _ => exact ht
  have ha : a.memWf := hgo (execLaunchComplete_nextWf h) h
  have hb : b.memWf := hgo (execHallmarkSign_nextWf ha) ha
  exact hgo (execLaunchComplete_nextWf hb) hb

theorem State.undoHalts_memWf (h : s.memWf) : s.undoHalts.memWf := by
  unfold State.undoHalts
  exact foldl_memWf (fun _ _ hs => (memWf_ite hs (memWf_ite hs hs))) h

theorem State.saveAll_memWf (h : s.memWf) : s.saveAll.memWf := by
  unfold State.saveAll
  extract_lets a b
  have ha : a.memWf := State.undoHalts_memWf (foldl_memWf (fun _ _ hs => State.completeNow_memWf hs) h)
  clear_value a
  have hb : b.memWf := foldl_memWf (fun _ _ hs => memWf_ite (State.setCore_memWf hs) (State.retain_memWf hs)) ha
  exact hb

theorem State.settleLoss_memWf (h : s.memWf) : s.settleLoss.memWf := by
  unfold State.settleLoss
  exact memWf_ite (State.saveAll_memWf h) h

theorem execPowerLossWarning_nextWf (h : s.memWf) : NextWf (execPowerLossWarning s) := by
  unfold execPowerLossWarning
  exact State.settleLoss_memWf h

theorem foldl_cellPut_ite_wf {c : Host.Cell → Bool} {f : Host.Cell → Byte} {l m : List Host.Cell} (h : Memory.wf m = true) :
    Memory.wf (l.foldl (fun m e => if c e then cellPut m e.1 (f e) else m) m) = true :=
  List.foldlRecOn (motive := fun m => Memory.wf m = true) l _ h fun m hm e _ => by
    split
    · exact cellPut_wf _ _ hm
    · exact hm

theorem State.lostMemory_memWf (h : s.memWf) : s.lostMemory.memWf := by
  unfold State.lostMemory
  refine foldl_cellPut_ite_wf (c := fun e => s.isLpddr e.1) ?_
  refine Mem.foldl_wf (fun m w hm => ?_) h
  split
  · exact Mem.promote_wf _ _ hm
  · exact hm

theorem execPowerReturn_nextWf (h : s.memWf) : NextWf (execPowerReturn s) := by
  unfold execPowerReturn
  refine memWf_ite h ?_
  extract_lets _ a _ b _ c _ _ d e f
  have hb : b.memWf := State.endLaunches_memWf (s := a) h
  clear_value b
  have hc : c.memWf := foldl_memWf (fun _ _ hs => State.dropPreload_memWf hs) hb
  clear_value c
  have hd : d.memWf := hc
  clear_value d
  have he : e.memWf := foldl_memWf (fun _ _ hs => State.breakCtx_memWf (State.endLaunches_memWf hs)) hd
  clear_value e
  have hf : f.memWf := State.lostMemory_memWf he
  exact hf

theorem State.replayJournal_memWf {l : List (Nat × Ctx)} (h : s.memWf) :
    (l.foldl (fun s c => c.2.regions.foldl (fun s r =>
      if r.2.commit then s.commitRegion c.1 r.1 else if r.2.tx == .idle then s else s.setRegion c.1 r.1 r.2.rollBack) s) s).memWf :=
  foldl_memWf (fun _ _ hs => foldl_memWf (fun _ _ hs => memWf_ite hs (memWf_ite hs hs)) hs) h

theorem State.stageDone_memWf (h : s.memWf) : (s.stageDone n).memWf := by
  unfold State.stageDone
  split
  · exact h
  · exact h
  · exact State.replayJournal_memWf h
  · exact h
  · extract_lets u
    have hu : u.memWf := State.postStatus_memWf h
    clear_value u
    split
    · exact State.deliverCheck_memWf hu
    · exact hu
  · exact h

theorem execBringUp_nextWf (h : s.memWf) : NextWf (execBringUp s) := by
  unfold execBringUp
  exact memWf_ite h (memWf_ite h (State.stageDone_memWf h))

/-! ### Power -/

theorem execDieclkTgtWrite_nextWf (h : s.memWf) : NextWf (execDieclkTgtWrite die v s) := by
  unfold execDieclkTgtWrite
  exact memWf_ite h h

theorem execHopPllLock_nextWf (h : s.memWf) : NextWf (execHopPllLock die s) := by
  unfold execHopPllLock
  exact memWf_ite h h

theorem execHopComplete_nextWf (h : s.memWf) : NextWf (execHopComplete die s) := by
  unfold execHopComplete
  exact memWf_ite h h

theorem State.giveUp_memWf (h : s.memWf) : (s.giveUp die).memWf := by
  unfold State.giveUp
  exact memWf_ite (State.machineCheck_memWf h) h

theorem execDroopDetect_nextWf (h : s.memWf) : NextWf (execDroopDetect die s) := by
  unfold execDroopDetect
  exact memWf_ite h (State.giveUp_memWf h)

theorem execDroopStretchEnd_nextWf (h : s.memWf) : NextWf (execDroopStretchEnd die s) := by
  unfold execDroopStretchEnd
  exact h

theorem execHopRetry_nextWf (h : s.memWf) : NextWf (execHopRetry die s) := by
  unfold execHopRetry
  dsimp only
  split
  · exact h
  · split
    · exact h
    · exact h
    · exact h

theorem execCurrentLevelRaise_nextWf (h : s.memWf) : NextWf (execCurrentLevelRaise die current s) := by
  unfold execCurrentLevelRaise
  exact memWf_ite h h

theorem execCurrentLevelLower_nextWf (h : s.memWf) : NextWf (execCurrentLevelLower die s) := by
  unfold execCurrentLevelLower
  exact memWf_ite h h

theorem State.settleThrottle_memWf (h : s.memWf) : (s.settleThrottle n).memWf := by
  unfold State.settleThrottle
  exact memWf_ite h h

theorem State.readSensor_memWf (h : s.memWf) : (s.readSensor n t).memWf := by
  unfold State.readSensor
  exact State.settleThrottle_memWf h

theorem State.settleHold_memWf (h : s.memWf) : s.settleHold.memWf := by
  unfold State.settleHold
  exact memWf_ite h h

theorem State.heatActs_memWf (h : s.memWf) : (s.heatActs sensor).memWf := by
  unfold State.heatActs
  split
  · exact State.settleLoss_memWf (memWf_ite h (State.trigger_memWf h))
  · exact memWf_ite (State.settleHold_memWf h) h

theorem State.sense_memWf (h : s.memWf) : (s.sense sensor temp).memWf := by
  unfold State.sense
  exact memWf_ite h (State.heatActs_memWf (State.readSensor_memWf h))

theorem execThermalThrottle_nextWf (h : s.memWf) : NextWf (execThermalThrottle sensor temp s) := by
  unfold execThermalThrottle
  exact State.sense_memWf h

theorem execKilnHoldStart_nextWf (h : s.memWf) : NextWf (execKilnHoldStart sensor temp s) := by
  unfold execKilnHoldStart
  exact State.sense_memWf h

theorem execThermalTrip_nextWf (h : s.memWf) : NextWf (execThermalTrip sensor temp s) := by
  unfold execThermalTrip
  exact State.sense_memWf h

theorem execKilnHoldEnd_nextWf (h : s.memWf) : NextWf (execKilnHoldEnd s) := by
  unfold execKilnHoldEnd
  exact memWf_ite (State.flushOutbox_memWf h) h

theorem execForce24kExpiry_nextWf (h : s.memWf) : NextWf (execForce24kExpiry core s) := by
  unfold execForce24kExpiry
  dsimp only
  split
  · exact memWf_ite h h
  · exact h

theorem execLineCheckFail_nextWf (h : s.memWf) : NextWf (execLineCheckFail addr s) := by
  unfold execLineCheckFail
  extract_lets _ m
  have hm : Memory.wf m.cells = true := by
    unfold m
    split
    · exact h
    · exact h
  exact State.lineCheckRecord_memWf hm

theorem State.frameError_memWf (h : s.memWf) : (s.frameError pa).memWf := by
  unfold State.frameError
  exact State.machineCheck_memWf (foldl_memWf (fun _ _ hs => memWf_ite hs hs) h)

theorem State.coreError_memWf {groups : List Nat} (h : s.memWf) : (s.coreError core groups).memWf := by
  unfold State.coreError
  exact State.machineCheck_memWf (State.endLaunches_memWf h)

theorem execUncorrectableError_nextWf {place : ErrorPlace} (h : s.memWf) : NextWf (execUncorrectableError place s) := by
  unfold execUncorrectableError
  split
  · exact h
  · exact h
  · exact h
  · exact h
  · exact State.coreError_memWf h
  · exact State.coreError_memWf h
  · exact State.coreError_memWf h
  · exact State.coreError_memWf h
  · exact State.coreError_memWf h
  · exact State.coreError_memWf h
  · exact memWf_ite h (memWf_ite h (State.machineCheck_memWf h))
  · exact State.frameError_memWf h
  · exact State.frameError_memWf h

theorem execCorrectedError_nextWf (h : s.memWf) : NextWf (execCorrectedError frame s) := by
  unfold execCorrectedError
  exact memWf_ite h (State.machineCheck_memWf h)

/-! ### Registers -/

theorem State.writeDebug_memWf (h : s.memWf) : (s.writeDebug i v).memWf := by
  unfold State.writeDebug
  split
  · exact h
  · split
    · exact h
    · exact h
    · exact h

theorem State.writeQueue_memWf (h : s.memWf) : (s.writeQueue q off v).memWf := by
  unfold State.writeQueue
  exact memWf_ite (memWf_ite h h) (memWf_ite h h)

theorem State.writeCq_memWf (h : s.memWf) : (s.writeCq q off v).memWf := by
  unfold State.writeCq
  exact memWf_ite h h

theorem State.writeDevice_memWf (h : s.memWf) : (s.writeDevice addr v).memWf := by
  unfold State.writeDevice
  split
  · exact h
  · split
    · exact h
    · split
      · exact h
      · split
        · exact h
        · split
          · exact State.writeDebug_memWf h
          · exact memWf_ite (State.writeQueue_memWf h) (memWf_ite (State.writeCq_memWf h) h)

theorem State.writeManagement_memWf (h : s.memWf) : (s.writeManagement addr v).memWf := by
  unfold State.writeManagement
  exact memWf_ite h (memWf_ite h (memWf_ite h (memWf_ite h (memWf_ite (State.writeDebug_memWf h) h))))

theorem execRegisterWrite_nextWf (h : s.memWf) : NextWf (execRegisterWrite space addr value s) := by
  unfold execRegisterWrite
  split
  · exact State.writeDevice_memWf h
  · exact State.writeManagement_memWf h
  · exact h

theorem execDynamicAddressAssign_nextWf (h : s.memWf) : NextWf (execDynamicAddressAssign addr s) := by
  unfold execDynamicAddressAssign
  exact h

/-! ### Units -/

theorem execTrpush_nextWf (h : s.memWf) : NextWf (execTrpush v idx s) := by
  unfold execTrpush
  refine slotOp_nextWf h fun _ hs => ?_
  split
  · exact lgWait_stopWf _ ‹_›
  · exact Res.memWf_ite hs (Res.memWf_ite trivial hs)

theorem execTrpop_nextWf (h : s.memWf) : NextWf (execTrpop v idx s) := by
  unfold execTrpop
  refine slotOp_nextWf h fun _ hs => ?_
  split
  · exact lgWait_stopWf _ ‹_›
  · dsimp only
    split
    · exact trivial
    · exact hs

theorem execTrcfg_nextWf {ty : ElemType} (h : s.memWf) : NextWf (execTrcfg ty s) := by
  unfold execTrcfg
  refine slotOp_nextWf h fun _ hs => ?_
  split
  · exact lgWait_stopWf _ ‹_›
  · exact Res.memWf_ite trivial hs

theorem execTransposeRetire_nextWf (h : s.memWf) : NextWf (execTransposeRetire core s) := by
  unfold execTransposeRetire
  dsimp only
  split <;> exact h

theorem State.queueRow_memWf {op : RowOp} (h : s.memWf) : (s.queueRow op ha hd).memWf := by
  unfold State.queueRow
  exact Res.memWf_ite trivial h

theorem rowPair_nextWf {i : Instr} {op : RowOp} (h : s.memWf) : NextWf (rowPair i op ha hd s) := by
  unfold rowPair
  refine slotOp_nextWf h fun _ hs => ?_
  split
  · exact trivial
  · exact trivial
  · exact Res.memWf_ite trivial (State.queueRow_memWf hs)

theorem execResm_nextWf (h : s.memWf) : NextWf (execResm ha hd s) := by
  unfold execResm
  exact rowPair_nextWf h

theorem execRenorm_nextWf {rms : Bool} (h : s.memWf) : NextWf (execRenorm ha hd rms s) := by
  unfold execRenorm
  exact rowPair_nextWf h

theorem execRetab_nextWf (h : s.memWf) : NextWf (execRetab ha hd tb s) := by
  unfold execRetab
  exact rowPair_nextWf h

theorem execRetload_nextWf (h : s.memWf) : NextWf (execRetload ha tb s) := by
  unfold execRetload
  refine slotOp_nextWf h fun _ hs => ?_
  split
  · exact trivial
  · exact Res.memWf_ite trivial (State.queueRow_memWf hs)

theorem State.rowStep_memWf (h : s.memWf) : (s.rowStep n now due).memWf := by
  unfold State.rowStep
  dsimp only
  split
  · split
    · exact h
    · split
      · exact memWf_ite h (memWf_ite h h)
      · exact h
  · exact h

theorem execRowEngineStep_nextWf (h : s.memWf) : NextWf (execRowEngineStep core s) := by
  unfold execRowEngineStep
  split
  · exact h
  · exact nextWf_ite (State.rowStep_memWf h) h

end Sys2Proof.Machine
end

section
/-! PROOFS. O60, the canonical form of memory: instructions, bundles, turns and steps. -/

open Sys2Proof

namespace Sys2Proof.Machine

variable {s : State} {sid n target now idx gid core : Nat}

/-! ### Dispatch -/

theorem PostsInSlot.nextWf {i : Instr} {o : Host.Outcome State Fault Refusal} (ho : PostsInSlot i s o) (h : s.memWf) :
    NextWf o := by
  obtain ⟨f, rfl, hf⟩ := ho
  exact slotOp_nextWf_self h (hf.memWf h)

/-- No instruction breaks the form: those that only post results leave memory as it is, and each of the others has its own lemma. -/
theorem exec_nextWf {i : Instr} (h : s.memWf) : NextWf (exec i s) := by
  by_cases hp : Instr.posts i = true
  · exact (exec_posts hp s).nextWf h
  cases i with
  | emptyBundle stop gap swa => exact execEmptyBundle_nextWf stop gap swa h
  | br => exact execBr_nextWf h
  | call => exact execCall_nextWf h
  | trap => exact execTrap_nextWf h
  | halloc => exact execHalloc_nextWf h
  | hfree => exact execHfree_nextWf h
  | mcall => exact execMcall_nextWf h
  | trpush => exact execTrpush_nextWf h
  | trpop => exact execTrpop_nextWf h
  | trcfg => exact execTrcfg_nextWf h
  | resm => exact execResm_nextWf h
  | renorm => exact execRenorm_nextWf h
  | retab => exact execRetab_nextWf h
  | retload => exact execRetload_nextWf h
  | rowEngineStep => exact execRowEngineStep_nextWf h
  | ldG => exact execLdG_nextWf h
  | gath => exact execGath_nextWf h
  | amo => exact execAmo_nextWf h
  | cas => exact execCas_nextWf h
  | qbind => exact execQbind_nextWf h
  | qfree => exact execQfree_nextWf h
  | stSp => exact execStSp_nextWf h
  | stG => exact execStG_nextWf h
  | scat => exact execScat_nextWf h
  | epSt => exact execEpSt_nextWf h
  | qout => exact execQout_nextWf h
  | streamFill => exact execStreamFill_nextWf h
  | streamPrefetch => exact execStreamPrefetch_nextWf h
  | homeAccess => exact execHomeAccess_nextWf h
  | cp => exact execCp_nextWf h
  | cpg => exact execCpg_nextWf h
  | cps => exact execCps_nextWf h
  | stage => exact execStage_nextWf h
  | sealRec => exact execSealRec_nextWf h
  | openRec => exact execOpenRec_nextWf h
  | ckpt => exact execCkpt_nextWf h
  | pf => exact execPf_nextWf h
  | res => exact execRes_nextWf h
  | col => exact execCol_nextWf h
  | meas => exact execMeas_nextWf h
  | ceCommandBegin => exact execCeCommandBegin_nextWf h
  | ceCommandComplete => exact execCeCommandComplete_nextWf h
  | colCommandComplete => exact execColCommandComplete_nextWf h
  | domainBarrierComplete => exact execDomainBarrierComplete_nextWf h
  | mark => exact execMark_nextWf h
  | markerReachHead => exact execMarkerReachHead_nextWf h
  | superstepArrival => exact execSuperstepArrival_nextWf h
  | superstepGenerationComplete => exact execSuperstepGenerationComplete_nextWf h
  | cbarGenerationComplete => exact execCbarGenerationComplete_nextWf h
  | haltRetire => exact execHaltRetire_nextWf h
  | tileTaskEnd => exact execTileTaskEnd_nextWf h
  | lgate => exact execLgate_nextWf h
  | wake => exact execWake_nextWf h
  | lanegroupTurnOn => exact execLanegroupTurnOn_nextWf h
  | lset => exact execLset_nextWf h
  | lbrk => exact execLbrk_nextWf h
  | spred => exact execSpred_nextWf h
  | resultArrive => exact execResultArrive_nextWf h
  | resultDeliver => exact execResultDeliver_nextWf h
  | transposeRetire => exact execTransposeRetire_nextWf h
  | mcallStart => exact execMcallStart_nextWf h
  | mcallEnd => exact execMcallEnd_nextWf h
  | railSettled => exact execRailSettled_nextWf h
  | aload => exact execAload_nextWf h
  | bsel => exact execBsel_nextWf h
  | planes => exact execPlanes_nextWf h
  | limb => exact execLimb_nextWf h
  | pass => exact execPass_nextWf h
  | accz => exact execAccz_nextWf h
  | accm => exact execAccm_nextWf h
  | scale => exact execScale_nextWf h
  | drain => exact execDrain_nextWf h
  | mloop => exact execMloop_nextWf h
  | mend => exact execMend_nextWf h
  | mwait n16 => exact execMwait_nextWf n16 h
  | workItemRead => exact execWorkItemRead_nextWf h
  | taskDispatch => exact execTaskDispatch_nextWf h
  | kernelRead => exact execKernelRead_nextWf h
  | kernelLoad => exact execKernelLoad_nextWf h
  | groupStart => exact execGroupStart_nextWf h
  | preload => exact execPreload_nextWf h
  | itemAged => exact execItemAged_nextWf h
  | deadlinePass => exact execDeadlinePass_nextWf h
  | budgetExpiry => exact execBudgetExpiry_nextWf h
  | launchComplete => exact execLaunchComplete_nextWf h
  | hallmarkSign => exact execHallmarkSign_nextWf h
  | create => exact execCreate_nextWf h
  | destroy => exact execDestroy_nextWf h
  | park => exact execPark_nextWf h
  | unpark => exact execUnpark_nextWf h
  | relock => exact execRelock_nextWf h
  | force => exact execForce_nextWf h
  | cancel => exact execCancel_nextWf h
  | map => exact execMap_nextWf h
  | unmap => exact execUnmap_nextWf h
  | migrate => exact execMigrate_nextWf h
  | migrateCopyDone => exact execMigrateCopyDone_nextWf h
  | wreg => exact execWreg_nextWf h
  | wbegin => exact execWbegin_nextWf h
  | wpage => exact execWpage_nextWf h
  | wcommit => exact execWcommit_nextWf h
  | wabort => exact execWabort_nextWf h
  | ckcfg => exact execCkcfg_nextWf h
  | epwin => exact execEpwin_nextWf h
  | epring => exact execEpring_nextWf h
  | pageWalkComplete ctx va die cluster => exact execPageWalkComplete_nextWf (cluster := cluster) h
  | ckptSnapshot => exact execCkptSnapshot_nextWf h
  | ckptGranuleStreamed => exact execCkptGranuleStreamed_nextWf h
  | preemptRequest => exact execPreemptRequest_nextWf h
  | bankSwapComplete => exact execBankSwapComplete_nextWf h
  | imageWrite => exact execImageWrite_nextWf h
  | imageRestore => exact execImageRestore_nextWf h
  | coreGate => exact execCoreGate_nextWf h
  | coreWake => exact execCoreWake_nextWf h
  | coreDrainComplete => exact execCoreDrainComplete_nextWf h
  | keepalive => exact execKeepalive_nextWf h
  | peerSilent => exact execPeerSilent_nextWf h
  | force24kExpiry => exact execForce24kExpiry_nextWf h
  | rett => exact execRett_nextWf h
  | join => exact execJoin_nextWf h
  | ssarr => exact execSsarr_nextWf h
  | sswait => exact execSswait_nextWf h
  | cbar => exact execCbar_nextWf h
  | halt => exact execHalt_nextWf h
  | lrot => exact execLrot_nextWf h
  | chk => exact execChk_nextWf h
  | msync => exact execMsync_nextWf h
  | mret => exact execMret_nextWf h
  | powerLossWarning => exact execPowerLossWarning_nextWf h
  | powerReturn => exact execPowerReturn_nextWf h
  | bringUp => exact execBringUp_nextWf h
  | kilnHoldEnd => exact execKilnHoldEnd_nextWf h
  | hostLinkTimeout => exact execHostLinkTimeout_nextWf h
  | hostLinkReturn => exact execHostLinkReturn_nextWf h
  | lockInterface => exact execLockInterface_nextWf h
  | startInterface => exact execStartInterface_nextWf h
  | stopInterface => exact execStopInterface_nextWf h
  | tdiError => exact execTdiError_nextWf h
  | debugChallenge => exact execDebugChallenge_nextWf h
  | debugExpiry => exact execDebugExpiry_nextWf h
  | debugHalt => exact execDebugHalt_nextWf h
  | debugStep => exact execDebugStep_nextWf h
  | debugResume => exact execDebugResume_nextWf h
  | debugMemRead => exact execDebugMemRead_nextWf h
  | snapTrigger => exact execSnapTrigger_nextWf h
  | snapcmpMatch => exact execSnapcmpMatch_nextWf h
  | hostLinkDown => exact execHostLinkDown_nextWf h
  | spdmKeyExchange => exact execSpdmKeyExchange_nextWf h
  | registerWrite => exact execRegisterWrite_nextWf h
  | qtailWrite => exact execQtailWrite_nextWf h
  | queueEnable => exact execQueueEnable_nextWf h
  | queueDisable => exact execQueueDisable_nextWf h
  | cqEnable => exact execCqEnable_nextWf h
  | cqDisable => exact execCqDisable_nextWf h
  | cheadWrite => exact execCheadWrite_nextWf h
  | kilnHoldStart => exact execKilnHoldStart_nextWf h
  | thermalThrottle => exact execThermalThrottle_nextWf h
  | thermalTrip => exact execThermalTrip_nextWf h
  | currentLevelRaise => exact execCurrentLevelRaise_nextWf h
  | currentLevelLower => exact execCurrentLevelLower_nextWf h
  | dieclkTgtWrite => exact execDieclkTgtWrite_nextWf h
  | hopPllLock => exact execHopPllLock_nextWf h
  | hopComplete => exact execHopComplete_nextWf h
  | droopDetect => exact execDroopDetect_nextWf h
  | droopStretchEnd => exact execDroopStretchEnd_nextWf h
  | hopRetry => exact execHopRetry_nextWf h
  | ucieRetrain => exact execUcieRetrain_nextWf h
  | ucieRetrainComplete => exact execUcieRetrainComplete_nextWf h
  | portEnable => exact execPortEnable_nextWf h
  | portDisable => exact execPortDisable_nextWf h
  | portLaneLock => exact execPortLaneLock_nextWf h
  | portLaneLoss => exact execPortLaneLoss_nextWf h
  | portTrainTimeout => exact execPortTrainTimeout_nextWf h
  | sysidWrite => exact execSysidWrite_nextWf h
  | packetArrive => exact execPacketArrive_nextWf h
  | ackArrive => exact execAckArrive_nextWf h
  | retransmitTimeout => exact execRetransmitTimeout_nextWf h
  | remoteRequest => exact execRemoteRequest_nextWf h
  | epPacketArrive => exact execEpPacketArrive_nextWf h
  | channelInstall => exact execChannelInstall_nextWf h
  | debugUnlock => exact execDebugUnlock_nextWf h
  | debugMemWrite => exact execDebugMemWrite_nextWf h
  | snapArm => exact execSnapArm_nextWf h
  | lineCheckFail => exact execLineCheckFail_nextWf h
  | uncorrectableError => exact execUncorrectableError_nextWf h
  | correctedError => exact execCorrectedError_nextWf h
  | dynamicAddressAssign => exact execDynamicAddressAssign_nextWf h
  | routeTableUpdate => exact execRouteTableUpdate_nextWf h
  | hostEndpointWrite => exact execHostEndpointWrite_nextWf h
  | hostMemoryAccess => exact execHostMemoryAccess_nextWf h
  | _ => exact absurd rfl hp

/-! ### Issue -/

theorem runSlots_nextWf {l : List (Slot × Instr)} (h : s.memWf) : NextWf (runSlots l s) := by
  induction l generalizing s with
  | nil => exact h
  | cons o l ih =>
    have ho : NextWf (exec o.2 { s with iss := { s.iss with slot := o.1.code } }) := exec_nextWf h
    rw [runSlots]
    split
    · next t ht =>
      rw [ht] at ho
      exact nextWf_ite ho (nextWf_ite (State.endTrap_memWf ho) (ih ho))
    · exact trivial
    · exact trivial

theorem State.observe_memWf {ids : List Nat} (h : s.memWf) : (s.observe sid n ids).memWf := by
  unfold State.observe
  exact memWf_ite h h

theorem State.popReads_memWf {pops : List Nat} (h : s.memWf) : (s.popReads sid pops).memWf := by
  unfold State.popReads
  refine foldl_memWf (fun _ _ hs => ?_) h
  dsimp only
  split <;> exact hs

theorem State.transfer_memWf (h : s.memWf) : (s.transfer sid target).memWf := by
  unfold State.transfer
  split
  · exact foldl_memWf (fun _ _ hs => (memWf_ite (State.endLevel_memWf hs) hs)) h
  · exact h

theorem State.advance_memWf {i : Iss} (h : s.memWf) : (s.advance sid i).memWf := by
  unfold State.advance
  dsimp only
  split
  · exact State.transfer_memWf h
  · exact State.loopEnd_fst_memWf h

theorem State.ownedStep_memWf (h : s.memWf) : (s.ownedStep sid now).memWf := by
  unfold State.ownedStep
  exact memWf_ite (State.rowStep_memWf h) h

theorem State.commitHalt_memWf {pre : Strand} (h : s.memWf) : (s.commitHalt sid idx pre).memWf := by
  unfold State.commitHalt
  refine memWf_ite ?_ h
  extract_lets a st b
  have ha : a.memWf := State.haltCkpts_memWf (State.discardAtHalt_memWf h)
  clear_value a
  have hb : b.memWf := ha
  exact State.settleGroup_memWf hb

theorem State.commitDebug_memWf {stop : Bool} (h : s.memWf) : (s.commitDebug sid stop).memWf := by
  unfold State.commitDebug
  exact memWf_ite h h

theorem State.markIssued_memWf (h : s.memWf) : (s.markIssued gid).memWf := by
  unfold State.markIssued
  split
  · exact memWf_ite h h
  · exact h

theorem State.commit_memWf {pre : Strand} {dests : List Nat} (h : s.memWf) : (s.commit sid pre dests).memWf := by
  unfold State.commit
  extract_lets i kernel a seen meet b c d e f g
  have hb : b.memWf := State.setStrand_memWf (State.popReads_memWf (State.commitTiles_memWf h))
  clear_value b
  have hc : c.memWf := State.markIssued_memWf (State.observe_memWf hb)
  clear_value c
  have hd : d.memWf := memWf_ite (State.setStrand_memWf hc) hc
  clear_value d
  have he : e.memWf := memWf_ite hd (memWf_ite (State.advance_memWf hd) (State.setStrand_memWf hd))
  clear_value e
  have hf : f.memWf := State.setStrand_memWf he
  clear_value f
  have hg : g.memWf := memWf_ite (State.ownedStep_memWf hf) hf
  clear_value g
  exact State.commitDebug_memWf (State.commitHalt_memWf hg)

theorem State.abandon_memWf {consumed : Option (Nat × Nat)} {n : SlotEnd} (h : s.memWf) : (s.abandon sid idx consumed n).memWf := by
  unfold State.abandon
  split
  · refine State.takeTrap_memWf ?_
    split <;> exact h
  · dsimp only
    split
    · exact State.startWalk_memWf h
    · exact h
  · exact State.startRollback_memWf h

theorem State.conclude_memWf {dests : List Nat} {t : State} (h : s.memWf) (ht : t.memWf) : (s.conclude sid dests t).memWf := by
  unfold State.conclude
  extract_lets u
  have hu : u.memWf := by
    unfold u
    split
    · exact State.abandon_memWf h
    · exact State.commit_memWf ht
  exact hu

theorem runBundle_nextWf {b : Bundle} (h : s.memWf) : NextWf (runBundle s sid idx b) := by
  unfold runBundle
  refine nextWf_ite (State.setStrand_memWf h) ?_
  extract_lets t dests
  have ht : t.memWf := h
  clear_value t
  split
  · exact State.takeTrap_memWf h
  · have hslots : NextWf (runSlots (slotOrder b.ops) t) := runSlots_nextWf ht
    split
    · next u hu =>
      rw [hu] at hslots
      exact State.conclude_memWf h hslots
    · exact trivial
    · exact trivial

theorem State.ready_memWf (h : s.memWf) : (s.ready sid).memWf := by
  unfold State.ready
  exact State.deliverDue_memWf h

theorem issueBundle_nextWf (h : s.memWf) : NextWf (issueBundle s sid) := by
  unfold issueBundle
  split
  · exact h
  · split
    · exact h
    · dsimp only
      split
      · exact State.takeTrap_memWf (State.ready_memWf h)
      · split
        · exact State.ready_memWf h
        · split
          · exact State.takeTrap_memWf (State.ready_memWf h)
          · exact runBundle_nextWf (State.ready_memWf h)

/-! ### Turns -/

theorem microTurn_nextWf (h : s.memWf) : NextWf (microTurn s core) := by
  unfold microTurn
  split
  · exact h
  · split
    · exact h
    · split
      · exact exec_nextWf h
      · exact h

theorem adminTurn_nextWf (h : s.memWf) : NextWf (adminTurn s) := by
  unfold adminTurn
  split
  · exact h
  · split
    · exact h
    · split
      · exact exec_nextWf h
      · exact State.adminFault_memWf h

theorem eventTurn_nextWf {i : Instr} (h : s.memWf) : NextWf (eventTurn s i) := by
  unfold eventTurn
  exact nextWf_ite (exec_nextWf h) h

theorem runTurn_nextWf {n : Turn} (h : s.memWf) : NextWf (runTurn s n) := by
  unfold runTurn
  split
  · exact nextWf_ite (issueBundle_nextWf h) trivial
  · exact nextWf_ite (microTurn_nextWf h) trivial
  · exact adminTurn_nextWf h
  · exact eventTurn_nextWf h
  · exact State.passTime_memWf h

/-! ### Step -/

theorem settled_nextWf {o : Host.Outcome State Fault Refusal} (ho : NextWf o) : NextWf (settled o) := by
  cases o with
  | next t => exact State.settleLoss_memWf (State.settleHold_memWf ho)
  | fault _ | refused _ => exact trivial

theorem step_nextWf (h : s.memWf) : NextWf (step s) := by
  unfold step
  split
  · exact settled_nextWf (runTurn_nextWf h)
  · exact settled_nextWf (runTurn_nextWf (State.passTime_memWf h))

/-- Settles O60: every step is a turn, and what a turn runs keeps the form. -/
theorem memoryForm : Obligations.MemoryForm := by
  unfold Obligations.MemoryForm
  intro s t h hstep
  have ht : NextWf (step s) := step_nextWf h
  rw [hstep] at ht
  exact ht

end Sys2Proof.Machine
end
